-- ==== Sys2Proof/Word.lean ====
section
/-!
DEFINITION. The word types of the model and their plainest arithmetic.
Registers, message words and codes are bit vectors; addresses and counts are natural numbers.
-/

namespace Sys2Proof

/-- One byte of a store or of package memory. -/
abbrev Byte := BitVec 8
/-- A 16-bit code or identifier. -/
abbrev Half := BitVec 16
/-- A 32-bit word: stream word, lane, L32 code. -/
abbrev Word := BitVec 32
/-- A 64-bit word: general register, register slot. -/
abbrev Dword := BitVec 64
/-- A 64-byte line: descriptor register, v register, queue entry. -/
abbrev Line := BitVec 512

/-- A sparse map: entries with strictly rising keys, none equal to the default. -/
abbrev Sparse (α : Type) := List (Nat × α)

/-- Bytes of a store, by address; an unlisted address reads zero. -/
abbrev Mem := Sparse Byte

/-- Bits `hi` down to `lo` of a natural number. -/
def bitsOf (n hi lo : Nat) : Nat := (n >>> lo) % 2 ^ (hi + 1 - lo)

/-- Bit `i` of a natural number. -/
def bitOf (n i : Nat) : Bool := (n >>> i) % 2 == 1

/-- A natural number of `w` bits read as two's complement. -/
def signedOf (w n : Nat) : Int := if n < 2 ^ (w - 1) then n else (n : Int) - 2 ^ w

/-- An integer reduced to `w` bits of two's complement. -/
def wrapInt (w : Nat) (i : Int) : Nat := (i % (2 ^ w : Int)).toNat

end Sys2Proof
end

