-- ==== Sys2Proof/Syntax.lean ====
section
/-!
DEFINITION. The commands of the block: one constructor per row of the opcode table.
A row that is an instruction of a core names the core and carries the instruction's fields;
a row that is an event carries the data that arrives from outside the block.
-/

namespace Sys2Proof

/-- A logical core (R14). -/
abbrev CoreIx := Fin 4096
/-- A base tussock (R19). -/
abbrev BaseIx := Fin 256
/-- A meadow (R32). -/
abbrev MeadowIx := Fin 64
/-- A resident job (R355). -/
abbrev JobIx := Fin 8
/-- A host port. -/
abbrev PortIx := Fin 2
/-- A function of a host port: 0 the PF, 1 to 31 the VFs. -/
abbrev FnIx := Fin 32
/-- A Cicada pipe. -/
abbrev PipeIx := Fin 6
/-- A memory stack. -/
abbrev StackIx := Fin 30
/-- A Swarm port. -/
abbrev SwPort := Fin 12
/-- A transport lane. -/
abbrev LaneIx := Fin 4
/-- An island with an oscillator of its own: a core's by site, a trunk router's, a rim's (R506). -/
abbrev IslandIx := Fin 4486
/-- A global queue number (15, Queues). -/
abbrev QueueIx := Fin 32768

/-- The fields of a control-unit instruction but its opcode (R92). -/
structure Fields where
  dst : BitVec 5
  sa : BitVec 5
  sb : BitVec 5
  tok : BitVec 6
  sub : BitVec 3
  imm : Word
deriving DecidableEq, Repr

/-- The fields of a tile-program instruction but its opcode (06, Tile-program instruction layout). -/
structure TFields where
  vd : BitVec 4
  va : BitVec 4
  vb : BitVec 4
  vc : BitVec 4
  w : Bool
  fn : BitVec 4
  set : Bool
  rsv : BitVec 2
  imm : Word
deriving DecidableEq, Repr

/-- Control-unit instructions that can stall after they have issued. -/
inductive HeldOp where
  | mm | vx | sf | cp | ga | nz | send | recv | wait | fence | epochEnd | vld | vst
deriving DecidableEq, Repr

/-- What the error check of an on-die SRAM read finds (R481). -/
inductive Ecc where | clean | corrected | uncorrectable
deriving DecidableEq, Repr

/-- What run-ahead of the gather engine does about a sector: it walks for its page, or fetches it, with its arrival at once
or later (R292). -/
inductive AheadAct where
  | walk
  | fetch (landed : Bool)
deriving DecidableEq, Repr

/-- One act of run-ahead: the demand element at the time, and the sector's element and place in it (R291, R292). -/
structure Ahead where
  demand : Nat
  elem : Nat
  part : Nat
  act : AheadAct
deriving DecidableEq, Repr

/-- A sending interface of the mesh: a core's, or the hub's (R334, R390). -/
inductive Iface where
  | core (c : CoreIx)
  | hub
deriving DecidableEq, Repr

/-- What training a Swarm port finds: the peer's settings, and at each rate of R366 (128, 64, 32) how many data lanes
pass and whether the spare does (R367). -/
structure Training where
  maxRate : Fin 3
  spare : Bool
  fec : Fin 3
  minLanes : Nat
  lanes : List (Nat × Bool)
deriving DecidableEq, Repr

/-- What the peer sends in admission (R368): its attestation report, whether that verifies against Gnoellia's certificate, its
device number and its device generation. -/
structure PeerReport where
  report : List Byte
  valid : Bool
  device : BitVec 10
  gen : Half
deriving DecidableEq, Repr

/-- What matches a collective across its group (R375). -/
structure SwKey where
  meadow : MeadowIx
  tag : Word
  first : Half
  count : Half
deriving DecidableEq, Repr

/-- What names the payload of a link frame: the devices it comes from and goes to, the collective, and the place of its bytes in
what the one sends the other (R369, R373, R375). -/
structure SwHead where
  src : BitVec 10
  dest : BitVec 10
  key : SwKey
  off : Nat
deriving DecidableEq, Repr

/-- One member's side of a collective: its device, its descriptor's fields, and whether it failed (R375). -/
structure Member where
  device : BitVec 10
  op : Byte
  mode : Byte
  root : Half
  bytes : Dword
  failed : Bool
deriving DecidableEq, Repr

/-- A control frame for a device, passed on by every hop on the way (R373): a member's side of a collective, for matching, or the
notice that a collective has failed. -/
inductive SwCtl where
  | side (dest : BitVec 10) (key : SwKey) (m : Member)
  | failure (dest : BitVec 10) (key : SwKey)
deriving DecidableEq, Repr

/-- A frame that arrives on a Swarm link (R369 to R373). -/
inductive SwFrame where
  /-- Data: its sequence number, its head, its payload enciphered with the tag, and whether FEC can correct its codewords. -/
  | data (seq : Nat) (head : SwHead) (cipher tag : List Byte) (fec : Bool)
  | ack (seq : Nat)
  | nack (seq : Nat)
  /-- The corrected-symbol rate of a lane passes the threshold of R370; no frame carries this. -/
  | overRate
  /-- The peer's distance vector. -/
  | vector (hops : List (Nat × Nat))
  /-- A frame of the control channel. -/
  | control (c : SwCtl)
deriving DecidableEq, Repr

/-- The header of an MMP message from the partner (R409), past its fixed bytes. -/
structure MmpHdr where
  session : Word
  seq : Word
  ack : Word
deriving DecidableEq, Repr

/-- A GVSP packet (R407): a leader with its payload type (`image` for Image) and format, a payload packet, or a trailer. -/
inductive Gvsp where
  | leader (block : Dword) (image : Bool) (pixel width height : Word)
  | payload (block : Dword) (id : Word) (bytes : List Byte)
  | trailer (block : Dword) (id : Word)
deriving DecidableEq, Repr

/-- TDISP requests that change a TDI's state (R401, R463). -/
inductive Tdisp where | lock | start | stop
deriving DecidableEq, Repr

/-- An SPDM request (R463): the ciphertext of a secret with a nonce; PSK_EXCHANGE, with the PSK that the host holds; the IDE
keys of a function's stream; a TDISP request. -/
inductive Spdm where
  | secret (registry ciphertext nonce : List Byte)
  | pskExchange (psk : List Byte)
  | ideKm (key : List Byte)
  | tdisp (r : Tdisp)
  /-- Any request outside PSK mode. -/
  | other
deriving DecidableEq, Repr

/-- What the self-test of one partition finds: its MISR, and whether a memory fails its march (R498, R499). -/
structure PartReport where
  part : Fin 21
  signature : Dword
  memoryFail : Bool
deriving DecidableEq, Repr

/-- A base tussock that does not acknowledge a stem command, with what Sexton's link checks have found of its routers: mesh
routers by their sites, and its trunk router, whose links err above the limit (R345; 23, Other failures). -/
structure Silent where
  base : BaseIx
  routers : List (Fin 4224)
  trunk : Bool
deriving DecidableEq, Repr

/-- What an access finds in a stored sector: the symbols that the stack has let change since its last access, and whether the stack
reports that its own error correction has acted (R304, R312). -/
structure SectorFound where
  symbols : BitVec 288
  onDie : Bool
deriving DecidableEq, Repr

/-- The core that a sector is read for: its generation as the request carried it, and whether the request has completed by timeout
(R484, R486). -/
structure SectorReader where
  core : CoreIx
  gen : Half
  late : Bool
deriving DecidableEq, Repr

/-- What the training of a stack finds: lanes replaced, and whether every channel is whole (R305, R306). -/
structure StackReport where
  spares : Byte
  good : Bool
deriving DecidableEq, Repr

/-- Who writes a sector: a core's engine, or an agent by its number in MDW_FROZENm_LAST (13). -/
inductive Writer where
  | core (c : CoreIx)
  | agent (k : Fin 5)
deriving DecidableEq, Repr

/-- What resets functions of a host port: a link-down, a hot reset or PERST# resets all of them (R383); a reset of one
function (R385). -/
inductive HostReset where
  | linkDown
  | hotReset
  | perst
  | function (f : FnIx)
deriving DecidableEq, Repr

/-- What the JTAG port reaches in VENDOR_TEST: the MISR of a partition, the PRPG of a slice, and a scan chain of it, which is at
most 160 flip-flops long (R497, R498, R500). -/
inductive ScanReg where
  | misr (slice : Fin 263) (part : Fin 21)
  | prpg (slice : Fin 263)
  | chain (slice : Fin 263) (n : Nat)
deriving DecidableEq, Repr

/-- Instructions of the JTAG port, with what passes through the data register behind them (R526). SAMPLE/PRELOAD and EXTEST
capture the levels that stand at the lands of the boundary-scan register, and take in its next contents; `scan` is any other
instruction code, and what it shifts in. -/
inductive Jtag where
  | bypass | idcode
  | sample (pins load : BitVec 17)
  | extest (pins load : BitVec 17)
  | clamp | highz
  | scan (r : ScanReg) (load : Option Dword)
deriving DecidableEq, Repr

/-- A 1 ms reading of a rail (R517): voltage in mV and current in units of 0.1 A, how many of the three attempts meet a NACK or a
PEC error, and whether STATUS_WORD reports a fault. -/
structure RailReading where
  volts : Half
  amps : Half
  misses : Fin 4
  fault : Bool
deriving DecidableEq, Repr

/-- The windows of a host function that hold no registers: package memory, and the doorbells (18, BARs). -/
inductive Window where | bar2 | bar4
deriving DecidableEq, Repr

/-- An offset in such a window. -/
structure BarAddr where
  window : Window
  off : BitVec 41
deriving DecidableEq, Repr

/-- What the boot ROM's checks at power good find: the lockstep cores agree, and the reference clock runs (R469, R479). -/
structure RomChecks where
  lockstep : Bool
  refclk : Bool
deriving DecidableEq, Repr

/-- The commands, in the order of the opcode table. -/
inductive Instr where
  /-- NOP (R94). -/
  | nop (c : CoreIx) (f : Fields)
  /-- ADD (R95). -/
  | add (c : CoreIx) (f : Fields)
  /-- SUB (R95). -/
  | sub (c : CoreIx) (f : Fields)
  /-- AND (R94). -/
  | and (c : CoreIx) (f : Fields)
  /-- OR (R94). -/
  | or (c : CoreIx) (f : Fields)
  /-- XOR (R94). -/
  | xor (c : CoreIx) (f : Fields)
  /-- SHL (R95). -/
  | shl (c : CoreIx) (f : Fields)
  /-- SHR (R95). -/
  | shr (c : CoreIx) (f : Fields)
  /-- SRA (R95). -/
  | sra (c : CoreIx) (f : Fields)
  /-- MUL (R95). -/
  | mul (c : CoreIx) (f : Fields)
  /-- MULHU (R95). -/
  | mulhu (c : CoreIx) (f : Fields)
  /-- SLT (R95). -/
  | slt (c : CoreIx) (f : Fields)
  /-- SLTU (R95). -/
  | sltu (c : CoreIx) (f : Fields)
  /-- MIN (R95). -/
  | min (c : CoreIx) (f : Fields)
  /-- MAX (R95). -/
  | max (c : CoreIx) (f : Fields)
  /-- CLZ (R94). -/
  | clz (c : CoreIx) (f : Fields)
  /-- POPC (R94). -/
  | popc (c : CoreIx) (f : Fields)
  /-- LIH (R94). -/
  | lih (c : CoreIx) (f : Fields)
  /-- BR (R94). -/
  | br (c : CoreIx) (f : Fields)
  /-- CALL (R94). -/
  | call (c : CoreIx) (f : Fields)
  /-- JR (R95). -/
  | jr (c : CoreIx) (f : Fields)
  /-- LD (R97). -/
  | ld (c : CoreIx) (f : Fields) (e : Ecc)
  /-- ST (R97). -/
  | st (c : CoreIx) (f : Fields)
  /-- VLD (R94). -/
  | vld (c : CoreIx) (f : Fields) (e : Ecc)
  /-- VST (R94). -/
  | vst (c : CoreIx) (f : Fields)
  /-- LDD (R94). -/
  | ldd (c : CoreIx) (f : Fields) (e : Ecc)
  /-- STD (R94). -/
  | std (c : CoreIx) (f : Fields)
  /-- DPUT (R94). -/
  | dput (c : CoreIx) (f : Fields)
  /-- DGET (R94). -/
  | dget (c : CoreIx) (f : Fields)
  /-- MM (R109). -/
  | mm (c : CoreIx) (f : Fields)
  /-- VX (R110). -/
  | vx (c : CoreIx) (f : Fields)
  /-- SF (R111). -/
  | sf (c : CoreIx) (f : Fields)
  /-- CP (R112). -/
  | cp (c : CoreIx) (f : Fields)
  /-- GA (R113). -/
  | ga (c : CoreIx) (f : Fields)
  /-- NZ (R114). -/
  | nz (c : CoreIx) (f : Fields)
  /-- SEND (R115). -/
  | send (c : CoreIx) (f : Fields)
  /-- RECV (R116). -/
  | recv (c : CoreIx) (f : Fields)
  /-- POLL (R116). -/
  | poll (c : CoreIx) (f : Fields)
  /-- WAIT (R101). -/
  | wait (c : CoreIx) (f : Fields)
  /-- FENCE (R117). -/
  | fence (c : CoreIx) (f : Fields)
  /-- EPOCH_END (R118). -/
  | epochEnd (c : CoreIx) (f : Fields)
  /-- SYSRD (R119). -/
  | sysrd (c : CoreIx) (f : Fields)
  /-- SYSWR (R119). -/
  | syswr (c : CoreIx) (f : Fields)
  /-- WAIT_TIMEOUT (R101). -/
  | waitTimeout (c : CoreIx)
  /-- RECV_TIMEOUT (R116). -/
  | recvTimeout (c : CoreIx)
  /-- ENGINE_OP_START (R103). -/
  | engineOpStart (c : CoreIx) (e : Fin 6) (acts : List Ahead)
  /-- MM_COMPLETE (R130). -/
  | mmComplete (c : CoreIx)
  /-- VX_COMPLETE (R142). -/
  | vxComplete (c : CoreIx)
  /-- SF_COMPLETE (R153). -/
  | sfComplete (c : CoreIx)
  /-- CP_COMPLETE (R287). -/
  | cpComplete (c : CoreIx)
  /-- GA_COMPLETE (R293). -/
  | gaComplete (c : CoreIx) (acts : List Ahead)
  /-- NZ_COMPLETE (R282). -/
  | nzComplete (c : CoreIx)
  /-- VNOP (R145). -/
  | vnop (c : CoreIx) (f : TFields)
  /-- VADD (R146). -/
  | vadd (c : CoreIx) (f : TFields)
  /-- VSUB (R146). -/
  | vsub (c : CoreIx) (f : TFields)
  /-- VMUL (R146). -/
  | vmul (c : CoreIx) (f : TFields)
  /-- VFMA (R146). -/
  | vfma (c : CoreIx) (f : TFields)
  /-- VMIN (R145). -/
  | vmin (c : CoreIx) (f : TFields)
  /-- VMAX (R145). -/
  | vmax (c : CoreIx) (f : TFields)
  /-- VCEQ (R146). -/
  | vceq (c : CoreIx) (f : TFields)
  /-- VCLT (R146). -/
  | vclt (c : CoreIx) (f : TFields)
  /-- VCLE (R146). -/
  | vcle (c : CoreIx) (f : TFields)
  /-- VSEL (R146). -/
  | vsel (c : CoreIx) (f : TFields)
  /-- VAND (R146). -/
  | vand (c : CoreIx) (f : TFields)
  /-- VOR (R146). -/
  | vor (c : CoreIx) (f : TFields)
  /-- VXOR (R146). -/
  | vxor (c : CoreIx) (f : TFields)
  /-- VLDX (R147). -/
  | vldx (c : CoreIx) (f : TFields)
  /-- VLDY (R147). -/
  | vldy (c : CoreIx) (f : TFields)
  /-- VLDZ (R147). -/
  | vldz (c : CoreIx) (f : TFields)
  /-- VSTO (R148). -/
  | vsto (c : CoreIx) (f : TFields)
  /-- VLDS (R145). -/
  | vlds (c : CoreIx) (f : TFields)
  /-- VSTS (R145). -/
  | vsts (c : CoreIx) (f : TFields)
  /-- VIMM (R145). -/
  | vimm (c : CoreIx) (f : TFields)
  /-- VSYS (R145). -/
  | vsys (c : CoreIx) (f : TFields)
  /-- VIDX (R145). -/
  | vidx (c : CoreIx) (f : TFields)
  /-- VCVT (R145). -/
  | vcvt (c : CoreIx) (f : TFields)
  /-- VSFN (R152). -/
  | vsfn (c : CoreIx) (f : TFields)
  /-- RCLR (R187). -/
  | rclr (c : CoreIx) (f : TFields)
  /-- RSX (R190). -/
  | rsx (c : CoreIx) (f : TFields)
  /-- RSL (R193). -/
  | rsl (c : CoreIx) (f : TFields)
  /-- RMEAN (R191). -/
  | rmean (c : CoreIx) (f : TFields)
  /-- RVAR (R191). -/
  | rvar (c : CoreIx) (f : TFields)
  /-- RDIV (R201). -/
  | rdiv (c : CoreIx) (f : TFields)
  /-- RSMAX (R199). -/
  | rsmax (c : CoreIx) (f : TFields)
  /-- RPROB (R199). -/
  | rprob (c : CoreIx) (f : TFields)
  /-- RSTR (R196). -/
  | rstr (c : CoreIx) (f : TFields)
  /-- RLDR (R197). -/
  | rldr (c : CoreIx) (f : TFields)
  /-- RADDR (R197). -/
  | raddr (c : CoreIx) (f : TFields)
  /-- RDFR (R205). -/
  | rdfr (c : CoreIx) (f : TFields)
  /-- RSCALE (R200). -/
  | rscale (c : CoreIx) (f : TFields)
  /-- CLDG (R176). -/
  | cldg (c : CoreIx) (f : TFields)
  /-- CFEED (R181). -/
  | cfeed (c : CoreIx) (f : TFields)
  /-- CSCALE (R182). -/
  | cscale (c : CoreIx) (f : TFields)
  /-- MESSAGE_INJECT (R334). -/
  | messageInject (x : Iface)
  /-- MESSAGE_ARRIVAL (R339). -/
  | messageArrival (x : Iface) (q : QueueIx)
  /-- MESSAGE_RESPONSE (R340). -/
  | messageResponse (x : Iface) (q : QueueIx)
  /-- MESSAGE_RESEND (R339). -/
  | messageResend (x : Iface) (q : QueueIx)
  /-- REMOTE_WRITE (R289). -/
  | remoteWrite (c : CoreIx)
  /-- REMOTE_ACK (R287). -/
  | remoteAck (c : CoreIx)
  /-- PREFIX_LOOKUP_DONE (R267). -/
  | prefixLookupDone (b : BaseIx)
  /-- STOP (R342). -/
  | stemStop (p : PortIx)
  /-- ISOLATE (R342). -/
  | stemIsolate (p : PortIx)
  /-- RESET (R480). -/
  | stemReset (p : PortIx)
  /-- ADMIT (R342). -/
  | stemAdmit (p : PortIx)
  /-- BIST (R501). -/
  | stemBist (p : PortIx)
  /-- WATCH (R342). -/
  | stemWatch (p : PortIx)
  /-- STEM_ACK (R343). -/
  | stemAck (k : Fin 4)
  /-- STEM_NO_ACK (R345). -/
  | stemNoAck (k : Fin 4) (silent : List Silent)
  /-- CTL_STOP_MEADOW (R395). -/
  | ctlStopMeadow (p : PortIx) (f : FnIx) (m : MeadowIx) (tag : Half)
  /-- CTL_STOP_PORT (R395). -/
  | ctlStopPort (p : PortIx) (f : FnIx) (tag : Half)
  /-- FIRMWARE_LOAD (R454). -/
  | firmwareLoad (p : PortIx) (data : Option (List Byte))
  /-- STREAM_LOAD (R63). -/
  | streamLoad (p : PortIx) (data : Option (List Byte))
  /-- SET (R465). -/
  | guardSet (p : PortIx) (data : Option (List Byte))
  /-- RETIRE (R451). -/
  | guardRetire (p : PortIx) (data : Option (List Byte))
  /-- RETURN (R451). -/
  | guardReturn (p : PortIx) (data : Option (List Byte))
  /-- PROVISION (R464). -/
  | guardProvision (p : PortIx) (data : Option (List Byte))
  /-- CERTIFY (R464). -/
  | guardCertify (p : PortIx) (data : Option (List Byte)) (binds : Bool)
  /-- TEST_ENTRY (R464). -/
  | guardTestEntry (p : PortIx) (data : Option (List Byte))
  /-- ATTEST (R459). -/
  | attest (p : PortIx) (data : Option (List Byte))
  /-- CERT_READ (R448). -/
  | certRead (p : PortIx) (ok : Bool)
  /-- KEY_LOAD (R461). -/
  | keyLoad (p : PortIx) (data : Option (List Byte))
  /-- DEBUG_READ (R467). -/
  | debugRead (p : PortIx)
  /-- SEXTON_DMA_TIMEOUT (R448). -/
  | sextonDmaTimeout (p : PortIx)
  /-- SPDM_REQUEST (R463). -/
  | spdmRequest (p : PortIx) (f : FnIx) (r : Spdm)
  /-- TDI_LEAVE_RUN (R401). -/
  | tdiLeaveRun (p : PortIx) (f : FnIx) (err : Bool)
  /-- OPEN (R350). -/
  | hostOpen (m : MeadowIx)
  /-- EPOCH_OPEN (R351). -/
  | epochOpen (m : MeadowIx)
  /-- SEQ_START (R277). -/
  | seqStart (m : MeadowIx) (j : JobIx)
  /-- SCHEDULE_READ (R273). -/
  | scheduleRead (m : MeadowIx) (j : JobIx)
  /-- BOUNDARY_DRAINED (R352). -/
  | boundaryDrained (m : MeadowIx)
  /-- SWITCH (R357). -/
  | switch (m : MeadowIx) (next : JobIx)
  /-- JOB_SAVE_DONE (R358). -/
  | jobSaveDone (m : MeadowIx)
  /-- JOB_LOAD_DONE (R356). -/
  | jobLoadDone (m : MeadowIx)
  /-- STALL_CLEAR (R302). -/
  | stallClear (m : MeadowIx)
  /-- RESUME (R491). -/
  | resume (m : MeadowIx)
  /-- REPLAY (R490). -/
  | replay (m : MeadowIx)
  /-- WATCH_FIRE (R489). -/
  | watchFire (b : BaseIx)
  /-- MEM_TIMEOUT (R486). -/
  | memTimeout (c : CoreIx) (e : Fin 6)
  /-- HEATH_RESET (R483). -/
  | heathReset (p : PortIx)
  /-- WARM_RESET (R480). -/
  | warmReset (p : PortIx)
  /-- FAULT_CLEAR (R494). -/
  | faultClear (p : PortIx)
  /-- LOCKSTEP_DISAGREE (R445). -/
  | lockstepDisagree
  /-- BIST_COMPLETE (R499). -/
  | bistComplete (slice : Fin 263) (reports : List PartReport) (saved : Bool)
  /-- SECTOR_READ (R313). -/
  | sectorRead (pa : BitVec 48) (e : SectorFound) (reader : Option SectorReader)
  /-- SECTOR_WRITE (R316). -/
  | sectorWrite (w : Writer) (pa : BitVec 48) (b : List Byte)
  /-- PARITY_DELTA (R316). -/
  | parityDelta
  /-- SCRUB (R314). -/
  | scrub (pa : BitVec 48) (parity : Bool) (e : SectorFound)
  /-- LANE_DEGRADE (R306). -/
  | laneDegrade (k : StackIx) (ch : Fin 32)
  /-- STACK_RETRAIN_DONE (R306). -/
  | stackRetrainDone (k : StackIx) (ch : Fin 32) (r : StackReport)
  /-- FROZEN_SYNC (R326). -/
  | frozenSync (m : MeadowIx)
  /-- FROZEN_REBUILD_DONE (R326). -/
  | frozenRebuildDone (m : MeadowIx)
  /-- BAR2_READ: a read through BAR2 (R387), or through BAR4 beside it (R388). -/
  | bar2Read (p : PortIx) (f : FnIx) (a : BarAddr) (n : Fin 4097) (ide : Bool)
  /-- BAR2_WRITE (R387). -/
  | bar2Write (p : PortIx) (f : FnIx) (a : BitVec 41) (b : List Byte) (ide : Bool)
  /-- DOORBELL (R389). -/
  | doorbell (p : PortIx) (f : FnIx) (off : BitVec 21) (b : List Byte) (ide : Bool)
  /-- HCOPY_TAIL (R397). -/
  | hcopyTail (m : MeadowIx) (v : Word)
  /-- HCOPY_ENABLE (R397). -/
  | hcopyEnable (m : MeadowIx) (v : Word)
  /-- HCOPY_COMPLETE (R396). -/
  | hcopyComplete (m : MeadowIx) (ix : BitVec 12) (desc : Option (List Byte)) (got : List Byte) (took : Word)
  /-- FUNCTION_LEVEL_RESET (R385). -/
  | functionLevelReset (p : PortIx) (e : HostReset) (descs : List (MeadowIx × BitVec 12 × List Byte))
  /-- LINK_TRAINING (R382). -/
  | linkTraining (p : PortIx) (rate : Fin 7) (width : Fin 9) (flit vc1 : Bool)
  /-- PORT_TRAINING_DONE (R367). -/
  | portTrainingDone (n : SwPort) (t : Training)
  /-- ADMISSION (R368). -/
  | admission (n : SwPort) (r : PeerReport)
  /-- SWARM_FRAME (R369). -/
  | swarmFrame (n : SwPort) (gen : Half) (f : SwFrame)
  /-- SWARM_ACK_TIMEOUT (R370). -/
  | swarmAckTimeout (n : SwPort)
  /-- SWARM_RETRAIN_DONE (R371). -/
  | swarmRetrainDone (n : SwPort) (t : Training)
  /-- SWARM_RING_WRITE (R381). -/
  | swarmRingWrite (m : MeadowIx) (v : Dword)
  /-- COLLECTIVE_POLL (R374). -/
  | collectivePoll (m : MeadowIx)
  /-- COLLECTIVE_COMPLETE (R378). -/
  | collectiveComplete (m : MeadowIx) (members : List Member)
  /-- ARP_REQUEST (R403). -/
  | arpRequest (l : LaneIx) (ip : Word)
  /-- GVSP_PACKET (R417). -/
  | gvspPacket (l : LaneIx) (p : Gvsp)
  /-- HELLO (R411). -/
  | hello (l : LaneIx) (h : MmpHdr) (b : List Byte)
  /-- READY (R420). -/
  | ready (l : LaneIx) (h : MmpHdr)
  /-- STOPPED (R419). -/
  | stopped (l : LaneIx) (h : MmpHdr) (lastFrame lastLine : Word)
  /-- ALIVE (R410). -/
  | alive (l : LaneIx) (h : MmpHdr)
  /-- BYE (R410). -/
  | bye (l : LaneIx) (h : MmpHdr) (code : Half)
  /-- MMP_RESEND (R410). -/
  | mmpResend (seq : Word)
  /-- MMP_IDLE_TIMER (R410). -/
  | mmpIdleTimer
  /-- PARTNER_LOST (R410). -/
  | partnerLost
  /-- HOST_COUNT_POLL (R413). -/
  | hostCountPoll
  /-- LINE_SEND (R421). -/
  | lineSend (absent : Half)
  /-- TRN_RUN (R424). -/
  | trnRun (p : PortIx)
  /-- TRN_PAUSE (R424). -/
  | trnPause (p : PortIx)
  /-- TRN_END (R424). -/
  | trnEnd (p : PortIx)
  /-- LANE_STATE_CHANGE (R404). -/
  | laneStateChange (l : LaneIx) (up cr1 : Bool)
  /-- CICADA_POLL (R432). -/
  | cicadaPoll (n : PipeIx)
  /-- ENCODE_COMPLETE (R440). -/
  | encodeComplete (n : PipeIx)
  /-- DECODE_COMPLETE (R442). -/
  | decodeComplete (n : PipeIx)
  /-- DECODE_WORK_BOUND (R442). -/
  | decodeWorkBound (n : PipeIx)
  /-- CIC_RING_WRITE (R443). -/
  | cicRingWrite (m : MeadowIx) (n : PipeIx) (v : Dword)
  /-- POWER_SAMPLE (R520). -/
  | powerSample (l : List RailReading)
  /-- THERMAL_SAMPLE (R524). -/
  | thermalSample (k : Fin 293) (t : BitVec 16)
  /-- OSC_TRIM (R508). -/
  | oscTrim (x : IslandIx)
  /-- SUPPLY_DROOP (R509). -/
  | supplyDroop (x : IslandIx)
  /-- PWR_CAP_WRITE (R518). -/
  | pwrCapWrite (p : PortIx) (v : Word)
  /-- GATE (R522). -/
  | gate (b : BaseIx)
  /-- GATE_RETURN (R31). -/
  | gateReturn (b : BaseIx)
  /-- POWER_GOOD (R469). -/
  | powerGood (rom : RomChecks) (otpOk : Bool) (strap : Fin 8)
  /-- COLD_RESET (R480). -/
  | coldReset
  /-- STACK_TRAINING_DONE (R305). -/
  | stackTrainingDone (l : List StackReport)
  /-- READ_CLEAR (R530). -/
  | readClear (p : PortIx) (f : FnIx) (off : BitVec 24) (n : Fin 4097) (ide : Bool)
  /-- REGISTER_WRITE (R529). -/
  | registerWrite (p : PortIx) (f : FnIx) (off : BitVec 24) (n : Fin 513) (v : Dword) (ide : Bool)
  /-- ILLEGAL_INSTRUCTION (R93). -/
  | illegalInstruction (c : CoreIx)
  /-- MAILBOX_COMMAND_COMPLETE (R446). -/
  | mailboxCommandComplete (p : PortIx)
  /-- SUPPLY_RECOVERY (R509). -/
  | supplyRecovery (x : IslandIx)
  /-- COMPARATOR_THERMTRIP (R525). -/
  | comparatorThermtrip
  /-- SMBALERT (R516). -/
  | smbalert (k : Fin 10) (fault : Bool)
  /-- JTAG_INSTRUCTION (R526). -/
  | jtagInstruction (x : Jtag)
  /-- UNACCEPTED_FRAME (R404). -/
  | unacceptedFrame (l : LaneIx)
deriving DecidableEq, Repr

end Sys2Proof
end

