-- ==== Sys2Proof/Decode.lean ====
section
/-!
DEFINITION. Decoding. The opcode table gives its rows no bits; the words of a program store have a layout of their own (04 R92
to R94).
-/

namespace Sys2Proof

/-- The command that a word spells by the table's bits: none, for no row of the table gives any bits. -/
def decodeTableWord (_nbits _w : Nat) : Option Instr := none

/-! Control-unit instructions (R92, R94). -/

/-- The instruction word of an opcode and its fields. -/
def Fields.word (f : Fields) (op : BitVec 8) : Dword := op ++ f.dst ++ f.sa ++ f.sb ++ f.tok ++ f.sub ++ f.imm

/-- OP of an instruction word. -/
def opcodeOf (w : Dword) : Nat := (w.extractLsb' 56 8).toNat

/-- The other fields of an instruction word. -/
def Fields.ofWord (w : Dword) : Fields :=
  { dst := w.extractLsb' 51 5, sa := w.extractLsb' 46 5, sb := w.extractLsb' 41 5, tok := w.extractLsb' 35 6,
    sub := w.extractLsb' 32 3, imm := w.extractLsb' 0 32 }

/-- The opcodes that *Instruction set* lists. -/
def coreOps : List Nat :=
  List.range' 0x00 0x12 ++ List.range' 0x20 3 ++ List.range' 0x30 8 ++ List.range' 0x40 6 ++ List.range' 0x50 3
    ++ List.range' 0x60 3 ++ List.range' 0x70 2

/-- The command that core `c` carries out for an instruction word; the check bits that a load finds are not the word's. -/
def coreInstr (c : CoreIx) (w : Dword) : Instr :=
  let f := Fields.ofWord w
  match opcodeOf w with
  | 0x00 => .nop c f
  | 0x01 => .add c f
  | 0x02 => .sub c f
  | 0x03 => .and c f
  | 0x04 => .or c f
  | 0x05 => .xor c f
  | 0x06 => .shl c f
  | 0x07 => .shr c f
  | 0x08 => .sra c f
  | 0x09 => .mul c f
  | 0x0A => .mulhu c f
  | 0x0B => .slt c f
  | 0x0C => .sltu c f
  | 0x0D => .min c f
  | 0x0E => .max c f
  | 0x0F => .clz c f
  | 0x10 => .popc c f
  | 0x11 => .lih c f
  | 0x20 => .br c f
  | 0x21 => .call c f
  | 0x22 => .jr c f
  | 0x30 => .ld c f .clean
  | 0x31 => .st c f
  | 0x32 => .vld c f .clean
  | 0x33 => .vst c f
  | 0x34 => .ldd c f .clean
  | 0x35 => .std c f
  | 0x36 => .dput c f
  | 0x37 => .dget c f
  | 0x40 => .mm c f
  | 0x41 => .vx c f
  | 0x42 => .sf c f
  | 0x43 => .cp c f
  | 0x44 => .ga c f
  | 0x45 => .nz c f
  | 0x50 => .send c f
  | 0x51 => .recv c f
  | 0x52 => .poll c f
  | 0x60 => .wait c f
  | 0x61 => .fence c f
  | 0x62 => .epochEnd c f
  | 0x70 => .sysrd c f
  | 0x71 => .syswr c f
  | _ => .illegalInstruction c

end Sys2Proof
end

