-- ==== Sys2Proof/Machine/Sparse.lean ====
section
/-!
DEFINITION. Sparse maps in canonical form and bytes of a store.
A map lists its keys in strictly rising order and lists no entry equal to the default,
so that equal maps are equal data.
-/

namespace Sys2Proof

/-- The value at key `i`; `d` where the map lists none. -/
def Sparse.get {α : Type} (d : α) : Sparse α → Nat → α
  | [], _ => d
  | (k, v) :: r, i => if k = i then v else Sparse.get d r i

/-- The map without key `i`. -/
def Sparse.drop {α : Type} : Sparse α → Nat → Sparse α
  | [], _ => []
  | (k, v) :: r, i => if k = i then Sparse.drop r i else (k, v) :: Sparse.drop r i

/-- A new entry in its place by key. -/
def Sparse.insert {α : Type} : Sparse α → Nat → α → Sparse α
  | [], i, v => [(i, v)]
  | (k, w) :: r, i, v => if i < k then (i, v) :: (k, w) :: r else (k, w) :: Sparse.insert r i v

/-- The map with `v` at key `i`; storing the default removes the entry. -/
def Sparse.put {α : Type} [DecidableEq α] (d : α) (m : Sparse α) (i : Nat) (v : α) : Sparse α :=
  if v = d then Sparse.drop m i else Sparse.insert (Sparse.drop m i) i v

/-- The entry at key `i` replaced by `f` of it. -/
def Sparse.upd {α : Type} [DecidableEq α] (d : α) (m : Sparse α) (i : Nat) (f : α → α) : Sparse α :=
  Sparse.put d m i (f (Sparse.get d m i))

/-- Every listed key is above `b`, keys rise strictly, and no entry is the default. -/
def Sparse.wfFrom {α : Type} [DecidableEq α] (d : α) : Option Nat → Sparse α → Bool
  | _, [] => true
  | b, (k, v) :: r =>
    (match b with | none => true | some x => decide (x < k)) && decide (v ≠ d)
      && Sparse.wfFrom d (some k) r

/-- The canonical form of a map with default `d`. -/
def Sparse.wf {α : Type} [DecidableEq α] (d : α) (m : Sparse α) : Bool := Sparse.wfFrom d none m

/-- The canonical form of a memory (unlisted bytes read zero). -/
def Memory.wf (m : Mem) : Bool := Sparse.wf (0 : Byte) m

/-- One byte of a store. -/
def Mem.byte (m : Mem) (a : Nat) : Byte := Sparse.get 0 m a

/-- One byte written. -/
def Mem.setByte (m : Mem) (a : Nat) (b : Byte) : Mem := Sparse.put 0 m a b

/-- `n` bytes from address `a` upward. -/
def Mem.read (m : Mem) : Nat → Nat → List Byte
  | _, 0 => []
  | a, n + 1 => Mem.byte m a :: Mem.read m (a + 1) n

/-- Bytes written from address `a` upward. -/
def Mem.write (m : Mem) : Nat → List Byte → Mem
  | _, [] => m
  | a, b :: r => Mem.write (Mem.setByte m a b) (a + 1) r

/-- Little-endian value of a byte list (R10). -/
def bytesToNat : List Byte → Nat
  | [] => 0
  | b :: r => b.toNat + 256 * bytesToNat r

/-- The `k` low bytes of a number, least significant first (R10). -/
def natToBytes : Nat → Nat → List Byte
  | 0, _ => []
  | k + 1, n => BitVec.ofNat 8 n :: natToBytes k (n / 256)

/-- A little-endian scalar of `n` bytes at address `a`. -/
def Mem.nat (m : Mem) (a n : Nat) : Nat := bytesToNat (Mem.read m a n)

/-- Bytes `lo` to `lo + n - 1` of a list; absent bytes read zero. -/
def sliceBytes (l : List Byte) (lo n : Nat) : List Byte :=
  (l.drop lo).take n ++ List.replicate (n - ((l.drop lo).take n).length) 0

/-- A little-endian field of a byte list. -/
def fieldNat (l : List Byte) (lo n : Nat) : Nat := bytesToNat (sliceBytes l lo n)

/-- Whether every byte of a field is zero. -/
def fieldZero (l : List Byte) (lo n : Nat) : Bool := fieldNat l lo n == 0

/-- The first entry for which `f` answers. -/
def firstSome {α β : Type} (f : α → Option β) : List α → Option β
  | [] => none
  | a :: r => match f a with | some b => some b | none => firstSome f r

/-- The numbers `a`, `a + 1`, ... , `n` of them. -/
def upFrom : Nat → Nat → List Nat
  | _, 0 => []
  | a, n + 1 => a :: upFrom (a + 1) n

/-- `f` applied `n` times. -/
def iter {α : Type} (f : α → α) : Nat → α → α
  | 0, a => a
  | n + 1, a => iter f n (f a)

/-- The ceiling of `a / b`. -/
def ceilDiv (a b : Nat) : Nat := (a + b - 1) / b

/-- Saturating increment of a 32-bit counter (R8 counters saturate). -/
def satInc (n : Word) (k : Nat := 1) : Word :=
  if n.toNat + k < 2 ^ 32 then BitVec.ofNat 32 (n.toNat + k) else 0xFFFFFFFF

end Sys2Proof
end

