-- ==== Sys2Proof/Machine/Sha.lean ====
section
/-!
DEFINITION. SHA-256 (FIPS 180-4), which the digest of a stream, signatures and measurements use (R39, R48, R459, R460).
The function is the published standard's, which the manual names and does not restate: PRESUMED, log entry 13.
Eight 32-bit words are held in one number, word 0 lowest, and sixteen message words likewise.
-/

namespace Sys2Proof

/-- `g` of a number, after the number is reduced to a numeral: long computations stay shallow. -/
def forced {α : Type} (x : Nat) (g : Nat → α) : α := match x with | 0 => g 0 | n + 1 => g (n + 1)

/-- Word `i` of a packed number. -/
def pword (x i : Nat) : Nat := (x >>> (32 * i)) % 2 ^ 32

/-- A 32-bit word turned right by `n` places. -/
def turn (x n : Nat) : Nat := ((x * (2 ^ 32 + 1)) >>> n) % 2 ^ 32

/-- The round constants, eight to a number: 32 bits of the fraction of the cube root of each of the first 64 primes. -/
def shaSeeds : List Nat :=
  [ 0xab1c5ed5923f82a459f111f13956c25be9b5dba5b5c0fbcf71374491428a2f98,
    0xc19bf1749bdc06a780deb1fe72be5d74550c7dc3243185be12835b01d807aa98,
    0x76f988da5cb0a9dc4a7484aa2de92c6f240ca1cc0fc19dc6efbe4786e49b69c1,
    0x1429296706ca6351d5a79147c6e00bf3bf597fc7b00327c8a831c66d983e5152,
    0x92722c8581c2c92e766a0abb650a735453380d134d2c6dfc2e1b213827b70a85,
    0x106aa070f40e3585d6990624d192e819c76c51a3c24b8b70a81a664ba2bfe8a1,
    0x682e6ff35b9cca4f4ed8aa4a391c0cb334b0bcb52748774c1e376c0819a4c116,
    0xc67178f2bef9a3f7a4506ceb90befffa8cc7020884c8781478a5636f748f82ee ]

/-- The initial state: 32 bits of the fraction of the square root of each of the first eight primes. -/
def shaStart : Nat :=
  0x5be0cd191f83d9ab9b05688c510e527fa54ff53a3c6ef372bb67ae856a09e667

/-- The word that a round mixes in, from the state, the round constant and the message word. -/
def shaMix (s k w : Nat) : Nat :=
  let e := pword s 4
  pword s 7 + (turn e 6 ^^^ turn e 11 ^^^ turn e 25) + (pword s 6 ^^^ (e &&& (pword s 5 ^^^ pword s 6))) + k + w

/-- The part of the new front word that does not depend on the message. -/
def shaFront (s : Nat) : Nat :=
  let a := pword s 0
  let b := pword s 1
  (turn a 2 ^^^ turn a 13 ^^^ turn a 22) + ((a &&& b) ||| ((a ||| b) &&& pword s 2))

/-- The state after a round: every word moves one place up, the fifth also takes the mixed word, and a new one stands in front. -/
def shaTurn (s t : Nat) : Nat :=
  (t + shaFront s) % 2 ^ 32 + (s % 2 ^ 96) * 2 ^ 32 + (pword s 3 + t) % 2 ^ 32 * 2 ^ 128 + (s >>> 128) % 2 ^ 96 * 2 ^ 160

/-- The sixteen message words moved on by one: the next word of the schedule stands last. -/
def shaFeed (w : Nat) : Nat :=
  let x := pword w 1
  let y := pword w 14
  let n := pword w 0 + (turn x 7 ^^^ turn x 18 ^^^ x >>> 3) + pword w 9 + (turn y 17 ^^^ turn y 19 ^^^ y >>> 10)
  w >>> 32 + n % 2 ^ 32 * 2 ^ 480

/-- `n` rounds with the constants of one number: the message words and the state after them. -/
def shaEight : Nat → Nat → Nat → Nat → Nat × Nat
  | 0, _, w, s => (w, s)
  | n + 1, k, w, s =>
    forced (shaTurn s (shaMix s (k % 2 ^ 32) (pword w 0))) fun s => forced (shaFeed w) fun w => shaEight n (k >>> 32) w s

/-- The rounds of all the constants. -/
def shaRun : List Nat → Nat → Nat → Nat
  | [], _, s => s
  | k :: r, w, s => match shaEight 8 k w s with | (w, s) => shaRun r w s

/-- Big-endian value of bytes. -/
def bytesToBe (l : List Byte) : Nat := l.foldl (fun a b => 256 * a + b.toNat) 0
/-- The `k` low bytes of a number, most significant first. -/
def natToBe (k n : Nat) : List Byte := (natToBytes k n).reverse

/-- Big-endian words of bytes, packed from word 0 upward. -/
def packWords : Nat → List Byte → Nat
  | 0, _ => 0
  | n + 1, b => bytesToBe (b.take 4) + packWords n (b.drop 4) * 2 ^ 32

/-- The words of two packed numbers added one by one. -/
def addWords (x y : Nat) : Nat :=
  (upFrom 0 8).foldl (fun a i => a + (pword x i + pword y i) % 2 ^ 32 * 2 ^ (32 * i)) 0

/-- `n` blocks of a padded message. -/
def shaBlocks : Nat → List Byte → Nat → Nat
  | 0, _, s => s
  | n + 1, l, s =>
    forced (packWords 16 (l.take 64)) fun w => forced (addWords s (shaRun shaSeeds w s)) fun s => shaBlocks n (l.drop 64) s

/-- The SHA-256 digest of bytes. -/
def sha256 (m : List Byte) : List Byte :=
  let n := m.length
  let k := (n + 9 + 63) / 64
  let s := shaBlocks k (m ++ [0x80] ++ List.replicate (64 * k - n - 9) 0 ++ natToBe 8 (8 * n)) shaStart
  (upFrom 0 8).flatMap fun i => natToBe 4 (pword s i)

end Sys2Proof
end

