-- ==== Sys2Proof/Machine/Cipher.lean ====
section
/-!
DEFINITION. The check symbols of a stored sector (14 R312), and the ciphers: AES-256 (FIPS 197), XTS (IEEE 1619) and GCM
(SP 800-38D), which package memory, key transport and the Swarm links use (14 R327; 17 R369; 21 R461).
The manual names the ciphers and does not restate them: PRESUMED, log entry 13.
-/

namespace Sys2Proof

/-! Fields of 2^n elements: bit i of an element is the coefficient of x^i. -/

/-- An element times x, modulo the polynomial of degree `n` whose lower bits are `poly`. -/
def timesX (n poly a : Nat) : Nat := if bitOf a (n - 1) then (2 * a) % 2 ^ n ^^^ poly else 2 * a

/-- The product of `a` with the low `i` bits of `b`, added to `r` times x^i. -/
def fieldMulFrom (n poly a b : Nat) : Nat → Nat → Nat
  | 0, r => r
  | i + 1, r => fieldMulFrom n poly a b i (timesX n poly r ^^^ (if bitOf b i then a else 0))

/-- The product of two elements. -/
def fieldMul (n poly a b : Nat) : Nat := fieldMulFrom n poly a b n 0

/-- A power of an element. -/
def fieldPow (n poly a : Nat) : Nat → Nat
  | 0 => 1
  | k + 1 => fieldMul n poly a (fieldPow n poly a k)

/-- Two byte strings combined byte by byte with exclusive or, as long as the shorter. -/
def xorBytes (a b : List Byte) : List Byte := List.zipWith (· ^^^ ·) a b

/-! The Reed-Solomon code of a stored sector (R312): 36 symbols over GF(2^8), the first the coefficient of x^35. -/

/-- The product in the code's field. -/
def rsMul (a b : Nat) : Nat := fieldMul 8 0x1D a b

/-- The generator x^4 + 15x^3 + 54x^2 + 120x + 64, whose roots are 1, 2, 4 and 8: its coefficients below x^4. -/
def rsGenerator : List Nat := [15, 54, 120, 64]

/-- The 4 check bytes of a sector's data: the remainder of its polynomial times x^4. -/
def rsCheck (data : List Byte) : List Byte :=
  (data.foldl (fun c b =>
    let f := c.headD 0 ^^^ b.toNat
    List.zipWith (fun x g => x ^^^ rsMul f g) (c.drop 1 ++ [0]) rsGenerator) [0, 0, 0, 0]).map (BitVec.ofNat 8 ·)

/-- The value of a word's polynomial at 2^j. -/
def rsSyndrome (w : List Byte) (j : Nat) : Nat := w.foldl (fun r b => rsMul r (2 ^ j) ^^^ b.toNat) 0

/-- What the decoder makes of an error pattern: nothing found, one symbol corrected with the pattern left after it,
or an error it detects and does not correct. The code is linear, so the pattern alone decides. -/
inductive RsRead where
  | clean
  | corrected (left : BitVec 288)
  | detected
deriving DecidableEq, Repr

/-- The 36 symbols of a pattern. -/
def symbolsOf (p : BitVec 288) : List Byte := natToBytes 36 p.toNat

/-- The symbol whose change explains four syndromes, if one does. -/
def rsLocate (s0 s1 s2 s3 : Nat) : Option Nat :=
  (List.range 36).find? fun i =>
    let x := fieldPow 8 0x1D 2 (35 - i)
    s0 != 0 && rsMul s0 x == s1 && rsMul s1 x == s2 && rsMul s2 x == s3

/-- The decoder on an error pattern (R312). -/
def rsRead (p : BitVec 288) : RsRead :=
  let w := symbolsOf p
  let s := rsSyndrome w
  if s 0 = 0 ∧ s 1 = 0 ∧ s 2 = 0 ∧ s 3 = 0 then .clean
  else match rsLocate (s 0) (s 1) (s 2) (s 3) with
    | some i => .corrected (p ^^^ BitVec.ofNat 288 (s 0 * 2 ^ (8 * i)))
    | none => .detected

/-! AES-256. A block is 16 bytes, column by column. -/

/-- The product in the cipher's field. -/
def aesMul (a b : Nat) : Nat := fieldMul 8 0x1B a b
/-- A byte turned left by `k` places. -/
def turnByte (b k : Nat) : Nat := ((b * (2 ^ 8 + 1)) >>> (8 - k)) % 2 ^ 8
/-- The inverse in the cipher's field; of 0 it is 0. -/
def aesInverse (b : Nat) : Nat := fieldPow 8 0x1B b 254

/-- The substitution of a byte. -/
def aesSub (x : Byte) : Byte :=
  let b := aesInverse x.toNat
  BitVec.ofNat 8 (b ^^^ turnByte b 1 ^^^ turnByte b 2 ^^^ turnByte b 3 ^^^ turnByte b 4 ^^^ 0x63)
/-- The inverse substitution of a byte. -/
def aesUnsub (y : Byte) : Byte :=
  let b := y.toNat
  BitVec.ofNat 8 (aesInverse (turnByte b 1 ^^^ turnByte b 3 ^^^ turnByte b 6 ^^^ 0x05))

/-- Row r of a block turned left by `k * r` places. -/
def aesRows (k : Nat) (b : List Byte) : List Byte :=
  (List.range 16).map fun i => b.getD ((i + 4 * k * (i % 4)) % 16) 0

/-- Every column of a block multiplied by the circulant matrix whose first row is `m`. -/
def aesColumns (m : List Nat) (b : List Byte) : List Byte :=
  (List.range 16).map fun i =>
    BitVec.ofNat 8 ((List.range 4).foldl (fun a j =>
      a ^^^ aesMul (m.getD ((j + 4 - i % 4) % 4) 0) (b.getD (i / 4 * 4 + j) 0).toNat) 0)

/-- `n` further words of the key schedule, word `i` next, from the last eight, oldest first. -/
def aesWords : Nat → Nat → List (List Byte) → List (List Byte)
  | 0, _, _ => []
  | n + 1, i, last =>
    let p := last.getD 7 []
    let t :=
      if i % 8 = 0 then xorBytes ((p.drop 1 ++ p.take 1).map aesSub) [BitVec.ofNat 8 (fieldPow 8 0x1B 2 (i / 8 - 1)), 0, 0, 0]
      else if i % 8 = 4 then p.map aesSub
      else p
    let w := xorBytes (last.getD 0 []) t
    w :: aesWords n (i + 1) (last.drop 1 ++ [w])

/-- The 15 round keys of a 32-byte key. -/
def aesRoundKeys (key : List Byte) : List (List Byte) :=
  let first := (List.range 8).map fun i => sliceBytes key (4 * i) 4
  let all := (first ++ aesWords 52 8 first).flatten
  (List.range 15).map fun i => sliceBytes all (16 * i) 16

/-- A block enciphered with a key. -/
def aesEncrypt (key block : List Byte) : List Byte :=
  match aesRoundKeys key with
  | [] => block
  | k0 :: ks =>
    ks.zipIdx.foldl (fun b (k, i) =>
      let b := aesRows 1 (b.map aesSub)
      xorBytes (if i = 13 then b else aesColumns [2, 3, 1, 1] b) k) (xorBytes block k0)

/-- A block deciphered with a key. -/
def aesDecrypt (key block : List Byte) : List Byte :=
  match aesRoundKeys key with
  | [] => block
  | k0 :: ks =>
    xorBytes k0 (ks.zipIdx.foldr (fun (k, i) b =>
      let b := xorBytes b k
      (aesRows 3 (if i = 13 then b else aesColumns [14, 11, 13, 9] b)).map aesUnsub) block)

/-- The key pair of a 512-bit key: the data key, then the tweak key. -/
def xtsKeys (k : BitVec 512) : List Byte × List Byte := ((natToBytes 64 k.toNat).take 32, (natToBytes 64 k.toNat).drop 32)

/-- A 16-byte data unit enciphered (R327): block 0 of the unit with this tweak. -/
def xtsEncrypt (k : BitVec 512) (tweak : Nat) (b : List Byte) : List Byte :=
  let (k1, k2) := xtsKeys k
  let t := aesEncrypt k2 (natToBytes 16 tweak)
  xorBytes (aesEncrypt k1 (xorBytes b t)) t

/-- A 16-byte data unit deciphered (R327). -/
def xtsDecrypt (k : BitVec 512) (tweak : Nat) (b : List Byte) : List Byte :=
  let (k1, k2) := xtsKeys k
  let t := aesEncrypt k2 (natToBytes 16 tweak)
  xorBytes (aesDecrypt k1 (xorBytes b t)) t

/-! GCM with AES-256 and a 12-byte nonce. -/

/-- The bits of a 128-bit number in reverse, so that GCM's first bit is the coefficient of x^0. -/
def mirror (x : Nat) : Nat := (List.range 128).foldl (fun a i => 2 * a + (x >>> i) % 2) 0

/-- The product of two GCM blocks, each a big-endian number. -/
def gcmMul (a b : Nat) : Nat := mirror (fieldMul 128 0x87 (mirror a) (mirror b))

/-- Bytes filled with zeros to whole blocks. -/
def padBlocks (b : List Byte) : List Byte := b ++ List.replicate ((16 - b.length % 16) % 16) 0

/-- The hash of `n` blocks of bytes under a hash key, from `y`. -/
def gcmHash (h : Nat) : Nat → List Byte → Nat → Nat
  | 0, _, y => y
  | n + 1, b, y => gcmHash h n (b.drop 16) (gcmMul (y ^^^ bytesToBe (b.take 16)) h)

/-- The keystream of `n` blocks from counter `i`. -/
def gcmStream (key nonce : List Byte) : Nat → Nat → List Byte
  | 0, _ => []
  | n + 1, i => aesEncrypt key (nonce ++ natToBe 4 i) ++ gcmStream key nonce n (i + 1)

/-- Bytes enciphered, or deciphered. -/
def gcmCrypt (key nonce text : List Byte) : List Byte := xorBytes text (gcmStream key nonce ((text.length + 15) / 16) 2)

/-- The authentication tag of a ciphertext with its additional data. -/
def gcmTag (key nonce aad cipher : List Byte) : List Byte :=
  let h := bytesToBe (aesEncrypt key (List.replicate 16 0))
  let b := padBlocks aad ++ padBlocks cipher ++ natToBe 8 (8 * aad.length) ++ natToBe 8 (8 * cipher.length)
  xorBytes (natToBe 16 (gcmHash h (b.length / 16) b 0)) (aesEncrypt key (nonce ++ natToBe 4 1))

/-- The plaintext of a ciphertext whose tag holds. -/
def gcmOpen (key nonce aad cipher tag : List Byte) : Option (List Byte) :=
  if gcmTag key nonce aad cipher = tag then some (gcmCrypt key nonce cipher) else none

end Sys2Proof
end

