-- ==== Sys2Proof/Config.lean ====
section
/-!
DEFINITION. What an implementation fixes and the values the manual leaves open.
An opaque constant has no body: nothing can be proved of its value, so a statement holds for every value of it.
-/

namespace Sys2Proof

/-- A motion vector in quarter luma samples, with its index into a job's REF (20, Motion hint entry). -/
structure Vect where
  x : Int
  y : Int
  ref : Nat
deriving DecidableEq, Repr

/-- A picture as Cicada uses a frame buffer: its samples without the padding of rows and the unused bits, plane by plane in raster
order, and its motion area (R429). -/
structure Frame where
  samples : List Nat
  motion : List Byte
deriving DecidableEq, Repr

/-- All that an encode's result may depend on (R436): the job entry, the stream context, the control block, the source samples,
the references in the places of REF, and the hint map. -/
structure EncInput where
  entry : List Byte
  ctx : List Byte
  ctrl : List Byte
  source : List Nat
  refs : List Frame
  hints : List Byte
deriving DecidableEq, Repr

/-- How the blocks of a picture are coded: as the encoder chooses; every block skipped from the first L0 reference; every block
intra DC without residual (R440). -/
inductive EncMode where | normal | skip | dc
deriving DecidableEq, Repr

/-- The hypothetical reference decoder that a stream's headers describe (R439): bit rate, buffer size, initial removal delay, and
whether the bit rate is constant. HEVC carries it in the VUI and in SEI messages, AV1 in decoder_model_info. -/
structure HrdParams where
  bitrate : Nat
  buffer : Nat
  initial : Nat
  cbr : Bool
deriving DecidableEq, Repr

/-- What an attempt settles before it codes: how blocks are coded, the QP of each quantization group with the unit of its
differences, the decoder model to write, and the vector of each block (R437 to R440). -/
structure EncPlan where
  mode : EncMode
  qps : List Nat
  deltaRes : Nat
  hrd : Option HrdParams
  vectors : List Vect
deriving DecidableEq, Repr

/-- What a decode works on: the stream context, the unit's bytes, and the pictures of the pool's marked entries. -/
structure DecInput where
  ctx : List Byte
  unit : List Byte
  pool : List Frame
deriving DecidableEq, Repr

/-- The marks a decoder gives a pool entry (R430, R441). -/
structure PoolMark where
  entry : Fin 16
  short : Bool
  long : Bool
  out : Bool
  slots : Byte
deriving DecidableEq, Repr

/-- The samples of a decoded picture: a frame, or two fields of it (R427). -/
inductive Decoded where
  | frame (samples : List Nat)
  | fields (top bottom : List Nat)
deriving DecidableEq, Repr

/-- A decoded picture (R429, R441, R442): its samples, its motion area, the bits of its film_grain_params as bytes, the units of
`unit` luma samples square that an error has lost, its ORDER, and the marks of the entry it takes (whose number is not used) and
of the other entries. -/
structure DecPicture where
  picture : Decoded
  motion : List Byte
  grain : List Byte
  unit : Nat
  lost : List Nat
  order : Word
  own : PoolMark
  marks : List PoolMark
deriving DecidableEq, Repr

/-- What decoding a unit gives (R441, R442): whether the stream exceeds its context, the pictures in decoding order,
the marks after the last of them, and Cicada's part of the stream context. -/
structure DecOutcome where
  limit : Bool
  pictures : List DecPicture
  marks : List PoolMark
  ctx : List Byte
deriving DecidableEq, Repr, Inhabited

end Sys2Proof

namespace Sys2Proof.Config

/-- A byte the manual leaves open, fresh for each index of the free counter
(overlapping copies R288, failed collectives R379, failed encodes R435). DESIGN CHOICE, log entry 3. -/
opaque freeByte : Nat → Byte

/-- A 32-bit value drawn from the random number generator or left open by the manual, fresh for each index.
DESIGN CHOICE, log entry 3. -/
opaque freeWord : Nat → Word

/-- The content of a key slot that holds a random key, by the key's serial number: Sexton never releases it (R57, R327).
DESIGN CHOICE, log entry 3. -/
opaque randomKey : Nat → BitVec 512

/-- Which of the results that R164 admits a Gorse evaluation returns:
function, output format and argument code. DESIGN CHOICE, log entry 11. -/
opaque gorsePick : Nat → Nat → Nat → BitVec 2

/-- The place among the trunk's edge routers of a port of a rim die (15, The trunk). DESIGN CHOICE, log entry 14. -/
opaque rimPort : Nat → Nat → Fin 60

/-- The name and the seed of the level-1 tree, which DEVICE_SECRET gives (R456, R464). DESIGN CHOICE, log entry 9. -/
opaque identityName : BitVec 128
/-- The seed of the level-1 tree. -/
opaque identitySeed : BitVec 256

/-- Gnoellia's registry identifier in a VENDOR_DEFINED_REQUEST (R463). DESIGN CHOICE, log entry 9. -/
opaque gnoelliaId : List Byte

/-- The key of a Swarm link (R368): by the place of this device's encapsulation key among the free bytes, a draw, and the peer's
report. DESIGN CHOICE, log entry 49. -/
opaque linkKey : Nat → Nat → List Byte → BitVec 256

/-- The nonce of a link frame (R369): by the sender's generation and the sequence number. DESIGN CHOICE, log entry 49. -/
opaque linkNonce : Nat → Nat → BitVec 96

/-- The secret that a device's ML-KEM key, named by the place of its encapsulation key among the free bytes, recovers from a
ciphertext (R461, R463). DESIGN CHOICE, log entry 9. -/
opaque decaps : Nat → List Byte → BitVec 256

/-- The supply in mV that a base tussock's cores need at a frequency in MHz (R53). DESIGN CHOICE, log entry 58. -/
opaque needMv : Nat → Nat → Nat

/-- The supply in mV that the hub die needs (R512). DESIGN CHOICE, log entry 58. -/
opaque hubMv : Nat

/-- The fixed seed of a slice's pattern generator (R498). DESIGN CHOICE, log entry 70. -/
opaque prpgSeed : Dword
/-- What the generator holds after the 65,536 patterns of a logic test (R498). DESIGN CHOICE, log entry 70. -/
opaque prpgEnd : Dword
/-- The signature that a firmware image, by its measurement, expects of a kind of partition (R499). DESIGN CHOICE, log entry 70. -/
opaque misrExpected : List Byte → Nat → Dword

/-- The silicon revision that IDCODE holds (R526). DESIGN CHOICE, log entry 9. -/
opaque siliconRevision : BitVec 4

/-! Cicada (20): the encoder's choices are not frozen in the manual, and the standards are not in it. Which bits and samples come
out is free, and depends only on what R436 lists. DESIGN CHOICE, log entry 15. -/

/-- The QP of a picture under rate control. -/
opaque encPlanned : EncInput → Nat
/-- Whether a block of an attempt at a QP is predicted from no other picture. -/
opaque encIntra : EncInput → Nat → Nat → Bool
/-- The sum of absolute transformed differences of a block at a vector (R437). -/
opaque satd : EncInput → Nat → Vect → Nat
/-- The bits of a picture. -/
opaque encBits : EncInput → EncPlan → List Byte
/-- The reconstructed samples of a picture. -/
opaque encSamples : EncInput → EncPlan → List Nat
/-- Cicada's part of the stream context after a picture. -/
opaque encContext : EncInput → EncPlan → List Byte
/-- What decoding a unit gives; the second argument tells apart the runs of a unit whose time bound was reached (R442). -/
opaque decoded : DecInput → Option Nat → DecOutcome

end Sys2Proof.Config
end

