-- ==== Sys2Proof/Machine/Numeric.lean ====
section
/-!
DEFINITION. The five element formats, their exact values and the one rounding (03 R65 to R77).
A code is a natural number; its value is exact, and every rounding goes through `roundQ`.
-/

namespace Sys2Proof.Machine

/-- Element formats (R65). -/
inductive Fmt where | s8 | s16 | l32 | l64 | ex
deriving DecidableEq, Repr

/-- Rounding directions (R66). -/
inductive Rnd where | ne | na | tp | tn | tz
deriving DecidableEq, Repr

/-- FMT code to format (R65). -/
def fmtOf : Nat → Option Fmt
  | 0 => some .s8 | 1 => some .s16 | 2 => some .l32 | 3 => some .l64 | 4 => some .ex | _ => none

/-- RD code to direction (R66). -/
def rndOf : Nat → Option Rnd
  | 0 => some .ne | 1 => some .na | 2 => some .tp | 3 => some .tn | 4 => some .tz | _ => none

/-- Element size in bytes (R65). -/
def Fmt.size : Fmt → Nat
  | .s8 => 1 | .s16 => 2 | .l32 => 4 | .l64 => 8 | .ex => 22

/-- Whether σ must be zero (R75). -/
def Fmt.long : Fmt → Bool
  | .l32 | .l64 => true | _ => false

/-- The exact value of a code. `fin neg m e` is ±m × 2^e; `nan` keeps sign and payload below the quiet bit. -/
inductive Val where
  | nan (neg : Bool) (payload : Nat)
  | inf (neg : Bool)
  | fin (neg : Bool) (m : Nat) (e : Int)
deriving DecidableEq, Repr

/-- Significant bits, exponent range and bias of a format (R83; S8 by R67). -/
structure FmtP where
  p : Nat
  emin : Int
  emax : Int
  bias : Int
  width : Nat
deriving DecidableEq, Repr

/-- Parameters of each format. -/
def Fmt.par : Fmt → FmtP
  | .s8 => ⟨4, -7, 7, 8, 8⟩
  | .s16 => ⟨10, -31, 31, 32, 16⟩
  | .l32 => ⟨24, -126, 127, 127, 32⟩
  | .l64 => ⟨53, -1022, 1023, 1023, 64⟩
  | .ex => ⟨53, -1022, 1023, 1023, 64⟩

/-- The canonical NaN of a format (R69, R83). -/
def Fmt.nan : Fmt → Nat
  | .s8 => 0x80 | .s16 => 0x8000 | .l32 => 0x7FC00000 | .l64 => 0x7FF8000000000000 | .ex => 0

/-- The value of a short code (R67): `f` fraction bits, exponent bias `f - emin + 1`. -/
def shortVal (w f : Nat) (off : Int) (c : Nat) : Val :=
  let neg := bitOf c (w - 1)
  let e := bitsOf c (w - 2) f
  let fr := bitsOf c (f - 1) 0
  if e = 0 then (if fr = 0 then (if neg then .nan false 0 else .fin false 0 0) else .fin neg fr (1 - off))
  else .fin neg (2 ^ f + fr) (e - off)

/-- The value of a long code (IEEE 754-2019). -/
def longVal (w f : Nat) (bias : Int) (c : Nat) : Val :=
  let neg := bitOf c (w - 1)
  let e := bitsOf c (w - 2) f
  let fr := bitsOf c (f - 1) 0
  if e = 2 ^ (w - 1 - f) - 1 then (if fr = 0 then .inf neg else .nan neg (fr % 2 ^ (f - 1)))
  else if e = 0 then .fin neg fr (1 - bias - f)
  else .fin neg (2 ^ f + fr) (e - bias - f)

/-- The value of a code of format `f`, without scale (R67, R68). -/
def Fmt.val : Fmt → Nat → Val
  | .s8, c => shortVal 8 3 11 c
  | .s16, c => shortVal 16 9 41 c
  | .l32, c => longVal 32 23 127 c
  | .l64, c => longVal 64 52 1023 c
  | .ex, _ => .nan false 0

/-- Whether rounding away from zero is taken: `rem` against half of `den` (R83). -/
def roundUp (rd : Rnd) (neg odd : Bool) (rem den : Nat) : Bool :=
  match rd with
  | .ne => den < 2 * rem || (2 * rem == den && odd)
  | .na => den ≤ 2 * rem && rem != 0
  | .tp => rem != 0 && !neg
  | .tn => rem != 0 && neg
  | .tz => false

/-- `n / d` rounded to an integer. -/
def roundDiv (rd : Rnd) (neg : Bool) (n d : Nat) : Nat :=
  let t := n / d
  if roundUp rd neg (t % 2 == 1) (n % d) d then t + 1 else t

/-- The numerator and denominator of `n / d × 2^e`. -/
def scaleQ (n d : Nat) (e : Int) : Nat × Nat :=
  if 0 ≤ e then (n * 2 ^ e.toNat, d) else (n, d * 2 ^ (-e).toNat)

/-- ⌊log₂ (n / d × 2^e)⌋ for `n ≠ 0`. -/
def floorLog (n d : Nat) (e : Int) : Int :=
  let l : Int := (Nat.log2 n : Int) - Nat.log2 d
  let (a, b) := scaleQ n d (-l)
  (if b ≤ a then l else l - 1) + e

/-- The overflow result of a format (R84, R72). -/
def Fmt.overflow (f : Fmt) (neg : Bool) (rd : Rnd) : Nat :=
  let s := if neg then 2 ^ (f.par.width - 1) else 0
  match f with
  | .s8 | .s16 => s + (2 ^ (f.par.width - 1) - 1)
  | _ =>
    let inf := (2 ^ (f.par.width - f.par.p) - 1) * 2 ^ (f.par.p - 1)
    let big := match rd with
      | .ne | .na => false
      | .tp => neg
      | .tn => !neg
      | .tz => true
    s + (if big then inf - 1 else inf)

/-- The code of a zero: short formats have one zero (R67, R84). -/
def Fmt.zero (f : Fmt) (neg : Bool) : Nat :=
  if neg && f.long then 2 ^ (f.par.width - 1) else 0

/-- ±`n / d` × 2^`e` rounded once to format `f` in direction `rd` (R83, R84, R68, R72). -/
def roundQ (f : Fmt) (rd : Rnd) (neg : Bool) (n d : Nat) (e : Int) : Nat :=
  if n = 0 then f.zero neg else
  let P := f.par
  let q0 := max (floorLog n d e) P.emin - (P.p - 1)
  let (a, b) := scaleQ n d (e - q0)
  let r0 := roundDiv rd neg a b
  let (r, q) := if r0 = 2 ^ P.p then (2 ^ (P.p - 1), q0 + 1) else (r0, q0)
  if 2 ^ (P.p - 1) ≤ r ∧ P.emax < q + (P.p - 1) then f.overflow neg rd
  else if r = 0 then f.zero neg
  else
    let s := if neg then 2 ^ (P.width - 1) else 0
    if 2 ^ (P.p - 1) ≤ r then
      s + (q + (P.p - 1) + P.bias).toNat * 2 ^ (P.p - 1) + (r - 2 ^ (P.p - 1))
    else s + r

/-- A NaN as a code of format `f`: sign and payload kept where the format has them (R71, R73). -/
def Fmt.nanCode (f : Fmt) (neg : Bool) (payload : Nat) : Nat :=
  match f with
  | .l32 => (if neg then 2 ^ 31 else 0) + 0x7FC00000 + payload % 2 ^ 22
  | .l64 => (if neg then 2 ^ 63 else 0) + 0x7FF8000000000000 + payload % 2 ^ 51
  | g => g.nan

/-- A value that is not NaN, multiplied by 2^k, as a code of `f`. -/
def encodeVal (f : Fmt) (rd : Rnd) (k : Int) : Val → Nat
  | .nan neg pl => f.nanCode neg pl
  | .inf neg => if f.long then (f.overflow neg .ne) else f.overflow neg rd
  | .fin neg m e => roundQ f rd neg m 1 (e + k)

/-- Widening of L32 to L64: exact, the NaN payload moved up by 29 bits (R71). -/
def l32ToL64 (c : Nat) : Nat :=
  match Fmt.l32.val c with
  | .nan neg pl => Fmt.l64.nanCode neg (pl * 2 ^ 29)
  | v => encodeVal .l64 .ne 0 v

/-- Narrowing of L64 to L32 in a direction (R73). -/
def l64ToL32 (rd : Rnd) (c : Nat) : Nat :=
  match Fmt.l64.val c with
  | .nan neg pl => Fmt.l32.nanCode neg (pl / 2 ^ 29)
  | v => encodeVal .l32 rd 0 v

/-- A short code of scale σ widened to a long format, one rounding under RNE (R76, R147). -/
def widenShort (src dst : Fmt) (scale : Int) (c : Nat) : Nat :=
  match src.val c with
  | .nan _ _ => dst.nan
  | v => encodeVal dst .ne scale v

/-- Loading a stored element into a register of `dst` (L32 or L64) (R147). -/
def loadElem (src dst : Fmt) (scale : Int) (rd : Rnd) (c : Nat) : Nat :=
  match src, dst with
  | .l32, .l64 => l32ToL64 c
  | .l64, .l32 => l64ToL32 rd c
  | .l32, _ | .l64, _ => c
  | s, d => widenShort s d scale c

/-- Conversion of a long code into a short format of scale σ (R72, R148). -/
def toShort (dst src : Fmt) (scale : Int) (c : Nat) : Nat := encodeVal dst .ne (-scale) (src.val c)

/-- Storing a register code of `src` (L32 or L64) into an element of `dst` (R148). -/
def storeElem (src dst : Fmt) (scale : Int) (rd : Rnd) (c : Nat) : Nat :=
  match src, dst with
  | .l32, .l64 => l32ToL64 c
  | .l64, .l32 => l64ToL32 rd c
  | .l32, .l32 => c
  | .l64, .l64 => c
  | s, d => toShort d s scale c

/-- The quieted form of a NaN code, `none` when the code is no NaN (R69). -/
def quietNan (f : Fmt) (c : Nat) : Option Nat :=
  match f.val c with
  | .nan neg pl => some (f.nanCode neg pl)
  | _ => none

/-- The first NaN operand, quieted (R69). -/
def firstNan (f : Fmt) : List Nat → Option Nat
  | [] => none
  | c :: r => match quietNan f c with | some x => some x | none => firstNan f r

/-- The exact sum of two finite values: sign, magnitude and exponent; sign of an exact zero by IEEE 754-2019. -/
def addFin (rd : Rnd) (s1 : Bool) (m1 : Nat) (e1 : Int) (s2 : Bool) (m2 : Nat) (e2 : Int) : Bool × Nat × Int :=
  let e := min e1 e2
  let a : Int := (if s1 then -1 else 1) * (m1 * 2 ^ (e1 - e).toNat : Nat)
  let b : Int := (if s2 then -1 else 1) * (m2 * 2 ^ (e2 - e).toNat : Nat)
  let t := a + b
  if t = 0 then
    (if m1 = 0 ∧ m2 = 0 then (if s1 = s2 then s1 else rd = .tn) else rd = .tn, 0, e)
  else (decide (t < 0), t.natAbs, e)

/-- IEEE 754-2019 fused multiply-add `a × b + c` (R146, R68, R69). -/
def fmaF (f : Fmt) (rd : Rnd) (a b c : Nat) : Nat :=
  match firstNan f [a, b, c] with
  | some x => x
  | none =>
    match f.val a, f.val b, f.val c with
    | .fin s1 m1 e1, .fin s2 m2 e2, .fin s3 m3 e3 =>
      let (s, m, e) := addFin rd (s1 != s2) (m1 * m2) (e1 + e2) s3 m3 e3
      if m = 0 then f.zero s else roundQ f rd s m 1 e
    | .fin _ _ _, .fin _ _ _, .inf s3 => f.overflow s3 .ne
    | va, vb, vc =>
      let zero : Val → Bool := fun v => match v with | .fin _ 0 _ => true | _ => false
      let sgn : Val → Bool := fun v => match v with | .nan s _ => s | .inf s => s | .fin s _ _ => s
      if zero va || zero vb then f.nan
      else
        let s := sgn va != sgn vb
        match vc with
        | .inf s3 => if s = s3 then f.overflow s .ne else f.nan
        | _ => f.overflow s .ne

/-- IEEE 754-2019 addition. -/
def addF (f : Fmt) (rd : Rnd) (a b : Nat) : Nat :=
  match firstNan f [a, b] with
  | some x => x
  | none =>
    match f.val a, f.val b with
    | .fin s1 m1 e1, .fin s2 m2 e2 =>
      let (s, m, e) := addFin rd s1 m1 e1 s2 m2 e2
      if m = 0 then f.zero s else roundQ f rd s m 1 e
    | .inf s1, .inf s2 => if s1 = s2 then f.overflow s1 .ne else f.nan
    | .inf s1, _ => f.overflow s1 .ne
    | _, .inf s2 => f.overflow s2 .ne
    | _, _ => f.nan

/-- The sign bit of a code flipped. -/
def flipSign (f : Fmt) (a : Nat) : Nat := a ^^^ 2 ^ (f.par.width - 1)

/-- IEEE 754-2019 subtraction; a NaN operand is returned with its own sign (R69). -/
def subF (f : Fmt) (rd : Rnd) (a b : Nat) : Nat :=
  match firstNan f [a, b] with
  | some x => x
  | none => addF f rd a (flipSign f b)

/-- IEEE 754-2019 multiplication. -/
def mulF (f : Fmt) (rd : Rnd) (a b : Nat) : Nat :=
  match firstNan f [a, b] with
  | some x => x
  | none =>
    match f.val a, f.val b with
    | .fin s1 m1 e1, .fin s2 m2 e2 => roundQ f rd (s1 != s2) (m1 * m2) 1 (e1 + e2)
    | .inf s1, .inf s2 => f.overflow (s1 != s2) .ne
    | .inf s1, .fin s2 m _ => if m = 0 then f.nan else f.overflow (s1 != s2) .ne
    | .fin s1 m _, .inf s2 => if m = 0 then f.nan else f.overflow (s1 != s2) .ne
    | _, _ => f.nan

/-- Comparison of two values, `none` when one is NaN; −0 equals +0. -/
def cmpF (f : Fmt) (a b : Nat) : Option Ordering :=
  match f.val a, f.val b with
  | .nan _ _, _ => none
  | _, .nan _ _ => none
  | .inf s1, .inf s2 => some (compare s2.toNat s1.toNat)
  | .inf s1, .fin _ _ _ => some (if s1 then .lt else .gt)
  | .fin _ _ _, .inf s2 => some (if s2 then .gt else .lt)
  | .fin s1 m1 e1, .fin s2 m2 e2 =>
    let e := min e1 e2
    let x : Int := (if s1 then -1 else 1) * (m1 * 2 ^ (e1 - e).toNat : Nat)
    let y : Int := (if s2 then -1 else 1) * (m2 * 2 ^ (e2 - e).toNat : Nat)
    some (compare x y)

/-- IEEE 754-2019 minimum (−0 below +0, NaN propagates). -/
def minF (f : Fmt) (a b : Nat) : Nat :=
  match firstNan f [a, b] with
  | some x => x
  | none => match cmpF f a b with
    | some .lt => a
    | some .gt => b
    | _ => if bitOf a (f.par.width - 1) then a else b

/-- IEEE 754-2019 maximum. -/
def maxF (f : Fmt) (a b : Nat) : Nat :=
  match firstNan f [a, b] with
  | some x => x
  | none => match cmpF f a b with
    | some .gt => a
    | some .lt => b
    | _ => if bitOf a (f.par.width - 1) then b else a

/-- IEEE 754-2019 division in L64 or L32 of two codes. -/
def divF (f : Fmt) (rd : Rnd) (a b : Nat) : Nat :=
  match firstNan f [a, b] with
  | some x => x
  | none =>
    match f.val a, f.val b with
    | .fin s1 m1 e1, .fin s2 m2 e2 =>
      if m2 = 0 then (if m1 = 0 then f.nan else f.overflow (s1 != s2) .ne)
      else roundQ f rd (s1 != s2) m1 m2 (e1 - e2)
    | .inf s1, .fin s2 _ _ => f.overflow (s1 != s2) .ne
    | .fin s1 _ _, .inf s2 => f.zero (s1 != s2)
    | _, _ => f.nan

/-- An unsigned integer as an L32 code (VIDX). -/
def natToL32 (n : Nat) : Nat := roundQ .l32 .ne false n 1 0

/-! The exact accumulator (R78 to R88). -/

/-- An accumulator cell: a 176-bit integer of weight 2^-80 and the NaN-seen bit (R78). -/
structure Cell where
  a : BitVec 176
  n : Bool
deriving DecidableEq, Repr

/-- A cleared cell (R82). -/
def Cell.zero : Cell := ⟨0, false⟩

/-- A short code as an integer in units of 2^-40 (S16) or 2^-10 (S8); `none` for the NaN code (R67). -/
def shortInt (f : Fmt) (c : Nat) : Option Int :=
  match f.val c with
  | .fin neg m e =>
    let u : Int := if f = .s8 then 10 else 40
    let k : Nat := m * 2 ^ (e + u).toNat
    some (if neg then -(k : Int) else k)
  | _ => none

/-- The product of two short codes added into a cell (R79, R80). -/
def Cell.mac (c : Cell) (f : Fmt) (x y : Nat) : Cell :=
  match shortInt f x, shortInt f y with
  | some i, some j =>
    let sh : Nat := if f = .s8 then 60 else 0
    { c with a := c.a + BitVec.ofInt 176 (i * j * 2 ^ sh) }
  | _, _ => { c with n := true }

/-- The drain of an exact integer `a` × 2^(e − 80) to S16, L32 or L64 (R83, R84). -/
def drainLong (c : Cell) (e : Int) (f : Fmt) (rd : Rnd) : Nat :=
  if c.n then f.nan
  else if c.a = 0 then 0
  else roundQ f rd c.a.msb c.a.toInt.natAbs 1 (e - 80)

/-- The drain to any format but EX, at the offset e of R83; S8 in two stages under RNE (R83, R85). -/
def drainCell (c : Cell) (e : Int) (f : Fmt) (rd : Rnd) : Nat :=
  match f with
  | .s8 => toShort .s8 .l32 0 (drainLong c e .l32 .ne)
  | g => drainLong c e g rd

/-- The XP22 form of a cell, 22 bytes as one number (R86). -/
def Cell.xp22 (c : Cell) : Nat := if c.n then 0x80 * 2 ^ 168 else c.a.toNat

/-- A cell from its XP22 form (R86, R87). -/
def Cell.ofXp22 (n : Nat) : Cell :=
  if n % 2 ^ 176 = 0x80 * 2 ^ 168 then ⟨0, true⟩ else ⟨BitVec.ofNat 176 n, false⟩

/-- Integer addition of two cells (R87). -/
def Cell.add (x y : Cell) : Cell := ⟨x.a + y.a, x.n || y.n⟩

/-- ⌊A × 2^(−d)⌋; N unchanged (R171, R182). -/
def Cell.shr (x : Cell) (d : Nat) : Cell := { x with a := BitVec.ofInt 176 (x.a.toInt / 2 ^ d) }

end Sys2Proof.Machine
end

