-- ==== Sys2Proof/Machine/State.lean ====
section
/-!
DEFINITION. The state of the block, as plain data.
Every register file, store and table is a sparse map in canonical form, so that equal states are equal data.
-/

namespace Sys2Proof.Machine

open Sys2Proof

/-- A completion token (R100). -/
inductive Tok where
  | free
  | pending
  | done (code : Half)
deriving DecidableEq, Repr

/-- Kinds of a statistic slot (R184). -/
inductive SlotKind where | empty | exact | wide | softmax
deriving DecidableEq, Repr

/-- A statistic slot (R184). `sum1`, `sum2` are exact integers; `s1`, `s2`, `c` are L64 codes of a wide slot. -/
structure Slot where
  kind : SlotKind
  n : Nat
  scale : Int
  nan : Bool
  noRef : Bool
  ref : Int
  shift : Nat
  sum1 : BitVec 176
  sum2 : BitVec 176
  s1 : Dword
  s2 : Dword
  c : Dword
deriving DecidableEq, Repr

/-- The EMPTY slot. -/
def Slot.zero : Slot := ⟨.empty, 0, 0, false, false, 0, 0, 0, 0, 0, 0, 0⟩

/-- What the control unit of a core is doing (R103, R104, R117, R118, R122). -/
inductive Ctl where
  /-- Stopped until the next epoch opens. -/
  | idle
  /-- Issuing. -/
  | run
  /-- Stalled on an instruction that has issued and waits. -/
  | held (op : HeldOp) (f : Fields)
  /-- EPOCH_END has been executed. -/
  | ended
  /-- Faulted under R122. -/
  | faulted
deriving DecidableEq, Repr

/-- Where an engine operation stands in its sweep (R142, R169, R170, R181). -/
inductive Stage where
  /-- Not in a sweep: array work, copy, gather, noise or special-function work. -/
  | work
  /-- The tile program of a VX operation. -/
  | vx
  /-- The prologue. -/
  | pro
  /-- The epilogue over the whole output. -/
  | epi
  /-- The first operation's epilogue on output block (i, j) of a chained pair. -/
  | feed (i j : Nat)
  /-- The second operation's epilogue on row block i of a chained pair. -/
  | out (i : Nat)
  /-- The epilogue of T1 tile number t of a planned operation. -/
  | plan (t : Nat)
deriving DecidableEq, Repr

/-- The T3 tiles of one operand and their relay (R213, R223, R224): tiles whose use has begun, tiles loaded, relay notes
taken, free notes taken, forward copies issued and acknowledged, free notes sent, and tiles that have had their last use. -/
structure Relay where
  begun : Nat
  loads : Nat
  got : Nat
  freed : Nat
  fwd : Nat
  acked : Nat
  rel : Nat
  used : Nat
deriving DecidableEq, Repr

/-- A relay that has not begun. -/
def Relay.zero : Relay := ⟨0, 0, 0, 0, 0, 0, 0, 0⟩

/-- The T2 tiles of one operand: tiles whose use has begun, and tiles filled (R209, R213). -/
structure Fills where
  begun : Nat
  filled : Nat
deriving DecidableEq, Repr

/-- A sector that the gather engine has requested ahead of demand (R292, R295): its element and its place in it, its physical
sector, its bytes, and whether it is still in flight and will be allocated in the read cache when it arrives. -/
structure Fill where
  elem : Nat
  part : Nat
  sector : Nat
  data : BitVec 256
  alloc : Bool
deriving DecidableEq, Repr

/-- One engine operation, from its issue to its completion (R99, R103). -/
structure EngOp where
  /-- Order of issue. -/
  seq : Nat
  tok : Nat
  /-- Descriptor, chain descriptor, plan and second pair, copied at issue. -/
  desc : Line
  chain : Line
  plan : List Byte
  desc2 : Line
  chain2 : Line
  /-- Whole extents, resolved at issue (R221). -/
  em : Nat
  en : Nat
  ek : Nat
  /-- Step and frame of a noise operation, at issue (R114). -/
  step : Nat
  frame : Nat
  started : Bool
  stage : Stage
  /-- Position in the sweep: tile, row of the tile, instruction. -/
  tile : Nat
  row : Nat
  ip : Nat
  /-- Every tile program of the operation has finished (R172). -/
  vdone : Bool
  /-- Every product of the operation is in its cells. -/
  summed : Bool
  /-- Accepted slices of A (R178). -/
  slices : List (Nat × Nat)
  /-- The spill of a chained pair's block (R181). -/
  spill : Sparse Cell
  /-- The tile programs as they stood at the check before the first row step: VX or prologue, epilogue, and the
  epilogue of the second operation of a pair (R144, R168). -/
  words : List (List Nat)
  /-- Position in a plan's walk, phase of that step, T2 tiles of A and B, drains, T3 tiles and relays, whether the walk
  waits for a note or an acknowledgement, the gathered window of a pooling operation, and the finished channels of
  unfinished Moss blocks (R212, R213, R216, R224, R242, R247). -/
  pos : Nat
  phase : Nat
  t2A : Fills
  t2B : Fills
  drains : Nat
  relA : Relay
  relB : Relay
  waits : Bool
  pool : Sparse Nat
  moss : Sparse Nat
  /-- Sectors that a gather operation has fetched for elements above its demand element (R292). -/
  ahead : List Fill
  /-- A copy whose requests have all been issued, and of a remote copy whether its writes are acknowledged, whether its note
  is queued, and whether the note has been injected (R287 to R290). -/
  sent : Bool
  acked : Bool
  noteQueued : Bool
  noted : Bool
  /-- The first error met (R100). -/
  err : Half
deriving DecidableEq, Repr

/-- HEAD and COUNT of a queue (R336). -/
structure Ring where
  head : Nat
  count : Nat
deriving DecidableEq, Repr

/-- Where an injected message stands (R339 to R341). -/
inductive MsgSt where
  | waiting
  | flying
  | accepted
  | bounced
  | dropped
  /-- Bounce registered, waiting to be resent. -/
  | held
deriving DecidableEq, Repr

/-- A route between two sites (R331). -/
inductive Route where
  /-- Along the row first, or along the column first. -/
  | xy
  | yx
  /-- A route record: two XY routes that meet at a waypoint site. -/
  | way (site : Nat)
deriving DecidableEq, Repr

/-- A queue message or note at its sending interface (R337), with the route of its injection (R331). -/
structure Msg where
  tussock : Nat
  dst : Nat
  queue : Nat
  site : Nat
  gen : Half
  path : Route
  kind : Nat
  source : Nat
  origin : Nat
  body : Line
  st : MsgSt
  /-- Generation of the issuer (R484), and the token or copy that completes at injection (R112, R115). -/
  igen : Half
  tok : Option Nat
  cp : Option Nat
deriving DecidableEq, Repr

/-- A remote copy on the mesh: its writes, then their acknowledgement (R223, R289). -/
structure RCopy where
  /-- The operation's order of issue, and for a relay copy its operand (`true` for B). -/
  seq : Nat
  relay : Option Bool
  igen : Half
  dst : Nat
  site : Nat
  gen : Half
  path : Route
  deep : Bool
  /-- The writes that have not reached the target, oldest first, and whether an earlier one was discarded. -/
  writes : List (Nat × List Byte)
  lost : Bool
  /-- `none` until the target has answered; then whether a write was discarded. -/
  answer : Option Bool
deriving DecidableEq, Repr

/-- A leaf translation: virtual 64 KiB page number, physical address and permissions (R320, R321). -/
structure Leaf where
  vpage : Nat
  pa : Nat
  /-- Base and size of the page the leaf maps. -/
  base : Nat
  size : Nat
  read : Bool
  write : Bool
  frozen : Bool
  noPrefetch : Bool
deriving DecidableEq, Repr

/-- A prefix-tree lookup place (R266). -/
inductive Lookup where
  | idle
  | pending (req : List Byte)
  | ready (res : List Byte)
deriving DecidableEq, Repr

/-- One logical core (R89 and the units of 03 to 13 and 15). -/
structure Core where
  g : Sparse Dword
  d : Sparse Line
  v : Sparse Line
  tok : Sparse Tok
  prog : Sparse Dword
  pc : Nat
  ctl : Ctl
  uncollected : Bool
  faulted : Bool
  lastError : Half
  faultPc : Nat
  scratch : Sparse Dword
  stepIndex : Half
  stepT : Word
  stepSigma : Word
  stepGuide : Word
  stepFlags : Word
  frameIndex : Word
  job : Nat
  gen : Half
  /-- Time of the core's own island since the core's last reset: MHz summed over Sexton cycles (R11, R507). -/
  phase : Nat
  near : Mem
  deep : Mem
  cells : Sparse Cell
  slots : Sparse Slot
  eng : Sparse (List EngOp)
  opSeq : Nat
  rings : Sparse Ring
  sendq : List Msg
  unacked : List Msg
  rcopies : List RCopy
  rcache : Sparse (List (Nat × BitVec 256))
  tlb : List Leaf
  lookup : Lookup
  stalls : Sparse (BitVec 48)
  stopped : Bool
  awaitAdmit : Bool
  progress : Bool
  lastReset : Option Nat
deriving DecidableEq, Repr

/-- A core that holds nothing. -/
def Core.zero : Core :=
  { g := [], d := [], v := [], tok := [], prog := [], pc := 0, ctl := .idle, uncollected := false, faulted := false,
    lastError := 0, faultPc := 0, scratch := [], stepIndex := 0, stepT := 0, stepSigma := 0, stepGuide := 0,
    stepFlags := 0, frameIndex := 0, job := 0, gen := 0, phase := 0, near := [], deep := [], cells := [],
    slots := [], eng := [], opSeq := 0, rings := [], sendq := [], unacked := [], rcopies := [], rcache := [],
    tlb := [], lookup := .idle, stalls := [], stopped := false, awaitAdmit := false, progress := false,
    lastReset := none }

/-- A look-aside entry of the context walker (R263): stream, block, the page's leaf and the stream's WRITE. -/
structure CtxEntry where
  stream : Nat
  block : Nat
  write : Bool
  leaf : Leaf
deriving DecidableEq, Repr

/-- One base tussock (R19). -/
structure Base where
  gated : Bool
  unavailable : Bool
  stage : Nat
  watchSuspended : Bool
  /-- Pointer entries: level, virtual prefix, table address (R324). -/
  ptrCache : List (Nat × Nat × Nat)
  leafCache : List Leaf
  /-- The directory copy (R263). -/
  ctxDir : Option (List Byte)
  ctxBuf : List CtxEntry
  lookupQ : List Nat
  testing : Bool
  thermal : Nat
  /-- Whether gated by AUTOGATE or held by a self-test (R362, R522). -/
  idleGate : Bool
deriving DecidableEq, Repr

/-- A base tussock that Sexton holds GATED (unassigned, 01). -/
def Base.zero : Base :=
  { gated := true, unavailable := false, stage := 0, watchSuspended := false, ptrCache := [], leafCache := [],
    ctxDir := none, ctxBuf := [], lookupQ := [], testing := false, thermal := 650, idleGate := false }

/-- A defined tussock (R22): its rectangle of base tussocks and its children. -/
structure Tussock where
  id : Nat
  i0 : Nat
  j0 : Nat
  h : Nat
  w : Nat
  kids : List Nat
deriving DecidableEq, Repr

/-- A region of package memory (R58). -/
structure Region where
  num : Nat
  base : Nat
  size : Nat
  keySlot : Nat
  grant : BitVec 64
deriving DecidableEq, Repr

/-- The content of a key slot (R57, R327, R461, R462): a random key by its serial number, or a loaded key. -/
inductive Key where
  | random (n : Nat)
  | loaded (k : Nat)
deriving DecidableEq, Repr

/-- Power states that a defined tussock reads (R29). -/
inductive PowerSt where | on | gated | mixed
deriving DecidableEq, Repr

/-- Meadow states (R348). -/
inductive MState where
  | absent | ready | opened | boundary | switching | stopped | failed
deriving DecidableEq, Repr

/-- Sequencer context states (12, Sequencer registers). -/
inductive SeqState where | idle | running | waiting | stopped
deriving DecidableEq, Repr

/-- The step registers an opening writes (R120, R271). -/
structure StepRegs where
  index : Half
  t : Word
  sigma : Word
  guide : Word
  flags : Word
  frame : Word
deriving DecidableEq, Repr

/-- All zero: an epoch the host opens (R350). -/
def StepRegs.zero : StepRegs := ⟨0, 0, 0, 0, 0, 0⟩

/-- A sequencer context (R271). -/
structure Seq where
  schedule : Nat
  steps : Nat
  hold : Bool
  first : Word
  limit : Word
  state : SeqState
  step : Nat
  frame : Word
  framesDone : Word
  code : Half
  /-- SCHEDULE and STEPS as they stood when START was accepted. -/
  runSchedule : Nat
  runSteps : Nat
  /-- The entry read for the step that runs or comes next, and the one after it (R273, R275). -/
  entry : Option (List Byte)
  ahead : Option (List Byte)
  program : Nat
  save : Nat
deriving DecidableEq, Repr

/-- A context after reset. -/
def Seq.zero : Seq :=
  { schedule := 0, steps := 0, hold := false, first := 0, limit := 0, state := .idle, step := 0, frame := 0,
    framesDone := 0, code := 0, runSchedule := 0, runSteps := 0, entry := none, ahead := none, program := 0, save := 0 }

/-- How far a job switch has come (R358, R360), with the save area and the program table that it uses (R363). -/
inductive SwitchPhase where
  | none
  | saving (next area : Nat)
  | loading (next : Nat) (back : MState) (table area : Nat)
deriving DecidableEq, Repr

/-- A taken collective: its ring index and descriptor, whether its TAG was in progress when it was taken, whether a member has
failed, whether it has been put to its members, and this device's own part once its data has gone to them (R374, R375, R379). -/
structure SwTaken where
  ix : Nat
  entry : List Byte
  dup : Bool
  lost : Bool
  begun : Bool
  own : Option (List Byte)
deriving DecidableEq, Repr

/-- A host copy descriptor in flight: its ring index, the BASE of the ring that it was started from, and whether that ring has
been enabled anew since (R396, R397). -/
structure HcFlight where
  ix : Nat
  base : Nat
  old : Bool
deriving DecidableEq, Repr

/-- One meadow (R33 and the per-meadow registers). -/
structure Meadow where
  /-- The MEADOW record in force: top-level tussock, port, function, key slot, JOBS, flags, ROOT, SEED. -/
  top : Nat
  port : Nat
  fn : Nat
  slot : Nat
  jobs : Nat
  confidential : Bool
  root : Nat
  seed : Nat
  prefixKey : Nat
  state : MState
  resident : Option Nat
  code : Half
  count : Dword
  storeLoss : Word
  nextJob : Nat
  slice : Nat
  switchReq : Bool
  sliceDone : Nat
  /-- An accepted opening that waits: opened by the host or by the sequencer (R350). -/
  openReq : Bool
  openedByHost : Bool
  /-- A STOP that arrived in BOUNDARY or SWITCHING (R361). -/
  stopDue : Bool
  stopWas : MState
  stopFail : Half
  drained : Bool
  switchPhase : SwitchPhase
  auto : Bool
  limit : Nat
  attempts : Nat
  wStage : Nat
  wBase : Nat
  rcode : Half
  fires : Word
  stallSel : BitVec 20
  frozenDrops : Word
  frozenLast : BitVec 52
  frozenBusy : Bool
  frozenMap : Sparse Bool
  bounces : Word
  discarded : Word
  swRing : Nat
  swSize : Nat
  swSeq : Nat
  swIdx : Nat
  swDone : BitVec 48
  /-- The collectives taken and not completed, in ring order, and the payloads received for them (R374, R375). -/
  swTaken : List SwTaken
  swGot : List (SwHead × List Byte)
  hcBase : Nat
  hcSize : Nat
  hcEnable : Bool
  hcTail : Word
  hcHead : Word
  /-- MDW_CICm_RINGn as written: ADDR, SIZE_LOG2 and ENABLE. -/
  cicRing : Sparse Nat
  cicDone : Sparse (BitVec 48)
  seqs : Sparse Seq
  jobHash : Sparse Nat
  /-- The next opening repeats the failed epoch (R275, R490); a replay that waits for the drain. -/
  replay : Bool
  replayDue : Bool
  regs : StepRegs
  /-- Ring indices of the host copy descriptors in flight, and of those completed that HEAD has not passed (R396). -/
  hcFlight : List HcFlight
  hcEnded : List Nat
  /-- Created by start-up and not yet READY: its ADMITs are unacknowledged (R349, R477). -/
  admitting : Bool
  /-- The route table of the meadow's interfaces: generation and physical column of a core, as ADMIT wrote them (R338, R342). -/
  routes : Sparse (Option (Half × Nat))
deriving DecidableEq, Repr

/-- An ABSENT meadow. -/
def Meadow.zero : Meadow :=
  { top := 0xFFFF, port := 0, fn := 0, slot := 0, jobs := 0, confidential := false, root := 0, seed := 0, prefixKey := 0,
    state := .absent, resident := none, code := 0, count := 0, storeLoss := 0, nextJob := 0, slice := 0,
    switchReq := false, sliceDone := 0, openReq := false, openedByHost := false, stopDue := false, stopWas := .absent,
    stopFail := 0, drained := false, switchPhase := .none, auto := true, limit := 4, attempts := 0, wStage := 0,
    wBase := 0, rcode := 0, fires := 0, stallSel := 0, frozenDrops := 0, frozenLast := 0, frozenBusy := false,
    frozenMap := [], bounces := 0, discarded := 0, swRing := 0, swSize := 4, swSeq := 0, swIdx := 0, swDone := 0,
    swTaken := [], swGot := [], hcBase := 0, hcSize := 4, hcEnable := false, hcTail := 0, hcHead := 0,
    cicRing := [], cicDone := [], seqs := [], jobHash := [], replay := false,
    replayDue := false, regs := StepRegs.zero, hcFlight := [], hcEnded := [], admitting := false, routes := [] }

/-- Stack conditions (14, Package memory registers). -/
inductive StackSt where | inService | retraining | failed
deriving DecidableEq, Repr

/-- One stack and its registers, with the channels that are in training and whether its refresh is doubled (R304 to R307). -/
structure Stack where
  st : StackSt
  training : List Nat
  spares : BitVec 8
  corrected : Word
  uncorrected : Word
  refresh2x : Bool
deriving DecidableEq, Repr

/-- A stack after reset. -/
def Stack.zero : Stack := ⟨.inService, [], 0, 0, 0, false⟩

/-- Whose acknowledgement waits for a write's delta: a core's operation, or a host port's BAR2 writes (R287, R391). -/
inductive DeltaOwner where | op (n seq : Nat) | port (p : Nat)
deriving DecidableEq, Repr

/-- A write's delta on its way to the parity controller (R316): the data sector, old xor new as stored, the writer that
waits for it, and whether the command that runs has left it. -/
structure Delta where
  sector : Nat
  change : BitVec 256
  owner : Option DeltaOwner
  own : Bool
deriving DecidableEq, Repr

/-- Package memory (14). What a stack stores of a 16-byte block is the ciphertext, under the key that `tags` names, of the
block in `bytes`; a sector's four check bytes follow from it, and `flips` and `pflips` hold by which symbols the stored
36 differ from that word, of a data sector and of a parity sector. Log entry 43. -/
structure Pkg where
  bytes : Mem
  tags : Sparse (Option Key)
  keys : Sparse Key
  flips : Sparse (BitVec 288)
  pflips : Sparse (BitVec 288)
  retired : List Nat
  retireLast : Nat
  retireDrops : Word
  dies : Sparse Stack
  /-- Parity deltas on their way, oldest first (R316). -/
  deltas : List Delta
  parity : Bool
  /-- Set while a command meets a request that has to wait at its controller (R306, R318); the command is then held. -/
  blocked : Bool
  /-- Set while a command meets a request of an isolated site, which the trunk does not accept (R342). -/
  barred : Bool
deriving DecidableEq, Repr

/-- Package memory with nothing written. -/
def Pkg.zero : Pkg :=
  { bytes := [], tags := [], keys := [], flips := [], pflips := [], retired := [], retireLast := 0, retireDrops := 0, dies := [],
    deltas := [], parity := false, blocked := false, barred := false }

/-- Ordering variants (R6, R7). -/
inductive Part where | m4l2 | m5l1 | m6
deriving DecidableEq, Repr

/-- Settings of a Swarm port (SWARM records). -/
structure SwCfg where
  enable : Bool
  maxRate : Nat
  spare : Bool
  fec : Nat
  minLanes : Nat
deriving DecidableEq, Repr

/-- The defaults of the SWARM payload. -/
def SwCfg.default : SwCfg := ⟨true, 0, true, 0, 1⟩

/-- Settings of the transport port (TRANSPORT record). -/
structure TrnCfg where
  lanes : Nat
  media : Nat
  meadow : Nat
  ring : Nat
  ipv4 : Nat
  mmpPort : Nat
  gvspPort : Nat
deriving DecidableEq, Repr

/-- The defaults of the TRANSPORT payload: the port is disabled. -/
def TrnCfg.default : TrnCfg := ⟨0, 2, 0, 0, 0, 0x2EC0, 0x2EC1⟩

/-- What the Qorf stream sets in the heath (02). A key that a table does not list has the record's default. -/
structure Heath where
  /-- Physical column of a moved core (R15, R16); `none` is the default map. -/
  coreMap : Sparse (Option Nat)
  failed : Sparse Bool
  isolated : Sparse Bool
  /-- Absent links, by (row, column, direction) coded as one number (R59). -/
  meshDown : Sparse Bool
  trunkDown : Sparse Bool
  tussocks : List Tussock
  /-- DEPTH and RING of a global queue (R60, R336). -/
  qdepth : Sparse (Option Nat)
  qring : Sparse (Option Nat)
  /-- FREQ_MHZ and voltage margin of an island, the trunk's too (ISLAND records). -/
  freq : Sparse Nat
  vmargin : Sparse Int
  trunkFreq : Sparse Nat
  trunkMargin : Sparse Int
  /-- Watch interval (default 30) and first stage of a base tussock (WATCH records). -/
  watchLog : Sparse Nat
  watchFirst : Sparse Nat
  autogate : Sparse Bool
  idleLog2 : Sparse Nat
  regions : List Region
  sw : Sparse SwCfg
  device : Nat
  trn : TrnCfg
  /-- The meadow that owns a Cicada pipe (CODEC records). -/
  codec : Sparse (Option Nat)
  /-- Package cap of the POWER record; `none` is the variant maximum. -/
  cap : Option Nat
deriving DecidableEq, Repr

/-- The heath before any stream. -/
def Heath.zero : Heath :=
  { coreMap := [], failed := [], isolated := [], meshDown := [], trunkDown := [], tussocks := [], qdepth := [],
    qring := [], freq := [], vmargin := [], trunkFreq := [], trunkMargin := [], watchLog := [], watchFirst := [],
    autogate := [], idleLog2 := [], regions := [], sw := [], device := 0, trn := TrnCfg.default, codec := [], cap := none }

/-- The hub's counters and its sending interface (15, 18, 23). -/
structure Hub where
  dropIsolated : Word
  dropGated : Word
  dropGeneration : Word
  lateDrops : Word
  sramCorrected : Word
  unacked : List Msg
  doorbells : List Msg
deriving DecidableEq, Repr

/-- The hub after reset. -/
def Hub.zero : Hub := ⟨0, 0, 0, 0, 0, [], []⟩

/-- TDI states (R401). -/
inductive Tdi where | unlocked | locked | run | error
deriving DecidableEq, Repr

/-- A function of a host port: control-page status, write status, TDI and MSI-X state (R394, R400, R401, R529). -/
structure HostFn where
  ctlTag : Half
  ctlCode : Half
  writeCode : Half
  writeOffset : BitVec 24
  tdi : Tdi
  /-- IDE keys are programmed for the function's stream, and the keys (R401, R463). -/
  ide : Bool
  ideKey : List Byte
  /-- Message address and data bytes of the vectors, at 16 times the vector's number. -/
  table : Mem
  /-- Vectors whose mask bit is clear. -/
  unmasked : Sparse Bool
  pend : Sparse Bool
  /-- How many powers of two the function's BAR2 is smaller than its default (R387). -/
  bar2Less : Nat
deriving DecidableEq, Repr

/-- A function after reset. -/
def HostFn.zero : HostFn := ⟨0, 0, 0, 0, .unlocked, false, [], [], [], [], 0⟩

/-- A control-page command in a port's queue: the value written, and the STOPs it still waits for (R393, R395). -/
structure CtlCmd where
  fn : Nat
  value : Dword
  begun : Bool
  left : Nat
deriving DecidableEq, Repr

/-- A host port (18, Port registers). -/
structure Port where
  rate : Nat
  width : Nat
  flit : Bool
  vc1 : Bool
  /-- PERST# is asserted. -/
  perst : Bool
  denied : Word
  deniedLast : BitVec 57
  uncorrected : Word
  doorbellDrops : Word
  ctlDrops : Word
  ctlQueue : List CtlCmd
  /-- The function whose ring a free host copy engine looks at first (R396). -/
  hcTurn : Nat
deriving DecidableEq, Repr

/-- A port with its link down. -/
def Port.zero : Port := ⟨0, 0, false, false, true, 0, 0, 0, 0, 0, [], 0⟩

/-- What Sexton does when a stem command completes. -/
inductive StemBy where
  /-- Sexton's own, with nothing waiting for it. -/
  | sexton
  | repair
  | bist (base : Nat)
  | startup
  | ctl (port : Nat)
  | mail (port : Nat)
deriving DecidableEq, Repr

/-- A stem command (R342): whether it has been applied, or its reset waits (R485). -/
structure StemCmd where
  op : Nat
  target : Nat
  arg : Nat
  by_ : StemBy
  waits : Bool
deriving DecidableEq, Repr

/-- Reset domains (R480). -/
inductive Domain where
  | core (n : Nat)
  | tussock (id : Nat)
  | meadow (m : Nat)
  | heath
  | warm
deriving DecidableEq, Repr

/-- A reset that waits (R485): its domain, the code its failure records, whether Sexton readmits its cores, and
whether it belongs to an unacknowledged stem command. -/
structure Due where
  dom : Domain
  code : Half
  readmit : Bool
  stem : Bool
deriving DecidableEq, Repr

/-- An entry of the JOURNAL (R453). -/
structure Guard where
  owner : List Byte
  steward : List Byte
  floor : Nat
  debug : Bool
  bist : Bool
deriving DecidableEq, Repr

/-- A used entry of the JOURNAL; one left without VALID by a power loss is skipped (R453). -/
structure JEntry where
  guard : Guard
  valid : Bool
deriving DecidableEq, Repr

/-- The level-2 tree of a cold start (R456): its name and the seed of its one-time keys, from the random number generator, its
public key, and the level-1 leaf's signature of that key. -/
structure IdTree where
  name : List Byte
  seed : List Byte
  key : List Byte
  signed : List Byte
deriving DecidableEq, Repr

/-- No entry (R453). -/
def Guard.zero : Guard := ⟨[], [], 0, false, true⟩

/-- A mailbox command in progress: OP, TAG, arguments and SXT_BOOT.STEP as they stood at SUBMIT. -/
structure MailJob where
  op : Nat
  tag : Half
  args : Sparse Dword
  step : Nat
deriving DecidableEq, Repr

/-- A mailbox (R446): its registers, the command in progress (BUSY), and its result before it is published. -/
structure Mailbox where
  op : Nat
  tag : Half
  args : Sparse Dword
  job : Option MailJob
  done : Bool
  code : Half
  rtag : Half
  result : Dword
  ready : Option (Half × Dword)
deriving DecidableEq, Repr

/-- A mailbox after reset. -/
def Mailbox.zero : Mailbox := ⟨0, 0, [], none, false, 0, 0, 0, none⟩

/-- Why a base tussock is repaired: a failure of R493, or a requested test that marks a site in use (R504). -/
inductive RepairWhy where | fault | test
deriving DecidableEq, Repr

/-- A repair that is due: its base tussock, why, and the routers whose links have failed (R493, Other failures). -/
structure RepairJob where
  base : Nat
  why : RepairWhy
  routers : List Nat
  trunk : Bool
deriving DecidableEq, Repr

/-- The repair in progress (R493). -/
structure Repair where
  phase : Nat
  base : Nat
  code : Half
  /-- ADMITs of step 6 not yet acknowledged. -/
  left : Nat
  why : RepairWhy
  routers : List Nat
  trunk : Bool
deriving DecidableEq, Repr

/-- No repair. -/
def Repair.zero : Repair := ⟨0, 0, 0, 0, .fault, [], false⟩

/-- Saved stores of a core (R493, R503). -/
structure Saved where
  near : Mem
  deep : Mem
deriving DecidableEq, Repr

/-- Sexton (21, 22, 23). -/
structure Sexton where
  /-- OTP (21, OTP map). LEAVES is the number of leaves used: the lowest clear bit is always the next. -/
  lcBits : Dword
  svn : Nat
  leaves : Nat
  journal : List JEntry
  deviceId : Nat
  secret : Bool
  /-- Gnoellia's public key, in the boot ROM (R454). -/
  romKey : List Byte
  cert : List Byte
  macBase : Nat
  /-- DEBUG_UNLOCK and FIELD_BIST taken from a stream in VENDOR_TEST (R453). -/
  vtFlags : Option (Bool × Bool)
  /-- SXT_BOOT and SXT_BOOT_TIME. -/
  bootStep : Nat
  waiting : Bool
  warm : Bool
  bootCode : Half
  bootTime : BitVec 48
  /-- PWR_GOOD is asserted. -/
  power : Bool
  stacksDone : Bool
  fwRunning : Bool
  fwHash : List Byte
  sigsLeft : Nat
  bootLeaf : Option Nat
  idTree : Option IdTree
  /-- First index of the free bytes of KEM_EK (R459). -/
  kem : Nat
  mail : Sparse Mailbox
  mailQueue : List Nat
  faultSel : Nat
  rimsFailed : BitVec 6
  repair : Repair
  repairQueue : List RepairJob
  saved : Sparse (Option Saved)
  stemWait : List StemCmd
  stemOut : List StemCmd
  delayed : List Due
  benched : Bool
  cause : Half
  warmTimes : List Nat
  devGen : Half
  lockstep : Bool
  /-- SPDM of a port: 0 nothing, 1 a PSK, 2 a session (R463). -/
  spdm : Sparse Nat
  /-- The SPDM PSK of a port (R463). -/
  psk : Sparse (List Byte)
  /-- COUNTER of the last KEY_LOAD accepted for a meadow since the cold start (R461). -/
  keyCounters : Sparse (Option Nat)
deriving DecidableEq, Repr

/-- The key that the boot ROM holds: DESIGN CHOICE, log entry 9. -/
def romKeyValue : List Byte :=
  (natToBytes 60 0x00000001000000060000000388638edf37838c3add0cc9a96d1401d563fc9cf596638e8f2c6cca80d809df1b1311140b7f84a698665eb534b91d254a).reverse

/-- The life-cycle bits of a part as delivered: PROVISIONED (R450). -/
def Sexton.zero : Sexton :=
  { lcBits := 0x3, svn := 0, leaves := 0, journal := [], deviceId := 0, secret := true, romKey := romKeyValue, cert := [], macBase := 0,
    vtFlags := none, bootStep := 3, waiting := false, warm := false, bootCode := 0, bootTime := 0,
    power := false, stacksDone := false, fwRunning := false,
    fwHash := [], sigsLeft := 0, bootLeaf := none, idTree := none, kem := 0, mail := [], mailQueue := [], faultSel := 0, rimsFailed := 0,
    repair := Repair.zero, repairQueue := [], saved := [], stemWait := [], stemOut := [], delayed := [],
    benched := false, cause := 0, warmTimes := [], devGen := 0, lockstep := false,
    spdm := [], psk := [], keyCounters := [] }

/-- The streams in force and the status of the last stream handled (02, Qorf stream registers; 21 R459). -/
structure Qorf where
  code : Half
  word : Nat
  serial : Word
  fullSerial : Word
  anyAccepted : Bool
  /-- TRAILER digest of the full stream in force, and H over the partial streams since. -/
  fullDigest : List Byte
  partials : List Byte
  /-- What Sexton's reserved area holds of streams: the last one copied, and those in force, oldest first (R40, R41, R308). -/
  copy : List Byte
  held : List (List Byte)
deriving DecidableEq, Repr

/-- No stream in force. -/
def Qorf.zero : Qorf := ⟨0, 0, 0, 0, false, [], [], [], []⟩

/-- Swarm port states (17, Swarm registers). -/
inductive SwState where | disabled | training | admitting | up | retraining | down
deriving DecidableEq, Repr

/-- A link frame that its sender keeps: its sequence number, its head and its payload, and whether it has been sent or only waits
at the rim (R369, R371). -/
structure SwOut where
  seq : Nat
  head : SwHead
  body : List Byte
  sent : Bool
deriving DecidableEq, Repr

/-- A Swarm port (R365 to R373). -/
structure SwLink where
  st : SwState
  rate : Nat
  lanes : Nat
  spareUsed : Bool
  fec : Nat
  peer : Nat
  code : Half
  retries : Word
  retrains : Word
  stale : Word
  /-- The link key that the two ends agreed (R368). -/
  key : List Byte
  /-- The lowest sequence number not received from the peer, those received above it, and that of the next frame sent. -/
  rxSeq : Nat
  rxSeen : List Nat
  txSeq : Nat
  /-- Frames not acknowledged, and control frames that wait at the rim (R371). -/
  unacked : List SwOut
  waiting : List SwCtl
  peerGen : Option Half
  /-- Frames in a row that failed (R370). -/
  failRun : Nat
  /-- The peer's distance vector: device and hops. -/
  hops : Sparse (Option Nat)
deriving DecidableEq, Repr

/-- A Swarm port after reset. -/
def SwLink.zero : SwLink := ⟨.disabled, 0, 0, false, 0, 0, 0, 0, 0, 0, [], 0, [], 0, [], [], none, 0, []⟩

/-- A mode of a HELLO (19, Mode entry). -/
structure TrnMode where
  pixel : Nat
  width : Nat
  height : Nat
  lineRate : Nat
  stop : Nat
  start : Nat
  packet : Nat
deriving DecidableEq, Repr

/-- An open ingest frame (R414 to R418): block, frame count, slot, packets registered, lines that lost bytes to a
dropped write, and the packet expected next. -/
structure TrnFrame where
  block : Nat
  count : Nat
  slot : Nat
  got : List Nat
  lost : List Nat
  next : Nat
deriving DecidableEq, Repr

/-- Session states (19, Transport registers). -/
inductive TrnState where | idle | accepted | running | pausing | paused | ended
deriving DecidableEq, Repr

/-- An MMP request waiting for its acknowledgement: number, message, and how often it has been sent (R410). -/
structure MmpReq where
  seq : Nat
  msg : List Byte
  sends : Nat
deriving DecidableEq, Repr

/-- The transport port (19). -/
structure Trn where
  /-- Lane states 0 to 3 and media. -/
  lanes : Sparse Nat
  media : Sparse Bool
  st : TrnState
  filmOut : Bool
  modeIx : Nat
  slots : Nat
  code : Half
  startFrame : Word
  noteCore : Nat
  noteQueue : Nat
  noteEn : Bool
  rxDrops : Word
  late : Word
  missing : Word
  overrun : Word
  void : Word
  uncorrected : Word
  noteDrops : Word
  session : Nat
  mode : TrnMode
  txSeq : Nat
  rxSeq : Nat
  reqs : List MmpReq
  pauseOut : Bool
  /-- RUN was written and waits for a published frame (R420). -/
  runDue : Bool
  hostCount : Nat
  portCount : Nat
  /-- Count of the next frame to open. -/
  nextCount : Nat
  frames : List TrnFrame
  /-- The blocks of this RUN that have finished, and those discarded whole (R416, R418). -/
  finished : List Nat
  discarded : List Nat
  /-- Highest line sequence registered since RUN (R417). -/
  hiLine : Option Nat
  /-- Film-out: the data path runs; the number and line being sent, whether the frame is a GAP frame, its VOID lines,
  the lines announced as VOID and not yet sent, and the bytes of the packet being filled. -/
  sending : Bool
  outFrame : Nat
  outLine : Nat
  outGap : Bool
  outVoid : Nat
  announced : Nat
  outBuf : List Byte
deriving DecidableEq, Repr

/-- The transport port after reset. -/
def Trn.zero : Trn :=
  { lanes := [], media := [], st := .idle, filmOut := false, modeIx := 0, slots := 0, code := 0, startFrame := 0,
    noteCore := 0, noteQueue := 0, noteEn := false, rxDrops := 0, late := 0, missing := 0, overrun := 0, void := 0,
    uncorrected := 0, noteDrops := 0, session := 0, mode := ⟨0, 0, 0, 0, 0, 0, 0⟩, txSeq := 0,
    rxSeq := 0, reqs := [], pauseOut := false, runDue := false, hostCount := 0, portCount := 0, nextCount := 0,
    frames := [], finished := [], discarded := [], hiLine := none, sending := false, outFrame := 0, outLine := 0,
    outGap := false, outVoid := 0, announced := 0, outBuf := [] }

/-- A job a pipe has taken (R432): its entry, the entry's address, its stream context and control block as read when it
was taken, and for an encode the attempts made and whether the fallback picture is due (R440). `retired` are the pages that a
read of this job has retired (R435); `bound` says that the decode time bound has been reached (R442). -/
structure CicJob where
  meadow : Nat
  entry : List Byte
  addr : Nat
  ctx : List Byte
  ctrl : List Byte
  memErr : Bool
  retired : List Nat
  attempts : Nat
  fallback : Bool
  bound : Bool
deriving DecidableEq, Repr

/-- A Cicada pipe (20), with the translations that its walker keeps until the next job starts (R425). -/
structure Pipe where
  owner : Option Nat
  seq : Word
  idx : Nat
  job : Option CicJob
  jobs : Word
  uncorrected : Word
  noteDrops : Word
  leaves : List Leaf
deriving DecidableEq, Repr

/-- A pipe after reset. -/
def Pipe.zero : Pipe := ⟨none, 1, 0, none, 0, 0, 0, []⟩

/-- A supply rail (25, Power registers), with the voltage in mV that an AVS rail is set to (R512, R515). -/
structure Rail where
  mv : Nat
  vout : Nat
  iout : Nat
  controlled : Bool
  fault : Bool
  code : Half
deriving DecidableEq, Repr

/-- A rail after reset. -/
def Rail.zero : Rail := ⟨800, 0, 0, false, false, 0⟩

/-- Power, clocks and thermal state (25). -/
structure Power where
  /-- The straps PWR_ADDR, read at power good (R517). -/
  strap : Nat
  rails : Sparse Rail
  /-- Package power of the last ten samples, newest first, in units of 0.1 mW. -/
  samples : List Nat
  cap : Nat
  target : Nat
  /-- Samples in a row below 97 % of the cap. -/
  below : Nat
  /-- Times the trunk's admission rate is halved (R520). -/
  halved : Nat
  tempSel : Nat
  temps : Sparse Int
  throttled : Sparse Bool
  /-- Rim targets in MHz and the halvings of a stack's admission (R524). -/
  rimTarget : Sparse Nat
  stackHalved : Sparse Nat
  throttleMs : Word
  stretch : Word
  /-- Islands whose oscillator is stretched, by island number (R509). -/
  stretched : Sparse Bool
  /-- The Sexton cycle of an island's last trim (R508). -/
  trimmed : Sparse (Option Nat)
  thermtrip : Bool
  alert : Bool
deriving DecidableEq, Repr

/-- Power after reset. -/
def Power.zero : Power :=
  { strap := 0, rails := [], samples := [], cap := 1200, target := 600, below := 0, halved := 0, tempSel := 0, temps := [],
    throttled := [], rimTarget := [], stackHalved := [], throttleMs := 0, stretch := 0, stretched := [], trimmed := [],
    thermtrip := false, alert := false }

/-- The last test of a partition (R497 to R499). -/
structure PartTest where
  tested : Bool
  logicFail : Bool
  memoryFail : Bool
  signature : Dword
deriving DecidableEq, Repr

/-- Why a slice is under test (R500). -/
inductive BistWhy where | startup | repair | request (preserve : Bool)
deriving DecidableEq, Repr

/-- A test that waits or runs: slice, reason, the parts that its request names, and whether it has begun (R498, R501). -/
structure BistJob where
  slice : Nat
  why : BistWhy
  logic : Bool
  memory : Bool
  full : Bool
  begun : Bool
deriving DecidableEq, Repr

/-- Self-test (24). -/
structure Bist where
  busy : Bool
  code : Half
  selSlice : Nat
  selPart : Nat
  parts : Sparse PartTest
  /-- The pseudo-random pattern generator of a slice (R497). -/
  prpg : Sparse Dword
  tests : List BistJob
  /-- ADMITs of returning slices not yet acknowledged. -/
  left : Nat
deriving DecidableEq, Repr

/-- Self-test after reset. -/
def Bist.zero : Bist := ⟨false, 0, 0, 0, [], [], [], 0⟩

/-- Output pins: THERMTRIP_L, and what EXTEST can drive besides (R526; 25, Signal groups). -/
inductive Pin where | thermtripL | pmbScl | pmbSda | avs0Clk | avs0Data | avs1Clk | avs1Data
deriving DecidableEq, Repr

/-- A PMBus command (R516). -/
inductive Pmbus where
  | page (n : Nat)
  | operation (v : Nat)
  | clearFaults
  | voutCommand (mv : Nat)
  | statusWord | readVout | readIout | readTemperature1
deriving DecidableEq, Repr

/-- An AVSBus frame for a rail select (R516). -/
inductive Avs where
  | setVolts (mv : Nat)
  | readVolts | readAmps
deriving DecidableEq, Repr

/-- What the block sends out. -/
inductive Output where
  /-- A memory write on a host port, and whether it travels on the function's IDE stream (R398). -/
  | hostWrite (port fn addr : Nat) (bytes : List Byte) (ide : Bool)
  /-- An MSI-X message. -/
  | msix (port fn vector : Nat)
  /-- A frame of a Swarm link: an acknowledgement, a negative one, data, or a route vector. -/
  | swAck (port seq : Nat)
  | swNack (port seq : Nat)
  | swData (port seq : Nat) (head : SwHead) (cipher tag : List Byte)
  | swVector (port : Nat) (hops : List (Nat × Nat))
  /-- This device's side of an admission: device number, generation and signed report (R368). -/
  | swHello (port device gen : Nat) (report : List Byte)
  /-- A frame of the control channel of a port (R373). -/
  | swControl (port : Nat) (c : SwCtl)
  /-- An ARP reply on a lane. -/
  | arp (lane ipv4 mac : Nat)
  /-- An MMP message. -/
  | mmp (msg : List Byte)
  /-- PACKETRESEND_CMD for packets of a block. -/
  | packetResend (block first last : Nat)
  /-- GVSP packets of film-out: leader, payload and trailer. -/
  | gvspLeader (block pixel width height : Nat)
  | gvspPayload (block id : Nat) (bytes : List Byte)
  | gvspTrailer (block id : Nat)
  /-- An SPDM or TDISP answer. -/
  | spdm (port fn : Nat) (bytes : List Byte)
  /-- A level of an output pin, and the JTAG data register shifted out. -/
  | pin (p : Pin) (level : Bool)
  | tdo (bits : Nat)
  /-- A PMBus transaction with the regulator at an address, and an AVSBus frame on an interface for a rail select (R516, R517). -/
  | pmbus (address : Nat) (c : Pmbus)
  | avs (bus select : Nat) (c : Avs)
  /-- The completion of a host read through a BAR. -/
  | hostData (port fn : Nat) (bytes : List Byte)
deriving DecidableEq, Repr

/-- The whole block. `held` are the commands whose requests wait at a stack controller, oldest first (R306, R318). -/
structure State where
  pending : List Instr
  held : List Instr
  free : Nat
  tick : Nat
  part : Part
  cores : Sparse Core
  bases : Sparse Base
  meadows : Sparse Meadow
  heath : Heath
  pkg : Pkg
  hub : Hub
  sxt : Sexton
  qorf : Qorf
  swarm : Sparse SwLink
  trn : Trn
  pipes : Sparse Pipe
  power : Power
  bist : Bist
  jtag : Jtag
  /-- The boundary-scan register, a bit for each land in the order of log entry 50 (R526). -/
  bscan : BitVec 17
  ports : Sparse Port
  fns : Sparse HostFn
  out : List Output
deriving DecidableEq, Repr

/-- The reasons the block stops. -/
inductive Fault where
  /-- Raised by POWER_SAMPLE: a fixed rail outside its tolerance while PWR_GOOD is asserted, which a board
  must not let happen and of which the manual gives no outcome (R514). Safe: the machine stops where hardware may go on. -/
  | railBreach
deriving DecidableEq, Repr

/-- The reasons a command has no meaning. -/
inductive Refusal where
  /-- Raised by Dispatch for a command without a meaning. Safe: the machine stops where hardware goes on. -/
  | notModelled (mnemonic : String)
deriving DecidableEq, Repr

/-- What a command answers. -/
abbrev Out := Host.Outcome State Fault Refusal

/-- The block right after reset. -/
def State.reset : State :=
  { pending := [], held := [], free := 0, tick := 0, part := .m4l2, cores := [], bases := [], meadows := [], heath := Heath.zero,
    pkg := Pkg.zero, hub := Hub.zero, sxt := Sexton.zero, qorf := Qorf.zero, swarm := [],
    trn := Trn.zero, pipes := [], power := Power.zero, bist := Bist.zero, jtag := .idcode, bscan := 0, ports := [], fns := [], out := [] }

end Sys2Proof.Machine
end

