-- ==== Sys2Proof/Machine/Flags.lean ====
section
/-!
DEFINITION. Status codes (R13 and the code table of each chapter) and the counters that record drops.
-/

namespace Sys2Proof.Machine.Code

def ok : Half := 0x0000
/-! Start-up (R479). -/
def bootLockstep : Half := 0x0001
def bootRefclk : Half := 0x0002
def bootOtp : Half := 0x0003
def bootHub : Half := 0x0004
/-! The Qorf stream (R64). -/
def qMagic : Half := 0x0101
def qVersion : Half := 0x0102
def qLength : Half := 0x0103
def qPart : Half := 0x0104
def qKind : Half := 0x0105
def qLifeCycle : Half := 0x0106
def qDigest : Half := 0x0107
def qSignature : Half := 0x0108
def qSerial : Half := 0x0109
def qRecordType : Half := 0x010A
def qRecordOrder : Half := 0x010B
def qRecordLength : Half := 0x010C
def qReserved : Half := 0x010D
def qFieldRange : Half := 0x010E
def qDuplicate : Half := 0x010F
def qCoremap : Half := 0x0110
def qTussock : Half := 0x0111
def qDepth : Half := 0x0112
def qRegion : Half := 0x0113
def qParity : Half := 0x0114
def qRoute : Half := 0x0115
def qQueue : Half := 0x0116
def qAbsent : Half := 0x0117
def qScope : Half := 0x0118
def qRunning : Half := 0x0119
def qBusy : Half := 0x011A
/-! Core issue (R123, R183). -/
def fmt : Half := 0x0201
def rd : Half := 0x0202
def scale : Half := 0x0203
def mixed : Half := 0x0204
def exScale : Half := 0x0205
def reserved : Half := 0x0206
def engine : Half := 0x0207
def tokenBusy : Half := 0x0208
def tokenFree : Half := 0x0209
def timeout : Half := 0x020A
def address : Half := 0x020B
def program : Half := 0x020C
def func : Half := 0x020D
def space : Half := 0x020E
def sendTarget : Half := 0x020F
def cpTarget : Half := 0x0210
def illegal : Half := 0x0211
def align : Half := 0x0212
def range : Half := 0x0213
def sysreg : Half := 0x0214
def pcRange : Half := 0x0215
def chainFmt : Half := 0x0216
def chainAcc : Half := 0x0217
def chainNext : Half := 0x0218
def chainTile : Half := 0x0219
/-! Tile and shape (R229, R249). -/
def tileK : Half := 0x0301
def tileBound : Half := 0x0302
def tileBoundRead : Half := 0x0303
def tileKind : Half := 0x0304
def tileOrder : Half := 0x0305
def tileExtent : Half := 0x0306
def tileAlign : Half := 0x0307
def tileAcc : Half := 0x0308
def tileNear : Half := 0x0309
def tileDeep : Half := 0x030A
def tileFlags : Half := 0x030B
def tileChain : Half := 0x030C
def tileRelay : Half := 0x030D
def tileMoss : Half := 0x030E
/-! Vector and functions (R165, R183, R208). -/
def vxIllegal : Half := 0x0401
def vxRegister : Half := 0x0402
def vxScratch : Half := 0x0403
def vxInput : Half := 0x0404
def vxMask : Half := 0x0405
def vxStats : Half := 0x0406
/-! Memory and translation (R329, R303, R270). -/
def xlate : Half := 0x0501
def readDenied : Half := 0x0502
def writeDenied : Half := 0x0503
def notGranted : Half := 0x0504
def uncorrectable : Half := 0x0505
def retired : Half := 0x0506
def frozen : Half := 0x0560
def cpDropped : Half := 0x0561
def ctxDirectory : Half := 0x0580
def ctxStream : Half := 0x0581
def ctxBlock : Half := 0x0582
def ctxWrite : Half := 0x0583
def ctxBusy : Half := 0x0584
def ctxPort : Half := 0x0585
def ctxSource : Half := 0x0586
/-! Mesh and stem (R347). -/
def stemTarget : Half := 0x0601
def stemNoAck : Half := 0x0602
/-! Meadows, epochs and sequencers (R364, R277). -/
def epochBusy : Half := 0x0701
def epochState : Half := 0x0702
def jobRange : Half := 0x0703
def jobSave : Half := 0x0704
def jobLoad : Half := 0x0705
def jobProgram : Half := 0x0706
def seqSetup : Half := 0x0740
def seqBusy : Half := 0x0741
def seqScheduleRead : Half := 0x0742
def seqEntry : Half := 0x0743
/-! Swarm (17). -/
def swTraining : Half := 0x0801
def swPeerIdentity : Half := 0x0802
def swDevice : Half := 0x0803
def swDescriptor : Half := 0x0804
def swMismatch : Half := 0x0805
def swUnreachable : Half := 0x0806
def swPeerFailed : Half := 0x0807
def swBusy : Half := 0x0808
/-! Host ports (R402). -/
def hostCommand : Half := 0x0901
def hostNotPermitted : Half := 0x0902
def hostNotTrusted : Half := 0x0903
def hostDescriptor : Half := 0x0904
def hostDma : Half := 0x0905
def hostLinkDown : Half := 0x0906
def hostRing : Half := 0x0907
/-! Transport port (19). -/
def trnFormat : Half := 0x0A01
def trnMode : Half := 0x0A02
def trnBusy : Half := 0x0A03
def trnPartnerLost : Half := 0x0A04
def trnNotPermitted : Half := 0x0A05
def trnState : Half := 0x0A06
/-! Cicada (20). -/
def cicDescriptor : Half := 0x0B01
def cicProfile : Half := 0x0B02
def cicLevel : Half := 0x0B03
def cicRate : Half := 0x0B04
def cicOutput : Half := 0x0B05
def cicPool : Half := 0x0B06
def cicStreamLimit : Half := 0x0B07
def cicNotOwner : Half := 0x0B08
def cicBusy : Half := 0x0B09
/-! Guard and security (R468). -/
def guardFormat : Half := 0x0C01
def guardSignature : Half := 0x0C02
def guardSerial : Half := 0x0C03
def guardLifeCycle : Half := 0x0C04
def guardDevice : Half := 0x0C05
def guardBusy : Half := 0x0C06
def guardOtp : Half := 0x0C07
def fwFormat : Half := 0x0C08
def fwSignature : Half := 0x0C09
def fwRollback : Half := 0x0C0A
def attSigs : Half := 0x0C0B
def attNoIdentity : Half := 0x0C0C
def keyFormat : Half := 0x0C0D
def keyState : Half := 0x0C0E
def keyCounter : Half := 0x0C0F
def keyUnwrap : Half := 0x0C10
def mboxBusy : Half := 0x0C11
def sxtOp : Half := 0x0C12
def sxtDma : Half := 0x0C13
def debugLocked : Half := 0x0C14
/-! Self-test (R505). -/
def bistLifeCycle : Half := 0x0E01
def bistMode : Half := 0x0E02
def bistBusy : Half := 0x0E03
def bistSave : Half := 0x0E04
/-! Power (25). -/
def pwrCapRange : Half := 0x0F01
def pwrRail : Half := 0x0F02
/-! Faults and recovery (23). -/
def watch : Half := 0x0D01
def coreSram : Half := 0x0D02
def memTimeout : Half := 0x0D03
def reset : Half := 0x0D04
def replayLimit : Half := 0x0D05
def noSpare : Half := 0x0D06
def notPermitted : Half := 0x0D07
def benched : Half := 0x0D08
def retireFull : Half := 0x0D09
def lockstep : Half := 0x0D0A

end Sys2Proof.Machine.Code
end

