-- ==== Sys2Proof/Machine/RefMath.lean ====
section
/-!
DEFINITION. Reference values of the ten functions, to some 300 bits, as exact rationals.
They serve the correctly rounded node values of Heather (R157) and the bounds of Gorse (R164).
A value that the true function reaches exactly at a dyadic argument is given exactly;
every other value is given with a relative error far below the distance to any rounding boundary (DEDUCED, log entry 11).
-/

namespace Sys2Proof.Machine

/-- A non-negative rational `n / d × 2^e`. -/
structure Q where
  n : Nat
  d : Nat
  e : Int
deriving DecidableEq, Repr

/-- Working precision in bits. -/
def refW : Nat := 320

/-- ⌊π × 2^320⌋. -/
def refPi : Nat := 0x3243f6a8885a308d313198a2e03707344a4093822299f31d0082efa98ec4e6c89452821e638d01377

/-- ⌊ln 2 × 2^320⌋. -/
def refLn2 : Nat := 0xb17217f7d1cf79abc9e3b39803f2f6af40f343267298b62d8a0d175b8baafa2be7b876206debac98

/-- Bit-by-bit integer square root, from bit `k - 1` down. -/
def isqrtGo (n : Nat) : Nat → Nat → Nat
  | 0, r => r
  | k + 1, r =>
    let t := r + 2 ^ k
    isqrtGo n k (if t * t ≤ n then t else r)

/-- ⌊√n⌋. -/
def isqrt (n : Nat) : Nat := isqrtGo n (Nat.log2 n / 2 + 1) 0

/-- Σ yⁿ / n! in fixed point, from term `k` on with current term `t`. -/
def expGo (y : Nat) : Nat → Nat → Nat → Nat → Nat
  | 0, _, _, acc => acc
  | fuel + 1, k, t, acc => expGo y fuel (k + 1) (t * y / 2 ^ refW / (k + 1)) (acc + t)

/-- e^(y / 2^W) × 2^W for 0 ≤ y < 2^W. -/
def expFix (y : Nat) : Nat := expGo y 90 0 (2 ^ refW) 0

/-- Σ z^(2k+1) / (2k+1) in fixed point. -/
def atanhGo (z2 : Nat) : Nat → Nat → Nat → Nat → Nat
  | 0, _, _, acc => acc
  | fuel + 1, k, t, acc => atanhGo z2 fuel (k + 2) (t * z2 / 2 ^ refW) (acc + t / k)

/-- Alternating Taylor series: `t` the current term, terms advance by `k (k + 1)`. -/
def trigGo (x2 : Nat) : Nat → Nat → Int → Int → Int
  | 0, _, _, acc => acc
  | fuel + 1, k, t, acc => trigGo x2 fuel (k + 2) (-(t * x2 / 2 ^ refW / (k * (k + 1) : Nat))) (acc + t)

/-- sin and cos of a fixed-point angle below π. -/
def sinFix (x : Nat) : Nat := (trigGo (x * x / 2 ^ refW) 70 2 (x : Int) 0).toNat
/-- The cosine of a fixed-point angle. -/
def cosFix (x : Nat) : Nat := (trigGo (x * x / 2 ^ refW) 70 1 (2 ^ refW : Int) 0).toNat

/-- erf series: term `t` is (−1)ⁿ r^(2n+1) / n!. -/
def erfGo (r2 : Nat) : Nat → Nat → Int → Int → Int
  | 0, _, _, acc => acc
  | fuel + 1, n, t, acc =>
    erfGo r2 fuel (n + 1) (-(t * r2 / 2 ^ refW / ((n + 1 : Nat) : Int))) (acc + t / ((2 * n + 1 : Nat) : Int))

/-- The fixed-point form ⌊m × 2^(e + W)⌋ of a dyadic number. -/
def fixOf (m : Nat) (e : Int) : Nat :=
  if 0 ≤ e + refW then m * 2 ^ (e + refW).toNat else m / 2 ^ (-(e + refW)).toNat

/-- Whether m × 2^e lies below 2^k. -/
def belowPow (m : Nat) (e : Int) (k : Int) : Bool := m = 0 || decide ((Nat.log2 m : Int) + e < k)

/-- 1 − 2^(−W), standing for a value below 1 by less than any format resolves. -/
def almostOne : Q := ⟨2 ^ refW - 1, 2 ^ refW, 0⟩

/-- 2^x for a signed dyadic x. -/
def refExp2 (neg : Bool) (m : Nat) (e : Int) : Q :=
  let x : Int := if neg then -(m : Int) else m
  if belowPow m e (-200) then (if m = 0 then ⟨1, 1, 0⟩ else if neg then almostOne else ⟨2 ^ refW + 1, 2 ^ refW, 0⟩)
  else
    let (n, f) : Int × Nat :=
      if 0 ≤ e then (x * 2 ^ e.toNat, 0)
      else
        let d : Int := 2 ^ (-e).toNat
        (x / d, ((x % d).toNat * 2 ^ refW) / 2 ^ (-e).toNat)
    ⟨expFix (f * refLn2 / 2 ^ refW), 2 ^ refW, n⟩

/-- e^(−r) for a positive dyadic r below 2^20. -/
def refExpNeg (m : Nat) (e : Int) : Q :=
  let y := fixOf m e * 2 ^ refW / refLn2
  let n := y / 2 ^ refW + 1
  let f := n * 2 ^ refW - y
  ⟨expFix (f * refLn2 / 2 ^ refW), 2 ^ refW, -(n : Int)⟩

/-- log₂ of a positive dyadic number: sign and magnitude. -/
def refLog2 (m : Nat) (e : Int) : Bool × Q :=
  let k := Nat.log2 m
  let z := (m - 2 ^ k) * 2 ^ refW / (m + 2 ^ k)
  let at2 := 2 * atanhGo (z * z / 2 ^ refW) 110 1 z 0
  let v : Int := (e + k) * 2 ^ refW + (at2 * 2 ^ refW / refLn2 : Nat)
  (decide (v < 0), ⟨v.natAbs, 2 ^ refW, 0⟩)

/-- 1 / (m × 2^e). -/
def refRecip (m : Nat) (e : Int) : Q := ⟨1, m, -e⟩

/-- √(m × 2^e). -/
def refSqrt (m : Nat) (e : Int) : Q :=
  let (m, e) := if e % 2 = 0 then (m, e) else (2 * m, e - 1)
  ⟨isqrt (m * 2 ^ (2 * refW)), 1, e / 2 - refW⟩

/-- 1 / √(m × 2^e). -/
def refRsqrt (m : Nat) (e : Int) : Q :=
  let (m, e) := if e % 2 = 0 then (m, e) else (2 * m, e - 1)
  let l := Nat.log2 m + 1
  ⟨isqrt (2 ^ (2 * (refW + l)) / m), 1, -(e / 2) - refW - l⟩

/-- sin(πz) for 0 < z ≤ 1/2. -/
def refSin (m : Nat) (e : Int) : Q :=
  if belowPow m e (-110) then ⟨refPi * m * 2 ^ 200 - 1, 2 ^ (refW + 200), e⟩
  else ⟨sinFix (refPi * fixOf m e / 2 ^ refW), 2 ^ refW, 0⟩

/-- cos(πz) for 0 ≤ z ≤ 1/2. -/
def refCos (m : Nat) (e : Int) : Q :=
  if m = 0 then ⟨1, 1, 0⟩
  else if belowPow m e (-110) then almostOne
  else ⟨cosFix (refPi * fixOf m e / 2 ^ refW), 2 ^ refW, 0⟩

/-- Addition of a rational to 1, and its difference from 1. -/
def Q.onePlus (q : Q) : Nat × Nat := let (a, b) := scaleQ q.n q.d q.e; (b + a, b)

/-- tanh r for r > 0. -/
def refTanh (m : Nat) (e : Int) : Q :=
  if belowPow m e (-110) then ⟨m * 2 ^ 200 - 1, 2 ^ 200, e⟩
  else if !belowPow m e 9 then almostOne
  else
    let q := refExpNeg (2 * m) e
    let (a, b) := scaleQ q.n q.d q.e
    ⟨b - a, b + a, 0⟩

/-- logistic(r) for r > 0. -/
def refLogP (m : Nat) (e : Int) : Q :=
  if belowPow m e (-200) then ⟨2 ^ refW + 1, 2 ^ (refW + 1), 0⟩
  else if !belowPow m e 10 then almostOne
  else
    let q := refExpNeg m e
    let (a, b) := scaleQ q.n q.d q.e
    ⟨b, b + a, 0⟩

/-- logistic(−r) for r > 0. From 2^15 up it lies below every code of every format and scale, as its stand-in does. -/
def refLogN (m : Nat) (e : Int) : Q :=
  if belowPow m e (-200) then ⟨2 ^ refW - 1, 2 ^ (refW + 1), 0⟩
  else if !belowPow m e 15 then ⟨1, 1, -100000⟩
  else
    let q := refExpNeg m e
    let (a, b) := scaleQ q.n q.d q.e
    ⟨a, b + a, 0⟩

/-- erf r for r > 0. -/
def refErf (m : Nat) (e : Int) : Q :=
  let twoOverRootPi := isqrt (2 ^ (3 * refW + 2) / refPi)
  if belowPow m e (-110) then ⟨twoOverRootPi * m * 2 ^ 200 - 1, 2 ^ (refW + 200), e⟩
  else if !belowPow m e 3 then almostOne
  else
    let r := fixOf m e
    let s := (erfGo (r * r / 2 ^ refW) 420 0 (r : Int) 0).toNat
    ⟨twoOverRootPi * s / 2 ^ refW, 2 ^ refW, 0⟩

end Sys2Proof.Machine
end

