-- ==== Sys2Proof/Machine/Heather.lean ====
section
/-!
DEFINITION. The special functions: Heather by its exact construction (06 R155 to R163), Gorse by its bounds (R164),
and the probabilities of the soft maximum (08 R199).
-/

namespace Sys2Proof.Machine

/-- The functions, coded as the SF descriptor's FUNC. -/
inductive Fn where
  | exp2 | log2 | recip | rsqrt | sqrt | sinPi | cosPi | tanh | logistic | erf
deriving DecidableEq, Repr

/-- FUNC codes (04, SF descriptor). -/
def fnOf : Nat → Option Fn
  | 0 => some .exp2 | 1 => some .log2 | 2 => some .recip | 3 => some .rsqrt | 4 => some .sqrt
  | 5 => some .sinPi | 6 => some .cosPi | 7 => some .tanh | 8 => some .logistic | 9 => some .erf | _ => none

/-- The code of a function. -/
def Fn.code : Fn → Nat
  | .exp2 => 0 | .log2 => 1 | .recip => 2 | .rsqrt => 3 | .sqrt => 4
  | .sinPi => 5 | .cosPi => 6 | .tanh => 7 | .logistic => 8 | .erf => 9

/-- The Heather tables (R161). -/
inductive Tab where
  | exp2 | log2 | recip | rsqrt | sqrt | s | c | tanh | p | n | erf
deriving DecidableEq, Repr

/-- First and last binade of a table (R161). -/
def Tab.range : Tab → Int × Int
  | .exp2 | .log2 | .recip => (0, 0)
  | .rsqrt | .sqrt => (0, 1)
  | .s | .c => (-14, -3)
  | .tanh => (-12, 3)
  | .p => (-12, 4)
  | .n => (-12, 6)
  | .erf => (-12, 1)

/-- The table's function at a dyadic argument (R161). -/
def Tab.at (t : Tab) (m : Nat) (e : Int) : Q :=
  match t with
  | .exp2 =>
    let (a, b) := scaleQ m 1 e
    refExp2 false (a - b) (-(Nat.log2 b : Int))
  | .log2 => (refLog2 m e).2
  | .recip => refRecip m e
  | .rsqrt => refRsqrt m e
  | .sqrt => refSqrt m e
  | .s => refSin m e
  | .c => refCos m e
  | .tanh => refTanh m e
  | .p => refLogP m e
  | .n => refLogN m e
  | .erf => refErf m e

/-- A segment's output exponent and node values (R157). -/
structure Seg where
  w : Int
  y0 : Nat
  ym : Nat
  y1 : Nat
deriving DecidableEq, Repr

/-- The nodes of segment `j` of binade `k` (R157). -/
def segNodes (t : Tab) (k : Int) (j : Nat) : Seg :=
  let a := t.at (64 + j) (k - 6)
  let b := t.at (129 + 2 * j) (k - 7)
  let c := t.at (65 + j) (k - 6)
  let fl : Q → Option Int := fun q => if q.n = 0 then none else some (floorLog q.n q.d q.e)
  let w : Int := match fl a, fl c with
    | some x, some y => max x y
    | some x, none => x
    | none, some y => y
    | none, none => 0
  let node : Q → Nat := fun q => let (n, d) := scaleQ q.n q.d (q.e + 28 - w); roundDiv .ne false n d
  ⟨w, node a, node b, node c⟩

/-- The smallest shift that brings a coefficient into a signed range, and the coefficient (R158). -/
def segShift (bits : Nat) (v : Int) : Nat → Nat → Nat × Int
  | 0, s => (s, 0)
  | fuel + 1, s =>
    let m := roundDiv .ne false v.natAbs (2 ^ s)
    let c : Int := if v < 0 then -(m : Int) else m
    if -(2 ^ bits : Int) ≤ c ∧ c < 2 ^ bits then (s, c) else segShift bits v fuel (s + 1)

/-- ⌊v × 2^(−n)⌋; a negative `n` shifts left (R160). -/
def asr (v n : Int) : Int := if 0 ≤ n then v / 2 ^ n.toNat else v * 2 ^ (-n).toNat

/-- The clamp bound of a segment, in units of 2^(w − 36) (R159). -/
def segBound (t : Tab) (k : Int) (j : Nat) (s : Seg) : Int :=
  let next : Option (Int × Nat) :=
    if j < 63 then some (k, j + 1) else if k < t.range.2 then some (k + 1, 0) else none
  match next with
  | none => s.y1 * 2 ^ 8
  | some (k', j') =>
    let q := segNodes t k' j'
    let (n, d) := scaleQ q.y0 1 (q.w - s.w + 8)
    if s.y0 ≤ s.y1 then (n / d : Nat) else ((n + d - 1) / d : Nat)

/-- The internal value of a reduced argument in a table, as an integer times a power of two (R156, R160). -/
def heatherSegment (t : Tab) (m : Nat) (e : Int) : Int × Int :=
  let l := Nat.log2 m
  let k : Int := e + l
  let u := (m - 2 ^ l) * 2 ^ 30 / 2 ^ l
  let j := u / 2 ^ 24
  let tt : Int := (u % 2 ^ 24 : Nat)
  let s := segNodes t k j
  let c2 : Int := 2 * ((s.y0 : Int) - 2 * s.ym + s.y1)
  let c1 : Int := -3 * (s.y0 : Int) + 4 * s.ym - s.y1
  let (s1, d1) := segShift 23 c1 64 0
  let (s2, d2) := segShift 17 c2 64 0
  let a1 := d1 * 2 ^ (s1 + 8) + asr (d2 * tt) (16 - s2)
  let a0 := (s.y0 : Int) * 2 ^ 8 + asr (a1 * tt) 24
  let b := segBound t k j s
  (if s.y0 ≤ s.y1 then min a0 b else max a0 b, s.w - 36)

/-- A signed integer times a power of two as a value. -/
def valOfInt (i e : Int) : Val := .fin (decide (i < 0)) i.natAbs e

/-- The tiny rule: an exact dyadic value clamped against the table's first segment (R161). -/
def tinyClamp (t : Tab) (n : Nat) (e : Int) : Int × Int :=
  let s := segNodes t t.range.1 0
  let b : Int := s.w - 28
  let lo := min e b
  let x : Int := (n * 2 ^ (e - lo).toNat : Nat)
  let y : Int := (s.y0 * 2 ^ (b - lo).toNat : Nat)
  (if s.y0 ≤ s.y1 then min x y else max x y, lo)

/-- π to 30 significant bits (R161). -/
def piThirty : Nat := roundDiv .ne false refPi (2 ^ (refW - 28))
/-- 2/√π to 30 significant bits (R161). -/
def epsThirty : Nat := roundDiv .ne false (isqrt (2 ^ (3 * refW + 2) / refPi)) (2 ^ (refW - 29))

/-- The fold of R162 on an exact dyadic argument: sign, table S?, and z as numerator over 2^s. -/
def foldPi (neg : Bool) (m : Nat) (e : Int) (cos : Bool) : Bool × Bool × Nat × Nat :=
  let s := if 0 ≤ e then 1 else (-e).toNat + 1
  let x : Int := (if neg then -1 else 1) * ((m * 2 ^ (e + s).toNat : Nat) : Int)
  let one : Nat := 2 ^ s
  let r := (x % (2 * one : Nat)).toNat
  let (r, sg) := if one ≤ r then (r - one, true) else (r, false)
  let (r, sg) := if one < 2 * r then (one - r, if cos then !sg else sg) else (r, sg)
  let own := decide (4 * r ≤ one)
  let z := if own then r else one / 2 - r
  (sg, own != cos, z, s)

/-- Special inputs and domains (R155), before the final rounding. -/
def sfSpecial (f : Fn) : Val → Option Val
  | .nan _ _ => some (.nan false 0)
  | .inf s =>
    match f with
    | .exp2 => some (if s then .fin false 0 0 else .inf false)
    | .log2 | .sqrt => some (if s then .nan false 0 else .inf false)
    | .recip => some (.fin s 0 0)
    | .rsqrt => some (if s then .nan false 0 else .fin false 0 0)
    | .sinPi | .cosPi => some (.nan false 0)
    | .tanh | .erf => some (.fin s 1 0)
    | .logistic => some (if s then .fin false 0 0 else .fin false 1 0)
  | .fin s m e =>
    if m = 0 then
      match f with
      | .exp2 | .cosPi => some (.fin false 1 0)
      | .log2 => some (.inf true)
      | .recip | .rsqrt => some (.inf s)
      | .sqrt | .sinPi | .tanh | .erf => some (.fin s 0 0)
      | .logistic => some (.fin false 1 (-1))
    else
      match f with
      | .log2 =>
        if s then some (.nan false 0)
        else if m = 2 ^ Nat.log2 m ∧ e + Nat.log2 m = 0 then some (.fin false 0 0) else none
      | .rsqrt | .sqrt => if s then some (.nan false 0) else none
      | .sinPi =>
        let (n, d) := scaleQ m 1 e
        if n % d = 0 then some (.fin s 0 0) else none
      | .cosPi =>
        let (n, d) := scaleQ m 1 (e + 1)
        if n % d = 0 ∧ n / d % 2 = 1 then some (.fin false 0 0) else none
      | _ => none

/-- Heather on a finite non-special argument ±m × 2^e (R161, R162). -/
def heatherFin (f : Fn) (neg : Bool) (m : Nat) (e : Int) : Val :=
  let l := Nat.log2 m
  let k : Int := e + l
  let withSign : Int × Int → Val := fun y => valOfInt (if neg then -y.1 else y.1) y.2
  match f with
  | .exp2 =>
    let (a, d) := scaleQ m 1 e
    let x : Int := if neg then -(a : Int) else a
    if 1024 * (d : Int) ≤ x then .inf false
    else if x < -1100 * (d : Int) then .fin false 0 0
    else
      let n := x / d
      let r := d + (x % d).toNat
      let y := heatherSegment .exp2 r (-(Nat.log2 d : Int))
      valOfInt y.1 (y.2 + n)
  | .log2 =>
    let y := heatherSegment .log2 m (-(l : Int))
    valOfInt (k * 2 ^ (-y.2).toNat + y.1) y.2
  | .recip =>
    let y := heatherSegment .recip m (-(l : Int))
    withSign (y.1, y.2 - k)
  | .rsqrt =>
    let odd := k % 2 ≠ 0
    let y := heatherSegment .rsqrt m (if odd then 1 - (l : Int) else -(l : Int))
    valOfInt y.1 (y.2 - (if odd then k - 1 else k) / 2)
  | .sqrt =>
    let odd := k % 2 ≠ 0
    let y := heatherSegment .sqrt m (if odd then 1 - (l : Int) else -(l : Int))
    valOfInt y.1 (y.2 + (if odd then k - 1 else k) / 2)
  | .sinPi | .cosPi =>
    let (sg, isS, z, s) := foldPi neg m e (f = .cosPi)
    let t : Tab := if isS then .s else .c
    let y : Int × Int :=
      if 4 * z = 2 ^ s then let q := segNodes t (-3) 63; (q.y1, q.w - 28)
      else if z * 2 ^ 14 < 2 ^ s then
        (if isS then tinyClamp .s (piThirty * z) (-28 - s) else tinyClamp .c 1 0)
      else heatherSegment t z (-(s : Int))
    valOfInt (if sg then -y.1 else y.1) y.2
  | .tanh =>
    if 4 ≤ k then .fin neg 1 0
    else if k < -12 then withSign (tinyClamp .tanh m e)
    else withSign (heatherSegment .tanh m e)
  | .logistic =>
    if neg then
      if 7 ≤ k then .fin false 0 0
      else if k < -12 then
        (let s : Nat := (2 - e).toNat
         let y := tinyClamp .n (2 ^ (s - 1) - m * 2 ^ (e - 2 + s).toNat) (-(s : Int))
         valOfInt y.1 y.2)
      else let y := heatherSegment .n m e; valOfInt y.1 y.2
    else
      if 5 ≤ k then .fin false 1 0
      else if k < -12 then
        (let s : Nat := (2 - e).toNat
         let y := tinyClamp .p (2 ^ (s - 1) + m * 2 ^ (e - 2 + s).toNat) (-(s : Int))
         valOfInt y.1 y.2)
      else let y := heatherSegment .p m e; valOfInt y.1 y.2
  | .erf =>
    if 2 ≤ k then .fin neg 1 0
    else if k < -12 then withSign (tinyClamp .erf (epsThirty * m) (e - 29))
    else withSign (heatherSegment .erf m e)

/-- The true value of a function at a finite non-special argument: sign and magnitude.
From 2^17 up, 2^x lies beyond every code of every format and scale (a scale is at most 32,768), as its stand-in does. -/
def refFin (f : Fn) (neg : Bool) (m : Nat) (e : Int) : Bool × Q :=
  match f with
  | .exp2 =>
    if belowPow m e 17 then (false, refExp2 neg m e)
    else (false, if neg then ⟨1, 1, -200000⟩ else ⟨1, 1, 200000⟩)
  | .log2 => refLog2 m e
  | .recip => (neg, refRecip m e)
  | .rsqrt => (false, refRsqrt m e)
  | .sqrt => (false, refSqrt m e)
  | .sinPi | .cosPi =>
    let (sg, isS, z, s) := foldPi neg m e (f = .cosPi)
    (sg, if isS then refSin z (-(s : Int)) else refCos z (-(s : Int)))
  | .tanh => (neg, refTanh m e)
  | .logistic => (false, if neg then refLogN m e else refLogP m e)
  | .erf => (neg, refErf m e)

/-- A neighbour of a finite code, one place up (`up`) or down, in the order of values. -/
def nextCode (f : Fmt) (up : Bool) (c : Nat) : Nat :=
  let s := 2 ^ (f.par.width - 1)
  if c % s = 0 then (if up then 1 else s + 1)
  else if (decide (s ≤ c)) = up then c - 1 else c + 1

/-- A Gorse result: correctly rounded where R164 says so, else one of the results within one ulp.
An infinity lies within no ulp of a finite value, so it is given exactly where the rounding of R154 overflows (R84). -/
def gorseFin (f : Fn) (out : Fmt) (scale : Int) (arg : Nat) (neg : Bool) (m : Nat) (e : Int) : Nat :=
  let (sg, q) := refFin f neg m e
  match out with
  | .s8 | .s16 => roundQ out .ne sg q.n q.d (q.e - scale)
  | _ =>
    if f = .recip ∨ f = .sqrt then roundQ out .ne sg q.n q.d q.e
    else
      let lo := roundQ out .tn sg q.n q.d q.e
      let hi := roundQ out .tp sg q.n q.d q.e
      let near := roundQ out .ne sg q.n q.d q.e
      let pick := (Config.gorsePick f.code out.size arg).toNat
      let inf : Nat → Bool := fun c => match out.val c with | .inf _ => true | _ => false
      let ans :=
        if lo = hi then
          (match pick with | 0 => lo | 1 => lo | 2 => nextCode out false lo | _ => nextCode out true lo)
        else if pick % 2 = 0 then lo else hi
      if inf near || inf ans then near else ans

/-- A function of an argument code in its working format, rounded to the output format (R154, R155, R161, R164). The special inputs
of R155 are those of the argument in its working format, so of an L64 argument after its rounding to L32. DEDUCED, log
entry 66. -/
def sfEval (gorse : Bool) (f : Fn) (work out : Fmt) (scale : Int) (arg : Nat) : Nat :=
  match quietNan work arg with
  | some x =>
    match work, out with
    | .l32, .l64 => l32ToL64 x
    | .l64, .l32 => l64ToL32 .ne x
    | _, o => if o.long then x else o.nan
  | none =>
    if gorse then
      match sfSpecial f (work.val arg), work.val arg with
      | some v, _ => encodeVal out .ne (-scale) v
      | none, .fin neg m e => gorseFin f out scale arg neg m e
      | none, _ => out.nan
    else
      let a := if work = .l64 then l64ToL32 .ne arg else arg
      match sfSpecial f (Fmt.l32.val a), Fmt.l32.val a with
      | some v, _ => encodeVal out .ne (-scale) v
      | none, .fin neg m e => encodeVal out .ne (-scale) (heatherFin f neg m e)
      | none, _ => out.nan

/-- A Heather function of an L32 code with an L32 result (R281). -/
def heather32 (f : Fn) (a : Nat) : Nat := sfEval false f .l32 .l32 0 a

/-! The soft maximum's probability (R199). -/

/-- Whether a score gives NaN: NaN, +∞ or magnitude at least 2^30 (R199). -/
def scoreBad (t : Nat) : Bool :=
  match Fmt.l32.val t with
  | .nan _ _ => true
  | .inf s => !s
  | .fin _ m e => !belowPow m e 30

/-- ⌊t⌋ and ⌈t⌉ of a finite L32 score. -/
def scoreFloor (t : Nat) : Int :=
  match Fmt.l32.val t with
  | .fin s m e => let (n, d) := scaleQ m 1 e; (if s then -(n : Int) else n) / d
  | _ => 0

/-- ⌈t⌉ of a finite L32 score. -/
def scoreCeil (t : Nat) : Int :=
  match Fmt.l32.val t with
  | .fin s m e => let (n, d) := scaleQ m 1 e; -((if s then (n : Int) else -(n : Int)) / d)
  | _ => 0

/-- P(t, k) as an S16 code (R199). -/
def probCode (gorse : Bool) (t : Nat) (k : Int) : Nat :=
  if scoreBad t then 0x8000
  else match Fmt.l32.val t with
  | .fin s m e =>
    let (a, d) := scaleQ m 1 e
    let x : Int := if s then -(a : Int) else a
    let n := x / d - k
    if gorse then
      let q := refExp2 false (x % d).toNat (-(Nat.log2 d : Int))
      roundQ .s16 .ne false q.n q.d (q.e + n)
    else
      let y := heatherSegment .exp2 (d + (x % d).toNat) (-(Nat.log2 d : Int))
      encodeVal .s16 .ne 0 (valOfInt y.1 (y.2 + n))
  | _ => 0

end Sys2Proof.Machine
end

