-- ==== Sys2Proof/Machine/Ladybird.lean ====
section
/-!
DEFINITION. The Ladybird noise generator (12 R278 to R281) and SipHash-2-4 (11 R267).
-/

namespace Sys2Proof.Machine

/-- Four 32-bit words. -/
structure Quad where
  x0 : Word
  x1 : Word
  x2 : Word
  x3 : Word
deriving DecidableEq, Repr

/-- Word `i mod 4` of a quad. -/
def Quad.at (q : Quad) (i : Nat) : Word :=
  match i % 4 with | 0 => q.x0 | 1 => q.x1 | 2 => q.x2 | _ => q.x3

/-- One round of the block function (R279). -/
def ladybirdRound (k x : Quad) (r : Nat) : Quad :=
  let (ra, rb, rc, rd) : Nat × Nat × Nat × Nat := if r % 2 = 0 then (11, 19, 6, 25) else (14, 9, 23, 3)
  let x0 := x.x0 + x.x1
  let x3 := (x.x3 ^^^ x0).rotateLeft ra
  let x2 := x.x2 + x3
  let x1 := (x.x1 ^^^ x2).rotateLeft rb
  let x0 := x0 + x1
  let x3 := (x3 ^^^ x0).rotateLeft rc
  let x2 := x2 + x3
  let x1 := (x1 ^^^ x2).rotateLeft rd
  ⟨x0 + k.at r + BitVec.ofNat 32 ((r + 1) * 0x9E3779B9), x1 + k.at (r + 1), x2 + k.at (r + 2), x3 + k.at (r + 3)⟩

/-- The block of a key and a counter (R279). -/
def ladybirdBlock (k c : Quad) : Quad :=
  let s : Quad := ⟨c.x0 ^^^ k.x0, c.x1 ^^^ k.x1, c.x2 ^^^ k.x2, c.x3 ^^^ k.x3⟩
  let x := (List.range 10).foldl (ladybirdRound k) s
  ⟨x.x0 + s.x0, x.x1 + s.x1, x.x2 + s.x2, x.x3 + s.x3⟩

/-- The key words of a 128-bit seed (R278). -/
def quadOf (n : Nat) : Quad :=
  ⟨BitVec.ofNat 32 n, BitVec.ofNat 32 (n / 2 ^ 32), BitVec.ofNat 32 (n / 2 ^ 64), BitVec.ofNat 32 (n / 2 ^ 96)⟩

/-- The block of element `e` of a stream, with its frame and step (R278, R280). -/
def ladybirdAt (seed : Nat) (stream frame step e : Nat) : Quad :=
  let blk := e / 4
  ladybirdBlock (quadOf seed)
    ⟨BitVec.ofNat 32 blk, BitVec.ofNat 32 (blk / 2 ^ 32), BitVec.ofNat 32 (step % 2 ^ 16 + stream % 2 ^ 16 * 2 ^ 16),
      BitVec.ofNat 32 frame⟩

/-- Gaussian value `i` of a block (R281). -/
def ladybirdGauss (w : Quad) (i : Nat) : Nat :=
  let p := i / 2
  let u1 := roundQ .l32 .ne false (2 * ((w.at (2 * p)).toNat / 2 ^ 9) + 1) 1 (-24)
  let x := roundQ .l32 .ne false ((w.at (2 * p + 1)).toNat / 2 ^ 8) 1 (-23)
  let m := mulF .l32 .ne 0xBFB17218 (heather32 .log2 u1)
  let rho := heather32 .sqrt m
  let f := heather32 (if i % 2 = 0 then .cosPi else .sinPi) x
  mulF .l32 .ne rho f

/-- Element `e` of a stream: raw word (KIND 0) or Gaussian L32 code (KIND 1) (R280). -/
def ladybirdElem (gauss : Bool) (seed stream frame step e : Nat) : Nat :=
  let w := ladybirdAt seed stream frame step e
  if gauss then ladybirdGauss w (e % 4) else (w.at e).toNat

/-! SipHash-2-4 (R267). -/

/-- One SipRound. -/
def sipRound (v : Dword × Dword × Dword × Dword) : Dword × Dword × Dword × Dword :=
  let (v0, v1, v2, v3) := v
  let v0 := v0 + v1
  let v2 := v2 + v3
  let v1 := v1.rotateLeft 13 ^^^ v0
  let v3 := v3.rotateLeft 16 ^^^ v2
  let v0 := v0.rotateLeft 32
  let v2 := v2 + v1
  let v0 := v0 + v3
  let v1 := v1.rotateLeft 17 ^^^ v2
  let v3 := v3.rotateLeft 21 ^^^ v0
  let v2 := v2.rotateLeft 32
  (v0, v1, v2, v3)

/-- One message word. -/
def sipWord (v : Dword × Dword × Dword × Dword) (m : Dword) : Dword × Dword × Dword × Dword :=
  let (v0, v1, v2, v3) := v
  let (v0, v1, v2, v3) := sipRound (sipRound (v0, v1, v2, v3 ^^^ m))
  (v0 ^^^ m, v1, v2, v3)

/-- A byte list cut into pieces of `n` bytes, `fuel` of them at most. -/
def chunks (n : Nat) : Nat → List Byte → List (List Byte)
  | 0, _ => []
  | fuel + 1, l => if l.isEmpty then [] else l.take n :: chunks n fuel (l.drop n)

/-- SipHash-2-4 with a 64-bit output of a 128-bit key. -/
def sipHash (key : Nat) (msg : List Byte) : Nat :=
  let k0 := BitVec.ofNat 64 key
  let k1 := BitVec.ofNat 64 (key / 2 ^ 64)
  let v := (k0 ^^^ 0x736f6d6570736575, k1 ^^^ 0x646f72616e646f6d, k0 ^^^ 0x6c7967656e657261, k1 ^^^ 0x7465646279746573)
  let full := msg.length / 8
  let v := (chunks 8 full (msg.take (8 * full))).foldl (fun v c => sipWord v (BitVec.ofNat 64 (bytesToNat c))) v
  let last := bytesToNat (msg.drop (8 * full)) + msg.length % 256 * 2 ^ 56
  let (v0, v1, v2, v3) := sipWord v (BitVec.ofNat 64 last)
  let (v0, v1, v2, v3) := sipRound (sipRound (sipRound (sipRound (v0, v1, v2 ^^^ 0xFF, v3))))
  (v0 ^^^ v1 ^^^ v2 ^^^ v3).toNat

end Sys2Proof.Machine
end

