-- ==== Sys2Proof/Machine/Ops.lean ====
section
/-!
DEFINITION. The named operations over the state: registers, tokens, cores, base tussocks, tussocks and meadows.
-/

namespace Sys2Proof.Machine

open Sys2Proof

/-! Access to the tables. -/

/-- Core `n`. -/
def State.core (s : State) (n : Nat) : Core := Sparse.get Core.zero s.cores n
/-- Core `n` replaced. -/
def State.setCore (s : State) (n : Nat) (c : Core) : State := { s with cores := Sparse.put Core.zero s.cores n c }
/-- Core `n` changed by `f`. -/
def State.updCore (s : State) (n : Nat) (f : Core → Core) : State := s.setCore n (f (s.core n))
/-- Several cores changed. -/
def State.updCores (s : State) (l : List Nat) (f : Core → Core) : State := l.foldl (fun t n => t.updCore n f) s
/-- Base tussock `b`. -/
def State.base (s : State) (b : Nat) : Base := Sparse.get Base.zero s.bases b
/-- Base tussock `b` changed. -/
def State.updBase (s : State) (b : Nat) (f : Base → Base) : State :=
  { s with bases := Sparse.put Base.zero s.bases b (f (s.base b)) }
/-- Several base tussocks changed. -/
def State.updBases (s : State) (l : List Nat) (f : Base → Base) : State := l.foldl (fun t n => t.updBase n f) s
/-- Meadow `m`. -/
def State.meadow (s : State) (m : Nat) : Meadow := Sparse.get Meadow.zero s.meadows m
/-- Meadow `m` changed. -/
def State.updMeadow (s : State) (m : Nat) (f : Meadow → Meadow) : State :=
  { s with meadows := Sparse.put Meadow.zero s.meadows m (f (s.meadow m)) }
/-- Hub changed. -/
def State.updHub (s : State) (f : Hub → Hub) : State := { s with hub := f s.hub }
/-- Package memory changed. -/
def State.updPkg (s : State) (f : Pkg → Pkg) : State := { s with pkg := f s.pkg }

/-! Registers of a core (R89, R90). g0 reads zero and discards writes. -/

/-- General register `r`. -/
def Core.gr (c : Core) (r : Nat) : Dword := if r = 0 then 0 else Sparse.get 0 c.g r
/-- General register `r` written. -/
def Core.setG (c : Core) (r : Nat) (x : Dword) : Core := if r = 0 then c else { c with g := Sparse.put 0 c.g r x }
/-- Descriptor register `r`. -/
def Core.dr (c : Core) (r : Nat) : Line := Sparse.get 0 c.d r
/-- Descriptor register `r` written. -/
def Core.setD (c : Core) (r : Nat) (x : Line) : Core := { c with d := Sparse.put 0 c.d r x }
/-- Vector register `r`. -/
def Core.vr (c : Core) (r : Nat) : Line := Sparse.get 0 c.v r
/-- Vector register `r` written. -/
def Core.setV (c : Core) (r : Nat) (x : Line) : Core := { c with v := Sparse.put 0 c.v r x }
/-- Token `t`. -/
def Core.token (c : Core) (t : Nat) : Tok := Sparse.get .free c.tok t
/-- Token `t` written. -/
def Core.setTok (c : Core) (t : Nat) (x : Tok) : Core := { c with tok := Sparse.put .free c.tok t x }
/-- Whether some token is PENDING. -/
def Core.anyPending (c : Core) : Bool := c.tok.any fun e => e.2 == .pending
/-- A mask of the tokens in a state. -/
def Core.tokMask (c : Core) (p : Tok → Bool) : Nat := c.tok.foldl (fun a e => if p e.2 then a + 2 ^ e.1 else a) 0
/-- Cell `i` of accumulator memory. -/
def Core.cell (c : Core) (i : Nat) : Cell := Sparse.get Cell.zero c.cells i
/-- Cell `i` written. -/
def Core.setCell (c : Core) (i : Nat) (x : Cell) : Core := { c with cells := Sparse.put Cell.zero c.cells i x }
/-- Statistic slot of a row (R184). -/
def Core.slot (c : Core) (r : Nat) : Slot := Sparse.get Slot.zero c.slots (r % 16)
/-- Statistic slot of a row written. -/
def Core.setSlot (c : Core) (r : Nat) (x : Slot) : Core := { c with slots := Sparse.put Slot.zero c.slots (r % 16) x }
/-- The operations at engine `e`, the running one first (R103). -/
def Core.engq (c : Core) (e : Nat) : List EngOp := Sparse.get [] c.eng e
/-- The operations at engine `e` written. -/
def Core.setEngq (c : Core) (e : Nat) (l : List EngOp) : Core := { c with eng := Sparse.put [] c.eng e l }
/-- Queue `q`'s HEAD and COUNT. -/
def Core.ring (c : Core) (q : Nat) : Ring := Sparse.get ⟨0, 0⟩ c.rings q
/-- Queue `q`'s HEAD and COUNT written. -/
def Core.setRing (c : Core) (q : Nat) (r : Ring) : Core := { c with rings := Sparse.put ⟨0, 0⟩ c.rings q r }

/-- Bytes of a 64-byte line. -/
def lineBytes (l : Line) : List Byte := natToBytes 64 l.toNat
/-- A line from bytes. -/
def bytesLine (b : List Byte) : Line := BitVec.ofNat 512 (bytesToNat b)
/-- 64 bytes of near store. -/
def Core.nearLine (c : Core) (a : Nat) : Line := bytesLine (Mem.read c.near a 64)
/-- Near-store bytes written. -/
def Core.nearWrite (c : Core) (a : Nat) (b : List Byte) : Core := { c with near := Mem.write c.near a b }
/-- Deep-store bytes written. -/
def Core.deepWrite (c : Core) (a : Nat) (b : List Byte) : Core := { c with deep := Mem.write c.deep a b }
/-- Word `i` of a line. -/
def lineWord (l : Line) (i : Nat) : Nat := bitsOf l.toNat (32 * i + 31) (32 * i)
/-- Bits of word `i` of a line. -/
def lineBits (l : Line) (i hi lo : Nat) : Nat := bitsOf (lineWord l i) hi lo

/-! Geometry (R14 to R26). -/

/-- The base tussock of a core (R19). -/
def baseOf (n : Nat) : Nat := 16 * (n / 64 / 4) + n % 64 / 4
/-- A core's position in its base tussock (R19). -/
def posOf (n : Nat) : Nat := 4 * (n / 64 % 4) + n % 64 % 4
/-- The logical core at a row and column. -/
def coreAt (r c : Nat) : Nat := 64 * r + c
/-- The 16 cores of a base tussock, in ascending order. -/
def coresOfBase (b : Nat) : List Nat :=
  (List.range 4).flatMap fun r => (List.range 4).map fun c => coreAt (4 * (b / 16) + r) (4 * (b % 16) + c)

/-- The rectangle of base tussocks of a base or defined tussock: row, column, height, width (R21, R22). -/
def State.rect (s : State) (id : Nat) : Option (Nat × Nat × Nat × Nat) :=
  if 0x1000 ≤ id ∧ id ≤ 0x10FF then some ((id - 0x1000) / 16, (id - 0x1000) % 16, 1, 1)
  else (s.heath.tussocks.find? fun t => t.id = id).map fun t => (t.i0, t.j0, t.h, t.w)

/-- The base tussocks of a rectangle, ascending. -/
def rectBases (r : Nat × Nat × Nat × Nat) : List Nat :=
  (List.range r.2.2.1).flatMap fun i => (List.range r.2.2.2).map fun j => 16 * (r.1 + i) + r.2.1 + j

/-- The base tussocks an identifier covers; a single core's is its own (R29). -/
def State.basesOf (s : State) (id : Nat) : Option (List Nat) :=
  if id < 4096 then some [baseOf id] else (s.rect id).map rectBases

/-- Cores in ascending order of logical index, from base tussocks of a rectangle. -/
def rectCores (r : Nat × Nat × Nat × Nat) : List Nat :=
  (List.range (4 * r.2.2.1)).flatMap fun i => (List.range (4 * r.2.2.2)).map fun j => coreAt (4 * r.1 + i) (4 * r.2.1 + j)

/-- The cores an identifier covers, ascending (R21). -/
def State.coresOf (s : State) (id : Nat) : Option (List Nat) :=
  if id < 4096 then some [id] else (s.rect id).map rectCores

/-- The anchor of a tussock (R25). -/
def State.anchor (s : State) (id : Nat) : Option Nat := (s.coresOf id).bind List.head?

/-- The meadow that owns a base tussock (R32). -/
def State.meadowOfBase (s : State) (b : Nat) : Option Nat :=
  (s.meadows.find? fun e => e.2.state != .absent && ((s.rect e.2.top).map fun r => (rectBases r).contains b) == some true).map
    (·.1)

/-- The meadow that owns a core. -/
def State.meadowOf (s : State) (n : Nat) : Option Nat := s.meadowOfBase (baseOf n)

/-- The cores of a meadow, ascending. -/
def State.meadowCores (s : State) (m : Nat) : List Nat := (s.coresOf (s.meadow m).top).getD []
/-- The base tussocks of a meadow. -/
def State.meadowBases (s : State) (m : Nat) : List Nat := (s.basesOf (s.meadow m).top).getD []

/-- Whether a tussock identifier lies wholly within a meadow (R27). -/
def State.inMeadow (s : State) (id m : Nat) : Bool :=
  match s.basesOf id with
  | some l => l.all fun b => s.meadowOfBase b == some m
  | none => false

/-- The physical column of a logical core (R15, R16). -/
def State.column (s : State) (n : Nat) : Nat :=
  match Sparse.get none s.heath.coreMap n with
  | some p => p
  | none => if n % 64 < 32 then n % 64 else n % 64 + 1

/-- The physical site of a logical core (R15). -/
def State.siteOf (s : State) (n : Nat) : Nat := 66 * (n / 64) + s.column n

/-- Whether a site is isolated. -/
def State.siteIsolated (s : State) (site : Nat) : Bool := Sparse.get false s.heath.isolated site

/-- DEPTH of a global queue (R60, R336). -/
def State.queueDepth (s : State) (g : Nat) : Nat := (Sparse.get none s.heath.qdepth g).getD 16
/-- Byte offset of the ring of a global queue (R60, R336). -/
def State.queueRing (s : State) (g : Nat) : Nat := 64 * (Sparse.get none s.heath.qring g).getD (0x780 + 0x10 * (g % 8))

/-- Usable capacity in bytes (R308). -/
def State.capacity (s : State) : Nat :=
  let (n, p) : Nat × Nat := match s.part with | .m4l2 => (20, 960) | .m5l1 => (25, 1200) | .m6 => (30, 1440)
  (if s.pkg.parity then 48 * (n - 1) else p) * 2 ^ 30

/-- Number of stacks of the part. -/
def Part.stacks : Part → Nat | .m4l2 => 20 | .m5l1 => 25 | .m6 => 30

/-- The next free index, and the state past it. -/
def State.fresh (s : State) : Nat × State := (s.free, { s with free := s.free + 1 })

/-! Ports, functions and interrupts (18). -/

/-- Port `p`. -/
def State.port (s : State) (p : Nat) : Port := Sparse.get Port.zero s.ports p
/-- Port `p` changed. -/
def State.updPort (s : State) (p : Nat) (f : Port → Port) : State :=
  { s with ports := Sparse.put Port.zero s.ports p (f (s.port p)) }
/-- Function `f` of port `p`. -/
def State.fn (s : State) (p f : Nat) : HostFn := Sparse.get HostFn.zero s.fns (32 * p + f)
/-- Function `f` of port `p` changed. -/
def State.updFn (s : State) (p f : Nat) (g : HostFn → HostFn) : State :=
  { s with fns := Sparse.put HostFn.zero s.fns (32 * p + f) (g (s.fn p f)) }
/-- The meadow a function carries (R384). -/
def State.fnMeadow (s : State) (p f : Nat) : Option Nat :=
  (s.meadows.find? fun e => e.2.state != .absent && e.2.port == p && e.2.fn == f).map (·.1)
/-- Sexton changed. -/
def State.updSxt (s : State) (f : Sexton → Sexton) : State := { s with sxt := f s.sxt }
/-- Something sent out of the block. -/
def State.emit (s : State) (o : Output) : State := { s with out := s.out ++ [o] }

/-- The number of vectors of a function (R400). -/
def fnVectors (f : Nat) : Nat := if f = 0 then 2048 else 64

/-- An MSI-X vector of a function is raised: sent, or kept pending while its mask bit is set (R400). -/
def State.raise (s : State) (p f v : Nat) : State :=
  if Sparse.get false (s.fn p f).unmasked v then s.emit (.msix p f v)
  else s.updFn p f fun x => { x with pend := Sparse.put false x.pend v true }

/-- A vector of a meadow's function is raised (R400). -/
def State.raiseM (s : State) (m v : Nat) : State := s.raise (s.meadow m).port (s.meadow m).fn v

/-! Stops (R361, R491, R494), faults of a core (R122) and failures of an epoch (R354). -/

/-- STOP applied by the stem to cores (R342). -/
def State.stopCores (s : State) (l : List Nat) : State := s.updCores l fun c => { c with stopped := true }

/-- A STOP of a meadow (R361, R491). -/
def State.stopMeadow (s : State) (m : Nat) : State :=
  let t := s.stopCores (s.meadowCores m)
  match (s.meadow m).state with
  | .ready => (t.updMeadow m fun x => { x with state := .stopped, stopWas := .ready, stopFail := 0 }).raiseM m 8
  | .opened => (t.updMeadow m fun x => { x with state := .stopped, stopWas := .opened, stopFail := 0 }).raiseM m 8
  | .failed =>
    (t.updMeadow m fun x => { x with state := .stopped, stopWas := .failed, replayDue := false }).raiseM m 8
  | .boundary | .switching => t.updMeadow m fun x => { x with stopDue := true }
  | .absent | .stopped => s

/-- The numbers of the meadows in existence. -/
def State.meadowIds (s : State) : List Nat := (s.meadows.filter fun e => e.2.state != .absent).map (·.1)

/-- BENCHED entered for a cause (R494); every meadow is stopped unless warm resets are the cause.
A cause that only a cold start clears is kept, and replaces warm resets. -/
def State.bench (s : State) (cause : Half) : State :=
  let t := s.updSxt fun x =>
    { x with benched := true, cause := if x.benched ∧ x.cause ≠ Code.benched then x.cause else cause }
  if cause = Code.benched then t else t.meadowIds.foldl (fun u m => u.stopMeadow m) t

/-- An epoch of a meadow fails with the code of its first failure (R354, R490). It is open until step 5 of its boundary, where a
STOP that waits leaves the failed meadow STOPPED (R361, R379): DEDUCED, log entry 67. A failure while the meadow is stopped with
its epoch open is kept for R491. -/
def State.failEpoch (s : State) (m : Nat) (code : Half) : State :=
  match (s.meadow m).state with
  | .opened =>
    ((s.stopCores (s.meadowCores m)).updMeadow m fun x =>
      { x with
        state := .failed, code := code, rcode := code, drained := false, attempts := min 15 (x.attempts + 1) }).raiseM m 8
  | .boundary =>
    ((s.stopCores (s.meadowCores m)).updMeadow m fun x =>
      { x with
        state := if x.stopDue then .stopped else .failed, stopWas := if x.stopDue then .failed else x.stopWas, stopDue := false,
        stopFail := 0, code := code, rcode := code, drained := false, attempts := min 15 (x.attempts + 1) }).raiseM m 8
  | .stopped =>
    if (s.meadow m).stopWas = .opened ∧ (s.meadow m).stopFail = 0 then
      s.updMeadow m fun x =>
        { x with
          stopFail := code, code := code, rcode := code, drained := false, attempts := min 15 (x.attempts + 1) }
    else s
  | _ => s

/-- The next round of self-tests begins where none runs: the first sixteen that wait. A logic test starts its slice's pattern
generator from the seed (R497, R498, R501; log entry 70). -/
def Bist.round (b : Bist) : Bist :=
  if b.tests.any (·.begun) then b
  else
    let l := b.tests.take 16
    { b with
      tests := (l.map fun j => { j with begun := true }) ++ b.tests.drop 16,
      prpg := (l.filter (·.logic)).foldl (fun m j => Sparse.put 0 m j.slice Config.prpgSeed) b.prpg }

/-- Two repairs of a base tussock as one: a failure outweighs a requested test, and the failed routers add up. -/
def RepairJob.and (j k : RepairJob) : RepairJob :=
  { j with
    why := if j.why = .test then k.why else .fault, routers := (j.routers ++ k.routers).eraseDups, trunk := j.trunk || k.trunk }

/-- Sexton's repair of a base tussock is asked for (R493, R504): it joins the repair of that base tussock that is in progress and
has not built its stream, or one that waits. -/
def State.askRepair (s : State) (j : RepairJob) : State :=
  let r := s.sxt.repair
  if 1 ≤ r.phase ∧ r.phase < 4 ∧ r.base = j.base then
    let k : RepairJob := RepairJob.and ⟨r.base, r.why, r.routers, r.trunk⟩ { j with why := r.why }
    s.updSxt fun x => { x with repair := { r with routers := k.routers, trunk := k.trunk } }
  else if s.sxt.repairQueue.any fun k => k.base = j.base then
    s.updSxt fun x => { x with repairQueue := x.repairQueue.map fun k => if k.base = j.base then k.and j else k }
  else s.updSxt fun x => { x with repairQueue := x.repairQueue ++ [j] }

end Sys2Proof.Machine
end

