-- ==== Sys2Proof/Machine/Memory.lean ====
section
/-!
DEFINITION. Package memory and its translation (14 R304 to R328, 11 R259 to R263, 13 R296 to R299).
-/

namespace Sys2Proof.Machine

open Sys2Proof

/-- An outcome of a memory access: a code or a value, with the state after it. -/
abbrev Res (α : Type) := Except Half α × State

/-! Mapping to stacks (R309, R315). -/

/-- `fold` of R309. -/
def foldQ (q : Nat) : Nat := (q % 2 ^ 16) ^^^ (q / 2 ^ 16 % 2 ^ 16)

/-- Pseudo-channel and channel-local address with parity off (R309). -/
def mapPlain (pa p : Nat) : Nat × Nat :=
  let g := pa / 256
  (((g % p) + foldQ (g / p)) % p, g / p * 256 + pa % 256)

/-- Data stack, parity stack, pseudo-channel and local address with parity on (R315). -/
def mapParity (pa s : Nat) : Nat × Nat × Nat × Nat :=
  let d := pa / 256
  let z := d / (s - 1)
  let u := d % (s - 1)
  let a := z / 64
  ((z % s + 1 + u) % s, z % s, (z % 64 + foldQ a) % 64, a * 256 + pa % 256)

/-- The stack that holds the data of a physical address (R309, R315). -/
def State.stackOf (s : State) (pa : Nat) : Nat :=
  if s.pkg.parity then (mapParity pa s.part.stacks).1 else (mapPlain pa (64 * s.part.stacks)).1 / 64

/-- Stack `k`. -/
def State.stack (s : State) (k : Nat) : Stack := Sparse.get Stack.zero s.pkg.dies k
/-- Stack `k` changed. -/
def State.updStack (s : State) (k : Nat) (f : Stack → Stack) : State :=
  s.updPkg fun p => { p with dies := Sparse.put Stack.zero p.dies k (f (s.stack k)) }
/-- The number of FAILED stacks. -/
def State.failedStacks (s : State) : Nat := (s.pkg.dies.filter fun e => e.2.st == .failed).length
/-- Whether a 64 KiB page is retired (R314). -/
def State.pageRetired (s : State) (pa : Nat) : Bool := s.pkg.retired.contains (pa / 2 ^ 16)

/-- The channel of a stack that holds a physical address: two pseudo-channels to a channel (R304, R309, R315). -/
def State.channelOf (s : State) (pa : Nat) : Nat :=
  (if s.pkg.parity then (mapParity pa s.part.stacks).2.2.1 else (mapPlain pa (64 * s.part.stacks)).1 % 64) / 2

/-- The stack of a sector's parity (R315). -/
def State.parityStack (s : State) (pa : Nat) : Nat := (mapParity pa s.part.stacks).2.1

/-- The number of the parity sector of a data sector: its stripe, and its place in the granule (R315). -/
def State.parityIx (s : State) (pa : Nat) : Nat := pa / 256 / (s.part.stacks - 1) * 8 + pa % 256 / 32

/-- The data sectors of a stripe's parity sector, as sector numbers (R315). -/
def State.dataOf (s : State) (pix : Nat) : List Nat :=
  let n := s.part.stacks - 1
  (List.range n).map fun u => (pix / 8 * n + u) * 8 + pix % 8

/-- The other sectors of a sector's stripe, as sector numbers (R315). -/
def State.stripeMates (s : State) (pa : Nat) : List Nat := (s.dataOf (s.parityIx pa)).filter (· ≠ pa / 32)

/-- A page enters the retired-page list (R314); a 4,097th puts the device out of service. -/
def State.retire (s : State) (pa : Nat) : State :=
  if s.pageRetired pa then s
  else if s.pkg.retired.length < 4096 then
    s.updPkg fun p => { p with retired := p.retired ++ [pa / 2 ^ 16], retireLast := pa / 2 ^ 16 }
  else s.bench Code.retireFull

/-- What an uncorrectable read of the sector at `pa` does at its controller (R307, R313). -/
def State.uncorrectableAt (s : State) (pa : Nat) : State :=
  let k := s.stackOf pa
  let t := s.updStack k fun x => { x with uncorrected := satInc x.uncorrected }
  if (s.stack k).st == .failed then t else t.retire pa

/-! Keys (R327). -/

/-- The region that holds a physical address. -/
def State.regionAt (s : State) (pa : Nat) : Option Region :=
  s.heath.regions.find? fun r => r.base ≤ pa && pa < r.base + r.size

/-- A key as a number. -/
def Key.code : Key → Nat
  | .random n => 2 * n
  | .loaded k => 2 * k + 1

/-- The content of a key slot; Sexton's own is random key 0. -/
def State.slotKey (s : State) (slot : Nat) : Key := Sparse.get (.random 0) s.pkg.keys slot
/-- The key under which an address is read and written. -/
def State.keyAt (s : State) (pa : Nat) : Key :=
  match s.regionAt pa with
  | some r => s.slotKey r.keySlot
  | none => .random 0

/-- A key's 512 bits (R327). -/
def Key.bits : Key → BitVec 512
  | .random n => Config.randomKey n
  | .loaded k => BitVec.ofNat 512 k

/-- What a stack stores of a 16-byte block: its ciphertext; zeros where nothing has been written (R327; log entry 8). -/
def State.cipherBlock (s : State) (blk : Nat) : List Byte :=
  match Sparse.get none s.pkg.tags blk with
  | none => natToBytes 16 0
  | some t => xtsEncrypt t.bits blk (Mem.read s.pkg.bytes (16 * blk) 16)

/-- One byte as read under a key: a block written under it reads as written, and any other is the decryption, under this
key, of what is stored (R327, R328). A block that nothing has written reads zero. -/
def State.byteUnder (s : State) (k : Key) (a : Nat) : Byte :=
  match Sparse.get none s.pkg.tags (a / 16) with
  | none => Mem.byte s.pkg.bytes a
  | some t => if t = k then Mem.byte s.pkg.bytes a else (xtsDecrypt k.bits (a / 16) (s.cipherBlock (a / 16))).getD (a % 16) 0

/-- Bytes of package memory under the key in force, from `a` up. -/
def State.pkgBytes (s : State) (a n : Nat) : List Byte :=
  let k := s.keyAt a
  (upFrom a n).map (s.byteUnder k)

/-- A 16-byte block stored under key `k` with the plaintext `b`. -/
def State.putBlock (s : State) (k : Key) (blk : Nat) (b : List Byte) : State :=
  s.updPkg fun p => { p with bytes := Mem.write p.bytes (16 * blk) b, tags := Sparse.put none p.tags blk (some k) }

/-- A 16-byte block made to hold, under key `k`, what it reads as under `k`. -/
def State.claimBlock (s : State) (k : Key) (blk : Nat) : State :=
  match Sparse.get none s.pkg.tags blk with
  | none => s.updPkg fun p => { p with tags := Sparse.put none p.tags blk (some k) }
  | some t => if t = k then s else s.putBlock k blk ((upFrom (16 * blk) 16).map (s.byteUnder k))

/-- Bytes written under the key in force (R327). -/
def State.pkgPut (s : State) (a : Nat) (b : List Byte) : State :=
  let k := s.keyAt a
  let blks := upFrom (a / 16) (if b.isEmpty then 0 else (a + b.length - 1) / 16 + 1 - a / 16)
  let t := blks.foldl (fun t blk => t.claimBlock k blk) s
  t.updPkg fun p => { p with bytes := Mem.write p.bytes a b }

/-! Stored sectors, their check bytes and their parity (R312, R315). -/

/-- The ciphertext of a data sector, as it was last written. -/
def State.cipherSector (s : State) (sec : Nat) : List Byte := s.cipherBlock (2 * sec) ++ s.cipherBlock (2 * sec + 1)

/-- By which symbols the stored word of a data sector differs from the codeword of its ciphertext. -/
def State.flips (s : State) (sec : Nat) : BitVec 288 := Sparse.get 0 s.pkg.flips sec
/-- The same of a parity sector. -/
def State.pflips (s : State) (pix : Nat) : BitVec 288 := Sparse.get 0 s.pkg.pflips pix
/-- The pattern of a data sector replaced. -/
def State.setFlips (s : State) (sec : Nat) (x : BitVec 288) : State :=
  s.updPkg fun p => { p with flips := Sparse.put 0 p.flips sec x }
/-- The pattern of a parity sector replaced. -/
def State.setPflips (s : State) (pix : Nat) (x : BitVec 288) : State :=
  s.updPkg fun p => { p with pflips := Sparse.put 0 p.pflips pix x }

/-- The 36 bytes that a stack stores for a data sector: ciphertext, check bytes, and the symbols in error (R304, R312). -/
def State.storedSector (s : State) (sec : Nat) : List Byte :=
  let c := s.cipherSector sec
  xorBytes (c ++ rsCheck c) (symbolsOf (s.flips sec))

/-- The 32 bytes of a parity sector apart from errors in it: the exclusive or of its stripe's data sectors as stored, of which
the deltas still on their way are not yet part (R315, R316). -/
def State.parityBytes (s : State) (pix : Nat) : List Byte :=
  let x := (s.dataOf pix).foldl (fun a sec => xorBytes a (s.cipherSector sec)) (natToBytes 32 0)
  (s.pkg.deltas.filter fun d => s.parityIx (32 * d.sector) = pix).foldl (fun a d => xorBytes a (natToBytes 32 d.change.toNat)) x

/-- The 36 bytes that a stack stores for a parity sector (R312, R315). -/
def State.storedParity (s : State) (pix : Nat) : List Byte :=
  let c := s.parityBytes pix
  xorBytes (c ++ rsCheck c) (symbolsOf (s.pflips pix))

/-- Whether a data sector holds an error that its check bytes detect and do not correct (R312). -/
def State.sectorBad (s : State) (sec : Nat) : Bool := s.flips sec != 0 && rsRead (s.flips sec) == .detected

/-- A block whose ciphertext is `x` apart from what it was last written as, taken as its content under its key. -/
def State.turnBlock (s : State) (blk : Nat) (x : List Byte) : State :=
  let k := match Sparse.get none s.pkg.tags blk with | some k => k | none => s.keyAt (16 * blk)
  s.putBlock k blk (xtsDecrypt k.bits blk (xorBytes (s.cipherBlock blk) x))

/-- A stored data sector that differs from its ciphertext by the codeword `x`, taken as its content: the sector has no error
any more, and its parity sector differs by as much from the exclusive or of the stripe. -/
def State.absorb (s : State) (sec : Nat) (x : BitVec 288) : State :=
  let t := s.setFlips sec 0
  if x = 0 then t
  else
    let b := symbolsOf x
    let pix := s.parityIx (32 * sec)
    let t := (t.turnBlock (2 * sec) (b.take 16)).turnBlock (2 * sec + 1) (sliceBytes b 16 16)
    if s.pkg.parity then t.setPflips pix (t.pflips pix ^^^ x) else t

/-- A correction counted at a stack (R312, R319). -/
def State.countCorrected (s : State) (k : Nat) : State := s.updStack k fun x => { x with corrected := satInc x.corrected }

/-- A controller reads a data sector of its own: an error in one symbol is corrected, written back and counted; none where
it detects an error that it cannot correct (R312). -/
def State.readOwn (s : State) (sec : Nat) : Option State :=
  if s.flips sec = 0 then some s
  else match rsRead (s.flips sec) with
    | .clean => some (s.absorb sec (s.flips sec))
    | .corrected x => some ((s.absorb sec x).countCorrected (s.stackOf (32 * sec)))
    | .detected => none

/-- A controller reads a parity sector, likewise. -/
def State.readParity (s : State) (pix : Nat) : Option State :=
  if s.pflips pix = 0 then some s
  else match rsRead (s.pflips pix) with
    | .clean => some s
    | .corrected x => some ((s.setPflips pix x).countCorrected (s.parityStack (32 * (s.dataOf pix).headD 0)))
    | .detected => none

/-- Data sectors of a stripe read one after another; the first that cannot be read ends it, and is told. What has been read before
it is corrected all the same (R312). -/
def State.readMates (s : State) : List Nat → Option Nat × State
  | [] => (none, s)
  | sec :: r => match s.readOwn sec with | some t => t.readMates r | none => (some sec, s)

/-- How a rebuild ends: done, or failed at a data sector or at the parity sector, with the corrections made on the way. -/
inductive Rebuilt where
  | done (t : State)
  | data (sec : Nat) (t : State)
  | parity (t : State)

/-- A data sector rebuilt from the rest of its stripe (R317, R319): it becomes the exclusive or of the parity sector and of
the other data sectors, from which its own ciphertext differs by what the parity sector differs by. -/
def State.rebuild (s : State) (sec : Nat) : Rebuilt :=
  let pix := s.parityIx (32 * sec)
  match s.readMates (s.stripeMates (32 * sec)) with
  | (some q, t) => .data q t
  | (none, t) =>
    match t.readParity pix with
    | none => .parity t
    | some t => .done (t.absorb sec (t.pflips pix))

/-! Sector accesses. -/

/-- Whether a sector can be served only by a rebuild: it lies on a FAILED stack, or holds an uncorrectable error. -/
def State.rebuilds (s : State) (pa : Nat) : Bool := (s.stack (s.stackOf pa)).st == .failed || s.sectorBad (pa / 32)

/-- Whether the channel of a stack that holds an address is in training (R306). -/
def State.trains (s : State) (k pa : Nat) : Bool := (s.stack k).training.contains (s.channelOf pa)

/-- Whether a request for a sector waits at its controller: behind requests that wait already, for a channel in training, or,
where it takes a rebuild, for the stripe's channels and for every delta of the parity sector that was sent before (R306, R318). -/
def State.mustWait (s : State) (pa : Nat) : Bool :=
  !s.held.isEmpty || s.trains (s.stackOf pa) pa
    || (s.pkg.parity && s.rebuilds pa
      && ((List.range s.part.stacks).any (s.trains · pa)
        || s.pkg.deltas.any fun d => !d.own && s.parityIx (32 * d.sector) == s.parityIx pa))

/-- The request of the command that runs has to wait. -/
def State.wait (s : State) : State := s.updPkg fun p => { p with blocked := true }

/-- A delta takes effect at its parity controller by a read and a write of the parity sector. An error in the parity sector stays,
counted where it cannot be corrected, and a delta for a FAILED stack is lost with it (R316, R317; log entry 43). -/
def State.landDelta (s : State) (d : Delta) : State :=
  let k := s.parityStack (32 * d.sector)
  if (s.stack k).st = .failed then s
  else match s.readParity (s.parityIx (32 * d.sector)) with
    | some t => t
    | none => s.updStack k fun x => { x with uncorrected := satInc x.uncorrected }

/-- The deltas that `p` picks take effect, oldest first; the command waits where one's channel is in training (R306, R316). -/
def State.settle (s : State) (p : Delta → Bool) : State :=
  let l := s.pkg.deltas.filter p
  if l.any fun d => s.trains (s.parityStack (32 * d.sector)) (32 * d.sector) then s.wait
  else l.foldl State.landDelta (s.updPkg fun x => { x with deltas := x.deltas.filter fun d => !p d })

/-- What a command has written before takes effect ahead of its own request for a sector that takes a rebuild (R318). -/
def State.settleOwn (s : State) (pa : Nat) : State :=
  if s.pkg.parity && s.rebuilds pa then s.settle fun d => d.own && s.parityIx (32 * d.sector) == s.parityIx pa else s

/-- An agent's command, begun in `s`, completes: each of its writes has taken effect, its delta too (R287, R316). -/
def State.settledFrom (s t : State) : State := if t.pkg.deltas = s.pkg.deltas then t else t.settle (·.own)

/-- The error of a sector that cannot be rebuilt: an uncorrectable sector that the rebuild met, or the sector itself.
A parity sector that cannot be read counts at its own stack; the page lost is the sector's. DESIGN CHOICE, log entry 43. -/
def State.rebuildFails (s : State) (pa : Nat) (r : Rebuilt) : State :=
  let failed := (s.stack (s.stackOf pa)).st == .failed
  match r with
  | .data sec t => t.uncorrectableAt (if failed then 32 * sec else pa)
  | .parity t =>
    if failed then (t.updStack (s.parityStack pa) fun x => { x with uncorrected := satInc x.uncorrected }).retire pa
    else t.uncorrectableAt pa
  | .done t => t

/-- A sector served to a reader: `true` when its data can be delivered (R307, R312, R313, R317, R319). -/
def State.serve (s : State) (pa : Nat) : Bool × State :=
  let sec := pa / 32
  if (s.stack (s.stackOf pa)).st == .failed then
    if s.pkg.parity ∧ s.failedStacks = 1 then
      match s.rebuild sec with
      | .done t => (true, t)
      | r => (false, s.rebuildFails pa r)
    else (false, s.uncorrectableAt pa)
  else match s.readOwn sec with
    | some t => (true, t)
    | none =>
      if s.pkg.parity ∧ s.failedStacks = 0 then
        match s.rebuild sec with
        | .done t => (true, t.countCorrected (s.stackOf pa))
        | r => (false, s.rebuildFails pa r)
      else (false, s.uncorrectableAt pa)

/-- A read of `n` bytes within one sector by any agent: its bytes, or an uncorrectable error with its effects at
the controller (R310, R313, R319). -/
def State.readSec (s : State) (pa n : Nat) : Res (List Byte) :=
  if s.mustWait pa then (.ok (List.replicate n 0), s.wait)
  else match (s.settleOwn pa).serve pa with
    | (true, t) => (.ok (t.pkgBytes pa n), t)
    | (false, t) => (.error Code.uncorrectable, t)

/-- Whether the parity sector of a data sector, but not the data sector, lies on a FAILED stack (R317). -/
def State.parityLost (s : State) (pa : Nat) : Bool :=
  (s.stack (s.stackOf pa)).st != .failed && (s.stack (s.parityStack pa)).st == .failed

/-- Bytes stored in a sector that has been read where it has to be; in parity mode the delta goes to the parity controller.
Where the sector lies on a FAILED stack, the parity sector is written whole and only it; where the parity sector does, the
data sector alone is written (R316, R317). -/
def State.store (s : State) (pa : Nat) (b : List Byte) : State :=
  let t := (s.pkgPut pa b).setFlips (pa / 32) 0
  if !s.pkg.parity || s.parityLost pa then t
  else if (s.stack (s.stackOf pa)).st == .failed then t.setPflips (s.parityIx pa) 0
  else
    let x := BitVec.ofNat 256 (bytesToNat (xorBytes (s.cipherSector (pa / 32)) (t.cipherSector (pa / 32))))
    t.updPkg fun p => { p with deltas := p.deltas ++ [⟨pa / 32, x, none, true⟩] }

/-- What a write reads before it stores: nothing for a whole sector where parity is off or its parity sector is lost; the other
data sectors for a whole sector on the FAILED stack; else the sector itself (R310, R316, R317, R534). -/
def State.readFirst (s : State) (pa : Nat) (whole : Bool) : Bool × State :=
  if whole && (!s.pkg.parity || s.parityLost pa) then (true, s)
  else if whole && s.pkg.parity && s.failedStacks = 1 && (s.stack (s.stackOf pa)).st == .failed then
    match s.readMates (s.stripeMates pa) with
    | (none, t) => (true, t)
    | (some sec, t) => (false, t.uncorrectableAt (32 * sec))
  else s.serve pa

/-- A write within one sector (R310, R311, R534). -/
def State.writeSec (s : State) (pa : Nat) (b : List Byte) : Res Unit :=
  if s.mustWait pa then (.ok (), s.wait)
  else match (s.settleOwn pa).readFirst pa (pa % 32 = 0 && b.length = 32) with
    | (true, t) => (.ok (), t.store pa b)
    | (false, t) => (.error Code.uncorrectable, t)

/-- The deltas of a write given to the writer whose acknowledgement waits for them: those after the first `k` (R287, R316). -/
def State.ownDeltas (s : State) (k : Nat) (w : Option DeltaOwner) : State :=
  s.updPkg fun p => { p with deltas := p.deltas.take k ++ (p.deltas.drop k).map fun d => { d with owner := w } }

/-- Whether some write of an operation is not acknowledged: its delta has not taken effect (R287, R316). -/
def State.acking (s : State) (n seq : Nat) : Bool := s.pkg.deltas.any fun d => d.owner == some (.op n seq)

/-- The deltas that a command, begun in `s`, has left are no longer its own once it has run. -/
def State.sentFrom (s t : State) : State :=
  if t.pkg.deltas = s.pkg.deltas then t
  else t.updPkg fun p => { p with deltas := p.deltas.map fun d => { d with own := false } }

/-- A command's outcome, unless a request of it waits: the command is then held and everything else is as before. Where the
trunk does not accept a request, the engine waits as it is (R342). -/
def State.orHold (s : State) (c : Instr) (t : State) : State :=
  if t.pkg.barred && !s.pkg.barred then s
  else if t.pkg.blocked && !s.pkg.blocked then { s with held := s.held ++ [c] }
  else s.sentFrom t

/-- The same of an outcome. -/
def State.attempt (s : State) (c : Instr) : Out → Out
  | .next t => .next (s.orHold c t)
  | o => o

/-- The same for an agent other than a core, which is done only when each write of its command has taken effect (R287, R316). -/
def State.attemptWhole (s : State) (c : Instr) : Out → Out
  | .next t => .next (s.orHold c (s.settledFrom t))
  | o => o

/-- A step that Sexton takes by itself, done when each of its writes has taken effect; it is not taken in a cycle in which a request
of it waits at a stack controller (R306, R316, R318). -/
def State.orSkip (s t : State) : State :=
  let t := s.settledFrom t
  if t.pkg.blocked && !s.pkg.blocked then s else s.sentFrom t

/-- Whether the trunk accepts no request of a core: its site is isolated (R342). -/
def State.cutOff (s : State) (n : Nat) : Bool := s.siteIsolated (s.siteOf n)

/-- A request that the trunk does not accept. -/
def State.bar (s : State) : State := s.updPkg fun p => { p with barred := true }

/-! The FROZEN window (R298, R325). -/

/-- Whether an epoch of the meadow is open at the controllers (R298). -/
def Meadow.window (m : Meadow) : Bool :=
  match m.state with
  | .opened | .boundary => true
  | .failed => !m.drained
  | .stopped => (m.stopWas == .opened || m.stopWas == .failed) && !m.drained
  | _ => false

/-- The meadows whose frozen-map bit refuses a write to a page (R325). -/
def State.frozenBy (s : State) (pa : Nat) (except : Option Nat) : List Nat :=
  (s.meadows.filter fun e => e.2.window && Sparse.get false e.2.frozenMap (pa / 2 ^ 16) && except != some e.1).map (·.1)

/-! Translation (R320 to R324). -/

/-- Whether a range lies wholly within a region granted to a meadow, below the capacity (R323). -/
def State.granted (s : State) (m a n : Nat) : Bool :=
  s.heath.regions.any fun r => r.base ≤ a && a + n ≤ r.base + r.size && bitOf r.grant.toNat m
    && a + n ≤ s.capacity

/-- One table entry checked at its level: the next table, or a leaf (R321, R322). -/
def checkEntry (level e vpage : Nat) : Except Half (Nat ⊕ Leaf) :=
  let addr := bitsOf e 47 8 * 256
  if !bitOf e 0 ∨ bitsOf e 7 6 ≠ 0 ∨ bitsOf e 63 48 ≠ 0 then .error Code.xlate
  else if bitOf e 1 then
    let leaf (size : Nat) : Leaf :=
      ⟨vpage, addr + vpage * 2 ^ 16 % size, addr, size, bitOf e 2, bitOf e 3, bitOf e 4, bitOf e 5⟩
    if level = 2 ∧ addr % 2 ^ 21 = 0 then .ok (.inr (leaf (2 ^ 21)))
    else if level = 3 ∧ addr % 2 ^ 16 = 0 then .ok (.inr (leaf (2 ^ 16)))
    else .error Code.xlate
  else if level = 3 ∨ bitsOf e 5 2 ≠ 0 then .error Code.xlate
  else if level ≤ 1 ∧ addr % 4096 ≠ 0 then .error Code.xlate
  else .ok (.inl addr)

/-- The index of a virtual address at a level, and the size of the level's table (R320). -/
def levelIndex (level va : Nat) : Nat × Nat :=
  match level with
  | 0 => (bitsOf va 47 39, 4096)
  | 1 => (bitsOf va 38 30, 4096)
  | 2 => (bitsOf va 29 21, 4096)
  | _ => (bitsOf va 20 16, 256)

/-- The walk from a table down (R322). `b` names the base tussock whose pointer cache fills, if any. -/
def State.walkFrom (s : State) (b : Option Nat) (m va : Nat) : Nat → Nat → Nat → Res Leaf
  | 0, _, _ => (.error Code.xlate, s)
  | fuel + 1, level, table =>
    let (ix, size) := levelIndex level va
    if !s.granted m table size then (.error Code.notGranted, s)
    else match s.readSec (table + 8 * ix) 8 with
      | (.error c, t) => (.error c, t)
      | (.ok by8, t) =>
        match checkEntry level (bytesToNat by8) (va / 2 ^ 16) with
        | .error c => (.error c, t)
        | .ok (.inr l) => (.ok l, t)
        | .ok (.inl next) =>
          let key := va / 2 ^ (match level with | 0 => 39 | 1 => 30 | _ => 21)
          let t := match b with
            | none => t
            | some b => t.updBase b fun x =>
                { x with ptrCache := ((level, key, next) :: x.ptrCache.filter fun e => !(e.1 = level ∧ e.2.1 = key)).take 64 }
          State.walkFrom t b m va fuel (level + 1) next

/-- Whether an address lies in the context window (R259). -/
def inWindow (va : Nat) : Bool := va < 2 ^ 48 && bitsOf va 47 46 = 3

/-- A walk for a meadow, through a base tussock's pointer cache when one is named (R324).
Addresses of the context window are never translated through the root (R259, R320). -/
def State.walk (s : State) (b : Option Nat) (m va : Nat) : Res Leaf :=
  if 2 ^ 48 ≤ va ∨ inWindow va then (.error Code.xlate, s)
  else
    let hit : Nat → Option Nat := fun level =>
      match b with
      | none => none
      | some b => ((s.base b).ptrCache.find? fun e => e.1 = level ∧ e.2.1 = va / 2 ^ (39 - 9 * level)).map (·.2.2)
    match hit 2, hit 1, hit 0 with
    | some t, _, _ => s.walkFrom b m va 1 3 t
    | none, some t, _ => s.walkFrom b m va 2 2 t
    | none, none, some t => s.walkFrom b m va 3 1 t
    | none, none, none => s.walkFrom b m va 4 0 (s.meadow m).root

/-- The checks at a valid leaf, in the order of R322. -/
def State.leafCheck (s : State) (m : Nat) (l : Leaf) (write : Bool) : Except Half Unit :=
  if !s.granted m l.base l.size then .error Code.notGranted
  else if s.pageRetired l.pa then .error Code.retired
  else if !write && !l.read then .error Code.readDenied
  else if write && !l.write then .error Code.writeDenied
  else if write && ((l.frozen && (s.meadow m).window) || !(s.frozenBy l.pa (some m)).isEmpty) then .error Code.frozen
  else .ok ()

/-- A core's translation of a page outside the context window, through its translation cache and its base
tussock's second level (R296, R324). -/
def State.leafOf (s : State) (n m va : Nat) : Res Leaf :=
  let vp := va / 2 ^ 16
  let b := baseOf n
  match (s.core n).tlb.find? (·.vpage = vp) with
  | some l => (.ok l, s.updCore n fun c => { c with tlb := l :: c.tlb.filter (·.vpage ≠ vp) })
  | none =>
    let fill : Leaf → State → State := fun l t => t.updCore n fun c => { c with tlb := (l :: c.tlb).take 32 }
    match (s.base b).leafCache.find? (·.vpage = vp) with
    | some l => (.ok l, fill l s)
    | none =>
      match s.walk (some b) m va with
      | (.error c, t) => (.error c, t)
      | (.ok l, t) =>
        (.ok l, fill l (t.updBase b fun x => { x with leafCache := (l :: x.leafCache).take 256 }))

/-- An uncorrectable read by a core's engine fails its meadow's open epoch (R313). -/
def failOnLost (n : Nat) {α : Type} (r : Res α) : Res α :=
  match r with
  | (.error c, t) =>
    if c = Code.uncorrectable then
      (.error c, match t.meadowOf n with | some m => t.failEpoch m c | none => t)
    else (.error c, t)
  | x => x

/-- A read of `n` bytes within one sector at a virtual address outside the window, for a core. -/
def State.vread (s : State) (n m va k : Nat) : Res (List Byte) :=
  if s.cutOff n then (.ok (List.replicate k 0), s.bar)
  else failOnLost n (match s.leafOf n m va with
    | (.error c, t) => (.error c, t)
    | (.ok l, t) =>
      match t.leafCheck m l false with
      | .error c => (.error c, t)
      | .ok _ => t.readSec (l.pa + va % 2 ^ 16) k)

/-- A read of several bytes at a virtual address outside the window, sector by sector; `fuel` sectors at most. -/
def State.vreadN (s : State) (n m : Nat) : Nat → Nat → Nat → Res (List Byte)
  | 0, _, _ => (.ok [], s)
  | fuel + 1, va, k =>
    if k = 0 then (.ok [], s)
    else
      let h := min k (32 - va % 32)
      match s.vread n m va h with
      | (.error c, t) => (.error c, t)
      | (.ok b, t) =>
        match t.vreadN n m fuel (va + h) (k - h) with
        | (.error c, t) => (.error c, t)
        | (.ok b', t) => (.ok (b ++ b'), t)

/-- Virtual address of the context directory (R260). -/
def ctxDirVa : Nat := 0xBFFFFFFF0000

/-- The directory copy, read at the first window access of an epoch (R260, R262, R263). -/
def State.ctxDirectory (s : State) (n m : Nat) : Res (List Byte) :=
  let b := baseOf n
  let good : List Byte → Bool := fun d =>
    fieldZero d 12 4 && fieldZero d 25 39 && 1 ≤ fieldNat d 8 4 && fieldNat d 8 4 ≤ 16383
  match (s.base b).ctxDir with
  | some d => (.ok d, s)
  | none =>
    match s.vreadN n m 2 ctxDirVa 64 with
    | (.error _, t) => (.error Code.ctxDirectory, t)
    | (.ok d, t) =>
      if good d then (.ok d, t.updBase b fun x => { x with ctxDir := some d }) else (.error Code.ctxDirectory, t)

/-- The context walker's resolution of a window address: the page's leaf (R262, R263). A stream or page-list entry that meets an
uncorrectable error is an uncorrectable read (R313); an unreadable directory has the code of R262. -/
def State.ctxLeaf (s : State) (n m va : Nat) (write : Bool) : Res Leaf :=
  let st := bitsOf va 45 32
  let bl := bitsOf va 31 16
  let b := baseOf n
  match (s.base b).ctxBuf.find? fun e => e.stream = st ∧ e.block = bl with
  | some e =>
    let t := s.updBase b fun x => { x with ctxBuf := e :: x.ctxBuf.filter fun y => !(y.stream = st ∧ y.block = bl) }
    if write && !e.write then (.error Code.ctxWrite, t) else (.ok e.leaf, t)
  | none =>
    match s.ctxDirectory n m with
    | (.error c, t) => (.error c, t)
    | (.ok d, t) =>
      if fieldNat d 8 4 ≤ st then (.error Code.ctxStream, t)
      else match t.vreadN n m 2 (fieldNat d 0 8 + 16 * st) 16 with
        | (.error c, t) => (.error (if c = Code.uncorrectable then c else Code.ctxStream), t)
        | (.ok e, t) =>
          if !bitOf (fieldNat e 12 1) 0 then (.error Code.ctxStream, t)
          else if fieldNat e 8 4 ≤ bl then (.error Code.ctxBlock, t)
          else match t.vreadN n m 2 (fieldNat e 0 8 + 8 * bl) 8 with
            | (.error c, t) => (.error (if c = Code.uncorrectable then c else Code.ctxBlock), t)
            | (.ok pe, t) =>
              let pg := bitsOf (bytesToNat pe) 47 16 * 2 ^ 16
              if !bitOf (bytesToNat pe) 0 ∨ inWindow pg then (.error Code.ctxBlock, t)
              else if write && !bitOf (fieldNat e 12 1) 1 then (.error Code.ctxWrite, t)
              else match t.leafOf n m pg with
                | (.error c, t) => (.error c, t)
                | (.ok l, t) =>
                  (.ok l, t.updBase b fun x =>
                    { x with ctxBuf := (⟨st, bl, bitOf (fieldNat e 12 1) 1, l⟩ :: x.ctxBuf).take 64 })

/-- A core's resolution of any SPACE 2 address to a physical one, with its permission checks. -/
def State.xlate (s : State) (n m va : Nat) (write : Bool) : Res (Nat × Leaf) :=
  if 2 ^ 48 ≤ va then (.error Code.xlate, s)
  else
    let r := if inWindow va then
        (if bitsOf va 45 32 = 0x3FFF then (.error Code.ctxPort, s) else s.ctxLeaf n m va write)
      else s.leafOf n m va
    match r with
    | (.error c, t) => (.error c, t)
    | (.ok l, t) =>
      match t.leafCheck m l write with
      | .error c => (.error c, t)
      | .ok _ => (.ok (l.pa + va % 2 ^ 16, l), t)

/-- One sector, or part of one, read by a core's engine; the gather engine's read cache is not used (R286). -/
def State.engRead (s : State) (n m va k : Nat) : Res (List Byte) :=
  if s.cutOff n then (.ok (List.replicate k 0), s.bar)
  else failOnLost n (match s.xlate n m va false with
    | (.error c, t) => (.error c, t)
    | (.ok (pa, _), t) => t.readSec pa k)

/-- The gather engine's fills in flight that a predicate picks are not allocated when they arrive (R295). -/
def Core.dropFills (c : Core) (p : Fill → Bool) : Core :=
  { c with eng := Sparse.upd [] c.eng 5 fun l =>
      l.map fun o => { o with ahead := o.ahead.map fun f => if p f then { f with alloc := false } else f } }

/-- A core's read cache and translation cache invalidated (R295, R296). -/
def Core.dropCaches (c : Core) : Core := ({ c with rcache := [], tlb := [] }).dropFills fun _ => true

/-- The sector of a core's read cache invalidated by its own copy engine's write (R295). -/
def Core.dropSector (c : Core) (pa : Nat) : Core :=
  ({ c with rcache := Sparse.upd [] c.rcache (pa / 32 % 64) fun l => l.filter fun e => e.1 ≠ pa / 32 }).dropFills
    fun f => f.sector = pa / 32

/-- One sector, or part of one, written by an engine of a core, for its operation `seq` where it is one's (R287, R290, R295). -/
def State.engWrite (s : State) (n : Nat) (seq : Option Nat) (m va : Nat) (b : List Byte) : Res Unit :=
  if s.cutOff n then (.ok (), s.bar)
  else failOnLost n (match s.xlate n m va true with
    | (.error c, t) => (.error c, t)
    | (.ok (pa, _), t) =>
      match (t.updCore n (·.dropSector pa)).writeSec pa b with
      | (.ok _, u) => (.ok (), u.ownDeltas s.pkg.deltas.length (seq.map (.op n)))
      | x => x)

/-- A sector allocated in a core's read cache, as the most recently used of its set (R294, R295). -/
def Core.allocate (c : Core) (sec : Nat) (b : BitVec 256) : Core :=
  { c with rcache := Sparse.upd [] c.rcache (sec % 64) fun l => ((sec, b) :: l.filter (·.1 ≠ sec)).take 8 }

/-- A sector's bytes for the gather engine: from the read cache, or from package memory; whether they came from the cache
(R294, R295). -/
def State.gatherSector (s : State) (n pa : Nat) : Res (Bool × BitVec 256) :=
  let sec := pa / 32
  match (Sparse.get [] (s.core n).rcache (sec % 64)).find? (·.1 = sec) with
  | some e => (.ok (true, e.2), s.updCore n (·.allocate sec e.2))
  | none =>
    match s.readSec (32 * sec) 32 with
    | (.error c, t) => (.error c, t)
    | (.ok b, t) => (.ok (false, BitVec.ofNat 256 (bytesToNat b)), t)

/-- A whole sector read by the gather engine for its demand element (R293 to R295). -/
def State.gatherRead (s : State) (n m va : Nat) : Res (List Byte) :=
  if s.cutOff n then (.ok (List.replicate 32 0), s.bar)
  else failOnLost n (match s.xlate n m va false with
    | (.error c, t) => (.error c, t)
    | (.ok (pa, l), t) =>
      match t.gatherSector n pa with
      | (.error c, t) => (.error c, t)
      | (.ok (hit, b), t) =>
        (.ok (natToBytes 32 b.toNat), if hit || l.noPrefetch then t else t.updCore n (·.allocate (pa / 32) b)))

/-! Accesses through a meadow's translation by an agent other than a core. -/

/-- Cicada pipe `n`. -/
def State.pipe (s : State) (n : Nat) : Pipe := Sparse.get Pipe.zero s.pipes n
/-- Cicada pipe `n` changed. -/
def State.updPipe (s : State) (n : Nat) (f : Pipe → Pipe) : State :=
  { s with pipes := Sparse.put Pipe.zero s.pipes n (f (s.pipe n)) }

/-- A walk for an agent other than a core. A Cicada pipe's walker (`who`) keeps the leaves of the job that runs (R425). -/
def State.mwalk (s : State) (who : Option Nat) (m va : Nat) : Res Leaf :=
  match who with
  | none => s.walk none m va
  | some n =>
    match (s.pipe n).leaves.find? fun l => l.vpage = va / 2 ^ 16 with
    | some l => (.ok l, s)
    | none =>
      match s.walk none m va with
      | (.ok l, t) => (.ok l, t.updPipe n fun x => { x with leaves := l :: x.leaves })
      | e => e

/-- A byte range read through a meadow's tables by the hub, Cicada, Swarm or the transport port; `fuel` sectors. -/
def State.mread (s : State) (who : Option Nat) (m : Nat) : Nat → Nat → Nat → Res (List Byte)
  | 0, _, _ => (.ok [], s)
  | fuel + 1, va, k =>
    if k = 0 then (.ok [], s)
    else
      let h := min k (32 - va % 32)
      match s.mwalk who m va with
      | (.error c, t) => (.error c, t)
      | (.ok l, t) =>
        match t.leafCheck m l false with
        | .error c => (.error c, t)
        | .ok _ =>
          match t.readSec (l.pa + va % 2 ^ 16) h with
          | (.error c, t) => (.error c, t)
          | (.ok b, t) =>
            match t.mread who m fuel (va + h) (k - h) with
            | (.error c, t) => (.error c, t)
            | (.ok b', t) => (.ok (b ++ b'), t)

/-- The number of sectors that `k` bytes at `a` touch. -/
def sectorsOf (a k : Nat) : Nat := if k = 0 then 0 else (a + k - 1) / 32 + 1 - a / 32

/-- A dropped write recorded in every meadow whose frozen state refused it (R297). -/
def State.frozenDrop (s : State) (ms : List Nat) (pa agent : Nat) : State :=
  ms.foldl (fun t m => t.updMeadow m fun x =>
    { x with frozenDrops := satInc x.frozenDrops, frozenLast := BitVec.ofNat 52 (pa + agent * 2 ^ 48) }) s

/-- A write within one sector at a physical address by an agent other than a core (R297, R314, R325, R534).
`via` is the meadow whose FROZEN leaf refuses the write in its open epoch. -/
def State.agentWrite (s : State) (agent pa : Nat) (b : List Byte) (via : Option Nat) : State :=
  let ms := (match via with | some m => [m] | none => []) ++ (s.frozenBy pa none).filter (via != some ·)
  if s.pageRetired pa then s.updPkg fun p => { p with retireDrops := satInc p.retireDrops }
  else if !ms.isEmpty then s.frozenDrop ms pa agent
  else (s.writeSec pa b).2

/-- A read within one sector at a physical address by an agent other than a core: all ones where the page is retired, or where the
read meets an uncorrectable error, which is told (R313, R314). -/
def State.agentRead (s : State) (pa k : Nat) : (Bool × List Byte) × State :=
  let ones := List.replicate k (0xFF : Byte)
  if s.pageRetired pa then ((false, ones), s)
  else match s.readSec pa k with
    | (.ok b, t) => ((false, b), t)
    | (.error _, t) => ((true, ones), t)

/-- Whether a write within one sector is dropped for a FROZEN page (R297, R325). -/
def State.frozenAt (s : State) (pa : Nat) (via : Option Nat) : Bool :=
  !s.pageRetired pa && (via.isSome || !(s.frozenBy pa none).isEmpty)

/-- A byte range written through a meadow's tables by an agent other than a core; `fuel` sectors.
The first translation fault ends it; a FROZEN page drops its sectors (R297). Answers whether any sector was so dropped. -/
def State.mwrite (s : State) (who : Option Nat) (agent m : Nat) : Nat → Nat → List Byte → Res Bool
  | 0, _, _ => (.ok false, s)
  | fuel + 1, va, b =>
    if b.isEmpty then (.ok false, s)
    else
      let h := 32 - va % 32
      match s.mwalk who m va with
      | (.error c, t) => (.error c, t)
      | (.ok l, t) =>
        let pa := l.pa + va % 2 ^ 16
        let go (via : Option Nat) : Res Bool :=
          match (t.agentWrite agent pa (b.take h) via).mwrite who agent m fuel (va + h) (b.drop h) with
          | (.ok f, u) => (.ok (f || t.frozenAt pa via), u)
          | x => x
        match t.leafCheck m l true with
        | .error c =>
          if c = Code.frozen then go (if l.frozen && (t.meadow m).window then some m else none)
          else (.error c, t)
        | .ok _ => go none

/-- A whole range read through a meadow's tables. -/
def State.mreadAll (s : State) (m va k : Nat) : Res (List Byte) := s.mread none m (sectorsOf va k) va k
/-- A whole range written through a meadow's tables. -/
def State.mwriteAll (s : State) (agent m va : Nat) (b : List Byte) : Res Bool :=
  s.mwrite none agent m (sectorsOf va b.length) va b

end Sys2Proof.Machine
end

