-- ==== Sys2Proof/Machine/Operands.lean ====
section
/-!
DEFINITION. Operand forms: instruction fields (R92, R93), tensor references (R106, R107) and descriptors.
-/

namespace Sys2Proof

/-- Every field but those marked used is zero (R93). -/
def Fields.only (f : Fields) (dst sa sb tok sub : Bool) (imm : Word) : Bool :=
  (dst || f.dst == 0) && (sa || f.sa == 0) && (sb || f.sb == 0) && (tok || f.tok == 0) && (sub || f.sub == 0)
    && (f.imm &&& ~~~imm) == 0

/-- IMM sign-extended to 64 bits (R94, R97). -/
def Fields.simm (f : Fields) : Dword := f.imm.signExtend 64

end Sys2Proof

namespace Sys2Proof.Machine

open Sys2Proof

/-- A field that names a d or v register has bit 4 zero (R92). -/
def reg16 (r : BitVec 5) : Bool := r.toNat < 16

/-- A tensor reference (R106). -/
structure Tens where
  addr : Nat
  fmt : Nat
  space : Nat
  scale : Int
  stride : Nat
  rsv : Nat
deriving DecidableEq, Repr

/-- The tensor reference in words `i` to `i + 2` of a descriptor (R106). -/
def tensAt (d : Line) (i : Nat) : Tens :=
  let w1 := lineWord d (i + 1)
  let w2 := lineWord d (i + 2)
  ⟨lineWord d i + bitsOf w1 15 0 * 2 ^ 32, bitsOf w1 18 16, bitsOf w1 20 19, signedOf 16 (bitsOf w2 15 0), bitsOf w2 31 16,
    bitsOf w1 31 21⟩

/-- Whether a reference is all zero, as one that is not used must be (R107). -/
def Tens.zero (t : Tens) : Bool :=
  t.addr = 0 && t.fmt = 0 && t.space = 0 && t.scale = 0 && t.stride = 0 && t.rsv = 0

/-- The format of a reference that has passed its checks. -/
def Tens.f (t : Tens) : Fmt := (fmtOf t.fmt).getD .s8

/-- The byte address of element `c` of row `r` (R106). -/
def Tens.at (t : Tens) (r c : Nat) : Nat := t.addr + 32 * t.stride * r + c * t.f.size

/-- The end of a tensor of `rows` rows of `bytes` bytes; a tensor without a byte lies in every store (R107, R536). -/
def Tens.stop (t : Tens) (rows bytes : Nat) : Nat :=
  if rows = 0 ∨ bytes = 0 then 0 else t.addr + 32 * t.stride * (rows - 1) + bytes

/-- Step 7 for one tensor: SPACE accepted, ADDR a multiple of 32, every byte in its store (R107). -/
def tensPlace (t : Tens) (spaces : List Nat) (rows bytes : Nat) : Option Half :=
  if !spaces.contains t.space then some Code.space
  else if t.addr % 32 ≠ 0 then some Code.address
  else if t.space = 0 ∧ 0x20000 < t.stop rows bytes then some Code.address
  else if t.space = 1 ∧ 0x60000 < t.stop rows bytes then some Code.address
  else none

/-- The first check that fails. -/
def firstFail : List (Option Half) → Option Half := firstSome id

/-- A check: `none` when the condition holds, else the code. -/
def need (b : Bool) (code : Half) : Option Half := if b then none else some code

end Sys2Proof.Machine
end

