-- ==== Sys2Proof/Machine/Routes.lean ====
section
/-!
DEFINITION. Routes over absent links on the mesh and on the trunk, and the route tables (01 R28; 02 R59; 15 R331, R332,
R338, R346).
-/

namespace Sys2Proof.Machine

open Sys2Proof

/-- A network of routers; router number `cols * row + column`. The trunk's rows and columns close (15, The trunk). -/
structure Grid where
  rows : Nat
  cols : Nat
  wraps : Bool

/-- The mesh: one router a site (R14). -/
def meshGrid : Grid := ⟨64, 66, false⟩
/-- The trunk: one router a base tussock. -/
def trunkGrid : Grid := ⟨16, 16, true⟩

/-- The positions whose link to the next position a leg crosses, on a line of `size`. Where the line closes the leg takes the
shorter way round, and of two equal ways the one that counts up: DESIGN CHOICE, log entry 14. -/
def legLinks (wraps : Bool) (size a b : Nat) : List Nat :=
  if wraps then
    let up := (b + size - a) % size
    if 2 * up ≤ size then (upFrom a up).map (· % size) else (upFrom b (size - up)).map (· % size)
  else upFrom (min a b) (max a b - min a b)

/-- Whether a row's link from a column to the next is absent, by the mark at either end. -/
def Grid.eastAbsent (g : Grid) (down : Sparse Bool) (row c : Nat) : Bool :=
  Sparse.get false down (4 * (g.cols * row + c) + 1) || Sparse.get false down (4 * (g.cols * row + (c + 1) % g.cols) + 3)
/-- Whether a column's link from a row to the next is absent, by the mark at either end. -/
def Grid.southAbsent (g : Grid) (down : Sparse Bool) (col r : Nat) : Bool :=
  Sparse.get false down (4 * (g.cols * r + col) + 2) || Sparse.get false down (4 * (g.cols * ((r + 1) % g.rows) + col))

/-- Whether a leg along a row is free of absent links. -/
def Grid.rowFree (g : Grid) (down : Sparse Bool) (row a b : Nat) : Bool :=
  (legLinks g.wraps g.cols a b).all fun c => !g.eastAbsent down row c
/-- Whether a leg along a column is free of absent links. -/
def Grid.colFree (g : Grid) (down : Sparse Bool) (col a b : Nat) : Bool :=
  (legLinks g.wraps g.rows a b).all fun r => !g.southAbsent down col r

/-- Whether the XY route avoids every absent link (R331). -/
def Grid.xyFree (g : Grid) (down : Sparse Bool) (a b : Nat) : Bool :=
  g.rowFree down (a / g.cols) (a % g.cols) (b % g.cols) && g.colFree down (b % g.cols) (a / g.cols) (b / g.cols)
/-- Whether the YX route does. -/
def Grid.yxFree (g : Grid) (down : Sparse Bool) (a b : Nat) : Bool :=
  g.colFree down (a % g.cols) (a / g.cols) (b / g.cols) && g.rowFree down (b / g.cols) (a % g.cols) (b % g.cols)
/-- The waypoint of a route record: two XY routes that meet there avoid every absent link. Of several the lowest number is
taken: DESIGN CHOICE, log entry 63. -/
def Grid.waypoint (g : Grid) (down : Sparse Bool) (a b : Nat) : Option Nat :=
  (upFrom 0 (g.rows * g.cols)).find? fun w => g.xyFree down a w && g.xyFree down w b

/-- The form of route that a pair of routers uses (R331); none where they cannot reach each other. A route record follows from
the marks alone, so the model computes it where it is used. -/
def Grid.form (g : Grid) (down : Sparse Bool) (a b : Nat) : Option Route :=
  if g.xyFree down a b then some .xy
  else if g.yxFree down a b then some .yx
  else (g.waypoint down a b).map .way

/-- Whether two routers reach each other (R59). -/
def Grid.reaches (g : Grid) (down : Sparse Bool) (a b : Nat) : Bool := (g.form down a b).isSome

/-- Whether every link of a mesh router is absent; its site is then isolated (R332). -/
def meshCut (down : Sparse Bool) (site : Nat) : Bool :=
  let r := site / 66
  let c := site % 66
  (c = 65 || meshGrid.eastAbsent down r c) && (c = 0 || meshGrid.eastAbsent down r (c - 1))
    && (r = 63 || meshGrid.southAbsent down c r) && (r = 0 || meshGrid.southAbsent down c (r - 1))

/-- The generation and the site of a core in the route table of a meadow (R338). The table is written by ADMIT only; what it
holds of a core before is not stated: generation 0 at the default column, DESIGN CHOICE, log entry 63. -/
def State.route (s : State) (m : Option Nat) (n : Nat) : Half × Nat :=
  match m.bind fun k => Sparse.get none (s.meadow k).routes n with
  | some (g, p) => (g, 66 * (n / 64) + p)
  | none => (0, 66 * (n / 64) + (if n % 64 < 32 then n % 64 else n % 64 + 1))

/-- The route from a core to a site (R331). -/
def State.routeTo (s : State) (n site : Nat) : Route :=
  (meshGrid.form s.heath.meshDown (s.siteOf n) site).getD .xy

end Sys2Proof.Machine
end

