-- ==== Sys2Proof/Machine/Reset.lean ====
section
/-!
DEFINITION. Resets, admissions and the issue of stem commands (15 R342 to R344; 23 R480 to R485, R492).
-/

namespace Sys2Proof.Machine

open Sys2Proof

/-! Clearing (R91, R352, R480). -/

/-- What starting at instruction 0 sets in a core (R91, R119). -/
def Core.start (c : Core) : Core :=
  { c with
    g := [], d := [], v := [], tok := [], scratch := [], pc := 0, ctl := .run, progress := false }

/-- What a boundary clears in a core (R352). -/
def Core.clear (c : Core) : Core :=
  { c with
    tok := [], eng := [], cells := [], slots := [], rings := [], sendq := [], rcache := [], tlb := [], lookup := .idle,
    ctl := .idle, unacked := [] }

/-- What a core reset leaves (R480, R481, R484): its stores, program, step registers and the requests in flight. -/
def Core.reset (c : Core) (tick : Nat) : Core :=
  { Core.zero with
    prog := c.prog, near := c.near, deep := c.deep, stepIndex := c.stepIndex, stepT := c.stepT,
    stepSigma := c.stepSigma, stepGuide := c.stepGuide, stepFlags := c.stepFlags, frameIndex := c.frameIndex,
    job := c.job, gen := c.gen + 1, lastReset := some tick, awaitAdmit := true,
    stopped := c.stopped, opSeq := c.opSeq, rcopies := c.rcopies, unacked := c.unacked.filter fun m => m.st != .held }

/-- A core that returns empty (R18, R31). It is not the reset of a domain, so R485 does not count from it. -/
def Core.empty (c : Core) (tick : Nat) : Core :=
  { c.reset tick with near := [], deep := [], unacked := [], rcopies := [], lastReset := c.lastReset }

/-- A core whose base tussock is GATED: its stores are erased (R30, R31). -/
def Core.erase (c : Core) : Core :=
  { Core.zero with
    prog := c.prog, gen := c.gen, lastReset := c.lastReset, job := c.job, opSeq := c.opSeq, stepIndex := c.stepIndex,
    stepT := c.stepT, stepSigma := c.stepSigma, stepGuide := c.stepGuide, stepFlags := c.stepFlags,
    frameIndex := c.frameIndex, awaitAdmit := true }

/-- A core that changes its owner: of what it held, its generation, the time of its last reset and the count of its operations stay
(R31). -/
def Core.wiped (c : Core) : Core :=
  { Core.zero with gen := c.gen, lastReset := c.lastReset, opSeq := c.opSeq, awaitAdmit := true }

/-- The stores of cores saved (R493, R503), also those of a core whose core SRAM has failed: they are lost only where the test
moves the core (R36). DEDUCED, log entry 35. -/
def State.saveStores (s : State) (l : List Nat) : State :=
  s.updSxt fun x =>
    { x with saved := l.foldl (fun m n => Sparse.put none m n (some ⟨(s.core n).near, (s.core n).deep⟩)) x.saved }

/-- The walker's and the context walker's caches of a base tussock (R263, R324). -/
def Base.clear (b : Base) : Base :=
  { b with ptrCache := [], leafCache := [], ctxDir := none, ctxBuf := [], lookupQ := [] }

/-- Cores reset. -/
def State.resetCores (s : State) (l : List Nat) : State := s.updCores l fun c => c.reset s.tick

/-! Stem commands (R342, R343, R394). -/

/-- Whether one of Sexton's four places is free for a command: one place is reserved for each port's control page. -/
def stemPlace (out : List StemCmd) (c : StemCmd) : Bool :=
  match c.by_ with
  | .ctl p => out.all fun o => o.by_ != .ctl p
  | _ => (out.filter fun o => match o.by_ with | .ctl _ => false | _ => true).length < 2

/-- The meadow whose top-level tussock an identifier is. -/
def State.meadowOfTop (s : State) (id : Nat) : Option Nat :=
  (s.meadows.find? fun e => e.2.state != .absent && e.2.top == id).map (·.1)

/-- The meadow whose route tables an ADMIT writes (R342). -/
def State.meadowOfTarget (s : State) (id : Nat) : Option Nat :=
  match s.meadowOfTop id with
  | some m => some m
  | none => ((s.basesOf id).getD []).head?.bind s.meadowOfBase

/-- Whether a reset of cores must wait (R485). -/
def State.tooSoon (s : State) (l : List Nat) : Bool :=
  l.any fun n => match (s.core n).lastReset with | some t => s.tick < t + 2 ^ 20 | none => false

/-- The cores of a domain (R480). -/
def State.domainCores (s : State) : Domain → List Nat
  | .core n => [n]
  | .tussock id => (s.coresOf id).getD []
  | .meadow m => s.meadowCores m
  | .heath | .warm => s.meadowIds.flatMap s.meadowCores

/-- The meadows whose cores a domain contains. -/
def State.domainMeadows (s : State) (d : Domain) : List Nat :=
  match d with
  | .core n => (s.meadowOf n).toList
  | .tussock id => s.meadowIds.filter fun m => ((s.basesOf id).getD []).any fun b => s.meadowOfBase b == some m
  | .meadow m => [m]
  | .heath | .warm => s.meadowIds

/-- A meadow's collective expectations and its sequencers' read-ahead entries cleared (R374, R480). -/
def Meadow.forget (m : Meadow) : Meadow :=
  { m with
    swSeq := 1, swIdx := 0,
    seqs := m.seqs.map fun e =>
      (e.1, { e.2 with ahead := none, entry := if e.2.state = .waiting then none else e.2.entry }) }

/-- The reset of a domain up to the heath (R480, R490): cores, base tussocks, meadows, flits; epochs of affected
meadows fail under a code unless the domain is one core. A core's reset also invalidates the walker caches that R296 names,
and its lookup leaves the walker's queue (R268, R324). -/
def State.resetDomain (s : State) (d : Domain) (code : Half) : State :=
  let ms := s.domainMeadows d
  let t := match d with
    | .core _ => s
    | _ => ms.foldl (fun u m => u.failEpoch m code) s
  let t := t.resetCores (s.domainCores d)
  match d with
  | .core n => t.updBase (baseOf n) fun b =>
      { b with ptrCache := [], leafCache := [], lookupQ := b.lookupQ.filter (· ≠ n) }
  | .tussock id => t.updBases ((s.basesOf id).getD []) Base.clear
  | .meadow m => (t.updBases (s.meadowBases m) Base.clear).updMeadow m Meadow.forget
  | .heath | .warm =>
    let u := ms.foldl (fun u m => (u.updBases (s.meadowBases m) Base.clear).updMeadow m Meadow.forget) t
    let u := u.updCores (s.domainCores d) fun c => { c with unacked := [], rcopies := [] }
    u.updHub fun h => { h with unacked := [] }

/-- The domain a RESET frame names (R480). -/
def State.domainOf (s : State) (id : Nat) : Domain :=
  if id < 4096 then .core id
  else match s.meadowOfTop id with
    | some m => .meadow m
    | none => .tussock id

/-- A RESET frame applied, or kept until its time (R485). -/
def State.stemReset (s : State) (id : Nat) : Bool × State :=
  let d := s.domainOf id
  if s.tooSoon (s.domainCores d) then
    (true, s.updSxt fun x => { x with delayed := x.delayed ++ [⟨d, Code.reset, false, true⟩] })
  else (false, s.resetDomain d Code.reset)

/-- The route-table entry of a core (R338, R342): the ARG of its ADMIT. -/
def admitArg (n : Nat) (gen : Half) (col : Nat) : Nat := n + gen.toNat * 2 ^ 12 + col * 2 ^ 28

/-- The sites of a base tussock's cores. -/
def State.sitesOf (s : State) (l : List Nat) : List Nat := l.map s.siteOf

/-- WATCH applied to base tussocks (R342, R488). -/
def State.watchCommand (s : State) (l : List Nat) (arg : Nat) : State :=
  let log := bitsOf arg 9 4
  let t := match bitsOf arg 3 0 with
    | 0 => s.updCores (l.flatMap coresOfBase) fun c => { c with progress := false }
    | 1 => s.updBases l fun b => { b with watchSuspended := true }
    | 2 => s.updBases l fun b => { b with watchSuspended := false }
    | _ => s
  if 24 ≤ log ∧ log ≤ 36 then
    { t with heath := { t.heath with watchLog := l.foldl (fun m b => Sparse.put 30 m b log) t.heath.watchLog } }
  else t

/-- A stem command's effect at the control blocks (R342). A repair's own ISOLATE leaves its meadow FAILED, to be replayed (R493). -/
def State.applyStem (s : State) (c : StemCmd) : Bool × State :=
  let cores := (s.coresOf c.target).getD []
  let stop (t : State) : State :=
    match t.meadowOfTop c.target with
    | some m => t.stopMeadow m
    | none => t.stopCores cores
  match c.op with
  | 1 => (false, stop s)
  | 2 =>
    let t := if c.by_ = .repair then s.stopCores cores else stop s
    (false, { t with heath := { t.heath with
      isolated := (s.sitesOf cores).foldl (fun m x => Sparse.put false m x true) t.heath.isolated } })
  | 3 => s.stemReset c.target
  | 4 =>
    (false, match s.meadowOfTarget c.target with
      | none => s
      | some m => s.updMeadow m fun x => { x with
          routes := Sparse.put none x.routes (bitsOf c.arg 11 0)
            (some (BitVec.ofNat 16 (bitsOf c.arg 27 12), bitsOf c.arg 34 28)) })
  | 6 => (false, s.watchCommand ((s.basesOf c.target).getD []) c.arg)
  | _ => (false, s)

/-- The first command that has a place, and the others. -/
def pickStem (out : List StemCmd) : List StemCmd → Option (StemCmd × List StemCmd)
  | [] => none
  | c :: r => if stemPlace out c then some (c, r) else (pickStem out r).map fun (x, l) => (x, c :: l)

/-- Waiting stem commands issued while places are free (R343); at most four. -/
def State.pumpStem : Nat → State → State
  | 0, s => s
  | fuel + 1, s =>
    if s.sxt.lockstep then s
    else match pickStem s.sxt.stemOut s.sxt.stemWait with
      | none => s
      | some (c, r) =>
        let (w, t) := (s.updSxt fun x => { x with stemWait := r }).applyStem c
        State.pumpStem fuel (t.updSxt fun x => { x with stemOut := x.stemOut ++ [{ c with waits := w }] })

/-- A stem command put to Sexton for issue. -/
def State.issueStem (s : State) (c : StemCmd) : State :=
  State.pumpStem 4 (s.updSxt fun x => { x with stemWait := x.stemWait ++ [c] })

/-- ADMITs of cores, in order, each with its generation and physical column (R342, R492). -/
def State.issueAdmits (s : State) (l : List Nat) (by_ : StemBy) : State :=
  let cmds := l.map fun n =>
    let top := match s.meadowOf n with | some m => (s.meadow m).top | none => n
    (⟨4, top, admitArg n (s.core n).gen (s.column n), by_, false⟩ : StemCmd)
  State.pumpStem 4 (s.updSxt fun x => { x with stemWait := x.stemWait ++ cmds })

/-- Port `p`'s mailbox. -/
def State.mbox (s : State) (p : Nat) : Mailbox := Sparse.get Mailbox.zero s.sxt.mail p

/-- A stream or guard request of the host is in progress (R44, R447). -/
def State.hostStream (s : State) : Bool :=
  match s.sxt.mailQueue.head? with
  | some p => match (s.mbox p).job with | some j => j.op == 2 || j.op == 3 | none => false
  | none => false

/-- A stream or guard request is in progress (R44, R447). -/
def State.streamBusy (s : State) : Bool := s.sxt.repair.phase == 4 || s.hostStream

/-- The next repair begins, behind a stream or guard request of the host: the meadow's epoch fails and ISOLATE is sent
(R44, R493). One that follows a requested test has its base tussock isolated and tested: it goes on with step 4 (R504). -/
def State.kickRepair (s : State) (code : Half) : State :=
  match s.sxt.repairQueue with
  | [] => s
  | j :: r =>
    if s.sxt.lockstep ∨ s.hostStream ∨ (1 ≤ s.sxt.repair.phase ∧ s.sxt.repair.phase < 7) then s
    else
      let begin (phase : Nat) : State :=
        s.updSxt fun x => { x with repairQueue := r, repair := ⟨phase, j.base, 0, 0, j.why, j.routers, j.trunk⟩ }
      match j.why with
      | .test => begin 3
      | .fault =>
        let t := begin 1
        let t := match t.meadowOfBase j.base with | some m => t.failEpoch m code | none => t
        t.issueStem ⟨2, 0x1000 + j.base, 0, .repair, false⟩

/-- A core faults at instruction `pc` with a code (R122); a double-bit error starts a repair (R493). -/
def State.coreFault (s : State) (n : Nat) (code : Half) (pc : Nat) : State :=
  let t := s.updCore n fun c => { c with ctl := .faulted, faulted := true, lastError := code, faultPc := pc }
  let t := match t.meadowOf n with
    | some m => t.failEpoch m code
    | none => t
  if code = Code.coreSram then (t.askRepair ⟨baseOf n, .fault, [], false⟩).kickRepair code else t

end Sys2Proof.Machine
end

