-- ==== Sys2Proof/Machine/ControlUnit.lean ====
section
/-!
DEFINITION. The control unit (04 R89 to R123): its instructions but for the engine issues.
An instruction that issues on a core that is not issuing changes nothing (log entry 12).
-/

namespace Sys2Proof.Machine

open Sys2Proof

/-- Whether a control unit may issue its next instruction (R91, R118, R122, R342, R344). -/
def Core.issuing (c : Core) : Bool := c.ctl == .run && !c.stopped && !c.awaitAdmit

/-- The instruction after the current one; past 4,095 the core faults (R93). -/
def State.adv (s : State) (n : Nat) : State :=
  if (s.core n).pc = 4095 then s.coreFault n Code.pcRange 4095
  else s.updCore n fun c => { c with pc := c.pc + 1 }

/-- A fault at the current instruction (R122). -/
def State.faultHere (s : State) (n : Nat) (code : Half) : State := s.coreFault n code (s.core n).pc

/-- The instruction word that a core issues next (R91). -/
def Core.word (c : Core) : Dword := Sparse.get 0 c.prog c.pc

/-- An instruction of a core: nothing where the core does not issue, or another word stands there in its program store;
ST_CORE_ILLEGAL where the instruction is illegal (R91, R93). -/
def State.cu (s : State) (n : Nat) (op : BitVec 8) (f : Fields) (legal : Bool) (body : State → State) : Out :=
  .next (if !(s.core n).issuing || (s.core n).word != f.word op then s
    else if !legal then s.faultHere n Code.illegal
    else body s)

/-- g[DST] written and the next instruction. -/
def State.result (s : State) (n : Nat) (f : Fields) (x : Dword) : State :=
  (s.updCore n fun c => c.setG f.dst.toNat x).adv n

/-! ALU (R94, R95). -/

/-- An ALU instruction is legal: SUB 0 uses SB, SUB 1 uses IMM (R93). -/
def aluLegal (f : Fields) : Bool :=
  if f.sub = 0 then f.only true true true false false 0
  else f.sub = 1 && f.only true true false false true 0xFFFFFFFF

/-- The operand b (R94). -/
def aluB (c : Core) (f : Fields) : Dword := if f.sub = 0 then c.gr f.sb.toNat else f.simm

/-- An ALU instruction: g[DST] := g[SA] op b (R94, R95). -/
def alu (o : BitVec 8) (op : Dword → Dword → Dword) (c : CoreIx) (f : Fields) (s : State) : Out :=
  s.cu c o f (aluLegal f) fun s => s.result c f (op ((s.core c).gr f.sa.toNat) (aluB (s.core c) f))

/-- NOP (R94). -/
def execNop (c : CoreIx) (f : Fields) (s : State) : Out :=
  s.cu c 0x00 f (f.only false false false false false 0) fun s => s.adv c
/-- ADD (R95). -/
def execAdd (c : CoreIx) (f : Fields) (s : State) : Out := alu 0x01 (· + ·) c f s
/-- SUB (R95). -/
def execSub (c : CoreIx) (f : Fields) (s : State) : Out := alu 0x02 (· - ·) c f s
/-- AND (R94). -/
def execAnd (c : CoreIx) (f : Fields) (s : State) : Out := alu 0x03 (· &&& ·) c f s
/-- OR (R94). -/
def execOr (c : CoreIx) (f : Fields) (s : State) : Out := alu 0x04 (· ||| ·) c f s
/-- XOR (R94). -/
def execXor (c : CoreIx) (f : Fields) (s : State) : Out := alu 0x05 (· ^^^ ·) c f s
/-- SHL by the low 6 bits of b (R95). -/
def execShl (c : CoreIx) (f : Fields) (s : State) : Out := alu 0x06 (fun a b => a <<< (b.toNat % 64)) c f s
/-- SHR, logical (R95). -/
def execShr (c : CoreIx) (f : Fields) (s : State) : Out := alu 0x07 (fun a b => a >>> (b.toNat % 64)) c f s
/-- SRA, arithmetic (R95). -/
def execSra (c : CoreIx) (f : Fields) (s : State) : Out := alu 0x08 (fun a b => a.sshiftRight (b.toNat % 64)) c f s
/-- MUL, low 64 bits (R95). -/
def execMul (c : CoreIx) (f : Fields) (s : State) : Out := alu 0x09 (· * ·) c f s
/-- MULHU, high 64 bits of the unsigned product (R95). -/
def execMulhu (c : CoreIx) (f : Fields) (s : State) : Out :=
  alu 0x0A (fun a b => BitVec.ofNat 64 (a.toNat * b.toNat / 2 ^ 64)) c f s
/-- SLT, signed (R95). -/
def execSlt (c : CoreIx) (f : Fields) (s : State) : Out := alu 0x0B (fun a b => if a.slt b then 1 else 0) c f s
/-- SLTU, unsigned (R95). -/
def execSltu (c : CoreIx) (f : Fields) (s : State) : Out := alu 0x0C (fun a b => if a.ult b then 1 else 0) c f s
/-- MIN, signed (R95). -/
def execMin (c : CoreIx) (f : Fields) (s : State) : Out := alu 0x0D (fun a b => if a.slt b then a else b) c f s
/-- MAX, signed (R95). -/
def execMax (c : CoreIx) (f : Fields) (s : State) : Out := alu 0x0E (fun a b => if a.slt b then b else a) c f s

/-- Leading zeros of a 64-bit word. -/
def clz64 (a : Dword) : Nat := if a = 0 then 64 else 63 - Nat.log2 a.toNat
/-- One bits of a 64-bit word. -/
def popc64 (a : Dword) : Nat := ((List.range 64).filter fun i => a.getLsbD i).length

/-- CLZ (R94). -/
def execClz (c : CoreIx) (f : Fields) (s : State) : Out :=
  s.cu c 0x0F f (f.only true true false false false 0) fun s =>
    s.result c f (BitVec.ofNat 64 (clz64 ((s.core c).gr f.sa.toNat)))
/-- POPC (R94). -/
def execPopc (c : CoreIx) (f : Fields) (s : State) : Out :=
  s.cu c 0x10 f (f.only true true false false false 0) fun s =>
    s.result c f (BitVec.ofNat 64 (popc64 ((s.core c).gr f.sa.toNat)))
/-- LIH (R94). -/
def execLih (c : CoreIx) (f : Fields) (s : State) : Out :=
  s.cu c 0x11 f (f.only true true false false false 0xFFFFFFFF) fun s =>
    s.result c f (f.imm ++ ((s.core c).gr f.sa.toNat).setWidth 32)

/-! Branches (R94, R95). -/

/-- A jump to an instruction index. -/
def State.jump (s : State) (n t : Nat) : State := s.updCore n fun c => { c with pc := t }

/-- The branch conditions of SUB 0 to 6 (R94). -/
def branchHolds (sub : Nat) (a b : Dword) : Bool :=
  match sub with
  | 0 => true | 1 => a == b | 2 => a != b | 3 => a.slt b | 4 => !a.slt b | 5 => a.ult b | _ => !a.ult b

/-- BR (R94). -/
def execBr (c : CoreIx) (f : Fields) (s : State) : Out :=
  s.cu c 0x20 f (f.only false true true false true 0xFFF && f.sub != 7) fun s =>
    if branchHolds f.sub.toNat ((s.core c).gr f.sa.toNat) ((s.core c).gr f.sb.toNat) then s.jump c f.imm.toNat
    else s.adv c
/-- CALL (R94). -/
def execCall (c : CoreIx) (f : Fields) (s : State) : Out :=
  s.cu c 0x21 f (f.only true false false false false 0xFFF) fun s =>
    (s.updCore c fun k => k.setG f.dst.toNat (BitVec.ofNat 64 (k.pc + 1))).jump c f.imm.toNat
/-- JR, bits [63:12] ignored (R95). -/
def execJr (c : CoreIx) (f : Fields) (s : State) : Out :=
  s.cu c 0x22 f (f.only false true false false false 0) fun s => s.jump c (((s.core c).gr f.sa.toNat).toNat % 4096)

/-! Near-store accesses (R97). -/

/-- The address of a near-store access of `size` bytes, or the fault (R97). An access that is both misaligned and beyond the
near store faults with ST_CORE_ALIGN: the rule gives no order of the two (DESIGN CHOICE, log entry 25). -/
def nearAddr (c : Core) (f : Fields) (size : Nat) : Except Half Nat :=
  let a := (c.gr f.sa.toNat + f.simm).toNat
  if a % size ≠ 0 then .error Code.align
  else if 0x20000 < a + size then .error Code.range
  else .ok a

/-- What the check bits of a near-store read find (23): a single-bit error is corrected and counted,
a double-bit error faults the core. -/
def State.sram (s : State) (n : Nat) (e : Ecc) (k : State → State) : State :=
  match e with
  | .clean => k s
  | .corrected => k (s.updHub fun h => { h with sramCorrected := satInc h.sramCorrected })
  | .uncorrectable => s.faultHere n Code.coreSram

/-- LD: zero-extended, or sign-extended when SUB[2] is set (R94, R97). -/
def execLd (c : CoreIx) (f : Fields) (e : Ecc) (s : State) : Out :=
  s.cu c 0x30 f (f.only true true false false true 0xFFFFFFFF) fun s =>
    let size := 2 ^ (f.sub.toNat % 4)
    match nearAddr (s.core c) f size with
    | .error k => s.faultHere c k
    | .ok a => s.sram c e fun s =>
      let x := Mem.nat (s.core c).near a size
      s.result c f (if 4 ≤ f.sub.toNat then BitVec.ofInt 64 (signedOf (8 * size) x) else BitVec.ofNat 64 x)
/-- ST (R94, R97). -/
def execSt (c : CoreIx) (f : Fields) (s : State) : Out :=
  s.cu c 0x31 f (f.only false true true false true 0xFFFFFFFF && f.sub.toNat < 4) fun s =>
    let size := 2 ^ (f.sub.toNat % 4)
    match nearAddr (s.core c) f size with
    | .error k => s.faultHere c k
    | .ok a => (s.updCore c fun k => k.nearWrite a (natToBytes size (k.gr f.sb.toNat).toNat)).adv c
/-- LDD (R94, R97). -/
def execLdd (c : CoreIx) (f : Fields) (e : Ecc) (s : State) : Out :=
  s.cu c 0x34 f (f.only true true false false false 0xFFFFFFFF && reg16 f.dst) fun s =>
    match nearAddr (s.core c) f 64 with
    | .error k => s.faultHere c k
    | .ok a => s.sram c e fun s => (s.updCore c fun k => k.setD f.dst.toNat (k.nearLine a)).adv c
/-- STD (R94, R97). -/
def execStd (c : CoreIx) (f : Fields) (s : State) : Out :=
  s.cu c 0x35 f (f.only false true true false false 0xFFFFFFFF && reg16 f.sb) fun s =>
    match nearAddr (s.core c) f 64 with
    | .error k => s.faultHere c k
    | .ok a => (s.updCore c fun k => k.nearWrite a (lineBytes (k.dr f.sb.toNat))).adv c
/-- DPUT (R94). -/
def execDput (c : CoreIx) (f : Fields) (s : State) : Out :=
  s.cu c 0x36 f (f.only true true false false false 7 && reg16 f.dst) fun s =>
    (s.updCore c fun k =>
      let sh := 64 * f.imm.toNat
      let old := k.dr f.dst.toNat
      k.setD f.dst.toNat ((old &&& ~~~((0xFFFFFFFFFFFFFFFF : Line) <<< sh)) ||| ((k.gr f.sa.toNat).setWidth 512 <<< sh))).adv c
/-- DGET (R94). -/
def execDget (c : CoreIx) (f : Fields) (s : State) : Out :=
  s.cu c 0x37 f (f.only true true false false false 7 && reg16 f.sa) fun s =>
    s.result c f (((s.core c).dr f.sa.toNat >>> (64 * f.imm.toNat)).setWidth 64)

/-! Instructions that may stall. A body either completes the instruction or leaves it held. -/

/-- The control unit stalls on an instruction. -/
def State.hold (s : State) (n : Nat) (op : HeldOp) (f : Fields) : State :=
  s.updCore n fun c => { c with ctl := .held op f }

/-- A progress event of a core (R488). -/
def State.tick1 (s : State) (n : Nat) : State := s.updCore n fun c => { c with progress := true }

/-- Whether v0 to v15 are held by a VX operation, or an MM operation with a chain, that is PENDING (R104). -/
def Core.vBusy (c : Core) : Bool :=
  !(c.engq 2).isEmpty || (c.engq 1).any fun o => o.chain != 0 || lineBits o.desc 3 21 11 != 0

/-- An instruction that names a v register, under the interlock of R104. -/
def State.vlock (s : State) (n : Nat) (op : HeldOp) (f : Fields) (k : State → State) : State :=
  if (s.core n).vBusy then s.hold n op f else k s

/-- VLD (R94, R97, R104). -/
def vldBody (n : Nat) (f : Fields) (s : State) : State :=
  s.vlock n .vld f fun s =>
    match nearAddr (s.core n) f 64 with
    | .error k => s.faultHere n k
    | .ok a => (s.updCore n fun k => k.setV f.dst.toNat (k.nearLine a)).adv n
/-- VST (R94, R97, R104). -/
def vstBody (n : Nat) (f : Fields) (s : State) : State :=
  s.vlock n .vst f fun s =>
    match nearAddr (s.core n) f 64 with
    | .error k => s.faultHere n k
    | .ok a => (s.updCore n fun k => k.nearWrite a (lineBytes (k.vr f.sb.toNat))).adv n

/-- VLD; a stalled load meets its check bits when it is retried as a clean read. -/
def execVld (c : CoreIx) (f : Fields) (e : Ecc) (s : State) : Out :=
  s.cu c 0x32 f (f.only true true false false false 0xFFFFFFFF && reg16 f.dst) fun s =>
    if (s.core c).vBusy then s.hold c .vld f
    else match nearAddr (s.core c) f 64 with
    | .error _ => vldBody c f s
    | .ok _ => s.sram c e fun s => vldBody c f s
/-- VST. -/
def execVst (c : CoreIx) (f : Fields) (s : State) : Out :=
  s.cu c 0x33 f (f.only false true true false false 0xFFFFFFFF && reg16 f.sb) fun s => vstBody c f s

/-- The timeout of WAIT and RECV (R101). -/
def timeoutOf (c : Core) (f : Fields) : Nat :=
  if f.sb = 0 then f.imm.toNat else (c.gr f.sb.toNat).toNat % 2 ^ 32

/-- g[DST] := a status code, and the next instruction. -/
def State.status (s : State) (n : Nat) (f : Fields) (code : Half) : State := s.result n f (code.setWidth 64)

/-- The instruction completes: the control unit issues again. -/
def State.release (s : State) (n : Nat) : State :=
  s.updCore n fun c => { c with ctl := match c.ctl with | .held _ _ => .run | x => x }

/-- WAIT (R101). -/
def waitBody (n : Nat) (f : Fields) (s : State) : State :=
  match (s.core n).token f.tok.toNat with
  | .free => (s.release n).status n f Code.tokenFree
  | .done code =>
    let t := (s.release n).updCore n fun c => c.setTok f.tok.toNat .free
    (if code = Code.ok then t.tick1 n else t).status n f code
  | .pending =>
    if timeoutOf (s.core n) f = 0 then (s.release n).status n f Code.timeout else s.hold n .wait f

/-- WAIT. -/
def execWait (c : CoreIx) (f : Fields) (s : State) : Out :=
  s.cu c 0x60 f (f.only true false true true false (if f.sb = 0 then 0xFFFFFFFF else 0)) fun s => waitBody c f s

/-- The timeout count of a stalled WAIT expires; a timeout of 0xFFFF_FFFF never does (R101). -/
def execWaitTimeout (c : CoreIx) (s : State) : Out :=
  .next (match (s.core c).ctl with
    | .held .wait f =>
      if timeoutOf (s.core c) f = 0xFFFFFFFF then s else (s.release c).status c f Code.timeout
    | _ => s)

/-- Whether an MM operation that is queued or running takes its notes from queue `q` (R179, R225). -/
def Core.queueTaken (c : Core) (q : Nat) : Bool :=
  (c.engq 1).any fun o =>
    (lineBits o.desc 0 12 12 = 1 && lineBits o.desc 0 15 13 = q)
    || (!o.plan.isEmpty &&
      (((fieldNat o.plan 20 4 ≠ 0xFFFFFFFF) && fieldNat o.plan 28 4 % 8 = q)
        || ((fieldNat o.plan 24 4 ≠ 0xFFFFFFFF) && fieldNat o.plan 28 4 / 16 % 8 = q)))

/-- The head entry of queue `q` taken (R336). -/
def State.takeHead (s : State) (n q : Nat) : Line × State :=
  let r := (s.core n).ring q
  let d := s.queueDepth (8 * n + q)
  ((s.core n).nearLine (s.queueRing (8 * n + q) + 64 * r.head),
    s.updCore n fun c => c.setRing q ⟨(r.head + 1) % d, r.count - 1⟩)

/-- RECV (R116, R179). -/
def recvBody (n : Nat) (f : Fields) (s : State) : State :=
  s.vlock n .recv f fun s =>
    let q := f.sub.toNat
    if ((s.core n).ring q).count ≠ 0 ∧ !(s.core n).queueTaken q then
      let (e, t) := s.takeHead n q
      (((t.release n).updCore n fun c => c.setV f.sa.toNat e).tick1 n).status n f Code.ok
    else if timeoutOf (s.core n) f = 0 then (s.release n).status n f Code.timeout
    else s.hold n .recv f

/-- RECV. -/
def execRecv (c : CoreIx) (f : Fields) (s : State) : Out :=
  s.cu c 0x51 f (f.only true true true false true (if f.sb = 0 then 0xFFFFFFFF else 0) && reg16 f.sa) fun s => recvBody c f s

/-- The timeout count of a stalled RECV expires (R116). A RECV that the interlock of R104 stalls has not issued: its count
has not started. -/
def execRecvTimeout (c : CoreIx) (s : State) : Out :=
  .next (match (s.core c).ctl with
    | .held .recv f =>
      if timeoutOf (s.core c) f = 0xFFFFFFFF ∨ (s.core c).vBusy then s else (s.release c).status c f Code.timeout
    | _ => s)

/-- POLL (R116). -/
def execPoll (c : CoreIx) (f : Fields) (s : State) : Out :=
  s.cu c 0x52 f (f.only true false false false true 0) fun s =>
    s.result c f (BitVec.ofNat 64 ((s.core c).ring f.sub.toNat).count)

/-- A walker's caches invalidated (R324). -/
def State.dropWalker (s : State) (b : Nat) : State := s.updBase b fun x => { x with ptrCache := [], leafCache := [] }

/-- FENCE (R117). -/
def fenceBody (n : Nat) (f : Fields) (s : State) : State :=
  if f.sub.getLsbD 0 && (s.core n).anyPending then s.hold n .fence f
  else
    let t := s.release n
    (if f.sub.getLsbD 1 then (t.updCore n Core.dropCaches).dropWalker (baseOf n) else t).adv n

/-- FENCE. -/
def execFence (c : CoreIx) (f : Fields) (s : State) : Out :=
  s.cu c 0x61 f (f.only false false false false true 0 && f.sub.toNat < 4) fun s => fenceBody c f s

/-- The lowest-numbered token that is DONE with an error (R118). -/
def Core.firstError (c : Core) : Option Half :=
  firstSome (fun e => match e.2 with | .done k => if k = 0 then none else some k | _ => none) c.tok

/-- The meadow enters BOUNDARY when every core has executed EPOCH_END (R352). -/
def State.checkBoundary (s : State) (m : Nat) : State :=
  if (s.meadow m).state = .opened ∧ (s.meadowCores m).all (fun n => (s.core n).ctl == .ended) then
    s.updMeadow m fun x => { x with state := .boundary, drained := false }
  else s

/-- EPOCH_END (R118). -/
def epochEndBody (n : Nat) (f : Fields) (s : State) : State :=
  if (s.core n).anyPending then s.hold n .epochEnd f
  else
    let t := s.updCore n fun c =>
      let c := match c.firstError with
        | some k => { c with uncollected := true, lastError := k }
        | none => c
      { c with tok := [], ctl := .ended, progress := true }
    match t.meadowOf n with
    | some m => t.checkBoundary m
    | none => t

/-- EPOCH_END. -/
def execEpochEnd (c : CoreIx) (f : Fields) (s : State) : Out :=
  s.cu c 0x62 f (f.only false false false false false 0) fun s => epochEndBody c f s

/-! System registers (R119). -/

/-- The value of a core system register, without side effect (R119, R145). -/
def State.sysreg (s : State) (n ix : Nat) : Dword :=
  let c := s.core n
  let w : Nat → Dword := BitVec.ofNat 64
  let m := s.meadowOf n
  match ix with
  | 0x000 => w (n + baseOf n * 2 ^ 12 + posOf n * 2 ^ 20)
  | 0x001 => w (m.getD 0 + c.job * 2 ^ 6)
  | 0x002 => w c.gen.toNat
  | 0x003 => match m with | some m => (s.meadow m).count | none => 0
  | 0x004 => w (c.phase / 600)
  | 0x008 => w c.stepIndex.toNat
  | 0x009 => w c.stepT.toNat
  | 0x00A => w c.stepSigma.toNat
  | 0x00B => w c.stepGuide.toNat
  | 0x00C => w c.stepFlags.toNat
  | 0x00D => w c.frameIndex.toNat
  | 0x010 => w (c.tokMask fun t => t == .pending)
  | 0x011 => w (c.tokMask fun t => match t with | .done _ => true | _ => false)
  | 0x018 => w (c.uncollected.toNat + 2 * c.faulted.toNat)
  | 0x019 => w c.lastError.toNat
  | 0x01A => w c.faultPc
  | _ => if 0x020 ≤ ix ∧ ix ≤ 0x023 then Sparse.get 0 c.scratch (ix - 0x020) else 0

/-- SYSRD: CORE_LAST_ERROR is cleared by the read (R119). -/
def execSysrd (c : CoreIx) (f : Fields) (s : State) : Out :=
  s.cu c 0x70 f (f.only true false false false false 0xFFF) fun s =>
    let x := s.sysreg c f.imm.toNat
    (if f.imm.toNat = 0x019 then s.updCore c fun k => { k with lastError := 0 } else s).result c f x

/-- SYSWR (R119). -/
def execSyswr (c : CoreIx) (f : Fields) (s : State) : Out :=
  s.cu c 0x71 f (f.only false true false false false 0xFFF) fun s =>
    let ix := f.imm.toNat
    let x := (s.core c).gr f.sa.toNat
    if ix = 0x018 then
      (s.updCore c fun k => { k with uncollected := k.uncollected && !x.getLsbD 0 }).adv c
    else if 0x020 ≤ ix ∧ ix ≤ 0x023 then
      (s.updCore c fun k => { k with scratch := Sparse.put 0 k.scratch (ix - 0x020) x }).adv c
    else s.faultHere c Code.sysreg

/-- An instruction whose OP is not listed (R93). -/
def execIllegalInstruction (c : CoreIx) (s : State) : Out :=
  .next (if !(s.core c).issuing || coreOps.contains (opcodeOf (s.core c).word) then s else s.faultHere c Code.illegal)

/-! SEND (R115). -/

/-- The checks of SEND, in order (R115). -/
def sendCheck (s : State) (n : Nat) (f : Fields) : Half :=
  let x := ((s.core n).gr f.sb.toNat).toNat
  if (s.core n).token f.tok.toNat ≠ .free then Code.tokenBusy
  else if bitsOf x 63 19 ≠ 0 then Code.reserved
  else match s.meadowOf n with
    | some m => if s.inMeadow (bitsOf x 15 0) m then Code.ok else Code.sendTarget
    | none => Code.sendTarget

/-- A message as the interface builds it, resolved at injection (R337, R338). -/
def mkMsg (tussock dst queue kind source origin : Nat) (body : Line) (igen : Half) (tok cp : Option Nat) : Msg :=
  { tussock, dst, queue, site := 0, gen := 0, path := .xy, kind, source, origin, body, st := .waiting, igen, tok, cp }

/-- SEND: the message is handed to the interface; the token completes at injection (R115, R340). -/
def sendBody (n : Nat) (f : Fields) (s : State) : State :=
  s.vlock n .send f fun s =>
    let s := s.release n
    let k := sendCheck s n f
    if k ≠ Code.ok then s.status n f k
    else
      let x := ((s.core n).gr f.sb.toNat).toNat
      let id := bitsOf x 15 0
      let t := s.updCore n fun c =>
        let m := mkMsg id ((s.anchor id).getD 0) (bitsOf x 18 16) 0 n 0 (c.vr f.sa.toNat) c.gen (some f.tok.toNat) none
        { (c.setTok f.tok.toNat .pending) with sendq := c.sendq ++ [m] }
      (t.tick1 n).status n f Code.ok

/-- SEND. -/
def execSend (c : CoreIx) (f : Fields) (s : State) : Out :=
  s.cu c 0x50 f (f.only true true true true false 0 && reg16 f.sa) fun s => sendBody c f s

end Sys2Proof.Machine
end

