-- ==== Sys2Proof/Machine/Plan.lean ====
section
/-!
DEFINITION. Tile plans and window records: layout, walk, footprints and issue checks (09 R209 to R226, 10 R230 to R249).
A matrix plan is the case of a convolution plan whose pixel is the row, with one kernel position:
the seven dimensions are N, H, W, C, R, S, O, and M, K, N of a matrix product stand at N, C, O.
-/

namespace Sys2Proof.Machine

open Sys2Proof

/-- The window record (R231). -/
structure Win where
  sy : Nat
  sx : Nat
  dy : Nat
  dx : Nat
  uy : Nat
  ux : Nat
  padMode : Nat
  pool : Nat
  mossA : Bool
  mossO : Bool
  bits10 : Bool
  pt : Nat
  pb : Nat
  pl : Nat
  pr : Nat
  ih : Nat
  iw : Nat
  g : Nat
  cg : Nat
  og : Nat
  padValue : Nat
  h0 : Nat
  w0 : Nat
deriving DecidableEq, Repr

/-- A plan. Extent lists are indexed by dimension code (R230). -/
structure Plan where
  conv : Bool
  db3 : Bool
  db2 : Bool
  near : Nat
  nearSize : Nat
  deep : Nat
  deepSize : Nat
  aNext : Nat
  aPrev : Nat
  bNext : Nat
  bPrev : Nat
  aq : Nat
  bq : Nat
  ord3 : List Nat
  ord2 : List Nat
  ord1 : List Nat
  e3 : List Nat
  e2 : List Nat
  e1 : List Nat
  whole : List Nat
  win : Win
deriving DecidableEq, Repr

/-- Word `i` of a plan. -/
def pw (p : List Byte) (i : Nat) : Nat := fieldNat p (4 * i) 4
/-- Bits of word `i` of a plan. -/
def pbits (p : List Byte) (i hi lo : Nat) : Nat := bitsOf (pw p i) hi lo

/-- The window record of a plan; a matrix plan has the trivial window (R231). -/
def winOf (p : List Byte) (conv : Bool) (k n : Nat) : Win :=
  if conv then
    { sy := pbits p 32 4 0, sx := pbits p 32 12 8, dy := pbits p 32 20 16, dx := pbits p 32 28 24
      uy := pbits p 33 4 0, ux := pbits p 33 12 8, padMode := pbits p 33 17 16, pool := pbits p 33 19 18
      mossA := pbits p 33 20 20 = 1, mossO := pbits p 33 21 21 = 1, bits10 := pbits p 33 22 22 = 1
      pt := pbits p 34 5 0, pb := pbits p 34 13 8, pl := pbits p 34 21 16, pr := pbits p 34 29 24
      ih := pbits p 35 15 0, iw := pbits p 35 31 16, g := pbits p 39 15 0, cg := pbits p 37 31 16
      og := pbits p 38 31 16, padValue := pw p 40, h0 := pbits p 41 15 0, w0 := pbits p 41 31 16 }
  else
    { sy := 1, sx := 1, dy := 1, dx := 1, uy := 1, ux := 1, padMode := 0, pool := 0, mossA := false, mossO := false
      bits10 := false, pt := 0, pb := 0, pl := 0, pr := 0, ih := 1, iw := 1, g := 1, cg := k, og := n
      padValue := 0, h0 := 0, w0 := 0 }

/-- The seven entries of ORDER, as dimension codes of R230 (R211). -/
def orderOf (p : List Byte) (w : Nat) (conv : Bool) : List Nat :=
  let e := (List.range 7).map fun i => bitsOf (pw p w) (3 * i + 2) (3 * i)
  if conv then e
  else (e.take 3).map fun d => match d with | 0 => 0 | 1 => 6 | 2 => 3 | x => x + 7

/-- The extents of a level record by dimension code (R210, R230). -/
def extentsOf (p : List Byte) (w : Nat) (conv : Bool) : List Nat :=
  let e := (List.range 7).map fun i => fieldNat p (4 * w + 4 + 2 * i) 2
  if conv then e else [e.getD 0 0, 1, 1, e.getD 2 0, 1, 1, e.getD 1 0]

/-- A plan from its bytes and the whole extents of a matrix product (R210, R232). -/
def planOf (p : List Byte) (m k n : Nat) : Plan :=
  let conv := pbits p 0 1 0 = 1
  { conv, db3 := pbits p 0 2 2 = 1, db2 := pbits p 0 3 3 = 1
    near := 64 * pbits p 1 10 0, nearSize := 64 * pbits p 1 27 16
    deep := 64 * pbits p 2 12 0, deepSize := 64 * pbits p 2 28 16
    aNext := pbits p 5 15 0, aPrev := pbits p 5 31 16, bNext := pbits p 6 15 0, bPrev := pbits p 6 31 16
    aq := pbits p 7 2 0, bq := pbits p 7 6 4
    ord3 := orderOf p 8 conv, ord2 := orderOf p 16 conv, ord1 := orderOf p 24 conv
    e3 := extentsOf p 8 conv, e2 := extentsOf p 16 conv, e1 := extentsOf p 24 conv
    whole := if conv then [pbits p 36 15 0, pbits p 36 31 16, pbits p 37 15 0, pbits p 37 31 16, pbits p 38 3 0,
        pbits p 38 11 8, pbits p 38 31 16] else [m, 1, 1, k, 1, 1, n]
    win := winOf p conv k n }

/-- Entry `d` of an extent list. -/
def ext (l : List Nat) (d : Nat) : Nat := l.getD d 1

/-- The fixed reserved fields of a plan are zero (R12, R210). -/
def planReserved (p : List Byte) (conv : Bool) : Bool :=
  pbits p 0 7 4 = 0 && pbits p 0 15 14 = 0 && pbits p 0 31 31 = 0
  && pbits p 1 15 11 = 0 && pbits p 1 31 28 = 0 && pbits p 2 15 13 = 0 && pbits p 2 31 29 = 0
  && pbits p 4 31 16 = 0 && pbits p 7 3 3 = 0 && pbits p 7 31 7 = 0
  && [8, 16, 24].all (fun w =>
    pbits p w 31 21 = 0 && pbits p (w + 4) 31 16 = 0 && pw p (w + 5) = 0 && pw p (w + 6) = 0 && pw p (w + 7) = 0
    && (conv || (pbits p (w + 2) 31 16 = 0 && pw p (w + 3) = 0 && pw p (w + 4) = 0)))
  && (conv ||
    (pbits p 0 9 8 ≠ 3 && pbits p 0 11 10 ≠ 3 && pbits p 0 13 12 ≠ 3
      && (pbits p 0 9 8 = 1 || pbits p 0 20 16 = 0) && (pbits p 0 11 10 = 1 || pbits p 0 25 21 = 0)
      && (pbits p 0 13 12 = 1 || pbits p 0 30 26 = 0)))

/-- ORDER holds a permutation of its dimension codes, and 0b111 above for a matrix plan (R211). -/
def orderOk (p : List Byte) (w : Nat) (conv : Bool) : Bool :=
  let e := (List.range 7).map fun i => bitsOf (pw p w) (3 * i + 2) (3 * i)
  if conv then (List.range 7).all e.contains
  else (List.range 3).all (e.take 3).contains && (e.drop 3).all (· = 7)

/-- Window record fields lie in their ranges, and R232 and R235 hold (R231, R249). -/
def winOk (p : List Byte) (fa : Fmt) (mnkZero : Bool) : Bool :=
  let w := winOf p true 0 0
  let q := planOf p 0 0 0
  let in16 : Nat → Bool := fun x => 1 ≤ x && x ≤ 16
  let e := q.whole
  let vh := (w.ih - 1) * w.uy + 1
  let vw := (w.iw - 1) * w.ux + 1
  in16 w.sy && in16 w.sx && in16 w.dy && in16 w.dx && in16 w.uy && in16 w.ux
  && (pw p 32 &&& 0xE0E0E0E0) = 0 && (pw p 33 &&& 0xFF80E0E0) = 0 && (pw p 34 &&& 0xC0C0C0C0) = 0
  && (pw p 38 &&& 0x0000F0F0) = 0 && pbits p 39 31 16 = 0
  && 1 ≤ w.ih && 1 ≤ w.iw && e.all (1 ≤ ·) && 1 ≤ w.g && w.g * w.cg ≤ 65535 && w.g * w.og ≤ 65535
  && (List.range 6).all (fun i => pw p (42 + i) = 0)
  && (w.padMode = 1 && w.padValue < 2 ^ (8 * fa.size) || w.padMode ≠ 1)
  && mnkZero && pbits p 0 13 8 = 0 && pbits p 0 30 16 = 0 && pw p 3 = 0 && pw p 4 = 0
  && (w.h0 + ext e 1 - 1) * w.sy + (ext e 4 - 1) * w.dy ≤ vh - 1 + w.pb + w.pt
  && (w.w0 + ext e 2 - 1) * w.sx + (ext e 5 - 1) * w.dx ≤ vw - 1 + w.pr + w.pl
  && (w.padMode ≠ 3 || (w.pt ≤ vh - 1 && w.pb ≤ vh - 1 && w.pl ≤ vw - 1 && w.pr ≤ vw - 1))

/-! Footprints (R217, R239). -/

/-- Stored rows or columns that an extent of outputs and kernel positions spans (R239). -/
def spanOf (n k stride dil up : Nat) : Nat := ceilDiv ((n - 1) * stride + (k - 1) * dil + 1) up

/-- Width in bytes of `c` channels of `size` bytes, of `total` per group (R239). -/
def widthOf (c total size : Nat) : Nat :=
  if (total * size) % 32 = 0 ∧ (c * size) % 32 = 0 then c * size else 32 * (ceilDiv (c * size) 32 + 1)

/-- Geometry of an A slot at a level: stored rows, columns and bytes per pixel (R217, R239). -/
def slotGeom (p : Plan) (e : List Nat) (sa : Nat) : Nat × Nat × Nat :=
  if p.conv then
    let c := if p.win.pool ≠ 0 then ext e 6 else ext e 3
    (spanOf (ext e 1) (ext e 4) p.win.sy p.win.dy p.win.uy, spanOf (ext e 2) (ext e 5) p.win.sx p.win.dx p.win.ux,
      widthOf c p.win.cg sa)
  else (1, 1, ext e 3 * sa)

/-- Bytes of an A slot (R217, R239). -/
def slotA (p : Plan) (e : List Nat) (sa : Nat) : Nat :=
  let (h, w, c) := slotGeom p e sa
  ext e 0 * h * w * c

/-- Bytes per row of a B slot (R217, R239). -/
def rowB (p : Plan) (e : List Nat) (sb : Nat) : Nat :=
  if p.conv then widthOf (ext e 6) p.win.og sb else ext e 6 * sb

/-- Bytes of a B slot; a pooling operation has none (R217, R239, R241). -/
def slotB (p : Plan) (e : List Nat) (sb : Nat) : Nat :=
  if p.win.pool ≠ 0 then 0 else ext e 4 * ext e 5 * ext e 3 * rowB p e sb

/-- Output pixels of an extent. -/
def pixels (e : List Nat) : Nat := ext e 0 * ext e 1 * ext e 2

/-- Bytes of one staging slot (R217, R239). -/
def stageBytes (p : Plan) (so : Nat) : Nat := pixels p.e1 * ext p.e1 6 * so

/-! The walk (R212, R214). -/

/-- The nine (or twenty-one) loops, outermost first: level, dimension and whether it has more than one step. -/
def planLoops (p : Plan) : List (Nat × Nat × Bool) :=
  let mk (lv : Nat) (ord up e : List Nat) := ord.map fun d => (lv, d, decide (ext e d < ext up d))
  mk 3 p.ord3 p.whole p.e3 ++ mk 2 p.ord2 p.e3 p.e2 ++ mk 1 p.ord1 p.e2 p.e1

/-- Whether a dimension belongs to the reduction. -/
def isK (d : Nat) : Bool := d = 3 || d = 4 || d = 5

/-- The loops inside λ, the outermost reduction loop with more than one step; none when there is no λ (R214). -/
def insideLambda : List (Nat × Nat × Bool) → List (Nat × Nat × Bool)
  | [] => []
  | (_, d, many) :: r => if isK d && many then r else insideLambda r

/-- The level whose tile the live block spans in a dimension: 4 the whole, 3, 2, or 1 (R214). -/
def liveLevel (p : Plan) (d : Nat) : Nat :=
  match (insideLambda (planLoops p)).find? fun l => l.2.1 = d && l.2.2 with
  | some (3, _, _) => 4
  | some (2, _, _) => 3
  | some (1, _, _) => 2
  | _ => 1

/-- The extents of a level (4 the whole). -/
def Plan.level (p : Plan) (l : Nat) : List Nat :=
  match l with | 4 => p.whole | 3 => p.e3 | 2 => p.e2 | _ => p.e1

/-- The live block's span in a dimension (R214). -/
def liveSpan (p : Plan) (d : Nat) : Nat := ext (p.level (liveLevel p d)) d

/-- P, the number of output elements in the live block (R214). -/
def liveSize (p : Plan) : Nat := liveSpan p 0 * liveSpan p 1 * liveSpan p 2 * liveSpan p 6

/-- Whether R215 applies: unfinished tiles are exported. -/
def exports (p : Plan) (acc : Nat) : Bool := p.win.pool = 0 && 2048 < acc + liveSize p

/-- Bytes of the partial area (R217). -/
def partialBytes (p : Plan) (acc : Nat) : Nat :=
  if exports p acc then 64 * ceilDiv (22 * liveSize p) 64 else 0

/-- Double-buffer counts. -/
def Plan.n3 (p : Plan) : Nat := if p.db3 then 2 else 1
/-- Double-buffer counts. -/
def Plan.n2 (p : Plan) : Nat := if p.db2 then 2 else 1

/-- Near-store layout: A slots, B slots, staging slots, partial area; offsets and end (R217). -/
def nearLayout (p : Plan) (sa sb so acc : Nat) : Nat × Nat × Nat × Nat :=
  let b := p.near + p.n2 * slotA p p.e2 sa
  let st := b + p.n2 * slotB p p.e2 sb
  let pa := st + 2 * stageBytes p so
  (b, st, pa, pa + partialBytes p acc)

/-- Deep-store layout: offset of the B slots and end (R217). -/
def deepLayout (p : Plan) (sa sb : Nat) : Nat × Nat :=
  let b := p.deep + p.n3 * slotA p p.e3 sa
  (b, b + p.n3 * slotB p p.e3 sb)

/-- Alignment of R218, or of R239 for a convolution plan. -/
def planAlign (p : Plan) (a b o : Tens) : Bool :=
  let sa := a.f.size
  let sb := b.f.size
  let so := o.f.size
  if p.conv then
    let w := p.win
    let chk : Nat → Tens → Bool := fun bytes t => bytes % 32 = 0 && bytes ≤ 32 * t.stride
    let mossBytes : Nat → Nat := fun ch => 32 * ceilDiv ((ch / 32) * (8 + 32 * (if w.bits10 then 10 else 12))) 256
    (if w.mossA then mossBytes (w.g * w.cg) ≤ 32 * a.stride else chk (w.g * w.cg * sa) a)
      && (w.pool ≠ 0 || chk (w.g * w.og * sb) b)
      && (if w.mossO then mossBytes (w.g * w.og) ≤ 32 * o.stride else chk (w.g * w.og * so) o)
  else
    [ext p.whole 3 * sa, ext p.whole 6 * sb, ext p.whole 6 * so, ext p.e3 3 * sa, ext p.e2 3 * sa,
      ext p.e3 6 * sb, ext p.e2 6 * sb, ext p.e1 6 * so].all (· % 32 = 0)

/-- Two ranges of bytes meet. -/
def meets (a n b k : Nat) : Bool := a < b + k && b < a + n && n ≠ 0 && k ≠ 0

end Sys2Proof.Machine
end

