-- ==== Sys2Proof/Machine/Issue.lean ====
section
/-!
DEFINITION. Engine issue: the checks of R105 for each descriptor, and the acceptance of an operation
(04 R99 to R114, 07 R166 to R183, 09 R226, 10 R249).
-/

namespace Sys2Proof.Machine

open Sys2Proof

/-- The bits that a mask list does not cover are zero (R12). -/
def rsvOk (d : Line) (masks : List Nat) : Bool :=
  (List.range 16).all fun i => lineWord d i &&& (0xFFFFFFFF - masks.getD i 0) = 0

/-- Masks of a tensor reference (R106), and of one without FMT and SCALE (R112, R113). -/
def mT : List Nat := [0xFFFFFFFF, 0x001FFFFF, 0xFFFFFFFF]
/-- A tensor reference whose FMT and SCALE are reserved. -/
def mB : List Nat := [0xFFFFFFFF, 0x0018FFFF, 0xFFFF0000]
/-- A reference that is not used. -/
def mZ : List Nat := [0, 0, 0]

/-- An FMT code is one of a list (R65). -/
def fmtIn (t : Tens) (l : List Nat) : Option Half := need (l.contains t.fmt) Code.fmt
/-- σ is zero for L32 and L64 (R75). -/
def scaleOk (t : Tens) : Option Half := need (!(t.fmt = 2 || t.fmt = 3) || t.scale = 0) Code.scale
/-- An RD code is valid (R66). -/
def rdOk (r : Nat) : Option Half := need (r < 5) Code.rd

/-- VX (R110). -/
def vxCheck (d : Line) : Option Half :=
  let n := lineBits d 0 9 8
  let x := tensAt d 4
  let y := tensAt d 7
  let z := tensAt d 10
  let o := tensAt d 13
  let ins := [x, y, z].take n
  let rows := lineBits d 2 15 0
  let cols := lineBits d 2 31 16
  let cnt := lineBits d 0 22 16
  firstFail (
    [need (rsvOk d ([0x007F037F, 0x3FFF, 0xFFFFFFFF, 0x00FF07FF] ++ (if 1 ≤ n then mT else mZ) ++ (if 2 ≤ n then mT else mZ)
        ++ (if 3 ≤ n then mT else mZ) ++ mT)) Code.reserved]
    ++ (ins ++ [o]).map (fmtIn · [0, 1, 2, 3]) ++ [rdOk (lineBits d 0 6 4)]
    ++ (ins ++ [o]).map scaleOk
    ++ (ins ++ [o]).map (fun t => tensPlace t [0] rows (cols * t.f.size))
    ++ [need (1 ≤ cnt && cnt ≤ 64 && lineBits d 3 23 16 ≤ 128 && 8 * lineBits d 1 13 0 + 8 * cnt ≤ 0x20000
          && 64 * lineBits d 3 10 0 + 64 * lineBits d 3 23 16 ≤ 0x20000) Code.program,
        need (1 ≤ rows && 1 ≤ cols) Code.tileBound])

/-- SF (R111). -/
def sfCheck (d : Line) : Option Half :=
  let x := tensAt d 4
  let o := tensAt d 7
  let rows := lineBits d 1 15 0
  let cols := lineBits d 1 31 16
  firstFail
    [need (rsvOk d ([0x1FF, 0xFFFFFFFF, 0, 0] ++ mT ++ mT)) Code.reserved, fmtIn x [0, 1, 2, 3], fmtIn o [1, 2, 3],
     scaleOk x, scaleOk o, tensPlace x [0] rows (cols * x.f.size), tensPlace o [0] rows (cols * o.f.size),
     need (lineBits d 0 7 4 < 10) Code.func, need (1 ≤ rows && 1 ≤ cols) Code.tileBound]

/-- CP (R112, R286). -/
def cpCheck (s : State) (n : Nat) (d : Line) : Option Half :=
  let src := tensAt d 4
  let dest := tensAt d 7
  let rows := lineBits d 2 15 0
  let rb := lineBits d 1 19 0
  let tgt := lineBits d 3 15 0
  let notify := lineBits d 0 4 4 = 1
  let note := lineBits d 10 16 0
  firstFail
    [need (rsvOk d ([0xFF, 0xFFFFF, 0xFFFF, 0xFFFF] ++ mB ++ mB ++ [0x1FFFF])) Code.reserved,
     need (32 ≤ rb && rb ≤ 1048544 && rb % 32 = 0) Code.address,
     tensPlace src [0, 1, 2] rows rb, tensPlace dest [0, 1, 2] rows rb,
     need (!notify || (note % 64 = 0 && note + 64 ≤ 0x20000)) Code.address,
     need ((tgt = 0xFFFF && !notify) || (tgt ≠ 0xFFFF && dest.space ≠ 2 &&
       (match s.meadowOf n with | some m => s.inMeadow tgt m | none => false))) Code.cpTarget,
     need (1 ≤ rows) Code.tileBound]

/-- GA (R113). -/
def gaCheck (d : Line) : Option Half :=
  let src := tensAt d 4
  let ix := tensAt d 7
  let dest := tensAt d 10
  let idx := lineBits d 0 4 4 = 1
  let cnt := lineWord d 1
  let es := lineBits d 2 7 0
  firstFail
    [need (rsvOk d ([0x1F, 0xFFFFFFFF, 0xFF, if idx then 0 else 0xFFFFFFFF] ++ mB ++ (if idx then mB else mZ) ++ mB))
       Code.reserved,
     tensPlace src [2] 1 0, (if idx then tensPlace ix [0] 1 (4 * cnt) else none), tensPlace dest [0, 1] 1 (32 * es * cnt),
     need (idx || lineWord d 3 % 32 = 0) Code.address, need (1 ≤ cnt && 1 ≤ es && es ≤ 64) Code.tileBound]

/-- NZ (R114). -/
def nzCheck (d : Line) : Option Half :=
  let o := tensAt d 4
  let cnt := lineWord d 1
  firstFail
    [need (rsvOk d ([0xFFFF001F, 0xFFFFFFFF, 0xFFFFFFFF, 0xFFFFFFFF] ++ [0xFFFFFFFF, 0x001FFFFF, 0x0000FFFF])) Code.reserved,
     fmtIn o (if lineBits d 0 4 4 = 1 then [1, 2] else [2]), scaleOk o, tensPlace o [0, 1] 1 (cnt * o.f.size),
     need (1 ≤ cnt) Code.tileBound]

/-! MM. -/

/-- The chain descriptor's byte ranges of programs and scratch (R167). -/
def chainRanges (ch : Line) : Bool :=
  let pro := lineBits ch 0 1 0 ≠ 0
  let epi := lineBits ch 0 2 2 = 1
  let ps := 64 * lineBits ch 5 7 0
  let es := 64 * lineBits ch 5 15 8
  (!pro || (1 ≤ lineBits ch 2 22 16 && lineBits ch 2 22 16 ≤ 64
      && 8 * lineBits ch 2 13 0 + 8 * lineBits ch 2 22 16 ≤ 0x20000 && 64 * lineBits ch 4 10 0 + ps ≤ 0x20000))
    && (!epi || (1 ≤ lineBits ch 3 22 16 && lineBits ch 3 22 16 ≤ 64
      && 8 * lineBits ch 3 13 0 + 8 * lineBits ch 3 22 16 ≤ 0x20000 && 64 * lineBits ch 4 26 16 + es ≤ 0x20000))

/-- Reserved fields of a chain descriptor (R12, R166). -/
def chainReserved (ch : Line) : Bool :=
  let pro := lineBits ch 0 1 0 ≠ 0
  let epi := lineBits ch 0 2 2 = 1
  let gate := lineBits ch 0 3 3 = 1
  let next := lineBits ch 0 4 4 = 1
  rsvOk ch ([0xFFFF00E0 + 0x1F + (if epi then 0x700 else 0) + (if gate then 0x3800 else 0), if gate then 0xFFFFFFFF else 0,
      if pro then 0x007F3FFF else 0, if epi then 0x007F3FFF else 0,
      (if pro then 0x7FF else 0) + (if epi then 0x07FF0000 else 0),
      (if pro then 0xFF else 0) + (if epi then 0xFF00 else 0),
      (if pro then 0xFFFF else 0) + (if epi then 0xFFFF0000 else 0),
      (if gate then 0x7FF else 0) + (if next then 0x07FF0000 else 0)]
    ++ (if pro then mT else mZ) ++ (if epi then mT else mZ))
  && (epi || lineBits ch 0 31 16 = 0)

/-- The conditions of R167 on a chain of an MM operation with extents m, n, k (R169, R170). `plan` says that it is a planned
one: EY is then checked by `eyPlace`, and its GATE by R220. -/
def chainCheck (d ch : Line) (m n k : Nat) (plan : Bool) : Option Half :=
  let pro := lineBits ch 0 1 0
  let epi := lineBits ch 0 2 2 = 1
  let gate := lineBits ch 0 3 3 = 1
  let next := lineBits ch 0 4 4 = 1
  let o := tensAt d 10
  let psrc := tensAt ch 8
  let ey := tensAt ch 11
  let ps := 64 * lineBits ch 5 7 0
  let es := 64 * lineBits ch 5 15 8
  let acc := lineBits d 3 10 0
  let acc2 := lineBits ch 7 10 0
  let (pr, pc) := if pro = 1 then (m, k) else (k, n)
  let near1 : Tens → Nat → Nat → Option Half := fun t r b => (tensPlace t [0] r b).map fun _ => Code.address
  firstFail
    [need (pro ≠ 3) Code.reserved, need (pro ≠ 0 || epi) Code.program,
     need (!epi || (lineBits d 0 8 8 = 1 && o.fmt < 4)) Code.chainFmt,
     need (lineBits ch 0 10 8 < 4 && lineBits ch 0 13 11 < 4
       && (lineBits ch 0 10 8 < 2 || lineBits ch 0 31 16 = 0) && (lineBits ch 0 13 11 < 2 || lineBits ch 1 15 0 = 0)) Code.chainFmt,
     need ((!(gate || next) || epi) && !(gate && next)) Code.program,
     need (pro = 0 || (lineBits d 0 12 12 = 0 && !next)) Code.program,
     need (chainRanges ch) Code.program,
     need (ps + es ≤ 64 * 128 && !meets (64 * lineBits ch 4 10 0) ps (64 * lineBits ch 4 26 16) es) Code.program,
     need ((lineBits ch 6 15 0 &&& lineBits ch 6 31 16) = 0) Code.program,
     (if pro ≠ 0 then near1 psrc pr (pc * psrc.f.size) else none),
     (if epi && !ey.zero && !plan then near1 ey (if ey.stride = 0 then 1 else m) (n * ey.f.size) else none),
     need (!gate || plan || (acc2 + m * n ≤ 2048 && !meets acc2 (m * n) acc (m * n))) Code.chainAcc]

/-- Masks of an MM descriptor (04, MM descriptor). -/
def mmMasks (d : Line) (useB : Bool) : List Nat :=
  [0x7FF1FFFF, 0x7FFFFFFF, 0xFFFFFFFF, 0x003FFFFF] ++ mT ++ (if useB then mT else mZ)
    ++ (if lineBits d 0 8 8 = 1 then mT else mZ) ++ (if lineBits d 0 16 16 = 1 then mT else mZ)

/-- Steps 4 to 7 of an MM descriptor without a plan (R65, R66, R75, R77, R88, R107). -/
def mmFormats (d : Line) (m n k : Nat) (aRows aCols : Nat) : List (Option Half) :=
  let a := tensAt d 4
  let b := tensAt d 7
  let o := tensAt d 10
  let c := tensAt d 13
  let drain := lineBits d 0 8 8 = 1
  let merge := lineBits d 0 16 16 = 1
  [fmtIn a [0, 1, 2, 3, 4], fmtIn b [0, 1, 2, 3, 4], (if drain then fmtIn o [0, 1, 2, 3, 4] else none),
   (if merge then fmtIn c [4] else none), rdOk (lineBits d 0 11 9),
   firstFail [scaleOk a, scaleOk b, if drain then scaleOk o else none], need (a.fmt = b.fmt && a.fmt < 2) Code.mixed,
   need (!merge || c.scale = a.scale + b.scale) Code.exScale,
   tensPlace a [0] aRows (aCols * a.f.size), tensPlace b [0] k (n * b.f.size),
   (if drain then tensPlace o [0] m (n * o.f.size) else none), (if merge then tensPlace c [0] m (22 * n) else none)]

/-- An epilogue's Y has a format it accepts, and its scale obeys R75. -/
def eyOk (t : Tens) : Bool := t.zero || ((fmtIn t [0, 1, 2, 3]).isNone && (scaleOk t).isNone)

/-- The conditions of R180 on the second operation of a chained pair. Its N may not be 0: R180 does not name that case, and the
refusal is ST_CORE_CHAIN_NEXT, as for its other fields. DESIGN CHOICE, log entry 60. -/
def nextCheck (d d2 ch2 : Line) (m n : Nat) : Option Half :=
  let n2 := lineBits d2 2 31 16
  let acc := lineBits d2 3 10 0
  let bad : Bool :=
    !(lineBits d 0 5 4 = 0 && lineBits d 3 10 0 = 0
      && lineBits d2 0 3 0 = 1 && lineBits d2 0 5 4 = 2 && lineBits d2 0 30 20 = 0 && lineBits d2 0 7 7 = 1
      && lineBits d2 0 8 8 = 1 && lineBits d2 0 12 12 = 0 && lineBits d2 0 16 16 = 0
      && lineBits d2 2 15 0 = m && lineBits d2 1 30 0 = n && 1 ≤ n2
      && rsvOk d2 (mmMasks d2 true) && lineBits d2 0 15 13 = 0
      && (firstFail (mmFormats d2 m n2 n 16 32)).isNone
      && (lineBits d2 3 21 11 = 0 || (lineBits ch2 0 1 0 = 0 && lineBits ch2 0 3 3 = 0 && lineBits ch2 0 4 4 = 0
        && chainReserved ch2 && lineBits ch2 0 7 5 < 5 && eyOk (tensAt ch2 11) && (chainCheck d2 ch2 m n2 n false).isNone)))
  if bad then some Code.chainNext else need (acc + 16 * n2 ≤ 2048) Code.chainAcc

/-- The relay targets of a plan (R226, step 9). -/
def relayOk (s : State) (n : Nat) (p : Plan) : Bool :=
  [p.aNext, p.aPrev, p.bNext, p.bPrev].all fun x =>
    x = 0xFFFF || (x < 4096 && x ≠ n && (match s.meadowOf n with | some m => s.meadowOf x == some m | none => false))

/-- Everything an issue copies (R99, R166, R210). -/
structure MMIssue where
  d : Line
  ch : Line
  plan : List Byte
  d2 : Line
  ch2 : Line
deriving DecidableEq, Repr

/-- The copies of an MM issue, from near store. A CHAIN or PLAN of 0 names none (R166, R210); NEXTD has no such value. -/
def mmCopies (c : Core) (d : Line) : MMIssue :=
  let line : Nat → Line := fun off => if off = 0 then 0 else c.nearLine (64 * off)
  let ch := line (lineBits d 3 21 11)
  let off := lineBits d 0 30 20
  let plan := if off = 0 then [] else Mem.read c.near (64 * off) 192
  let d2 := if lineBits ch 0 4 4 = 1 then c.nearLine (64 * lineBits ch 7 26 16) else 0
  ⟨d, ch, (if pbits plan 0 1 0 = 1 then plan else plan.take 128), d2, line (lineBits d2 3 21 11)⟩

/-- Whether an epilogue program uses a row-statistics instruction (R187, R220). -/
def epiHasStats (c : Core) (ch : Line) : Bool :=
  (List.range (lineBits ch 3 22 16)).any fun i =>
    let op := bitsOf (Mem.nat c.near (8 * lineBits ch 3 13 0 + 8 * i) 8) 63 56
    0x40 ≤ op && op ≤ 0x4C

/-- The source of a whole extent: 0 for M, 1 for N, 2 for K (R210). -/
def extentSrc (plan : List Byte) (i : Nat) : Nat := pbits plan 0 (9 + 2 * i) (8 + 2 * i)

/-- A whole extent that the issue knows without the bound block: a field of the descriptor or a general register (R221). -/
def extentKnown (c : Core) (d : Line) (plan : List Byte) (i : Nat) : Option Nat :=
  let field := match i with | 0 => lineBits d 2 15 0 | 1 => lineBits d 2 31 16 | _ => lineBits d 1 30 0
  match extentSrc plan i with
  | 0 => some field
  | 1 => some (c.gr (pbits plan 0 (20 + 5 * i) (16 + 5 * i))).toNat
  | _ => none

/-- EY lies in near store with the extents of an output of `rows` rows of `cols` columns (R167, R170). -/
def eyPlace (ch : Line) (rows cols : Nat) : Option Half :=
  let ey := tensAt ch 11
  if ey.zero then none
  else (tensPlace ey [0] (if ey.stride = 0 then 1 else rows) (cols * ey.f.size)).map fun _ => Code.address

/-- Checks of a planned MM before its bound block is read (R226 steps 3 to 9, R249). An output extent that only the bound
block gives cannot be checked yet: EY and N₁ = N then come first after the read (DEDUCED, log entry 60). A pooling operation whose A or O
has a valid FMT that R241 does not list is refused at step 8 with ST_TILE_KIND, the code R249 gives for R241's settings,
and not at step 4 with ST_CORE_FMT (log entry 60). -/
def planCheck1 (s : State) (n : Nat) (x : MMIssue) : Option Half :=
  let d := x.d
  let conv := pbits x.plan 0 1 0 = 1
  let known := extentKnown (s.core n) d x.plan
  let p := planOf x.plan ((known 0).getD 1) 0 ((known 1).getD 0)
  let rows := pixels p.whole
  let cols := ext p.whole 6
  let pool := conv && p.win.pool ≠ 0
  let a := tensAt d 4
  let b := tensAt d 7
  let o := tensAt d 10
  let c := tensAt d 13
  let chain := lineBits d 3 21 11 ≠ 0
  let pro := chain && lineBits x.ch 0 1 0 ≠ 0
  let merge := lineBits d 0 16 16 = 1
  let off := lineBits d 0 30 20
  let mnk0 := lineBits d 1 30 0 = 0 && lineWord d 2 = 0
  let ey := tensAt x.ch 11
  let psrc := tensAt x.ch 8
  let anyFmt : List Nat := [0, 1, 2, 3, 4]
  firstFail
    [need (rsvOk d (mmMasks d (!pool)) && planReserved x.plan conv && (!chain || chainReserved x.ch)
        && lineBits d 0 5 4 ≠ 3 && (lineBits d 0 12 12 = 1 || lineBits d 0 15 13 = 0)
        && (conv || ((extentSrc x.plan 0 = 0 || lineBits d 2 15 0 = 0) && (extentSrc x.plan 1 = 0 || lineBits d 2 31 16 = 0)
          && (extentSrc x.plan 2 = 0 || lineBits d 1 30 0 = 0)))) Code.reserved,
     fmtIn a anyFmt, (if pool then none else fmtIn b anyFmt), (if lineBits d 0 8 8 = 1 then fmtIn o anyFmt else none),
     (if merge then fmtIn c [4] else none), rdOk (lineBits d 0 11 9), (if chain then rdOk (lineBits x.ch 0 7 5) else none),
     (if pro then fmtIn psrc [0, 1, 2, 3] else none), (if chain && !ey.zero then fmtIn ey [0, 1, 2, 3] else none),
     scaleOk a, (if pool then none else scaleOk b), scaleOk o, (if pro then scaleOk psrc else none),
     (if chain then scaleOk ey else none),
     need (pool || (a.fmt = b.fmt && a.fmt < 2)) Code.mixed,
     need (pool || !merge || c.scale = a.scale + b.scale) Code.exScale,
     tensPlace a [2] 1 0, (if pool then none else tensPlace b [2] 1 0), tensPlace o [2] 1 0,
     (if merge then tensPlace c [0] rows (22 * cols) else none),
     need (64 * off + (if conv then 192 else 128) ≤ 0x20000) (if conv then Code.tileKind else Code.program),
     (if chain then chainCheck d x.ch rows cols (ext p.whole 4 * ext p.whole 5 * ext p.whole 3) true else none), (if chain then eyPlace x.ch rows cols else none),
     need (pbits x.plan 0 1 0 < 2 && (!conv || (winOk x.plan a.f mnk0
        && (!pool || (p.win.g = 1 && p.win.cg = p.win.og && [p.e3, p.e2, p.e1].all (fun e => ext e 3 = 1)
          && a.fmt < 3 && o.fmt < 4))))) Code.tileKind,
     need ([8, 16, 24].all fun w => orderOk x.plan w conv) Code.tileOrder,
     need (lineBits d 0 7 7 = 1 && lineBits d 0 8 8 = 1 && lineBits d 0 12 12 = 0 && !merge) Code.tileFlags,
     need (!chain || (!pool && lineBits x.ch 0 1 0 = 0 && lineBits x.ch 0 3 3 = 0 && lineBits x.ch 0 4 4 = 0
        && (!epiHasStats (s.core n) x.ch || (!conv && extentSrc x.plan 1 = 2) || ext p.e1 6 = cols))) Code.tileChain,
     need (!conv || ((!p.win.mossA || (a.fmt = 1 && p.win.cg % 32 = 0
          && (if pool then ext p.e3 6 % 32 = 0 else ext p.e3 3 % 32 = 0)))
        && (!p.win.mossO || (o.fmt = 1 && p.win.og % 32 = 0 && ext p.e1 6 % 32 = 0)))) Code.tileMoss,
     need (relayOk s n p) Code.cpTarget]

/-- Checks of a planned MM once its bounds are known (R226 step 10, R249). -/
def planCheck2 (s : State) (n : Nat) (x : MMIssue) (m k nn : Nat) : Option Half :=
  let d := x.d
  let p := planOf x.plan m k nn
  let pool := p.win.pool ≠ 0
  let a := tensAt d 4
  let b := tensAt d 7
  let o := tensAt d 10
  let sa := if p.win.mossA then 2 else a.f.size
  let sb := b.f.size
  let so := o.f.size
  let acc := lineBits d 3 10 0
  let dims := [0, 1, 2, 3, 4, 5, 6]
  let nested : Nat → Bool := fun i =>
    1 ≤ ext p.e1 i && ext p.e1 i ≤ ext p.e2 i && ext p.e2 i ≤ ext p.e3 i && ext p.e3 i ≤ ext p.whole i
  let (_, _, _, nEnd) := nearLayout p sa sb so acc
  let (_, dEnd) := deepLayout p sa sb
  let chain := lineBits d 3 21 11 ≠ 0
  let es := 64 * lineBits x.ch 5 15 8
  let ey := tensAt x.ch 11
  let rows := pixels p.whole
  let cols := ext p.whole 6
  let clash : Bool :=
    (List.range 8).any (fun q => meets p.near p.nearSize (s.queueRing (8 * n + q)) (64 * s.queueDepth (8 * n + q)))
    || (chain && (meets p.near p.nearSize (8 * lineBits x.ch 3 13 0) (8 * lineBits x.ch 3 22 16)
      || meets p.near p.nearSize (64 * lineBits x.ch 4 26 16) es
      || (!ey.zero && meets p.near p.nearSize ey.addr
        (ey.stop (if ey.stride = 0 then 1 else rows) (cols * ey.f.size) - ey.addr))))
  firstFail
    [(if chain then eyPlace x.ch rows cols else none),
     need (!chain || !epiHasStats (s.core n) x.ch || ext p.e1 6 = cols) Code.tileChain,
     need (p.conv || k < 2 ^ 31) Code.tileK,
     need (p.conv || (1 ≤ m && m ≤ 65535 && 1 ≤ nn && nn ≤ 65535 && 1 ≤ k)) Code.tileBound,
     need (dims.all nested) Code.tileExtent,
     need (planAlign p a b o && (p.conv || bitsOf (fieldNat x.plan 12 8) 4 0 = 0)) Code.tileAlign,
     need (pool || acc + pixels p.e1 * ext p.e1 6 ≤ 2048) Code.tileAcc,
     need (64 ≤ p.nearSize && p.nearSize ≤ 64 * 2048 && p.near + p.nearSize ≤ 0x20000 && nEnd ≤ p.near + p.nearSize && !clash)
       Code.tileNear,
     need (64 ≤ p.deepSize && p.deepSize ≤ 64 * 6144 && p.deep + p.deepSize ≤ 0x60000 && dEnd ≤ p.deep + p.deepSize)
       Code.tileDeep]

/-- Checks of an MM without a plan (R105, R109, R167, R180, R226). -/
def mmCheck1 (x : MMIssue) : Option Half :=
  let d := x.d
  let m := lineBits d 2 15 0
  let n := lineBits d 2 31 16
  let k := lineBits d 1 30 0
  let chain := lineBits d 3 21 11 ≠ 0
  let next := chain && lineBits x.ch 0 4 4 = 1
  let ch := x.ch
  let fs := mmFormats d m n k m k
  let ey := tensAt ch 11
  let psrc := tensAt ch 8
  let pro := chain && lineBits ch 0 1 0 ≠ 0
  firstFail (
    [need (rsvOk d (mmMasks d true) && lineBits d 0 5 4 ≠ 3 && (lineBits d 0 12 12 = 1 || lineBits d 0 15 13 = 0)
        && (!chain || chainReserved ch)) Code.reserved]
    ++ fs.take 5
    ++ [(if chain then rdOk (lineBits ch 0 7 5) else none),
        (if pro then fmtIn psrc [0, 1, 2, 3] else none), (if chain && !ey.zero then fmtIn ey [0, 1, 2, 3] else none)]
    ++ [fs.getD 5 none, (if pro then scaleOk psrc else none), (if chain then scaleOk ey else none)]
    ++ fs.drop 6
    ++ [(if chain then chainCheck d ch m n k false else none),
        (if next then nextCheck d x.d2 x.ch2 m n else none),
        need (k < 2 ^ 31) Code.tileK, need (1 ≤ m && 1 ≤ n && 1 ≤ k) Code.tileBound,
        need (next || lineBits d 3 10 0 + m * n ≤ 2048) Code.tileAcc])

/-- Bytes of the bound block from an address, sector by sector, through the meadow's translation (R221); at most `fuel`
sectors. A block that is a multiple of 32 lies in one sector (R218, R222). -/
def State.boundBytes (s : State) (n m : Nat) : Nat → Nat → Nat → Res (List Byte)
  | 0, _, _ => (.ok [], s)
  | fuel + 1, va, k =>
    if k = 0 then (.ok [], s)
    else
      let h := min k (32 - va % 32)
      match s.xlate n m va false with
      | (.error c, t) => (.error c, t)
      | (.ok (pa, _), t) =>
        match t.readSec pa h with
        | (.error c, t) => (.error c, t)
        | (.ok b, t) =>
          match t.boundBytes n m fuel (va + h) (k - h) with
          | (.error c, t) => (.error c, t)
          | (.ok b', t) => (.ok (b ++ b'), t)

/-- The bound block's three words and the state after its read, or ST_TILE_BOUND_READ (R221, R222). -/
def State.boundBlock (s : State) (n m va : Nat) : Res (Nat × Nat × Nat) :=
  match s.boundBytes n m 2 va 24 with
  | (.error _, t) => (.error Code.tileBoundRead, t)
  | (.ok b, t) => (.ok (fieldNat b 0 8, fieldNat b 8 8, fieldNat b 16 8), t)

/-- Whether an issue has a whole extent that the bound block gives (R221). -/
def MMIssue.bound (x : MMIssue) : Bool := !x.plan.isEmpty && (List.range 3).any fun i => extentSrc x.plan i = 2

/-- The state of a core and of its base tussock as they were in `s`: a refused issue leaves them so, its translations in the
caches included (R8, R99). What the read did at a stack controller stays (R312, R313). -/
def State.undoRead (t s : State) : State := { t with cores := s.cores, bases := s.bases }

/-- The whole extents of an MM issue, its remaining checks, and the state after a bound read (R105, R226). -/
def mmResolve (s : State) (n : Nat) (x : MMIssue) : Except Half (Nat × Nat × Nat) × State :=
  let d := x.d
  if x.plan.isEmpty then
    match mmCheck1 x with
    | some k => (.error k, s)
    | none => (.ok (lineBits d 2 15 0, lineBits d 1 30 0, lineBits d 2 31 16), s)
  else
    match planCheck1 s n x with
    | some k => (.error k, s)
    | none =>
      let (r, t) : Res (Nat × Nat × Nat) :=
        if x.bound then s.boundBlock n ((s.meadowOf n).getD 0) (fieldNat x.plan 12 8 % 2 ^ 48) else (.ok (0, 0, 0), s)
      match r with
      | .error k => (.error k, t.undoRead s)
      | .ok (bm, bn, bk) =>
        let known := extentKnown (s.core n) d x.plan
        let em := (known 0).getD bm
        let en := (known 1).getD bn
        let ek := (known 2).getD bk
        match planCheck2 t n x em ek en with
        | some k => (.error k, t.undoRead s)
        | none => (.ok (em, ek, en), t)

/-- An operation as it joins its engine's queue. -/
def mkOp (c : Core) (tok : Nat) (x : MMIssue) (e : Nat × Nat × Nat) : EngOp :=
  { seq := c.opSeq, tok, desc := x.d, chain := x.ch, plan := x.plan, desc2 := x.d2, chain2 := x.ch2,
    em := e.1, ek := e.2.1, en := e.2.2, step := c.stepIndex.toNat, frame := c.frameIndex.toNat, started := false,
    stage := .work, tile := 0, row := 0, ip := 0, vdone := false, summed := false, slices := [], spill := [], pos := 0,
    phase := 0, words := [], t2A := ⟨0, 0⟩, t2B := ⟨0, 0⟩, drains := 0, relA := Relay.zero, relB := Relay.zero, waits := false,
    pool := [], moss := [], ahead := [], sent := false,
    acked := false, noteQueued := false, noted := false, err := 0 }

/-- An accepted issue: the token becomes PENDING, the operation joins its engine's queue, g[DST] := ST_OK (R99). -/
def State.accept (s : State) (n e : Nat) (f : Fields) (x : MMIssue) (ex : Nat × Nat × Nat) : State :=
  ((s.release n).updCore n fun c =>
    let c := c.setTok f.tok.toNat .pending
    { (c.setEngq e (c.engq e ++ [mkOp c f.tok.toNat x ex])) with opSeq := c.opSeq + 1 }).status n f Code.ok

/-- Steps 1 and 2 of R105. -/
def issueHead (c : Core) (e : Nat) (f : Fields) (d : Line) : Option Half :=
  firstFail [need (c.token f.tok.toNat == .free) Code.tokenBusy, need (lineBits d 0 3 0 = e) Code.engine]

/-- An engine issue (R99, R103, R105): refused, stalled on a full engine, or accepted. -/
def issueBody (e : Nat) (op : HeldOp) (check : State → Nat → Line → Option Half) (n : Nat) (f : Fields) (s : State) : State :=
  let d := (s.core n).dr f.sa.toNat
  match issueHead (s.core n) e f d with
  | some k => (s.release n).status n f k
  | none =>
    match check s n d with
    | some k => (s.release n).status n f k
    | none =>
      if 4 ≤ ((s.core n).engq e).length then s.hold n op f
      else s.accept n e f ⟨d, 0, [], 0, 0⟩ (0, 0, 0)

/-- MM issue (R109). The control unit of a core whose requests the trunk does not accept stalls at the bound read (R221, R342). -/
def mmBody (n : Nat) (f : Fields) (s : State) : State :=
  let d := (s.core n).dr f.sa.toNat
  match issueHead (s.core n) 1 f d with
  | some k => (s.release n).status n f k
  | none =>
    if 4 ≤ ((s.core n).engq 1).length then s.hold n .mm f
    else
      let x := mmCopies (s.core n) d
      if s.cutOff n ∧ x.bound ∧ planCheck1 s n x = none then s.hold n .mm f
      else match mmResolve s n x with
      | (.error k, t) => (t.release n).status n f k
      | (.ok e, t) => t.accept n 1 f x e

/-- VX issue (R110). -/
def vxBody : Nat → Fields → State → State := issueBody 2 .vx fun _ _ d => vxCheck d
/-- SF issue (R111). -/
def sfBody : Nat → Fields → State → State := issueBody 3 .sf fun _ _ d => sfCheck d
/-- CP issue (R112). -/
def cpBody : Nat → Fields → State → State := issueBody 4 .cp cpCheck
/-- GA issue (R113). -/
def gaBody : Nat → Fields → State → State := issueBody 5 .ga fun _ _ d => gaCheck d
/-- NZ issue (R114). -/
def nzBody : Nat → Fields → State → State := issueBody 6 .nz fun _ _ d => nzCheck d

/-- Fields of an engine issue (R92 to R94). -/
def issueLegal (f : Fields) : Bool := f.only true true false true false 0 && reg16 f.sa

/-- MM. -/
def execMm (c : CoreIx) (f : Fields) (s : State) : Out := s.attempt (.mm c f) <| s.cu c 0x40 f (issueLegal f) (mmBody c f)
/-- VX. -/
def execVx (c : CoreIx) (f : Fields) (s : State) : Out := s.cu c 0x41 f (issueLegal f) (vxBody c f)
/-- SF. -/
def execSf (c : CoreIx) (f : Fields) (s : State) : Out := s.cu c 0x42 f (issueLegal f) (sfBody c f)
/-- CP. -/
def execCp (c : CoreIx) (f : Fields) (s : State) : Out := s.cu c 0x43 f (issueLegal f) (cpBody c f)
/-- GA. -/
def execGa (c : CoreIx) (f : Fields) (s : State) : Out := s.cu c 0x44 f (issueLegal f) (gaBody c f)
/-- NZ. -/
def execNz (c : CoreIx) (f : Fields) (s : State) : Out := s.cu c 0x45 f (issueLegal f) (nzBody c f)

/-! Resumption and completion. -/

/-- A stalled instruction tried again (R103, R104, R116 to R118). -/
def State.resume (s : State) (n : Nat) : State :=
  match (s.core n).ctl with
  | .held op f =>
    if (s.core n).awaitAdmit then s
    else
      match op with
      | .mm => mmBody n f s
      | .vx => vxBody n f s
      | .sf => sfBody n f s
      | .cp => cpBody n f s
      | .ga => gaBody n f s
      | .nz => nzBody n f s
      | .send => sendBody n f s
      | .recv => recvBody n f s
      | .wait => waitBody n f s
      | .fence => fenceBody n f s
      | .epochEnd => epochEndBody n f s
      | .vld => vldBody n f (s.release n)
      | .vst => vstBody n f (s.release n)
  | _ => s

/-- A token becomes DONE with a status (R100, R488); the control unit may go on. -/
def State.tokenDone (s : State) (n t : Nat) (code : Half) : State :=
  (s.updCore n fun c => { (c.setTok t (.done code)) with progress := true }).resume n

/-- The running operation of an engine leaves it with a status (R100, R103). -/
def State.complete (s : State) (n e : Nat) (code : Half) : State :=
  match (s.core n).engq e with
  | o :: r => (s.updCore n fun c => c.setEngq e r).tokenDone n o.tok code
  | [] => s

end Sys2Proof.Machine
end

