-- ==== Sys2Proof/Machine/Tile.lean ====
section
/-!
DEFINITION. Tile programs: the instructions, their checks and their effect in one row step
(06 R140 to R148, 07 R168 to R182, 08 R184 to R205).
-/

namespace Sys2Proof.Machine

open Sys2Proof

/-- Tile-program operations (R145, R171, R187). -/
inductive TOp where
  | nop | add | sub | mul | fma | min | max | ceq | clt | cle | sel | and | or | xor
  | ldx | ldy | ldz | sto | lds | sts | imm | sys | idx | cvt | sfn
  | rclr | rsx | rsl | rmean | rvar | rdiv | rsmax | rprob | rstr | rldr | raddr | rdfr | rscale
  | cldg | cfeed | cscale
deriving DecidableEq, Repr

/-- Opcodes (R145, R171, R187). -/
def topOf : Nat → Option TOp
  | 0x00 => some .nop | 0x01 => some .add | 0x02 => some .sub | 0x03 => some .mul | 0x04 => some .fma
  | 0x05 => some .min | 0x06 => some .max | 0x08 => some .ceq | 0x09 => some .clt | 0x0A => some .cle
  | 0x0B => some .sel | 0x0C => some .and | 0x0D => some .or | 0x0E => some .xor
  | 0x10 => some .ldx | 0x11 => some .ldy | 0x12 => some .ldz | 0x13 => some .sto | 0x14 => some .lds
  | 0x15 => some .sts | 0x16 => some .imm | 0x17 => some .sys | 0x18 => some .idx | 0x19 => some .cvt
  | 0x1A => some .sfn
  | 0x40 => some .rclr | 0x41 => some .rsx | 0x42 => some .rsl | 0x43 => some .rmean | 0x44 => some .rvar
  | 0x45 => some .rdiv | 0x46 => some .rsmax | 0x47 => some .rprob | 0x48 => some .rstr | 0x49 => some .rldr
  | 0x4A => some .raddr | 0x4B => some .rdfr | 0x4C => some .rscale
  | 0x50 => some .cldg | 0x51 => some .cfeed | 0x52 => some .cscale
  | _ => none

/-- A tile-program word's opcode and fields (06, Tile-program instruction layout). -/
def tileDecode (w : Nat) : Option TOp × TFields :=
  (topOf (bitsOf w 63 56),
   { vd := BitVec.ofNat 4 (bitsOf w 55 52), va := BitVec.ofNat 4 (bitsOf w 51 48), vb := BitVec.ofNat 4 (bitsOf w 47 44),
     vc := BitVec.ofNat 4 (bitsOf w 43 40), w := bitOf w 39, fn := BitVec.ofNat 4 (bitsOf w 38 35), set := bitOf w 34,
     rsv := BitVec.ofNat 2 (bitsOf w 33 32), imm := BitVec.ofNat 32 w })

/-- Which fields an instruction uses: VD, VA, VB, VC, W, FN, SET and a mask of IMM (R145, R171, R187). -/
structure TUse where
  vd : Bool := false
  va : Bool := false
  vb : Bool := false
  vc : Bool := false
  w : Bool := false
  fn : Bool := false
  set : Bool := false
  imm : Word := 0
deriving DecidableEq, Repr

/-- The fields used by each instruction. Bits of IMM that an instruction which uses IMM does not name are held to zero as an
unused field is (R145). DESIGN CHOICE, log entry 69. -/
def TOp.use : TOp → TUse
  | .nop | .rclr | .rsx | .rscale => {}
  | .add | .sub | .mul | .min | .max | .ceq | .clt | .cle => { vd := true, va := true, vb := true, w := true }
  | .fma | .sel => { vd := true, va := true, vb := true, vc := true, w := true }
  | .and | .or | .xor => { vd := true, va := true, vb := true }
  | .ldx | .ldy | .ldz | .rmean | .rvar | .cldg => { vd := true, w := true }
  | .sto => { va := true, w := true }
  | .lds => { vd := true, w := true, imm := 0xFFFFFFFF }
  | .sts => { va := true, w := true, imm := 0xFFFFFFFF }
  | .imm => { vd := true, w := true, imm := 0xFFFFFFFF }
  | .sys => { vd := true, imm := 0xFFF }
  | .idx => { vd := true, imm := 3 }
  | .cvt => { vd := true, va := true, imm := 3 }
  | .sfn => { vd := true, va := true, w := true, fn := true, set := true }
  | .rsl | .cfeed => { va := true }
  | .rdiv => { vd := true, va := true, w := true }
  | .rsmax | .rprob => { vd := true, va := true, set := true }
  | .rstr | .rldr | .raddr => { imm := 0xFFFFFFFF }
  | .rdfr => { vd := true, va := true, w := true, imm := 0xFFFFFFFF }
  | .cscale => { imm := 0x3F }

/-- Every field but those used is zero. -/
def tUnused (u : TUse) (f : TFields) : Bool :=
  (u.vd || f.vd == 0) && (u.va || f.va == 0) && (u.vb || f.vb == 0) && (u.vc || f.vc == 0) && (u.w || !f.w)
    && (u.fn || f.fn == 0) && (u.set || !f.set) && f.rsv == 0 && (f.imm &&& ~~~u.imm) == 0

/-- Which program of an operation a tile program is. -/
inductive SweepKind where | vx | pro | epi | epi2
deriving DecidableEq, Repr

/-- What a tile program sees: its place, extents, inputs, output and options (R142, R168 to R171, R181). -/
structure Sweep where
  kind : SweepKind
  prog : Nat
  count : Nat
  rd : Rnd
  scratch : Nat
  scratchSize : Nat
  /-- First row and column, and the extent, of the sweep in the tensor. -/
  row0 : Nat
  col0 : Nat
  rows : Nat
  cols : Nat
  /-- The tensor rows of a sweep whose rows do not follow one another; empty where they do (R220, R238). -/
  rowIx : List Nat
  /-- Columns of the whole row, for the first and last row steps of a row. -/
  allCols : Nat
  x : Option Tens
  y : Option Tens
  z : Option Tens
  /-- Output: address of the sweep's first element, pitch between rows, format and scale. -/
  outAddr : Nat
  outPitch : Nat
  outFmt : Fmt
  outScale : Int
  mask : Nat
  gate : Bool
  next : Bool
  /-- The drain stage: format, scale, σa + σb and the drain's direction (R170). -/
  dfmt : Fmt
  dscale : Int
  sum : Int
  drd : Rnd
  /-- First cell and cells per row; or the spill of a chained pair's block (R181). -/
  cell0 : Nat
  cellPitch : Nat
  /-- The first cell of each row where the rows do not follow one another (R214, R238). -/
  cellAt : List Nat
  spill : Option (Sparse Cell)
  /-- The gate region's first cell, pitch, format, scale and GSUM (R176). -/
  gcell : Nat
  gpitch : Nat
  gfmt : Fmt
  gscale : Int
  gsum : Int
  /-- The second operation: feed buffer, its first column of this block, cells and columns (R181). -/
  feed : Tens
  feedCol : Nat
  cell2 : Nat
  n2 : Nat
  /-- For RDFR: K and σa of the MM (R205). -/
  k : Nat
  sa : Int
deriving DecidableEq, Repr

/-! Checks before the first row step (R144, R168, R188). -/

/-- Registers read or written as L64 pairs. -/
def pairRegs (op : TOp) (f : TFields) : List Nat :=
  let vd := f.vd.toNat
  let va := f.va.toNat
  match op with
  | .cvt => if f.imm = 0 then [vd] else if f.imm = 1 then [va] else []
  | _ =>
    if f.w then
      (if op.use.vd then [vd] else []) ++ (if op.use.va then [va] else []) ++ (if op.use.vb then [f.vb.toNat] else [])
        ++ (if op.use.vc then [f.vc.toNat] else [])
    else []

/-- The v registers an instruction writes. -/
def writtenRegs (op : TOp) (f : TFields) : List Nat :=
  if op.use.vd then
    (if (f.w && op.use.w) || (op == .cvt && f.imm == 0) then [f.vd.toNat, f.vd.toNat + 1] else [f.vd.toNat])
  else []

/-- The check of one instruction of a tile program (R144, R165, R168, R171, R188). -/
def tileCheck (sw : Sweep) (op : TOp) (f : TFields) : Option Half :=
  let inEpi := sw.kind = .epi || sw.kind = .epi2
  let stat : Bool := match sw.kind with
    | .vx | .pro => match sw.x with | some t => t.fmt < 2 | none => false
    | _ => sw.dfmt == .s8 || sw.dfmt == .s16
  let has : Option Tens → Bool := Option.isSome
  firstFail
    [need (tUnused op.use f) Code.vxIllegal,
     need (op != .sfn || f.fn.toNat < 10) Code.vxIllegal,
     need (op != .cldg || (inEpi && sw.gate)) Code.vxIllegal,
     need ((op != .cfeed && op != .cscale && op != .rscale) || (sw.kind = .epi && sw.next)) Code.vxIllegal,
     need (op != .rdfr || inEpi) Code.vxIllegal,
     need ((pairRegs op f).all (· % 2 = 0)) Code.vxRegister,
     need (op != .lds && op != .sts || f.imm.toNat + (if f.w then 2 else 1) ≤ sw.scratchSize) Code.vxScratch,
     need (op != .ldx || inEpi || has sw.x) Code.vxInput,
     need (op != .ldy || has sw.y) Code.vxInput,
     need (op != .ldz || has sw.z) Code.vxInput,
     need ((writtenRegs op f).all fun r => bitOf sw.mask r) Code.vxMask,
     need (op != .rsx || stat) Code.vxStats,
     need ((op != .rstr && op != .rldr && op != .raddr) || 64 * (f.imm.toNat + sw.row0 + sw.rows) ≤ 0x20000) Code.vxStats,
     need (op != .rdfr || 32 * f.imm.toNat + 22 * sw.allCols ≤ 0x20000) Code.vxStats]

/-- The word of instruction `i` of a tile program. -/
def progWord (c : Core) (sw : Sweep) (i : Nat) : Nat := Mem.nat c.near (sw.prog + 8 * i) 8

/-- The check of instruction `i`, with at most one RSMAX in the program (R188). -/
def progCheckAt (c : Core) (sw : Sweep) (i : Nat) : Option Half :=
  match tileDecode (progWord c sw i) with
  | (none, _) => some Code.vxIllegal
  | (some op, f) =>
    match tileCheck sw op f with
    | some k => some k
    | none =>
      if op == .rsmax && (List.range i).any (fun j => (tileDecode (progWord c sw j)).1 == some .rsmax) then some Code.vxStats
      else none

/-- The words of a tile program. -/
def progWords (c : Core) (sw : Sweep) : List Nat := (List.range sw.count).map (progWord c sw)

/-- The code of the first failing instruction of a tile program (R144). -/
def progCheck (c : Core) (sw : Sweep) : Option Half := firstSome (progCheckAt c sw) (List.range sw.count)

/-! Lanes (R140, R141). -/

/-- Lane `j` of a register. -/
def laneOf (l : Line) (j : Nat) : Nat := lineWord l j
/-- A register from its 16 lanes. -/
def ofLanes (f : Nat → Nat) : Line :=
  BitVec.ofNat 512 ((List.range 16).foldl (fun a j => a + f j % 2 ^ 32 * 2 ^ (32 * j)) 0)
/-- Lane `j` of an L32 register, or of an L64 pair (R141). -/
def Core.lane (c : Core) (w : Bool) (r j : Nat) : Nat :=
  if w then laneOf (c.vr (2 * (r / 2))) j + laneOf (c.vr (2 * (r / 2) + 1)) j * 2 ^ 32 else laneOf (c.vr r) j
/-- A register, or an L64 pair, written lane by lane (R141). -/
def Core.setLanes (c : Core) (w : Bool) (r : Nat) (f : Nat → Nat) : Core :=
  if w then (c.setV (2 * (r / 2)) (ofLanes f)).setV (2 * (r / 2) + 1) (ofLanes fun j => f j / 2 ^ 32)
  else c.setV r (ofLanes f)
/-- The format of a register operand. -/
def wf (w : Bool) : Fmt := if w then .l64 else .l32

/-! One row step's place. -/

/-- The current row, the first column of its tile and the number of active lanes (R142, R143). -/
structure Step where
  p : Nat
  row : Nat
  trow : Nat
  col : Nat
  act : Nat
deriving DecidableEq, Repr

/-- Tiles per tile row of a sweep. -/
def Sweep.tcols (sw : Sweep) : Nat := ceilDiv sw.cols 16
/-- Tiles of a sweep. -/
def Sweep.tiles (sw : Sweep) : Nat := ceilDiv sw.rows 16 * sw.tcols

/-- The row step at row `r` of tile `t` of a sweep. -/
def Sweep.step (sw : Sweep) (t r : Nat) : Step :=
  let i := t / sw.tcols
  let j := t % sw.tcols
  let p := 16 * i + r
  { p, row := sw.rowIx.getD p (sw.row0 + p), trow := r, col := sw.col0 + 16 * j, act := min 16 (sw.cols - 16 * j) }

/-- Rows of tile `t` that lie within the sweep. -/
def Sweep.tileRows (sw : Sweep) (t : Nat) : Nat := min 16 (sw.rows - 16 * (t / sw.tcols))

/-- An element of a near-store tensor as a code. -/
def Core.elem (c : Core) (t : Tens) (r j : Nat) : Nat := Mem.nat c.near (t.at r j) t.f.size

/-- The cell that the output at row `p` of a sweep and column `col` drains (R127, R170, R181). In an inactive lane, whose column no
cell belongs to, it is the cell that the same sum names. DESIGN CHOICE, log entry 69. -/
def Sweep.cell (sw : Sweep) (c : Core) (p col : Nat) : Cell :=
  match sw.spill with
  | some m => Sparse.get Cell.zero m (16 * p + (col - sw.col0))
  | none => c.cell (sw.cellAt.getD p (sw.cell0 + sw.cellPitch * p) + (col - sw.col0))

/-- The drain-stage code of that output (R170). -/
def Sweep.drained (sw : Sweep) (c : Core) (p col : Nat) : Nat :=
  drainCell (sw.cell c p col) (sw.sum - sw.dscale) sw.dfmt sw.drd

/-- An input row loaded into VD: +0 in inactive lanes (R143, R147). -/
def loadRow (c : Core) (sw : Sweep) (st : Step) (f : TFields) (src : Fmt) (scale : Int) (code : Nat → Nat) : Core :=
  c.setLanes f.w f.vd.toNat fun j =>
    if j < st.act then loadElem src (wf f.w) scale sw.rd (code (st.col + j)) else 0

/-- A near-store tensor's current row loaded; a reference with STRIDE 0 in an epilogue repeats its first row (R170). -/
def loadTens (c : Core) (sw : Sweep) (st : Step) (f : TFields) (t : Tens) : Core :=
  loadRow c sw st f t.f t.scale fun j => c.elem t st.row j

/-! Row statistics (08). -/

/-- NAN set in a slot (R186). -/
def Slot.bad (s : Slot) : Slot := { s with nan := true }

/-- RSX: the current row of the statistics source added to an exact slot (R190). -/
def slotRsx (s : Slot) (f : Fmt) (scale : Int) (codes : List Nat) : Slot :=
  if s.kind ≠ .empty ∧ s.kind ≠ .exact then s.bad
  else
    let t : Slot := if s.kind = .empty then ({ Slot.zero with kind := .exact, scale := scale, nan := s.nan } : Slot) else s
    if t.scale ≠ scale ∨ 2 ^ 31 ≤ t.n + codes.length then s.bad
    else codes.foldl (fun t c =>
      match shortInt f c with
      | none => { t with n := t.n + 1, nan := true }
      | some v =>
        let sh : Nat := if f = .s8 then 30 else 0
        let x := v * 2 ^ sh
        { t with n := t.n + 1, sum1 := t.sum1 + BitVec.ofInt 176 (x * 2 ^ 40), sum2 := t.sum2 + BitVec.ofInt 176 (x * x) }) t

/-- RSL: L32 lanes added to a wide slot in L64 under RNE (R193). -/
def slotRsl (s : Slot) (xs : List Nat) : Slot :=
  if s.kind ≠ .empty ∧ s.kind ≠ .wide then s.bad
  else
    let t : Slot := if s.kind = .empty then
        { Slot.zero with kind := .wide, nan := s.nan, c := BitVec.ofNat 64 (l32ToL64 (xs.getD 0 0)) } else s
    if 2 ^ 31 ≤ t.n + xs.length then s.bad
    else xs.foldl (fun t x =>
      let x64 := l32ToL64 x
      let dl := subF .l64 .ne x64 t.c.toNat
      { t with
        n := t.n + 1, nan := t.nan || (quietNan .l64 x64).isSome
        s1 := BitVec.ofNat 64 (addF .l64 .ne t.s1.toNat dl)
        s2 := BitVec.ofNat 64 (fmaF .l64 .ne dl dl t.s2.toNat) }) t

/-- A difference or sum of two L64 codes rounded once to a format (R194). -/
def sumTo (out : Fmt) (rd : Rnd) (a b : Nat) : Nat :=
  match Fmt.l64.val a, Fmt.l64.val b with
  | .fin s1 m1 e1, .fin s2 m2 e2 =>
    let (s, m, e) := addFin rd s1 m1 e1 s2 m2 e2
    if m = 0 then out.zero s else roundQ out rd s m 1 e
  | _, _ => let x := addF .l64 rd a b; if out = .l64 then x else l64ToL32 rd x

/-- The difference of two L64 codes rounded once to a format; the first NaN keeps its sign (R69, R194). -/
def diffTo (out : Fmt) (rd : Rnd) (a b : Nat) : Nat :=
  match firstNan .l64 [a, b] with
  | some x => if out = .l64 then x else l64ToL32 rd x
  | none => sumTo out rd a (flipSign .l64 b)

/-- RMEAN (R191, R194). -/
def slotMean (s : Slot) (out : Fmt) (rd : Rnd) : Nat :=
  if s.nan ∨ s.n = 0 then out.nan
  else match s.kind with
  | .exact => roundQ out rd s.sum1.msb s.sum1.toInt.natAbs s.n (s.scale - 80)
  | .wide => sumTo out rd s.c.toNat (divF .l64 .ne s.s1.toNat (roundQ .l64 .ne false s.n 1 0))
  | _ => out.nan

/-- RVAR (R191, R194). -/
def slotVar (s : Slot) (out : Fmt) (rd : Rnd) : Nat :=
  if s.nan ∨ s.n = 0 then out.nan
  else match s.kind with
  | .exact =>
    let d : Int := s.n * (s.sum2.toInt * 2 ^ 80) - s.sum1.toInt * s.sum1.toInt
    roundQ out rd (decide (d < 0)) d.natAbs (s.n * s.n) (2 * s.scale - 160)
  | .wide =>
    let n := roundQ .l64 .ne false s.n 1 0
    let m := divF .l64 .ne s.s1.toNat n
    let r := diffTo out rd (divF .l64 .ne s.s2.toNat n) (mulF .l64 .ne m m)
    if (quietNan out r).isNone && bitOf r (out.par.width - 1) then 0 else r
  | _ => out.nan

/-- RDIV: VA ÷ ℓ, rounded once (R201). -/
def slotDiv (s : Slot) (f : Fmt) (rd : Rnd) (a : Nat) : Nat :=
  if s.nan ∨ s.kind ≠ .softmax then f.nan
  else
    let l := s.sum1.toInt.natAbs
    let ln := s.sum1.msb
    match f.val a with
    | .nan sg p => f.nanCode sg p
    | .inf sg => f.overflow (sg != ln) .ne
    | .fin sg m e =>
      if l = 0 then (if m = 0 then f.nan else f.overflow sg .ne) else roundQ f rd (sg != ln) m l (e + 80)

/-- The larger of two optional L32 codes. -/
def maxScore (a : Option Nat) (t : Nat) : Option Nat :=
  match a with
  | none => some t
  | some x => if cmpF .l32 x t = some .lt then some t else a

/-- Whether a score is finite with magnitude below 2^30. -/
def scoreFinite (t : Nat) : Bool := match Fmt.l32.val t with | .fin _ _ _ => !scoreBad t | _ => false

/-- The probability of a score as held in a lane; with NONE set, finite scores give NaN (R199). -/
def probLane (gorse noRef : Bool) (k : Int) (t : Nat) : Nat :=
  let code := if noRef && scoreFinite t then 0x8000 else probCode gorse t k
  widenShort .s16 .l32 0 code

/-- RSMAX on the active scores: the slot after it and the S16 probabilities (R199). A slot of another kind, or a COUNT that would
pass 2³¹ − 1, sets NAN in the slot (R186), and the lanes receive the canonical NaN. DESIGN CHOICE, log entry 69. -/
def slotRsmax (s : Slot) (gorse : Bool) (ts : List Nat) : Slot × List Nat :=
  if s.kind ≠ .empty ∧ s.kind ≠ .softmax then (s.bad, ts.map fun _ => 0x8000)
  else
    let t : Slot := if s.kind = .empty then { Slot.zero with kind := .softmax, noRef := true, nan := s.nan } else s
    if 2 ^ 31 ≤ t.n + ts.length then (s.bad, ts.map fun _ => 0x8000)
    else
      let t := { t with nan := t.nan || ts.any scoreBad }
      let m := (ts.filter scoreFinite).foldl maxScore none
      let t := match m with
        | none => { t with shift := 0 }
        | some x =>
          let k := scoreCeil x
          if t.noRef then { t with ref := k, shift := 0, noRef := false }
          else if t.ref < k then
            let d := (k - t.ref).toNat
            { t with shift := d, sum1 := BitVec.ofInt 176 (t.sum1.toInt / 2 ^ d), ref := k }
          else { t with shift := 0 }
      let ps := ts.map fun x => if t.noRef && scoreFinite x then 0x8000 else probCode gorse x t.ref
      (ps.foldl (fun t p => match shortInt .s16 p with
          | some v => { t with sum1 := t.sum1 + BitVec.ofInt 176 (v * 2 ^ 40) }
          | none => t) { t with n := t.n + ts.length }, ps)

/-- A slot as a statistics record (R196). -/
def slotRecord (s : Slot) : List Byte :=
  let kind := match s.kind with | .empty => 0 | .exact => 1 | .wide => 2 | .softmax => 3
  let hdr := natToBytes 4 s.n ++ natToBytes 2 (if s.kind = .exact then wrapInt 16 s.scale else 0) ++ natToBytes 1 kind
    ++ natToBytes 1 (s.nan.toNat + 2 * s.noRef.toNat) ++ natToBytes 4 (if s.kind = .softmax then wrapInt 32 s.ref else 0)
    ++ natToBytes 4 0
  let body := match s.kind with
    | .empty => natToBytes 44 0
    | .exact => natToBytes 22 s.sum1.toNat ++ natToBytes 22 s.sum2.toNat
    | .wide => natToBytes 8 s.s1.toNat ++ natToBytes 8 s.c.toNat ++ natToBytes 6 0 ++ natToBytes 8 s.s2.toNat ++ natToBytes 14 0
    | .softmax => natToBytes 22 s.sum1.toNat ++ natToBytes 22 0
  hdr ++ body ++ natToBytes 4 0

/-- A slot from a statistics record (R196, R197). -/
def recordSlot (b : List Byte) : Slot :=
  let fl := fieldNat b 7 1
  let base : Slot := { Slot.zero with n := fieldNat b 0 4, nan := bitOf fl 0, noRef := bitOf fl 1 }
  match fieldNat b 6 1 with
  | 0 => { Slot.zero with nan := bitOf fl 0 }
  | 1 =>
    { base with
      kind := .exact, noRef := false, scale := signedOf 16 (fieldNat b 4 2)
      sum1 := BitVec.ofNat 176 (fieldNat b 16 22), sum2 := BitVec.ofNat 176 (fieldNat b 38 22) }
  | 2 =>
    { base with
      kind := .wide, noRef := false, s1 := BitVec.ofNat 64 (fieldNat b 16 8)
      c := BitVec.ofNat 64 (fieldNat b 24 8), s2 := BitVec.ofNat 64 (fieldNat b 38 8) }
  | 3 =>
    { base with
      kind := .softmax, ref := signedOf 32 (fieldNat b 8 4), sum1 := BitVec.ofNat 176 (fieldNat b 16 22) }
  | _ => { Slot.zero with nan := true }

/-- RADDR (R197). -/
def slotAddRecord (s : Slot) (b : List Byte) : Slot :=
  let r := recordSlot b
  if s.kind ≠ .empty ∧ s.kind ≠ .exact then s.bad
  else
    let t : Slot := if s.kind = .empty then { Slot.zero with kind := .exact, scale := r.scale, nan := s.nan } else s
    if fieldNat b 6 1 ≠ 1 then s.bad
    else if r.scale ≠ t.scale ∨ 2 ^ 31 ≤ t.n + r.n then s.bad
    else { t with n := t.n + r.n, sum1 := t.sum1 + r.sum1, sum2 := t.sum2 + r.sum2, nan := t.nan || r.nan }

/-- RDFR in one lane (R205). -/
def rdfrLane (s : Slot) (sw : Sweep) (f : Fmt) (cell : Cell) (g : Nat) (sumScale : Int) (r : Nat) : Nat :=
  let gc := Cell.ofXp22 g
  if s.kind ≠ .exact ∨ s.nan ∨ s.n ≠ sw.k ∨ s.scale ≠ sw.sa ∨ cell.n ∨ gc.n then f.nan
  else
    let br : Int := s.n * (cell.a.toInt * 2 ^ 80) - s.sum1.toInt * gc.a.toInt
    match f.val r with
    | .nan sg p => f.nanCode sg p
    | .inf sg => if br = 0 then f.nan else f.overflow (sg != decide (br < 0)) .ne
    | .fin sg m e =>
      let neg := if br = 0 ∨ m = 0 then false else sg != decide (br < 0)
      roundQ f sw.rd neg (br.natAbs * m) s.n (e + sumScale - 160)

/-! One instruction in one row step. -/

/-- Lane-wise arithmetic in every lane. -/
def lanes2 (c : Core) (f : TFields) (op : Fmt → Nat → Nat → Nat) : Core :=
  c.setLanes f.w f.vd.toNat fun j => op (wf f.w) (c.lane f.w f.va.toNat j) (c.lane f.w f.vb.toNat j)

/-- All ones of a register's width, or zero. -/
def maskIf (w b : Bool) : Nat := if b then (if w then 2 ^ 64 - 1 else 2 ^ 32 - 1) else 0

/-- A comparison mask; a NaN operand makes it false (R146). -/
def cmpLanes (c : Core) (f : TFields) (ok : Ordering → Bool) : Core :=
  lanes2 c f fun fm a b => maskIf f.w (match cmpF fm a b with | some o => ok o | none => false)

/-- The effect of a tile-program instruction in one row step, on its core (R145 to R148, R170, R171, R187). -/
def tileCore (c : Core) (sw : Sweep) (st : Step) (sys : Nat → Nat) (op : TOp) (f : TFields) : Core :=
  let vd := f.vd.toNat
  let va := f.va.toNat
  let act : List Nat := List.range st.act
  let slot := c.slot st.row
  let last := sw.allCols ≤ st.col + 16
  match op with
  | .nop => c
  | .add => lanes2 c f fun m a b => addF m sw.rd a b
  | .sub => lanes2 c f fun m a b => subF m sw.rd a b
  | .mul => lanes2 c f fun m a b => mulF m sw.rd a b
  | .fma => c.setLanes f.w vd fun j =>
      fmaF (wf f.w) sw.rd (c.lane f.w va j) (c.lane f.w f.vb.toNat j) (c.lane f.w f.vc.toNat j)
  | .min => lanes2 c f minF
  | .max => lanes2 c f maxF
  | .ceq => cmpLanes c f (· == .eq)
  | .clt => cmpLanes c f (· == .lt)
  | .cle => cmpLanes c f (· != .gt)
  | .sel => c.setLanes f.w vd fun j =>
      let a := c.lane f.w va j
      let b := c.lane f.w f.vb.toNat j
      let m := c.lane f.w f.vc.toNat j
      (a &&& m) ||| (b &&& (m ^^^ maskIf f.w true))
  | .and => lanes2 c f fun _ a b => a &&& b
  | .or => lanes2 c f fun _ a b => a ||| b
  | .xor => lanes2 c f fun _ a b => a ^^^ b
  | .ldx =>
    match sw.x with
    | some t => loadTens c sw st f t
    | none => loadRow c sw st f sw.dfmt sw.dscale (sw.drained c st.p)
  | .ldy => match sw.y with | some t => loadTens c sw st f t | none => c
  | .ldz => match sw.z with | some t => loadTens c sw st f t | none => c
  | .sto => act.foldl (fun k j =>
      let code := storeElem (wf f.w) sw.outFmt sw.outScale sw.rd (c.lane f.w va j)
      k.nearWrite (sw.outAddr + sw.outPitch * st.p + sw.outFmt.size * (st.col + j - sw.col0))
        (natToBytes sw.outFmt.size code)) c
  | .lds =>
    let a := sw.scratch + 64 * f.imm.toNat
    if f.w then (c.setV (2 * (vd / 2)) (c.nearLine a)).setV (2 * (vd / 2) + 1) (c.nearLine (a + 64))
    else c.setV vd (c.nearLine a)
  | .sts =>
    let a := sw.scratch + 64 * f.imm.toNat
    if f.w then c.nearWrite a (lineBytes (c.vr (2 * (va / 2))) ++ lineBytes (c.vr (2 * (va / 2) + 1)))
    else c.nearWrite a (lineBytes (c.vr va))
  | .imm => c.setLanes f.w vd fun _ => if f.w then l32ToL64 f.imm.toNat else f.imm.toNat
  | .sys => c.setLanes false vd fun _ => sys f.imm.toNat
  | .idx => c.setLanes false vd fun j => natToL32 (match f.imm.toNat % 4 with
      | 0 => j | 1 => st.trow | 2 => st.row | _ => st.col + j)
  | .cvt =>
    match f.imm.toNat % 4 with
    | 0 => c.setLanes true vd fun j => l32ToL64 (c.lane false va j)
    | 1 => c.setLanes false vd fun j => l64ToL32 sw.rd (c.lane true va j)
    | 2 => c.setLanes false vd fun j => widenShort .s16 .l32 0 (toShort .s16 .l32 0 (c.lane false va j))
    | _ => c.setLanes false vd fun j => widenShort .s8 .l32 0 (toShort .s8 .l32 0 (c.lane false va j))
  | .sfn => c.setLanes f.w vd fun j =>
      if j < st.act then sfEval f.set ((fnOf f.fn.toNat).getD .exp2) (wf f.w) (wf f.w) 0 (c.lane f.w va j) else 0
  | .rclr => c.setSlot st.row Slot.zero
  | .rsx =>
    match sw.x with
    | some t => c.setSlot st.row (slotRsx slot t.f t.scale (act.map fun j => c.elem t st.row (st.col + j)))
    | none => c.setSlot st.row (slotRsx slot sw.dfmt sw.dscale (act.map fun j => sw.drained c st.p (st.col + j)))
  | .rsl => c.setSlot st.row (slotRsl slot (act.map fun j => c.lane false va j))
  | .rmean =>
    if slot.kind = .exact ∨ slot.kind = .wide then c.setLanes f.w vd fun _ => slotMean slot (wf f.w) sw.rd
    else (c.setSlot st.row slot.bad).setLanes f.w vd fun _ => (wf f.w).nan
  | .rvar =>
    if slot.kind = .exact ∨ slot.kind = .wide then c.setLanes f.w vd fun _ => slotVar slot (wf f.w) sw.rd
    else (c.setSlot st.row slot.bad).setLanes f.w vd fun _ => (wf f.w).nan
  | .rdiv =>
    let k := if slot.kind = .softmax then c else c.setSlot st.row slot.bad
    k.setLanes f.w vd fun j => slotDiv slot (wf f.w) sw.rd (c.lane f.w va j)
  | .rsmax =>
    let (t, ps) := slotRsmax slot f.set (act.map fun j => c.lane false va j)
    (c.setSlot st.row t).setLanes false vd fun j =>
      if j < st.act then widenShort .s16 .l32 0 (ps.getD j 0) else 0
  | .rprob =>
    if slot.kind = .softmax then
      c.setLanes false vd fun j => if j < st.act then probLane f.set false slot.ref (c.lane false va j) else 0
    else (c.setSlot st.row slot.bad).setLanes false vd fun j => if j < st.act then Fmt.l32.nan else 0
  | .rstr => if last then c.nearWrite (64 * (f.imm.toNat + st.row)) (slotRecord slot) else c
  | .rldr => c.setSlot st.row (recordSlot (Mem.read c.near (64 * (f.imm.toNat + st.row)) 64))
  | .raddr => c.setSlot st.row (slotAddRecord slot (Mem.read c.near (64 * (f.imm.toNat + st.row)) 64))
  | .rdfr =>
    let k := if slot.kind = .exact then c else c.setSlot st.row slot.bad
    k.setLanes f.w vd fun j =>
      rdfrLane slot sw (wf f.w) (sw.cell c st.p (st.col + j))
        (Mem.nat c.near (32 * f.imm.toNat + 22 * (st.col + j)) 22) sw.sum (c.lane f.w va j)
  | .rscale =>
    if slot.kind = .softmax then
      (List.range sw.n2).foldl (fun k i =>
        let x := sw.cell2 + sw.n2 * (st.row % 16) + i
        k.setCell x ((k.cell x).shr slot.shift)) c
    else c.setSlot st.row slot.bad
  | .cldg => loadRow c sw st f sw.gfmt sw.gscale fun col =>
      drainCell (c.cell (sw.gcell + sw.gpitch * st.p + (col - sw.col0))) (sw.gsum - sw.gscale) sw.gfmt sw.drd
  | .cfeed => act.foldl (fun k j =>
      let code := toShort sw.feed.f .l32 sw.feed.scale (c.lane false va j)
      k.nearWrite (sw.feed.addr + 32 * sw.feed.stride * (st.row % 16) + sw.feed.f.size * (sw.feedCol + j))
        (natToBytes sw.feed.f.size code)) c
  | .cscale => (List.range sw.n2).foldl (fun k i =>
      let x := sw.cell2 + sw.n2 * (st.row % 16) + i
      k.setCell x ((k.cell x).shr (f.imm.toNat % 64))) c

/-- The slot of a row is EMPTY at the row's first row step, but in the second epilogue of a chained pair (R185). -/
def rowStart (c : Core) (sw : Sweep) (st : Step) : Core :=
  if st.col = 0 ∧ sw.kind ≠ .epi2 then c.setSlot st.row Slot.zero else c

end Sys2Proof.Machine
end

