-- ==== Sys2Proof/Machine/Sweeps.lean ====
section
/-!
DEFINITION. The sweeps of tile programs: what each program of an operation sees (06 R142, 07 R168 to R172, R181).
-/

namespace Sys2Proof.Machine

open Sys2Proof

/-- A rounding direction by its code. -/
def rndAt (n : Nat) : Rnd := (rndOf n).getD .ne
/-- A format by its code. -/
def fmtAt (n : Nat) : Fmt := (fmtOf n).getD .l32

/-- A sweep that sees nothing. -/
def Sweep.none : Sweep :=
  { kind := .vx, prog := 0, count := 0, rd := .ne, scratch := 0, scratchSize := 0, row0 := 0, col0 := 0, rows := 0, cols := 0,
    rowIx := [], allCols := 0, x := Option.none, y := Option.none, z := Option.none, outAddr := 0, outPitch := 0,
    outFmt := .l32, outScale := 0, mask := 0, gate := false, next := false, dfmt := .l32, dscale := 0, sum := 0, drd := .ne,
    cell0 := 0, cellPitch := 0, cellAt := [], spill := Option.none, gcell := 0, gpitch := 0, gfmt := .l32, gscale := 0, gsum := 0,
    feed := tensAt 0 0, feedCol := 0, cell2 := 0, n2 := 0, k := 0, sa := 0 }

/-- The sweep of a VX operation (R110, R142). -/
def vxSweep (d : Line) : Sweep :=
  let n := lineBits d 0 9 8
  let o := tensAt d 13
  { Sweep.none with
    kind := .vx, prog := 8 * lineBits d 1 13 0, count := lineBits d 0 22 16, rd := rndAt (lineBits d 0 6 4)
    scratch := 64 * lineBits d 3 10 0, scratchSize := lineBits d 3 23 16
    rows := lineBits d 2 15 0, cols := lineBits d 2 31 16, allCols := lineBits d 2 31 16
    x := if 1 ≤ n then some (tensAt d 4) else Option.none
    y := if 2 ≤ n then some (tensAt d 7) else Option.none
    z := if 3 ≤ n then some (tensAt d 10) else Option.none
    outAddr := o.addr, outPitch := 32 * o.stride, outFmt := o.f, outScale := o.scale, mask := 0xFFFF }

/-- The sweep of a prologue (R169). -/
def proSweep (o : EngOp) : Sweep :=
  let ch := o.chain
  let onA := lineBits ch 0 1 0 = 1
  let t := if onA then tensAt o.desc 4 else tensAt o.desc 7
  let cols := if onA then o.ek else o.en
  { Sweep.none with
    kind := .pro, prog := 8 * lineBits ch 2 13 0, count := lineBits ch 2 22 16, rd := rndAt (lineBits ch 0 7 5)
    scratch := 64 * lineBits ch 4 10 0, scratchSize := lineBits ch 5 7 0
    rows := if onA then o.em else o.ek, cols := cols, allCols := cols
    x := some (tensAt ch 8), outAddr := t.addr, outPitch := 32 * t.stride, outFmt := t.f, outScale := t.scale
    mask := lineBits ch 6 15 0 }

/-- The parts of an epilogue sweep that its chain descriptor and MM descriptor give (R170, R176). An EY that is all zero is no
input, so that VLDY has the code of an input that is not there (R165). DESIGN CHOICE, log entry 69. -/
def epiBase (d ch : Line) (k : Nat) : Sweep :=
  let a := tensAt d 4
  let b := tensAt d 7
  let o := tensAt d 10
  let ey := tensAt ch 11
  { Sweep.none with
    kind := .epi, prog := 8 * lineBits ch 3 13 0, count := lineBits ch 3 22 16, rd := rndAt (lineBits ch 0 7 5)
    scratch := 64 * lineBits ch 4 26 16, scratchSize := lineBits ch 5 15 8
    y := if ey.zero then Option.none else some ey
    outAddr := o.addr, outPitch := 32 * o.stride, outFmt := o.f, outScale := o.scale, mask := lineBits ch 6 31 16
    gate := lineBits ch 0 3 3 = 1, next := lineBits ch 0 4 4 = 1
    dfmt := fmtAt (lineBits ch 0 10 8), dscale := signedOf 16 (lineBits ch 0 31 16), sum := a.scale + b.scale
    drd := rndAt (lineBits d 0 11 9)
    gfmt := fmtAt (lineBits ch 0 13 11), gscale := signedOf 16 (lineBits ch 1 15 0), gsum := signedOf 16 (lineBits ch 1 31 16)
    k := k, sa := a.scale }

/-- The epilogue over the whole M × N output (R170). -/
def epiSweep (o : EngOp) : Sweep :=
  { epiBase o.desc o.chain o.ek with
    rows := o.em, cols := o.en, allCols := o.en, cell0 := lineBits o.desc 3 10 0, cellPitch := o.en
    gcell := lineBits o.chain 7 10 0, gpitch := o.en, feed := tensAt o.desc2 4
    cell2 := lineBits o.desc2 3 10 0, n2 := lineBits o.desc2 2 31 16 }

/-- The first operation's epilogue on output block (i, j) of a chained pair (R181). -/
def feedSweep (o : EngOp) (i j : Nat) : Sweep :=
  let t := tensAt o.desc 10
  { epiSweep o with
    row0 := 16 * i, col0 := 16 * j, rows := min 16 (o.em - 16 * i), cols := min 16 (o.en - 16 * j)
    outAddr := t.at (16 * i) (16 * j), spill := some o.spill, feedCol := 16 * (j % 2) }

/-- The second operation's epilogue on row block i of a chained pair (R181). -/
def outSweep (o : EngOp) (i : Nat) : Sweep :=
  let n2 := lineBits o.desc2 2 31 16
  let t := tensAt o.desc2 10
  { epiBase o.desc2 o.chain2 o.en with
    kind := .epi2, row0 := 16 * i, rows := min 16 (o.em - 16 * i), cols := n2, allCols := n2
    outAddr := t.at (16 * i) 0, cell0 := lineBits o.desc2 3 10 0, cellPitch := n2 }

/-- The second operation's epilogue over the whole output, for the pre-run check. -/
def outCheckSweep (o : EngOp) : Sweep := { outSweep o 0 with rows := o.em }

/-! The sequence of row steps. -/

/-- The position after the current instruction; `none` at the end of the sweep (R142). -/
def Sweep.after (sw : Sweep) (tile row ip : Nat) : Option (Nat × Nat × Nat) :=
  if ip + 1 < sw.count then some (tile, row, ip + 1)
  else if row + 1 < sw.tileRows tile then some (tile, row + 1, 0)
  else if tile + 1 < sw.tiles then some (tile + 1, 0, 0)
  else Option.none

/-- The number of instructions in a sweep. -/
def Sweep.length (sw : Sweep) : Nat := 16 * sw.tiles * sw.count

/-- An operation has a tile program (R172). -/
def EngOp.hasProgram (o : EngOp) (e : Nat) : Bool := e = 2 || (e = 1 && o.chain ≠ 0)

/-- The running operation of an engine. -/
def Core.running (c : Core) (e : Nat) : Option EngOp :=
  match c.engq e with
  | o :: _ => if o.started then some o else Option.none
  | [] => Option.none

/-- The running operation of an engine replaced. -/
def Core.putOp (c : Core) (e : Nat) (o : EngOp) : Core :=
  match c.engq e with
  | _ :: r => c.setEngq e (o :: r)
  | [] => c

/-- The running operation of an engine replaced. -/
def State.putOp (s : State) (n e : Nat) (o : EngOp) : State := s.updCore n fun c => c.putOp e o

/-- The vector engine is free for the tile programs of the operation issued as number `seq` (R172). -/
def Core.vectorFree (c : Core) (seq : Nat) : Bool :=
  [1, 2].all fun e => (c.engq e).all fun o => seq ≤ o.seq || !o.hasProgram e || o.vdone

/-- The engine and operation whose tile program is in a sweep. -/
def Core.sweeping (c : Core) : Option (Nat × EngOp) :=
  [1, 2].findSome? fun e =>
    match c.running e with
    | some o => if o.stage = .work then Option.none else some (e, o)
    | Option.none => Option.none

end Sys2Proof.Machine
end

