-- ==== Sys2Proof/Machine/Walk.lean ====
section
/-!
DEFINITION. The plan sequencer's walk: its tiles, operand footprints, values, cells and outputs
(09 R212 to R220, 10 R230 to R247). A matrix plan is a convolution plan with the trivial window.
-/

namespace Sys2Proof.Machine

open Sys2Proof

/-- A block of the product: origin and extent in each dimension. -/
abbrev Box := List (Nat × Nat)
/-- A block's origin and extent in dimension `d`. -/
def bx (b : Box) (d : Nat) : Nat × Nat := b.getD d (0, 1)

/-- A stretch cut into steps, ascending; the last may be shorter (R209, R212). -/
def cuts (o e step : Nat) : List (Nat × Nat) :=
  if step = 0 then [(o, e)] else (List.range (ceilDiv e step)).map fun i => (o + i * step, min step (e - i * step))

/-- The tiles of a level within a block, in the order of its loops (R212). -/
def levelTiles (ext1 : List Nat) : List Nat → Box → List Box
  | [], b => [b]
  | d :: r, b => (cuts (bx b d).1 (bx b d).2 (ext ext1 d)).flatMap fun c => levelTiles ext1 r (b.set d c)

/-- One step of the walk: group and the current T3, T2 and T1 blocks. -/
structure PStep where
  g : Nat
  b3 : Box
  b2 : Box
  b1 : Box
deriving DecidableEq, Repr

/-- The whole product as a block. -/
def Plan.box (p : Plan) : Box := p.whole.map fun e => (0, e)

/-- The walk, groups outermost (R212, R236). -/
def Plan.steps (p : Plan) : List PStep :=
  (List.range p.win.g).flatMap fun g =>
    (levelTiles p.e3 p.ord3 p.box).flatMap fun b3 =>
      (levelTiles p.e2 p.ord2 b3).flatMap fun b2 => (levelTiles p.e1 p.ord1 b2).map fun b1 => ⟨g, b3, b2, b1⟩

/-- The dimensions a tile of an operand depends on (R213, R238, R241). -/
def opDims (p : Plan) (isB : Bool) : List Nat :=
  if isB then [3, 4, 5, 6] else if p.win.pool ≠ 0 then [0, 1, 2, 4, 5, 6] else [0, 1, 2, 3, 4, 5]

/-- Two blocks agree on an operand's coordinates. -/
def sameTile (p : Plan) (isB : Bool) (a b : Box) : Bool := (opDims p isB).all fun d => bx a d == bx b d

/-- The tiles of an operand that are loaded at T3, in walk order, as group and block (R213, R224). -/
def Plan.loads (p : Plan) (isB : Bool) : List (Nat × Box) :=
  let all := (List.range p.win.g).flatMap fun g => (levelTiles p.e3 p.ord3 p.box).map fun b => (g, b)
  (all.foldl (fun (acc : List (Nat × Box)) x =>
    match acc with
    | y :: _ => if y.1 = x.1 && sameTile p isB y.2 x.2 then acc else x :: acc
    | [] => [x]) []).reverse

/-- Whether a step of the walk begins a new T3 tile of an operand. -/
def newT3 (p : Plan) (isB : Bool) (prev : Option PStep) (x : PStep) : Bool :=
  match prev with
  | none => true
  | some y => !(y.g = x.g && sameTile p isB y.b3 x.b3)
/-- Whether a step of the walk begins a new T2 tile of an operand. -/
def newT2 (p : Plan) (isB : Bool) (prev : Option PStep) (x : PStep) : Bool :=
  match prev with
  | none => true
  | some y => !(y.g = x.g && sameTile p isB y.b3 x.b3 && sameTile p isB y.b2 x.b2)

/-- The first K range of a T1 tile's output, and the last (R212). -/
def firstK (x : PStep) : Bool := [3, 4, 5].all fun d => (bx x.b1 d).1 = 0
/-- The last K range. -/
def lastK (p : Plan) (x : PStep) : Bool := [3, 4, 5].all fun d => (bx x.b1 d).1 + (bx x.b1 d).2 = ext p.whole d

/-! Window expansion (R234). -/

/-- A coordinate of the virtual input. -/
inductive Place where | pad | inserted | real (n : Nat)
deriving DecidableEq, Repr

/-- `place` of R234. -/
def place (v : Int) (size up mode : Nat) : Place :=
  let inside (v : Int) : Place := if v % up = 0 then .real (v / up).toNat else .inserted
  if 0 ≤ v ∧ v < size then inside v
  else if mode ≤ 1 then .pad
  else if mode = 2 then inside (min (max v 0) (size - 1))
  else inside (if v < 0 then -v else 2 * ((size : Int) - 1) - v)

/-- Virtual row of output row `h` at kernel row `r`. -/
def Win.yv (w : Win) (h r : Nat) : Int := (w.h0 + h) * w.sy - w.pt + r * w.dy
/-- Virtual column of output column `x` at kernel column `c`. -/
def Win.xv (w : Win) (x c : Nat) : Int := (w.w0 + x) * w.sx - w.pl + c * w.dx
/-- Virtual rows. -/
def Win.vh (w : Win) : Nat := (w.ih - 1) * w.uy + 1
/-- Virtual columns. -/
def Win.vw (w : Win) : Nat := (w.iw - 1) * w.ux + 1

/-- The places of an output row and column under a kernel position. -/
def Win.placeOf (w : Win) (h r x c : Nat) : Place × Place :=
  (place (w.yv h r) w.vh w.uy w.padMode, place (w.xv x c) w.vw w.ux w.padMode)

/-- Whether a window position lies outside the virtual input (R242). -/
def Win.outside (w : Win) (h r x c : Nat) : Bool :=
  let y := w.yv h r
  let z := w.xv x c
  decide (y < 0) || decide ((w.vh : Int) ≤ y) || decide (z < 0) || decide ((w.vw : Int) ≤ z)

/-- First stored coordinate and number of stored coordinates that a block needs (R239). -/
def span (l : List Place) : Nat × Nat :=
  let rs := l.filterMap fun | .real n => some n | _ => none
  match rs with
  | [] => (0, 0)
  | a :: r =>
    let lo := r.foldl min a
    (lo, r.foldl max a + 1 - lo)

/-! Operand tiles. -/

/-- The stored pixels and channel bytes of an A tile, and its slot's pitches (R217, R239). -/
structure ATile where
  n0 : Nat
  ns : Nat
  y0 : Nat
  ys : Nat
  x0 : Nat
  xs : Nat
  /-- First byte within a pixel and number of bytes. -/
  c0 : Nat
  cs : Nat
  hH : Nat
  hW : Nat
  pw : Nat
deriving DecidableEq, Repr

/-- A range of bytes widened to whole sectors. -/
def sectors (lo n : Nat) : Nat × Nat := (lo / 32 * 32, ceilDiv (lo + n) 32 * 32 - lo / 32 * 32)

/-- A range of bytes widened to whole sectors where its place of `pw` bytes holds them, else as it is: a place of exact
width holds exact bytes (R239). -/
def sectorsIn (pw lo n : Nat) : Nat × Nat :=
  let s := sectors lo n
  if s.2 ≤ pw then s else (lo, n)

/-- The A tile of a block at a level with nominal extents `en`. -/
def aTile (p : Plan) (g : Nat) (b : Box) (en : List Nat) (sa : Nat) : ATile :=
  let w := p.win
  let ys := span ((upFrom (bx b 1).1 (bx b 1).2).flatMap fun h =>
    (upFrom (bx b 4).1 (bx b 4).2).map fun r => place (w.yv h r) w.vh w.uy w.padMode)
  let xs := span ((upFrom (bx b 2).1 (bx b 2).2).flatMap fun x =>
    (upFrom (bx b 5).1 (bx b 5).2).map fun c => place (w.xv x c) w.vw w.ux w.padMode)
  let ch := bx b (if w.pool ≠ 0 then 6 else 3)
  let geo := slotGeom p en sa
  let cs := sectorsIn geo.2.2 ((g * w.cg + ch.1) * sa) (ch.2 * sa)
  ⟨(bx b 0).1, (bx b 0).2, ys.1, ys.2, xs.1, xs.2, cs.1, cs.2, geo.1, geo.2.1, geo.2.2⟩

/-- Offset in its slot of a stored pixel. -/
def ATile.off (t : ATile) (n y x : Nat) : Nat := (((n - t.n0) * t.hH + (y - t.y0)) * t.hW + (x - t.x0)) * t.pw

/-- The stored pixels of an A tile, in order. -/
def ATile.pixels (t : ATile) : List (Nat × Nat × Nat) :=
  (upFrom t.n0 t.ns).flatMap fun n => (upFrom t.y0 t.ys).flatMap fun y => (upFrom t.x0 t.xs).map fun x => (n, y, x)

/-- The rows and column bytes of a B tile, and its slot's pitches (R217, R239). -/
structure BTile where
  r0 : Nat
  s0 : Nat
  c0 : Nat
  rs : Nat
  ss : Nat
  cs : Nat
  o0 : Nat
  os : Nat
  nS : Nat
  nC : Nat
  ob : Nat
deriving DecidableEq, Repr

/-- The B tile of a block at a level with nominal extents `en`. -/
def bTile (p : Plan) (g : Nat) (b : Box) (en : List Nat) (sb : Nat) : BTile :=
  let os := sectorsIn (rowB p en sb) ((g * p.win.og + (bx b 6).1) * sb) ((bx b 6).2 * sb)
  ⟨(bx b 4).1, (bx b 5).1, (bx b 3).1, (bx b 4).2, (bx b 5).2, (bx b 3).2, os.1, os.2, ext en 5, ext en 3, rowB p en sb⟩

/-- Offset in its slot of a row of B. -/
def BTile.off (t : BTile) (r s c : Nat) : Nat := (((r - t.r0) * t.nS + (s - t.s0)) * t.nC + (c - t.c0)) * t.ob

/-- The rows of a B tile, in order. -/
def BTile.rows (t : BTile) : List (Nat × Nat × Nat) :=
  (upFrom t.r0 t.rs).flatMap fun r => (upFrom t.s0 t.ss).flatMap fun s => (upFrom t.c0 t.cs).map fun c => (r, s, c)

/-- Offsets and lengths that a T3 tile occupies in its slot, in order. -/
def tilePieces (p : Plan) (isB : Bool) (g : Nat) (b : Box) (size : Nat) : List (Nat × Nat) :=
  if isB then
    let t := bTile p g b p.e3 size
    t.rows.map fun (r, s, c) => (t.off r s c, t.os)
  else
    let t := aTile p g b p.e3 size
    t.pixels.map fun (n, y, x) => (t.off n y x, t.cs)

/-! Moss (R244 to R246). -/

/-- The exponent an S16 code counts in (R245). -/
def mossUnit (c : Nat) : Int :=
  let e := bitsOf c 14 9
  (max e 1 : Nat) - 41

/-- Blocks of 32 codes as bytes (R244, R245). -/
def mossEncode (bits : Nat) (v : List Nat) : List Byte :=
  let u := (v.filter (· ≠ 0x8000)).foldl (fun (u : Int) c => max u (mossUnit c)) (-40)
  let d : Int := u + 11 - bits
  let qmax : Int := 2 ^ (bits - 1) - 1
  let q : Nat → Nat := fun c =>
    if c = 0x8000 then 2 ^ (bits - 1)
    else
      let k := (shortInt .s16 c).getD 0
      let sh := d + 40
      let r : Int :=
        if sh ≤ 0 then k * 2 ^ (-sh).toNat
        else (if k < 0 then -1 else 1) * (roundDiv .ne (decide (k < 0)) k.natAbs (2 ^ sh.toNat) : Nat)
      wrapInt bits (min (max r (-qmax)) qmax)
  let n := v.foldr (fun c a => q c + 2 ^ bits * a) 0
  natToBytes (1 + 4 * bits) ((u + 40).toNat + 256 * n)

/-- A block's 32 codes (R246). -/
def mossDecode (bits : Nat) (b : List Byte) : List Nat :=
  let n := bytesToNat b
  let x := n % 256
  (List.range 32).map fun i =>
    let q := bitsOf n (8 + bits * i + bits - 1) (8 + bits * i)
    if 62 < x ∨ q = 2 ^ (bits - 1) then 0x8000
    else
      let v := signedOf bits q
      if v = 0 then 0 else roundQ .s16 .ne (decide (v < 0)) v.natAbs 1 ((x : Int) - 29 - bits)

/-- Bits of a Moss significand. -/
def Win.mossBits (w : Win) : Nat := if w.bits10 then 10 else 12
/-- Bytes of a Moss block. -/
def Win.mossBlock (w : Win) : Nat := 1 + 4 * w.mossBits

/-! Package-memory pieces. -/

/-- Bytes read by a core's engine, sector by sector; at most `fuel` sectors. -/
def State.engReadN (s : State) (n m : Nat) : Nat → Nat → Nat → Res (List Byte)
  | 0, _, _ => (.ok [], s)
  | fuel + 1, va, k =>
    if k = 0 then (.ok [], s)
    else
      let h := min k (32 - va % 32)
      match s.engRead n m va h with
      | (.error c, t) => (.error c, t)
      | (.ok b, t) =>
        match t.engReadN n m fuel (va + h) (k - h) with
        | (.error c, t) => (.error c, t)
        | (.ok b', t) => (.ok (b ++ b'), t)

/-- Bytes written by a core's engine, sector by sector; at most `fuel` sectors. -/
def State.engWriteN (s : State) (n seq m : Nat) : Nat → Nat → List Byte → Res Unit
  | 0, _, _ => (.ok (), s)
  | fuel + 1, va, b =>
    if b.isEmpty then (.ok (), s)
    else
      let h := 32 - va % 32
      match s.engWrite n (some seq) m va (b.take h) with
      | (.error c, t) => (.error c, t)
      | (.ok _, t) => t.engWriteN n seq m fuel (va + h) (b.drop h)

/-- How many sectors behind a failing one had been requested, and which of the errors met the engine registers first: both
are open (R227, R290). -/
def State.inFlight (s : State) (space : Nat) : Nat × Nat × State :=
  let w := (Config.freeWord s.free).toNat
  (if space = 2 then w % 192 else w, (Config.freeWord (s.free + 1)).toNat, { s with free := s.free + 2 })

/-- The error that is registered first of those that a copy has met. -/
def firstError (c : Half) (cs : List Half) (pick : Nat) : Half := (c :: cs).getD (pick % (cs.length + 1)) c

/-- The bytes of package memory that a piece of a T3 tile is read from (R244, R247). -/
def pieceRange (moss : Bool) (w : Win) (va c0 len : Nat) : Nat × Nat :=
  if moss then sectors (va + w.mossBlock * (c0 / 64)) (w.mossBlock * (len / 64)) else (va + c0, len)

/-- A range as the sectors, or parts of one, that it is read in. -/
def sectorReads (a k : Nat) : List (Nat × Nat) :=
  (List.range (sectorsOf a k)).map fun i =>
    let x := max a ((a / 32 + i) * 32)
    (x, min (a + k) ((a / 32 + i + 1) * 32) - x)

/-- The reads in flight behind an error: what they bring, and the errors that they meet (R227, R290). -/
def State.readsRest (s : State) (n m : Nat) : List (Nat × Nat) → List (Option (List Byte)) × List Half × State
  | [] => ([], [], s)
  | (a, k) :: r =>
    match s.engRead n m a k with
    | (.error c, t) => let (l, cs, t) := t.readsRest n m r; (Option.none :: l, c :: cs, t)
    | (.ok b, t) => let (l, cs, t) := t.readsRest n m r; (some b :: l, cs, t)

/-- Reads in order: what they bring, and the code of the error, ST_OK where there is none. Behind an error only what has been
requested already is read (R227). -/
def State.engReads (s : State) (n m : Nat) : List (Nat × Nat) → List (Option (List Byte)) × Half × State
  | [] => ([], Code.ok, s)
  | (a, k) :: r =>
    match s.engRead n m a k with
    | (.error c, t) =>
      let (f, pick, t) := t.inFlight 2
      let (l, cs, t) := t.readsRest n m (r.take f)
      (Option.none :: l, firstError c cs pick, t)
    | (.ok b, t) => let (l, c, t) := t.engReads n m r; (some b :: l, c, t)

/-- The place in deep store of what the reads of a piece have brought: a Moss block where all its sectors have come, other bytes
sector by sector (R227, R247). -/
def placePiece (moss : Bool) (w : Win) (va c0 len dst : Nat) (got : List (Option (List Byte))) (c : Core) : Core :=
  let (a, k) := pieceRange moss w va c0 len
  if moss then
    let b := got.flatMap (·.getD (natToBytes 32 0))
    (List.range (len / 64)).foldl (fun c j =>
      let o := va + w.mossBlock * (c0 / 64 + j) - a
      if (upFrom (o / 32) (sectorsOf o w.mossBlock)).all fun i => (got.getD i Option.none).isSome then
        c.deepWrite (dst + 64 * j) ((mossDecode w.mossBits (sliceBytes b o w.mossBlock)).flatMap (natToBytes 2 ·))
      else c) c
  else ((sectorReads a k).zip got).foldl (fun c (r, x) =>
    match x with | some b => c.deepWrite (dst + (r.1 - a)) b | Option.none => c) c

/-- Pieces whose reads are done put in place. -/
def placePieces (moss : Bool) (w : Win) : List (Nat × Nat × Nat × Nat) → List (Option (List Byte)) → Core → Core
  | [], _, c => c
  | (va, c0, len, dst) :: r, got, c =>
    let p := pieceRange moss w va c0 len
    let k := sectorsOf p.1 p.2
    placePieces moss w r (got.drop k) (placePiece moss w va c0 len dst (got.take k) c)

/-- Pieces read from package memory into a core's deep store, in order. Behind the first error only the transfers already in
flight complete (R227). -/
def State.loadPieces (s : State) (n m : Nat) (moss : Bool) (w : Win) (ps : List (Nat × Nat × Nat × Nat)) : Res Unit :=
  let (got, k, t) := s.engReads n m (ps.flatMap fun (va, c0, len, _) =>
    let p := pieceRange moss w va c0 len
    sectorReads p.1 p.2)
  (if k = Code.ok then .ok () else .error k, t.updCore n (placePieces moss w ps got))

/-- Pieces written from a core to package memory, in order; the first error ends them (R227). -/
def State.storePieces (s : State) (n seq m : Nat) : List (Nat × List Byte) → Res Unit
  | [] => (.ok (), s)
  | (va, b) :: r =>
    match s.engWriteN n seq m (sectorsOf va b.length) va b with
    | (.error c, t) => (.error c, t)
    | (.ok _, t) => t.storePieces n seq m r

/-! A planned operation's parts. -/

/-- A planned operation seen whole. -/
structure POp where
  p : Plan
  a : Tens
  b : Tens
  o : Tens
  sa : Nat
  sb : Nat
  so : Nat
  acc : Nat
  rd : Rnd
deriving DecidableEq, Repr

/-- The planned operation of an MM issue. -/
def EngOp.pop (o : EngOp) : POp :=
  let p := planOf o.plan o.em o.ek o.en
  let a := tensAt o.desc 4
  let b := tensAt o.desc 7
  let t := tensAt o.desc 10
  ⟨p, a, b, t, if p.win.mossA then 2 else a.f.size, b.f.size, t.f.size, lineBits o.desc 3 10 0, rndAt (lineBits o.desc 0 11 9)⟩

/-- Element size of an operand in the slots. -/
def POp.size (q : POp) (isB : Bool) : Nat := if isB then q.sb else q.sa
/-- Address of deep-store slot `k` of an operand (R217, R224). -/
def POp.deepSlot (q : POp) (isB : Bool) (k : Nat) : Nat :=
  if isB then (deepLayout q.p q.sa q.sb).1 + k % q.p.n3 * slotB q.p q.p.e3 q.sb
  else q.p.deep + k % q.p.n3 * slotA q.p q.p.e3 q.sa
/-- Address of near-store slot `k` of an operand (R217). -/
def POp.nearSlot (q : POp) (isB : Bool) (k : Nat) : Nat :=
  if isB then (nearLayout q.p q.sa q.sb q.so q.acc).1 + k % q.p.n2 * slotB q.p q.p.e2 q.sb
  else q.p.near + k % q.p.n2 * slotA q.p q.p.e2 q.sa
/-- Address of the current staging slot (R217). -/
def POp.stage (q : POp) (drains : Nat) : Nat :=
  (nearLayout q.p q.sa q.sb q.so q.acc).2.1 + drains % 2 * stageBytes q.p q.so
/-- Address of the partial area (R217). -/
def POp.partialArea (q : POp) : Nat := (nearLayout q.p q.sa q.sb q.so q.acc).2.2.1

/-- The package-memory places of a T3 tile and their places in its slot: address, first byte, bytes, deep address. -/
def POp.loadList (q : POp) (isB : Bool) (g : Nat) (b : Box) (slot : Nat) : List (Nat × Nat × Nat × Nat) :=
  if isB then
    let t := bTile q.p g b q.p.e3 q.sb
    t.rows.map fun (r, s, c) =>
      (q.b.addr + 32 * q.b.stride * ((r * ext q.p.whole 5 + s) * q.p.win.cg + c), t.o0, t.os, slot + t.off r s c)
  else
    let t := aTile q.p g b q.p.e3 q.sa
    t.pixels.map fun (n, y, x) =>
      (q.a.addr + 32 * q.a.stride * ((n * q.p.win.ih + y) * q.p.win.iw + x), t.c0, t.cs, slot + t.off n y x)

/-- A T2 tile of an operand copied from its deep-store slot to its near-store slot (R209). -/
def POp.copyT2 (q : POp) (isB : Bool) (x : PStep) (from3 to2 : Nat) (c : Core) : Core :=
  if isB then
    let t3 := bTile q.p x.g x.b3 q.p.e3 q.sb
    let t2 := bTile q.p x.g x.b2 q.p.e2 q.sb
    t2.rows.foldl (fun c (r, s, k) =>
      c.nearWrite (to2 + t2.off r s k) (Mem.read c.deep (from3 + t3.off r s k + (t2.o0 - t3.o0)) t2.os)) c
  else
    let t3 := aTile q.p x.g x.b3 q.p.e3 q.sa
    let t2 := aTile q.p x.g x.b2 q.p.e2 q.sa
    t2.pixels.foldl (fun c (n, y, z) =>
      c.nearWrite (to2 + t2.off n y z) (Mem.read c.deep (from3 + t3.off n y z + (t2.c0 - t3.c0)) t2.cs)) c

/-- The output pixels of a T1 block, in (n, h, w) order (R238). -/
def blockPixels (b : Box) : List (Nat × Nat × Nat) :=
  (upFrom (bx b 0).1 (bx b 0).2).flatMap fun n => (upFrom (bx b 1).1 (bx b 1).2).flatMap fun h =>
    (upFrom (bx b 2).1 (bx b 2).2).map fun w => (n, h, w)

/-- The code of A at an output pixel, kernel position and channel, from its near-store slot (R234). -/
def POp.aCode (q : POp) (x : PStep) (t : ATile) (slot : Nat) (c : Core) (px : Nat × Nat × Nat) (r s ch : Nat) : Nat :=
  let w := q.p.win
  match w.placeOf px.2.1 r px.2.2 s with
  | (.real y, .real z) => Mem.nat c.near (slot + t.off px.1 y z + ((x.g * w.cg + ch) * q.sa - t.c0)) q.sa
  | (.pad, _) | (_, .pad) => if w.padMode = 1 then w.padValue % 2 ^ (8 * q.sa) else 0
  | _ => 0

/-- The code of B at a kernel position, channel and output, from its near-store slot (R233). -/
def POp.bCode (q : POp) (x : PStep) (t : BTile) (slot : Nat) (c : Core) (r s ch o : Nat) : Nat :=
  Mem.nat c.near (slot + t.off r s ch + ((x.g * q.p.win.og + o) * q.sb - t.o0)) q.sb

/-- The reduction positions of a T1 block, in ascending order of k (R230). -/
def blockK (b : Box) : List (Nat × Nat × Nat) :=
  (upFrom (bx b 4).1 (bx b 4).2).flatMap fun r => (upFrom (bx b 5).1 (bx b 5).2).flatMap fun s =>
    (upFrom (bx b 3).1 (bx b 3).2).map fun c => (r, s, c)

/-- The first coordinate of the live block in a dimension at a step (R214). -/
def liveOrigin (p : Plan) (x : PStep) (d : Nat) : Nat :=
  match liveLevel p d with | 4 => 0 | 3 => (bx x.b3 d).1 | 2 => (bx x.b2 d).1 | _ => (bx x.b1 d).1

/-- The place of an output in the live block (R214). -/
def liveIndex (p : Plan) (x : PStep) (px : Nat × Nat × Nat) (o : Nat) : Nat :=
  (((px.1 - liveOrigin p x 0) * liveSpan p 1 + (px.2.1 - liveOrigin p x 1)) * liveSpan p 2 + (px.2.2 - liveOrigin p x 2))
    * liveSpan p 6 + (o - liveOrigin p x 6)

/-- The cell of an output of the current T1 tile: pixel number `i` of the tile (R214, R215). -/
def POp.cellOf (q : POp) (x : PStep) (i : Nat) (px : Nat × Nat × Nat) (o : Nat) : Nat :=
  if exports q.p q.acc then q.acc + ext q.p.e1 6 * i + (o - (bx x.b1 6).1) else q.acc + liveIndex q.p x px o

/-- The outputs of a T1 block: pixel number, pixel and column. -/
def blockOut (b : Box) : List (Nat × (Nat × Nat × Nat) × Nat) :=
  (blockPixels b).zipIdx.flatMap fun (px, i) => (upFrom (bx b 6).1 (bx b 6).2).map fun o => (i, px, o)

/-- The array's passes over a T1 tile: its cells cleared at the first K range or merged with what was exported,
then every product of the tile (R212, R215, R233). -/
def POp.passes (q : POp) (x : PStep) (slotA slotB : Nat) (c : Core) : Core :=
  let ta := aTile q.p x.g x.b2 q.p.e2 q.sa
  let tb := bTile q.p x.g x.b2 q.p.e2 q.sb
  let ks := blockK x.b1
  (blockOut x.b1).foldl (fun c (i, px, o) =>
    let ix := q.cellOf x i px o
    let start : Cell :=
      if firstK x then Cell.zero
      else if exports q.p q.acc then Cell.ofXp22 (Mem.nat c.near (q.partialArea + 22 * liveIndex q.p x px o) 22)
      else c.cell ix
    c.setCell ix (ks.foldl (fun z (r, s, ch) =>
      z.mac q.a.f (q.aCode x ta slotA c px r s ch) (q.bCode x tb slotB c r s ch o)) start)) c

/-- The cells of an unfinished tile exported to the partial area (R215). -/
def POp.exportTile (q : POp) (x : PStep) (c : Core) : Core :=
  (blockOut x.b1).foldl (fun c (i, px, o) =>
    c.nearWrite (q.partialArea + 22 * liveIndex q.p x px o) (natToBytes 22 (c.cell (q.cellOf x i px o)).xp22)) c

/-- A finished tile drained to its staging slot (R216). -/
def POp.drainTile (q : POp) (x : PStep) (drains : Nat) (c : Core) : Core :=
  (blockOut x.b1).foldl (fun c (i, px, o) =>
    let z := c.cell (q.cellOf x i px o)
    let code := if q.o.f = .ex then z.xp22 else drainCell z (q.a.scale + q.b.scale - q.o.scale) q.o.f q.rd
    c.nearWrite (q.stage drains + (i * ext q.p.e1 6 + (o - (bx x.b1 6).1)) * q.so) (natToBytes q.so code)) c

/-! Pooling (R242). -/

/-- The key of a window position of an output in the gathered window. -/
def poolKey (q : POp) (px : Nat × Nat × Nat) (o r s : Nat) : Nat :=
  ((((px.1 * ext q.p.whole 1 + px.2.1) * ext q.p.whole 2 + px.2.2) * q.p.win.og + o) * 16 + r) * 16 + s

/-- The codes of a T1 tile's window positions gathered (R241, R242). -/
def POp.gather (q : POp) (x : PStep) (slotA : Nat) (c : Core) (m : Sparse Nat) : Sparse Nat :=
  let ta := aTile q.p x.g x.b2 q.p.e2 q.sa
  (blockOut x.b1).foldl (fun m (_, px, o) =>
    (blockK (x.b1.set 3 (0, 1))).foldl (fun m (r, s, _) =>
      Sparse.put 0 m (poolKey q px o r s) (q.aCode x ta slotA c px r s o + 1)) m) m

/-- The included codes of an output's window, in the order r, then s (R242). -/
def POp.included (q : POp) (m : Sparse Nat) (px : Nat × Nat × Nat) (o : Nat) : List Nat :=
  let w := q.p.win
  (List.range (ext q.p.whole 4)).flatMap fun r => (List.range (ext q.p.whole 5)).filterMap fun s =>
    let out := w.outside px.2.1 r px.2.2 s
    if out && (w.pool = 3 || (w.pool = 1 && w.padMode = 0)) then none
    else some (Sparse.get 0 m (poolKey q px o r s) - 1)

/-- The maximum of L32 codes, the first NaN quieted (R69, R242). -/
def maxOf (c : Nat) (r : List Nat) : Nat :=
  match firstNan .l32 (c :: r) with
  | some x => x
  | none => r.foldl (maxF .l32) c

/-- An L64 code as an element of O, in a direction for every format (R242). R72 rounds a conversion to S16 or S8 without regard
to RD, and R242 rounds an L32 average 'to O in RD', while its example rounds an S8 output under RNE: the model rounds in RD.
DESIGN CHOICE, log entry 69. -/
def poolOut (o : Fmt) (scale : Int) (rd : Rnd) (c : Nat) : Nat :=
  if o.long then storeElem .l64 o scale rd c else encodeVal o rd (-scale) (Fmt.l64.val c)

/-- The pooled code of an output (R242). A maximum whose O has A's format and scale is one of A's codes: the scales then
cancel, and nothing leaves the range of L32. -/
def POp.pooled (q : POp) (codes : List Nat) : Nat :=
  let fa := q.a.f
  let fo := q.o.f
  match codes with
  | [] => fo.nan
  | c :: r =>
    if q.p.win.pool = 1 then
      let same := fa = fo && q.a.scale = q.o.scale
      let ld : Nat → Nat := loadElem fa .l32 (if same then 0 else q.a.scale) .ne
      storeElem .l32 fo (if same then 0 else q.o.scale) q.rd (maxOf (ld c) (r.map ld))
    else if fa = .l32 then
      let sum := r.foldl (fun a x => addF .l64 .ne a (l32ToL64 x)) (l32ToL64 c)
      poolOut fo q.o.scale q.rd (divF .l64 .ne sum (roundQ .l64 .ne false codes.length 1 0))
    else if codes.any fun x => (shortInt fa x).isNone then fo.nan
    else
      let sum : Int := codes.foldl (fun a x => a + (shortInt fa x).getD 0) 0
      let u : Int := if fa = .s8 then 10 else 40
      let val : Fmt → Rnd → Int → Nat := fun f rd k =>
        if sum = 0 then 0 else roundQ f rd (decide (sum < 0)) sum.natAbs codes.length (q.a.scale - u - k)
      if fo = .s8 then toShort .s8 .l32 0 (val .l32 .ne q.o.scale) else val fo q.rd q.o.scale

/-- A pooled tile in its staging slot. -/
def POp.poolTile (q : POp) (x : PStep) (drains : Nat) (m : Sparse Nat) (c : Core) : Core :=
  (blockOut x.b1).foldl (fun c (i, px, o) =>
    c.nearWrite (q.stage drains + (i * ext q.p.e1 6 + (o - (bx x.b1 6).1)) * q.so)
      (natToBytes q.so (q.pooled (q.included m px o)))) c

/-! Output copies (R216, R233, R239, R247). -/

/-- Bytes of an output pixel before the pixel's place in O. -/
def POp.pixelIx (q : POp) (px : Nat × Nat × Nat) : Nat := (px.1 * ext q.p.whole 1 + px.2.1) * ext q.p.whole 2 + px.2.2

/-- The row of a finished tile's pixel in its staging slot. -/
def POp.stagedRow (q : POp) (x : PStep) (drains : Nat) (c : Core) (i : Nat) : List Byte :=
  Mem.read c.near (q.stage drains + i * ext q.p.e1 6 * q.so) ((bx x.b1 6).2 * q.so)

/-- The key of an output element among the finished channels of unfinished Moss blocks. -/
def POp.mossKey (q : POp) (px : Nat × Nat × Nat) (ch : Nat) : Nat := q.pixelIx px * 65536 + ch

/-- The finished channels that wait for their Moss blocks, with those of a finished tile added (R244, R247): code + 1. -/
def POp.mossAdd (q : POp) (x : PStep) (drains : Nat) (c : Core) (m : Sparse Nat) : Sparse Nat :=
  let ch := x.g * q.p.win.og + (bx x.b1 6).1
  (blockPixels x.b1).zipIdx.foldl (fun m (px, i) =>
    let row := q.stagedRow x drains c i
    (List.range (bx x.b1 6).2).foldl (fun m k => Sparse.put 0 m (q.mossKey px (ch + k)) (fieldNat row (2 * k) 2 + 1)) m) m

/-- The Moss blocks that a finished tile touches, pixel by pixel. -/
def POp.mossBlocks (q : POp) (x : PStep) : List ((Nat × Nat × Nat) × Nat) :=
  let ch := x.g * q.p.win.og + (bx x.b1 6).1
  (blockPixels x.b1).flatMap fun px =>
    (upFrom (ch / 32) ((ch + (bx x.b1 6).2 + 31) / 32 - ch / 32)).map fun j => (px, j)

/-- Whether every channel of a block of a pixel is finished. -/
def POp.mossFull (q : POp) (m : Sparse Nat) (px : Nat × Nat × Nat) (j : Nat) : Bool :=
  (List.range 32).all fun k => Sparse.get 0 m (q.mossKey px (32 * j + k)) ≠ 0

/-- The pieces that a finished tile writes to O. A Moss block is written when the last of its 32 channels is finished, for
its bits are those of its 32 values (R244, R248); the last block of a pixel brings the pad bits. -/
def POp.outList (q : POp) (x : PStep) (drains : Nat) (c : Core) (moss : Sparse Nat) : List (Nat × List Byte) :=
  let w := q.p.win
  let va : Nat × Nat × Nat → Nat := fun px => q.o.addr + 32 * q.o.stride * q.pixelIx px
  if w.mossO then
    let total := w.g * w.og / 32 * w.mossBlock
    let pad := List.replicate (32 * ceilDiv total 32 - total) (0 : Byte)
    ((q.mossBlocks x).filter fun (px, j) => q.mossFull moss px j).map fun (px, j) =>
      (va px + w.mossBlock * j,
        mossEncode w.mossBits ((List.range 32).map fun k => Sparse.get 0 moss (q.mossKey px (32 * j + k)) - 1)
          ++ (if 32 * (j + 1) = w.g * w.og then pad else []))
  else
    (blockPixels x.b1).zipIdx.map fun (px, i) =>
      (va px + (x.g * w.og + (bx x.b1 6).1) * q.so, q.stagedRow x drains c i)

/-- The finished channels that still wait once a tile's pieces are written. -/
def POp.mossRest (q : POp) (x : PStep) (m : Sparse Nat) : Sparse Nat :=
  ((q.mossBlocks x).filter fun (px, j) => q.mossFull m px j).foldl (fun m (px, j) =>
    (List.range 32).foldl (fun m k => Sparse.put 0 m (q.mossKey px (32 * j + k)) 0) m) m

/-- K of the product (R230). -/
def Plan.kAll (p : Plan) : Nat := ext p.whole 4 * ext p.whole 5 * ext p.whole 3

/-- The epilogue sweep of a T1 tile (R220). -/
def POp.sweep (q : POp) (o : EngOp) (x : PStep) : Sweep :=
  let pxs := blockPixels x.b1
  let o0 := (bx x.b1 6).1
  { epiBase o.desc o.chain q.p.kAll with
    row0 := 0, col0 := o0, rows := pxs.length, cols := (bx x.b1 6).2, allCols := ext q.p.whole 6
    rowIx := pxs.map q.pixelIx
    outAddr := q.stage o.drains, outPitch := ext q.p.e1 6 * q.so
    cellAt := pxs.zipIdx.map fun (px, i) => q.cellOf x i px o0 }

/-- The epilogue's sweep over the whole output, for the pre-run check. -/
def POp.checkSweep (q : POp) (o : EngOp) : Sweep :=
  { epiBase o.desc o.chain q.p.kAll with rows := pixels q.p.whole, cols := ext q.p.whole 6, allCols := ext q.p.whole 6 }

end Sys2Proof.Machine
end

