-- ==== Sys2Proof/Machine/Array.lean ====
section
/-!
DEFINITION. The matrix and vector engines: starting, running and completing operations
(04 R103, 05 R124 to R136, 07 R168 to R182, 09 R209 to R228).
-/

namespace Sys2Proof.Machine

open Sys2Proof

/-! Array work without a plan. -/

/-- The cell of output (m, n) (R127). -/
def EngOp.cellIx (o : EngOp) (m n : Nat) : Nat := lineBits o.desc 3 10 0 + o.en * m + n

/-- The outputs of a matrix operation. -/
def EngOp.outs (o : EngOp) : List (Nat × Nat) :=
  (List.range o.em).flatMap fun m => (List.range o.en).map fun n => (m, n)

/-- A cell's content before the first product: cleared or kept, with C merged (R82, R87, R133). -/
def EngOp.startCell (o : EngOp) (c : Core) (m n : Nat) (old : Cell) : Cell :=
  let z := if lineBits o.desc 0 7 7 = 1 then Cell.zero else old
  if lineBits o.desc 0 16 16 = 1 then
    let t := tensAt o.desc 13
    z.add (Cell.ofXp22 (Mem.nat c.near (t.addr + 32 * t.stride * m + 22 * n) 22))
  else z

/-- CLEAR, then the merge of C (R133, R134, R135). -/
def EngOp.initCells (o : EngOp) (c : Core) : Core :=
  o.outs.foldl (fun k (m, n) => k.setCell (o.cellIx m n) (o.startCell k m n (k.cell (o.cellIx m n)))) c

/-- The products of output (m, n) over K columns `k0` up (R79, R124). -/
def EngOp.dot (o : EngOp) (c : Core) (m n k0 ks : Nat) (z : Cell) : Cell :=
  let a := tensAt o.desc 4
  let b := tensAt o.desc 7
  (upFrom k0 ks).foldl (fun z k => z.mac a.f (c.elem a m k) (c.elem b k n)) z

/-- The products of a K slice in every cell. -/
def EngOp.sumSlice (o : EngOp) (k0 ks : Nat) (c : Core) : Core :=
  o.outs.foldl (fun k (m, n) => k.setCell (o.cellIx m n) (o.dot k m n k0 ks (k.cell (o.cellIx m n)))) c

/-- The drain to O without an epilogue (R83 to R86, R136). Every product is formed before the first element is written, and rows
are written in their order: where O overlaps A, B or C, or its rows one another, no rule gives another order. DESIGN CHOICE,
log entry 68. -/
def EngOp.drainAll (o : EngOp) (c : Core) : Core :=
  let a := tensAt o.desc 4
  let b := tensAt o.desc 7
  let t := tensAt o.desc 10
  o.outs.foldl (fun k (m, n) =>
    let z := k.cell (o.cellIx m n)
    let code := if t.f = .ex then z.xp22
      else drainCell z (a.scale + b.scale - t.scale) t.f (rndAt (lineBits o.desc 0 11 9))
    k.nearWrite (t.at m n) (natToBytes t.f.size code)) c

/-- Whether the operation is the first of a chained pair. -/
def EngOp.isPair (o : EngOp) : Bool := o.chain ≠ 0 && lineBits o.chain 0 4 4 = 1
/-- Whether the operation has an epilogue. -/
def EngOp.hasEpi (o : EngOp) : Bool := o.chain ≠ 0 && lineBits o.chain 0 2 2 = 1
/-- Whether the operation has a prologue. -/
def EngOp.hasPro (o : EngOp) : Bool := o.chain ≠ 0 && lineBits o.chain 0 1 0 ≠ 0
/-- Whether tiles of A arrive through a queue (R178). -/
def EngOp.isAq (o : EngOp) : Bool := lineBits o.desc 0 12 12 = 1

/-- Block (i, j) of a chained pair's first operation, as its spill (R181). -/
def EngOp.block (o : EngOp) (c : Core) (i j : Nat) : Sparse Cell :=
  (List.range (min 16 (o.em - 16 * i))).foldl (fun s r =>
    (List.range (min 16 (o.en - 16 * j))).foldl (fun s q =>
      let m := 16 * i + r
      let n := 16 * j + q
      Sparse.put Cell.zero s (16 * r + q) (o.dot c m n 0 o.ek (o.startCell c m n Cell.zero))) s) []

/-- The IS pass of the second operation on feed block j of row block i (R181). -/
def EngOp.feedPass (o : EngOp) (i j : Nat) (c : Core) : Core :=
  let a := tensAt o.desc2 4
  let b := tensAt o.desc2 7
  let n2 := lineBits o.desc2 2 31 16
  let acc := lineBits o.desc2 3 10 0
  (List.range (min 16 (o.em - 16 * i))).foldl (fun c r =>
    (List.range n2).foldl (fun c n =>
      let ix := acc + n2 * r + n
      let z := if j = 0 then Cell.zero else c.cell ix
      c.setCell ix ((List.range (min 16 (o.en - 16 * j))).foldl (fun z q =>
        z.mac a.f (c.elem a r (16 * (j % 2) + q)) (c.elem b (16 * j + q) n)) z)) c) c

/-- The second operation's drain of row block i without an epilogue (R181). -/
def EngOp.drainPair (o : EngOp) (i : Nat) (c : Core) : Core :=
  let d := o.desc2
  let a := tensAt d 4
  let b := tensAt d 7
  let t := tensAt d 10
  let n2 := lineBits d 2 31 16
  (List.range (min 16 (o.em - 16 * i))).foldl (fun c r =>
    (List.range n2).foldl (fun c n =>
      let z := c.cell (lineBits d 3 10 0 + n2 * r + n)
      let code := if t.f = .ex then z.xp22
        else drainCell z (a.scale + b.scale - t.scale) t.f (rndAt (lineBits d 0 11 9))
      c.nearWrite (t.at (16 * i + r) n) (natToBytes t.f.size code)) c) c

/-! Notes that a matrix operation takes. -/

/-- A note's payload word at byte `i`. -/
def noteWord (e : Line) (i : Nat) : Nat := lineWord e (i / 4)

/-- A tile note obeys R177 and overlaps no accepted slice (R178). -/
def tileNoteOk (o : EngOp) (k0 kt : Nat) : Bool :=
  k0 % 16 = 0 && 1 ≤ kt && k0 + kt ≤ o.ek && (kt % 16 = 0 || k0 + kt = o.ek)
    && o.slices.all fun (a, n) => !meets k0 kt a n

/-- The columns of A that have been accepted. -/
def EngOp.covered (o : EngOp) : Nat := o.slices.foldl (fun a x => a + x.2) 0

/-- A relay or free note that is the one expected next is counted (R224). -/
def EngOp.takeRelay (o : EngOp) (p : Plan) (q : Nat) (e : Line) : Option EngOp :=
  let w := noteWord e 8
  let seq := noteWord e 12
  let isB := bitOf w 0
  let free := bitOf w 1
  let r := if isB then o.relB else o.relA
  let on := if isB then p.bq = q else p.aq = q
  let linked := if isB then (if free then p.bNext else p.bPrev) else (if free then p.aNext else p.aPrev)
  if bitsOf w 31 2 ≠ 0 ∨ !on ∨ linked = 0xFFFF ∨ seq ≠ (if free then r.freed else r.got) then none
  else
    let r := if free then { r with freed := r.freed + 1 } else { r with got := r.got + 1 }
    some (if isB then { o with relB := r } else { o with relA := r })

/-- The relay queues of a plan. -/
def relayQueues (p : Plan) : List Nat :=
  (if p.aNext ≠ 0xFFFF ∨ p.aPrev ≠ 0xFFFF then [p.aq] else [])
    ++ (if (p.bNext ≠ 0xFFFF ∨ p.bPrev ≠ 0xFFFF) ∧ !((p.aNext ≠ 0xFFFF ∨ p.aPrev ≠ 0xFFFF) ∧ p.aq = p.bq) then [p.bq] else [])

/-- Notes taken from the head of queue `q`, at most `fuel`; `true` when one breaks R224. -/
def State.takeRelays (s : State) (n : Nat) (p : Plan) (q : Nat) : Nat → Bool × State
  | 0 => (false, s)
  | fuel + 1 =>
    if ((s.core n).ring q).count = 0 then (false, s)
    else match (s.core n).running 1 with
      | none => (false, s)
      | some o =>
        let (e, t) := s.takeHead n q
        match o.takeRelay p q e with
        | none => (true, t)
        | some o => (t.putOp n 1 o).takeRelays n p q fuel

/-- The running operation of an engine changed. -/
def State.updOp (s : State) (n e : Nat) (f : EngOp → EngOp) : State :=
  s.updCore n fun c => match c.running e with | some o => c.putOp e (f o) | none => c

/-! Relays (R223, R224). -/

/-- The relay of an operand. -/
def EngOp.relay (o : EngOp) (isB : Bool) : Relay := if isB then o.relB else o.relA
/-- The relay of an operand replaced. -/
def EngOp.setRelay (o : EngOp) (isB : Bool) (r : Relay) : EngOp := if isB then { o with relB := r } else { o with relA := r }
/-- X_NEXT. -/
def Plan.nextOf (p : Plan) (isB : Bool) : Nat := if isB then p.bNext else p.aNext
/-- X_PREV. -/
def Plan.prevOf (p : Plan) (isB : Bool) : Nat := if isB then p.bPrev else p.aPrev
/-- X_Q. -/
def Plan.queueOf (p : Plan) (isB : Bool) : Nat := if isB then p.bq else p.aq

/-- A relay or free note. -/
def relayNote (isB free : Bool) (seq : Nat) : Line :=
  BitVec.ofNat 512 ((isB.toNat + 2 * free.toNat) * 2 ^ 64 + seq % 2 ^ 32 * 2 ^ 96)

/-- A note handed to a core's mesh interface. -/
def State.pushNote (s : State) (n dst q : Nat) (body : Line) (tok cp : Option Nat) : State :=
  s.updCore n fun c => { c with sendq := c.sendq ++ [mkMsg dst dst q 1 n 0 body c.gen tok cp] }

/-- A remote copy's writes put on the mesh (R289). -/
def State.pushCopy (s : State) (n seq : Nat) (relay : Option Bool) (dst : Nat) (deep : Bool)
    (writes : List (Nat × List Byte)) : State :=
  let (g, site) := s.route (s.meadowOf n) dst
  s.updCore n fun c =>
    { c with rcopies := c.rcopies ++ [{ seq, relay, igen := c.gen, dst, site, gen := g, path := s.routeTo n site, deep, writes, lost := false, answer := none }] }

/-- One forward copy or free note that may now be sent, for operand X; `fuel` of them at most. -/
def State.pumpRelay (s : State) (n : Nat) (isB : Bool) : Nat → State
  | 0 => s
  | fuel + 1 =>
    match (s.core n).running 1 with
    | none => s
    | some o =>
      let q := o.pop
      let r := o.relay isB
      let next := q.p.nextOf isB
      let prev := q.p.prevOf isB
      if next ≠ 0xFFFF ∧ r.fwd < r.loads ∧ (r.fwd < q.p.n3 ∨ r.fwd - q.p.n3 < r.freed) then
        match (q.p.loads isB)[r.fwd]? with
        | none => s
        | some (g, b) =>
          let slot := q.deepSlot isB r.fwd
          let ws := (tilePieces q.p isB g b (q.size isB)).flatMap fun (off, len) =>
            (chunks 64 (ceilDiv len 64) (Mem.read (s.core n).deep (slot + off) len)).zipIdx.map fun (f, i) =>
              (slot + off + 64 * i, f)
          ((s.pushCopy n o.seq (some isB) next true ws).putOp n 1 (o.setRelay isB { r with fwd := r.fwd + 1 })).pumpRelay n isB fuel
      else if r.rel < r.used ∧ (next = 0xFFFF ∨ r.rel < r.acked) then
        let t := s.putOp n 1 (o.setRelay isB { r with rel := r.rel + 1 })
        (if prev = 0xFFFF then t else t.pushNote n prev (q.p.queueOf isB) (relayNote isB true r.rel) none none).pumpRelay n isB fuel
      else s

/-! The plan sequencer. -/

/-- What one phase of the walk answers. -/
inductive Go where
  /-- Go on with the next phase. -/
  | more
  /-- Wait for a note or an acknowledgement. -/
  | wait
  /-- A tile's epilogue is in its sweep. -/
  | sweep
  /-- The walk is over. -/
  | over
  /-- The operation ends with a code (R227). -/
  | fail (code : Half)
deriving DecidableEq, Repr

/-- A T3 tile's pieces brought from package memory into its deep-store slot; a relayed tile has been written there by the
core before (R213, R223). -/
def State.fetchT3 (s : State) (n m : Nat) (q : POp) (isB : Bool) (k g : Nat) (b : Box) : Res Unit :=
  if q.p.prevOf isB ≠ 0xFFFF then (.ok (), s)
  else s.loadPieces n m (!isB && q.p.win.mossA) q.p.win (q.loadList isB g b (q.deepSlot isB k))

/-- Whether T3 tile `k` of an operand may be brought into its slot: the slot's last tile has been forwarded, and a relayed
tile has been announced (R224). -/
def tileReady (p : Plan) (isB : Bool) (r : Relay) (k : Nat) : Bool :=
  !((p.nextOf isB ≠ 0xFFFF && p.n3 ≤ k && r.acked < k - p.n3 + 1) || (p.prevOf isB ≠ 0xFFFF && r.got ≤ k))

/-- T3 tile `k` of the running operation loaded, unless it is present already (R213, R223). -/
def State.loadT3 (s : State) (n m : Nat) (isB : Bool) (k g : Nat) (b : Box) : Go × State :=
  match (s.core n).running 1 with
  | none => (.wait, s)
  | some o =>
    let q := o.pop
    let r := o.relay isB
    if k < r.loads then (.more, s)
    else if !tileReady q.p isB r k then (.wait, s)
    else match s.fetchT3 n m q isB k g b with
      | (.error c, t) => (.fail c, t)
      | (.ok _, t) => (.more, (t.putOp n 1 (o.setRelay isB { r with loads := k + 1 })).pumpRelay n isB 8)

/-- With DB3, the T3 tile after the one in use loaded into the second slot; it is left for later where it may not be loaded
yet (R213). -/
def State.aheadT3 (s : State) (n m : Nat) (isB : Bool) : Go × State :=
  match (s.core n).running 1 with
  | none => (.more, s)
  | some o =>
    let r := o.relay isB
    if !o.pop.p.db3 || r.begun = 0 || r.loads ≠ r.begun then (.more, s)
    else match (o.pop.p.loads isB)[r.begun]? with
      | none => (.more, s)
      | some (g, b) =>
        match s.loadT3 n m isB r.begun g b with
        | (.wait, t) => (.more, t)
        | x => x

/-- The use of a T3 tile of an operand begins: the tile before has had its last use, and this one is present
(R213, R223, R224). -/
def State.needT3 (s : State) (n m : Nat) (o : EngOp) (isB : Bool) (x : PStep) : Go × State :=
  let r := o.relay isB
  let t := (s.putOp n 1 (o.setRelay isB { r with used := r.begun })).pumpRelay n isB 8
  match t.loadT3 n m isB r.begun x.g x.b3 with
  | (.more, t) =>
    (t.updOp n 1 fun o =>
      { (o.setRelay isB { o.relay isB with begun := r.begun + 1 }) with phase := o.phase + 1 }).aheadT3 n m isB
  | y => y

/-- The T2 tiles of an operand. -/
def EngOp.t2 (o : EngOp) (isB : Bool) : Fills := if isB then o.t2B else o.t2A
/-- The T2 tiles of an operand replaced. -/
def EngOp.setT2 (o : EngOp) (isB : Bool) (t : Fills) : EngOp := if isB then { o with t2B := t } else { o with t2A := t }

/-- The first later step of the walk that begins a T2 tile of an operand, and whether it begins a T3 tile too. -/
def nextT2 (p : Plan) (isB : Bool) : PStep → List PStep → Option (PStep × Bool)
  | _, [] => none
  | x, y :: r => if newT2 p isB (some x) y then some (y, newT3 p isB (some x) y) else nextT2 p isB y r

/-- The use of the step's T2 tile of an operand: filled where it is not, and with DB2 the next one filled into the second
slot while its T3 tile is present (R213). -/
def EngOp.needT2 (o : EngOp) (isB : Bool) (prev : Option PStep) (x : PStep) (later : List PStep) (c : Core) : EngOp × Core :=
  let q := o.pop
  let k3 := (o.relay isB).begun - 1
  let fill : PStep → Nat → Nat → Core → Core := fun y i3 i2 => q.copyT2 isB y (q.deepSlot isB i3) (q.nearSlot isB i2)
  let t := o.t2 isB
  let (t, c) : Fills × Core :=
    if !newT2 q.p isB prev x then (t, c)
    else if t.begun < t.filled then ({ t with begun := t.begun + 1 }, c)
    else (⟨t.begun + 1, t.begun + 1⟩, fill x k3 t.begun c)
  match if q.p.db2 && t.filled = t.begun then nextT2 q.p isB x later else none with
  | none => (o.setT2 isB t, c)
  | some (y, new3) =>
    let i3 := if new3 then k3 + 1 else k3
    if i3 < (o.relay isB).loads then (o.setT2 isB { t with filled := t.begun + 1 }, fill y i3 t.begun c) else (o.setT2 isB t, c)

/-- Two plans whose near-store areas and deep-store regions do not overlap (R228). -/
def Plan.apart (p q : Plan) : Bool :=
  !meets p.near p.nearSize q.near q.nearSize && !meets p.deep p.deepSize q.deep q.deepSize

/-- The first loads of a planned operation that waits behind the running one, as that one's last T1 tile begins its passes
(R228). An error stays with the operation until it starts (R100, R227). -/
def State.firstLoads (s : State) (n m : Nat) : State :=
  match (s.core n).engq 1 with
  | o :: w :: r =>
    if w.plan.isEmpty || (s.core n).stopped || !o.pop.p.apart w.pop.p then s
    else match w.pop.p.steps with
      | [] => s
      | x :: _ =>
        let load : State × EngOp → Bool → State × EngOp := fun (s, w) isB =>
          if w.err ≠ 0 || (w.relay isB).loads ≠ 0 || w.pop.p.prevOf isB ≠ 0xFFFF || (isB && w.pop.p.win.pool ≠ 0) then (s, w)
          else match s.fetchT3 n m w.pop isB 0 x.g x.b3 with
            | (.error c, t) => (t, { w with err := c })
            | (.ok _, t) => (t, w.setRelay isB { w.relay isB with loads := 1 })
        let (t, w) := [false, true].foldl load (s, w)
        t.updCore n fun c => c.setEngq 1 (o :: w :: r)
  | _ => s

/-- Whether every relay of an operand has ended: forward copies acknowledged and free notes sent (R223). -/
def EngOp.relayDone (o : EngOp) (isB : Bool) : Bool :=
  let r := o.relay isB
  (o.pop.p.nextOf isB = 0xFFFF || r.acked = r.loads) && r.rel = r.loads

/-- The walk is over: its tiles have had their last use, and the operation ends once its relays have (R223). -/
def State.planEnd (s : State) (n : Nat) (o : EngOp) : Go × State :=
  let o := { o with relA := { o.relA with used := o.relA.loads }, relB := { o.relB with used := o.relB.loads } }
  let t := ((s.putOp n 1 o).pumpRelay n false 8).pumpRelay n true 8
  match (t.core n).running 1 with
  | some o => (if o.relayDone false && o.relayDone true then .over else .wait, t)
  | none => (.wait, t)

/-- The array's work on a T1 tile: its T2 tiles, its passes or gathered window, and what follows its last K range
(R212 to R216, R242). -/
def State.planTile (s : State) (n : Nat) (o : EngOp) (prev : Option PStep) (x : PStep) (later : List PStep) : Go × State :=
  let q := o.pop
  let pool := q.p.win.pool ≠ 0
  let (o, c) := o.needT2 false prev x later (s.core n)
  let (o, c) := if pool then (o, c) else o.needT2 true prev x later c
  let slA := q.nearSlot false (o.t2A.begun - 1)
  let slB := q.nearSlot true (o.t2B.begun - 1)
  let s := s.setCore n c
  let next : EngOp := { o with pos := o.pos + 1, phase := 0 }
  if pool then
    let o := { o with pool := q.gather x slA (s.core n) o.pool }
    if lastK q.p x then (.more, (s.updCore n (q.poolTile x o.drains o.pool)).putOp n 1 { o with phase := 3 })
    else (.more, s.putOp n 1 { next with pool := o.pool })
  else
    let s := s.updCore n (q.passes x slA slB)
    if lastK q.p x then
      if o.hasEpi then (.sweep, s.putOp n 1 { o with stage := .plan o.pos, tile := 0, row := 0, ip := 0 })
      else (.more, (s.updCore n (q.drainTile x o.drains)).putOp n 1 { o with phase := 3 })
    else
      (.more, (if exports q.p q.acc then s.updCore n (q.exportTile x) else s).putOp n 1 next)

/-- One phase of the walk of the running planned operation (R212 to R216, R227, R228). -/
def State.planPhase (s : State) (n : Nat) (o : EngOp) : Go × State :=
  let q := o.pop
  let m := (s.meadowOf n).getD 0
  let prev := if o.pos = 0 then none else q.p.steps[o.pos - 1]?
  let skip : Go × State := (.more, s.putOp n 1 { o with phase := o.phase + 1 })
  match q.p.steps.drop o.pos with
  | [] => s.planEnd n o
  | x :: later =>
    match o.phase with
    | 0 => if newT3 q.p false prev x then s.needT3 n m o false x else skip
    | 1 => if q.p.win.pool = 0 && newT3 q.p true prev x then s.needT3 n m o true x else skip
    | 2 => (if later.isEmpty then s.firstLoads n m else s).planTile n o prev x later
    | _ =>
      let moss := if q.p.win.mossO then q.mossAdd x o.drains (s.core n) o.moss else []
      match s.storePieces n o.seq m (q.outList x o.drains (s.core n) moss) with
      | (.error c, t) => (.fail c, t)
      | (.ok _, t) =>
        (.more, t.putOp n 1 { o with pos := o.pos + 1, phase := 0, drains := o.drains + 1, moss := q.mossRest x moss })

/-- The walk run until it waits, sweeps, ends or fails. -/
def State.planRun (s : State) (n : Nat) : Nat → State
  | 0 => s
  | fuel + 1 =>
    match (s.core n).running 1 with
    | none => s
    | some o =>
      match s.planPhase n o with
      | (.more, t) => t.planRun n fuel
      | (.sweep, t) => t
      | (.wait, t) => t.updOp n 1 fun o => { o with waits := true }
      | (.over, t) => t.updCore n fun c =>
          match c.running 1 with | some o => c.putOp 1 { o with summed := true, vdone := true } | none => c
      | (.fail k, t) => t.complete n 1 k

/-- The relay notes of the running planned operation taken, tiles that may now be loaded ahead loaded, and the walk run on
(R213, R224). -/
def State.planGo (s : State) (n : Nat) (o : EngOp) : State :=
  let p := o.pop.p
  let m := (s.meadowOf n).getD 0
  let (bad, t) := (relayQueues p).foldl (fun (b, t) q =>
    if b then (b, t) else t.takeRelays n p q ((t.core n).ring q).count) (false, s)
  if bad then t.complete n 1 Code.tileRelay
  else
    let t := t.updOp n 1 fun o => { o with waits := false }
    match t.aheadT3 n m false with
    | (.fail k, t) => t.complete n 1 k
    | (_, t) =>
      match t.aheadT3 n m true with
      | (.fail k, t) => t.complete n 1 k
      | (_, t) => t.planRun n (4 * (p.steps.length + 1))

/-! Sequencing of an operation. -/

/-- A stage's sweep begins. -/
def EngOp.enter (o : EngOp) (st : Stage) : EngOp := { o with stage := st, tile := 0, row := 0, ip := 0 }

/-- The first operation's block (i, j) computed and its epilogue entered (R181). -/
def State.enterFeed (s : State) (n i j : Nat) : State :=
  s.updCore n fun c =>
    match c.running 1 with
    | some o => c.putOp 1 ({ o with spill := o.block c i j }.enter (.feed i j))
    | none => c

/-- Every product is in the cells: the epilogue begins, or the drain waits for completion. -/
def State.afterProducts (s : State) (n : Nat) : State :=
  s.updOp n 1 fun o =>
    let o := { o with summed := true }
    if o.hasEpi then o.enter .epi else { o with vdone := true }

/-- Tile notes taken from the head of the queue of an AQ operation, at most `fuel` (R178). The first operation of a chained pair
has no cells to merge a slice into (R181): its slices are collected, and its blocks computed once they cover K. DESIGN CHOICE,
log entry 69. -/
def State.takeTiles (s : State) (n : Nat) : Nat → State
  | 0 => s
  | fuel + 1 =>
    match (s.core n).running 1 with
    | none => s
    | some o =>
      let q := lineBits o.desc 0 15 13
      if !o.isAq ∨ o.summed ∨ o.stage ≠ .work then s
      else if o.covered = o.ek then (if o.isPair then s.enterFeed n 0 0 else s.afterProducts n)
      else if ((s.core n).ring q).count = 0 then s
      else
        let (e, t) := s.takeHead n q
        let k0 := noteWord e 8
        let kt := noteWord e 12
        if !tileNoteOk o k0 kt then t.complete n 1 Code.chainTile
        else
          let t := t.updOp n 1 fun o => { o with slices := o.slices ++ [(k0, kt)] }
          (if o.isPair then t else t.updCore n (o.sumSlice k0 kt)).takeTiles n fuel

/-- The array's work begins, after any prologue (R169, R178, R181). -/
def State.arrayStart (s : State) (n : Nat) (o : EngOp) : State :=
  if !o.plan.isEmpty then s.planGo n o
  else if o.isAq then
    (if o.isPair then s else s.updCore n o.initCells).takeTiles n (((s.core n).ring (lineBits o.desc 0 15 13)).count + 1)
  else if o.isPair then s.enterFeed n 0 0
  else (s.updCore n fun c => o.sumSlice 0 o.ek (o.initCells c)).afterProducts n

/-- The sweep of the running operation's stage. -/
def EngOp.sweep (o : EngOp) : Option Sweep :=
  match o.stage with
  | .work => none
  | .vx => some (vxSweep o.desc)
  | .pro => some (proSweep o)
  | .epi => some (epiSweep o)
  | .feed i j => some (feedSweep o i j)
  | .out i => some (outSweep o i)
  | .plan t => (o.pop.p.steps[t]?).map (o.pop.sweep o)

/-- Row block i of a chained pair is finished: the next begins, or the pair ends (R181). -/
def State.nextRows (s : State) (n : Nat) (o : EngOp) (i : Nat) : State :=
  if 16 * (i + 1) < o.em then s.enterFeed n (i + 1) 0
  else s.updOp n 1 fun o => { o with stage := .work, summed := true, vdone := true }

/-- A sweep has ended: what follows it. -/
def State.sweepEnd (s : State) (n e : Nat) (o : EngOp) : State :=
  match o.stage with
  | .work => s
  | .vx | .epi => s.updOp n e fun o => { o with stage := .work, vdone := true }
  | .pro =>
    let t := s.updOp n e fun o => { o with stage := .work }
    match (t.core n).running 1 with
    | some o => t.arrayStart n o
    | none => t
  | .feed i j =>
    let t := (s.updCore n (o.feedPass i j)).updOp n 1 fun o => { o with stage := .work }
    if 16 * (j + 1) < o.en then t.enterFeed n i (j + 1)
    else if lineBits o.desc2 3 21 11 ≠ 0 then t.updOp n 1 (·.enter (.out i))
    else (t.updCore n (o.drainPair i)).nextRows n o i
  | .out i => s.nextRows n o i
  | .plan _ =>
    let t := s.updOp n 1 fun o => { o with stage := .work, phase := 3 }
    match (t.core n).running 1 with
    | some o => t.planGo n o
    | none => t

/-- One instruction of the sweep in force, and the step to the next (R142). -/
def State.sweepStep (s : State) (n e : Nat) (o : EngOp) (sw : Sweep) (op : TOp) (f : TFields) : State :=
  let st := sw.step o.tile o.row
  let t := s.updCore n fun c =>
    let c := if o.ip = 0 then rowStart c sw st else c
    tileCore c sw st (fun ix => (s.sysreg n ix).toNat % 2 ^ 32) op f
  match sw.after o.tile o.row o.ip with
  | some (a, b, c) => t.updOp n e fun o => { o with tile := a, row := b, ip := c }
  | none => t.sweepEnd n e o

/-- The instruction at the position of the sweep in force, from the program as it was checked (R142, R144). -/
def EngOp.nextTile (o : EngOp) (sw : Sweep) : Option TOp × TFields :=
  let k := match sw.kind with | .vx | .pro => 0 | .epi => 1 | .epi2 => 2
  tileDecode ((o.words.getD k []).getD o.ip 0)

/-- A tile-program instruction taken by the vector engine in the row step in force. The engine executes the instructions of
its program in order: a command that is not the next of them changes nothing (R142, log entry 12). -/
def State.tile (s : State) (n : Nat) (op : TOp) (f : TFields) : State :=
  match (s.core n).sweeping with
  | none => s
  | some (e, o) =>
    match o.sweep with
    | none => s
    | some sw => if o.nextTile sw = (some op, f) then s.sweepStep n e o sw op f else s

/-- Every tile-program instruction that remains of the sweep in force, from its program; at most `fuel`. -/
def State.runSweep (s : State) (n e : Nat) (st : Stage) : Nat → State
  | 0 => s
  | fuel + 1 =>
    match (s.core n).running e with
    | none => s
    | some o =>
      if o.stage ≠ st then s
      else match o.sweep with
        | none => s
        | some sw =>
          match o.nextTile sw with
          | (none, _) => s
          | (some op, f) => (s.sweepStep n e o sw op f).runSweep n e st fuel

/-- The sweeps of the running operation run to the end, at most `fuel` sweeps. -/
def State.runSweeps (s : State) (n e seq : Nat) : Nat → State
  | 0 => s
  | fuel + 1 =>
    match (s.core n).running e with
    | none => s
    | some o =>
      if o.seq ≠ seq then s
      else match o.sweep with
        | none => s
        | some sw => (s.runSweep n e o.stage (sw.length + 1)).runSweeps n e seq fuel

/-- The sweeps of an operation's tile programs, for the check before the first row step (R144, R168). -/
def EngOp.programs (o : EngOp) (e : Nat) : List (Option Sweep) :=
  if e = 2 then [some (vxSweep o.desc)]
  else if e ≠ 1 ∨ o.chain = 0 then []
  else
    [if o.hasPro then some (proSweep o) else none,
     if o.hasEpi then some (if o.plan.isEmpty then epiSweep o else o.pop.checkSweep o) else none,
     if o.isPair ∧ lineBits o.desc2 3 21 11 ≠ 0 then some (outCheckSweep o) else none]

/-- The check of an operation's tile programs before its first row step (R144, R168). -/
def EngOp.check (o : EngOp) (e : Nat) (c : Core) : Option Half :=
  firstSome (fun p => p.bind (progCheck c)) (o.programs e)

/-- An MM or VX operation starts: the words of its tile programs are those that were checked, so that no error of a program
can follow a row step (R103, R144, R168, R172, R185; DEDUCED, log entry 61). -/
def State.startVector (s : State) (n e : Nat) (o : EngOp) : State :=
  if (s.core n).stopped || (o.hasProgram e && !(s.core n).vectorFree o.seq) then s
  else
    let c := s.core n
    let words := (o.programs e).map fun p => (p.map (progWords c)).getD []
    let t := s.updCore n fun c =>
      let c := c.putOp e { o with started := true, words }
      if o.hasProgram e then { c with slots := [] } else c
    match o.check e c with
    | some k => t.complete n e k
    | none =>
      if o.err ≠ 0 then t.complete n e o.err
      else if e = 2 then t.updOp n 2 (·.enter .vx)
      else if o.hasPro then t.updOp n 1 (·.enter .pro)
      else match (t.core n).running 1 with
        | some o => t.arrayStart n o
        | none => t

/-- The bound on the sweeps of an operation. -/
def EngOp.sweeps (o : EngOp) : Nat :=
  4 + 2 * (o.em / 16 + 1) * (o.en / 16 + 2) + (if o.plan.isEmpty then 0 else o.pop.p.steps.length)

/-- The operation at the head of the array or vector engine run as far as it can go, and its completion,
for which its writes to package memory are acknowledged (R100, R130, R136, R287, R316). -/
def State.finishVector (s : State) (n e : Nat) : State :=
  match (s.core n).engq e with
  | [] => s
  | o :: _ =>
    let t := if o.started then s else s.startVector n e o
    let t := match (t.core n).running e with
      | some o' => if o'.seq = o.seq && !o'.plan.isEmpty && o'.stage = Stage.work && !o'.summed then t.planGo n o' else t
      | none => t
    let t := t.runSweeps n e o.seq o.sweeps
    match (t.core n).running e with
    | none => t
    | some o' =>
      if o'.seq ≠ o.seq ∨ o'.stage ≠ Stage.work then t
      else if e = 2 then (if o'.vdone then t.complete n e o'.err else t)
      else if !o'.summed || t.acking n o'.seq then t
      else
        let drain := lineBits o'.desc 0 8 8 = 1 && o'.plan.isEmpty && !o'.hasEpi
        (if drain then t.updCore n o'.drainAll else t).complete n e o'.err

end Sys2Proof.Machine
end

