-- ==== Sys2Proof/Machine/Engines.lean ====
section
/-!
DEFINITION. The commands of the engines: starts, completions, remote copies, prefix-tree lookups
(04 R103, R111 to R114; 11 R266 to R268; 12 R280; 13 R286 to R296).
-/

namespace Sys2Proof.Machine

open Sys2Proof

/-- `k` bytes that the manual leaves open. -/
def State.freeBytes (s : State) (k : Nat) : List Byte × State :=
  ((upFrom s.free k).map Config.freeByte, { s with free := s.free + k })

/-! Special functions (R111, R153 to R155). -/

/-- The argument of an SF element in the working format (R154). -/
def sfArg (x : Tens) (o : Fmt) (c : Nat) : Fmt × Nat :=
  let w : Fmt := if o = .l64 then .l64 else .l32
  (w, loadElem x.f w x.scale .ne c)

/-- Every element of an SF operation evaluated, in row-major order and in groups of up to 16 elements of one row,
each group read whole and then written (R153). Where O overlaps X a group sees what the groups before it have written.
DESIGN CHOICE, log entry 68. -/
def sfRun (o : EngOp) (c : Core) : Core :=
  let d := o.desc
  let x := tensAt d 4
  let t := tensAt d 7
  let f := (fnOf (lineBits d 0 7 4)).getD .exp2
  let rows := lineBits d 1 15 0
  let cols := lineBits d 1 31 16
  (List.range rows).foldl (fun c r => (List.range (ceilDiv cols 16)).foldl (fun c g =>
    c.nearWrite (t.at r (16 * g)) ((upFrom (16 * g) (min 16 (cols - 16 * g))).flatMap fun j =>
      let (w, a) := sfArg x t.f (c.elem x r j)
      natToBytes t.f.size (sfEval (lineBits d 0 8 8 = 1) f w t.f t.scale a))) c) c

/-! Noise (R114, R278 to R281). -/

/-- Every element of an NZ operation written. -/
def nzRun (o : EngOp) (seed : Nat) (c : Core) : Core :=
  let d := o.desc
  let t := tensAt d 4
  let gauss := lineBits d 0 4 4 = 1
  let first := lineWord d 2 + lineWord d 3 * 2 ^ 32
  (List.range (lineWord d 1)).foldl (fun c j =>
    let v := ladybirdElem gauss seed (lineBits d 0 31 16) o.frame o.step ((first + j) % 2 ^ 64)
    let code := if gauss then storeElem .l32 t.f t.scale .ne v else v
    let b := natToBytes t.f.size code
    let a := t.addr + j * t.f.size
    if t.space = 0 then c.nearWrite a b else c.deepWrite a b) c

/-! The copy engine (R112, R286 to R290). -/

/-- The sectors of a copy, in order: source and destination addresses. -/
def cpSectors (d : Line) : List (Nat × Nat) :=
  let a := tensAt d 4
  let b := tensAt d 7
  (List.range (lineBits d 2 15 0)).flatMap fun r => (List.range (lineBits d 1 19 0 / 32)).map fun i =>
    (a.addr + 32 * a.stride * r + 32 * i, b.addr + 32 * b.stride * r + 32 * i)

/-- A copy to another core's store. -/
def cpRemote (d : Line) : Bool := lineBits d 3 15 0 ≠ 0xFFFF

/-- The source and destination of a copy overlap, or two of its destination rows do (R288). `own` says that its TARGET, where it
has one, is the copying core itself. -/
def cpOverlap (own : Bool) (d : Line) : Bool :=
  let a := tensAt d 4
  let b := tensAt d 7
  let rows := lineBits d 2 15 0
  let rb := lineBits d 1 19 0
  (2 ≤ rows && 32 * b.stride < rb)
    || ((!cpRemote d || own) && a.space = b.space &&
      (List.range rows).any fun i => (List.range rows).any fun j =>
        meets (a.addr + 32 * a.stride * i) rb (b.addr + 32 * b.stride * j) rb)

/-- One sector read at a copy's source. -/
def State.cpRead (s : State) (n m space a : Nat) : Res (List Byte) :=
  match space with
  | 0 => (.ok (Mem.read (s.core n).near a 32), s)
  | 1 => (.ok (Mem.read (s.core n).deep a 32), s)
  | _ => s.engRead n m a 32

/-- One sector written at a copy's destination. -/
def State.cpWrite (s : State) (n seq m space a : Nat) (b : List Byte) : Res Unit :=
  match space with
  | 0 => (.ok (), s.updCore n (·.nearWrite a b))
  | 1 => (.ok (), s.updCore n (·.deepWrite a b))
  | _ => s.engWrite n (some seq) m a b

/-- A sector's bytes for the destination: those read, or open ones where source and destination overlap (R288). -/
def State.cpBytes (s : State) (n m sa : Nat) (free : Bool) (x : Nat) : Res (List Byte) :=
  match s.cpRead n m sa x with
  | (.error c, t) => (.error c, t)
  | (.ok b, t) => if free then (.ok (t.freeBytes 32).1, (t.freeBytes 32).2) else (.ok b, t)

/-- One sector of a local copy moved. -/
def State.cpMove (s : State) (n seq m sa sb : Nat) (free : Bool) (p : Nat × Nat) : Res Unit :=
  match s.cpBytes n m sa free p.1 with
  | (.error c, t) => (.error c, t)
  | (.ok b, t) => t.cpWrite n seq m sb p.2 b

/-- The sectors in flight behind an error moved where they can be: the errors that they meet (R290). -/
def State.cpRest (s : State) (n seq m sa sb : Nat) (free : Bool) : List (Nat × Nat) → List Half × State
  | [] => ([], s)
  | p :: r =>
    match s.cpMove n seq m sa sb free p with
    | (.error c, t) => let (cs, t) := t.cpRest n seq m sa sb free r; (c :: cs, t)
    | (.ok _, t) => t.cpRest n seq m sa sb free r

/-- The sectors of a local copy moved in order. Behind an error only the sectors already requested are (R290). -/
def State.cpLocal (s : State) (n seq m sa sb : Nat) (free : Bool) : List (Nat × Nat) → Res Unit
  | [] => (.ok (), s)
  | p :: r =>
    match s.cpMove n seq m sa sb free p with
    | (.error c, t) =>
      let (k, pick, t) := t.inFlight sa
      let (cs, t) := t.cpRest n seq m sa sb free (r.take k)
      (.error (firstError c cs pick), t)
    | (.ok _, t) => t.cpLocal n seq m sa sb free r

/-- The sectors in flight behind an error read: what is to be written, and the errors (R290). -/
def State.cpGatherRest (s : State) (n m sa : Nat) (free : Bool) : List (Nat × Nat) → List (Nat × List Byte) × List Half × State
  | [] => ([], [], s)
  | (x, y) :: r =>
    match s.cpBytes n m sa free x with
    | (.error c, t) => let (l, cs, t) := t.cpGatherRest n m sa free r; (l, c :: cs, t)
    | (.ok b, t) => let (l, cs, t) := t.cpGatherRest n m sa free r; ((y, b) :: l, cs, t)

/-- The sectors of a remote copy read in order: what is to be written, and the first error (R289, R290). -/
def State.cpGather (s : State) (n m sa : Nat) (free : Bool) : List (Nat × Nat) → List (Nat × List Byte) × Half × State
  | [] => ([], 0, s)
  | (x, y) :: r =>
    match s.cpBytes n m sa free x with
    | (.error c, t) =>
      let (k, pick, t) := t.inFlight sa
      let (l, cs, t) := t.cpGatherRest n m sa free (r.take k)
      (l, firstError c cs pick, t)
    | (.ok b, t) =>
      let (l, c, t) := t.cpGather n m sa free r
      ((y, b) :: l, c, t)

/-- The writes of a remote copy as the mesh carries them: two sectors that follow one another share a flit (R330). -/
def flitsOf : List (Nat × List Byte) → List (Nat × List Byte)
  | (a, x) :: (b, y) :: r =>
    if b = a + 32 ∧ x.length = 32 then (a, x ++ y) :: flitsOf r else (a, x) :: flitsOf ((b, y) :: r)
  | l => l

/-- The window address of prefix-tree lookups (R266). -/
def ctxPortVa : Nat := 0xFFFF00000000

/-- A reference that is the lookup port, in a copy of one 64-byte row (R266). -/
def isPort (d : Line) (t : Tens) : Bool :=
  t.space = 2 && t.addr = ctxPortVa && lineBits d 2 15 0 = 1 && lineBits d 1 19 0 = 64

/-- A copy's answer before its data moves: a lookup submitted or collected, or ordinary work (R266). -/
inductive PortUse where | none | submit | collect
deriving DecidableEq, Repr

/-- How a copy uses the lookup port. -/
def portUse (d : Line) : PortUse :=
  if isPort d (tensAt d 4) then .collect
  else if isPort d (tensAt d 7) && (tensAt d 4).space = 0 && !cpRemote d then .submit
  else .none

/-- The operation of an engine that was issued as number `seq` changed. -/
def State.updSeqOp (s : State) (n e seq : Nat) (f : EngOp → EngOp) : State :=
  s.updCore n fun c => c.setEngq e ((c.engq e).map fun o => if o.seq = seq then f o else o)

/-- The copy whose requests are issued next: those before it have issued all of theirs (R103, R288). -/
def Core.nextCopy (c : Core) : Option EngOp := (c.engq 4).find? fun o => !o.sent

/-- A remote copy's data put on the mesh. -/
def State.cpSend (s : State) (n : Nat) (o : EngOp) (ws : List (Nat × List Byte)) (err : Half) : State :=
  let d := o.desc
  let dst := (s.anchor (lineBits d 3 15 0)).getD 0
  let t := s.updSeqOp n 4 o.seq fun o => { o with sent := true, err := err, acked := ws.isEmpty }
  if ws.isEmpty then t else t.pushCopy n o.seq none dst ((tensAt d 7).space = 1) (flitsOf ws)

/-- The result of the core's lookup taken, and its place freed; `none` while it is unfinished (R266). -/
def State.collect (s : State) (n : Nat) : Option (List Byte) × State :=
  match (s.core n).lookup with
  | .idle => (some (natToBytes 64 0), s)
  | .pending _ => (none, s)
  | .ready r => (some r, s.updCore n fun c => { c with lookup := .idle })

/-- A copy operation starts: a remote copy reads its source and sends its writes (R286, R289). -/
def State.startCopy (s : State) (n : Nat) (o : EngOp) : State :=
  if (s.core n).stopped ∧ !o.started then s
  else
    let t := s.updSeqOp n 4 o.seq fun o => { o with started := true }
    let m := (s.meadowOf n).getD 0
    if !cpRemote o.desc then t
    else match portUse o.desc with
      | .collect =>
        match t.collect n with
        | (none, _) => t
        | (some r, t) => t.cpSend n o ((chunks 32 2 r).zipIdx.map fun (b, i) => ((tensAt o.desc 7).addr + 32 * i, b)) 0
      | _ =>
        let own := s.anchor (lineBits o.desc 3 15 0) == some n
        let (ws, err, t) := t.cpGather n m (tensAt o.desc 4).space (cpOverlap own o.desc) (cpSectors o.desc)
        t.cpSend n o ws err

/-- A lookup submitted from near store: the code of the copy that submits it (R266). -/
def State.submitLookup (s : State) (n : Nat) (o : EngOp) : Half × State :=
  if (s.core n).lookup ≠ .idle then (Code.ctxBusy, s)
  else
    let req := Mem.read (s.core n).near (tensAt o.desc 4).addr 64
    let t := s.updCore n fun c => { c with lookup := .pending req }
    (Code.ok, t.updBase (baseOf n) fun b => { b with lookupQ := b.lookupQ ++ [n] })

/-- A 64-byte row written at a copy's destination. -/
def State.storeRow (s : State) (n seq m space a : Nat) (r : List Byte) : Res Unit :=
  match s.cpWrite n seq m space a (r.take 32) with
  | (.error c, t) => (.error c, t)
  | (.ok _, t) => t.cpWrite n seq m space (a + 32) (r.drop 32)

/-- The code of a result. -/
def codeOf {α : Type} : Except Half α → Half
  | .ok _ => Code.ok
  | .error c => c

/-- A copy's data moved: all its requests are issued and met (R266, R286, R290). -/
def State.moveCopy (s : State) (n : Nat) (o : EngOp) : State :=
  let d := o.desc
  let m := (s.meadowOf n).getD 0
  let b := tensAt d 7
  let sent (t : State) (c : Half) : State := t.updSeqOp n 4 o.seq fun o => { o with started := true, sent := true, err := c }
  if cpRemote d then s.startCopy n o
  else match portUse d with
    | .submit => let (c, t) := s.submitLookup n o; sent t c
    | .collect =>
      match s.collect n with
      | (none, _) => s
      | (some r, t) => let (x, t) := t.storeRow n o.seq m b.space b.addr r; sent t (codeOf x)
    | .none => let (x, t) := s.cpLocal n o.seq m (tensAt d 4).space b.space (cpOverlap false d) (cpSectors d); sent t (codeOf x)

/-- Whether a copy may complete: every write has taken effect, and its note has been injected (R112, R287, R316). -/
def State.copyOver (s : State) (n : Nat) (o : EngOp) : Bool :=
  o.sent && !s.acking n o.seq
    && (!cpRemote o.desc || (o.acked && (o.err != 0 || lineBits o.desc 0 4 4 != 1 || o.noted)))

/-- The first copy of the engine completed where it may (R103, R287). -/
def State.endCopy (s : State) (n : Nat) : State :=
  match (s.core n).running 4 with
  | some o => if s.copyOver n o then s.complete n 4 o.err else s
  | none => s

/-- Writes of an earlier copy to the core's own stores that the mesh still carries (R289). -/
def Core.ownWrites (c : Core) (n : Nat) : Bool := c.rcopies.any fun r => r.relay.isNone && r.dst = n && !r.writes.isEmpty

/-- The copy engine goes on: its first operation completes if it may, else the next one moves its data. A copy whose bytes land
at once waits for those of an earlier one to the same core, for the later-issued write prevails (R103, R287, R288). -/
def State.finishCopy (s : State) (n : Nat) : State :=
  match (s.core n).running 4 with
  | none => s
  | some h =>
    if s.copyOver n h then s.complete n 4 h.err
    else match (s.core n).nextCopy with
      | none => s
      | some o =>
        if ((s.core n).stopped && !o.started) || (!cpRemote o.desc && (s.core n).ownWrites n) then s
        else (s.moveCopy n o).endCopy n

/-! The gather engine (R113, R291 to R295). -/

/-- The address of element `i` (R113). -/
def gaAddr (c : Core) (d : Line) (i : Nat) : Int :=
  let src := tensAt d 4
  if lineBits d 0 4 4 = 1 then src.addr + Mem.nat c.near ((tensAt d 7).addr + 4 * i) 4 * 32 * lineBits d 2 7 0
  else src.addr + i * signedOf 32 (lineWord d 3)

/-- The translation of a page that run-ahead finds in the core's translation cache, or of a window block in the look-aside
buffer (R264, R292). -/
def State.cachedLeaf (s : State) (n va : Nat) : Option Leaf :=
  if inWindow va then
    ((s.base (baseOf n)).ctxBuf.find? fun e => e.stream = bitsOf va 45 32 ∧ e.block = bitsOf va 31 16).map (·.leaf)
  else (s.core n).tlb.find? (·.vpage = va / 2 ^ 16)

/-- A walk that run-ahead starts where a translation is absent: it reports no fault, and a valid result is cached (R264, R292). -/
def State.aheadWalk (s : State) (n m va : Nat) : State :=
  if (s.cachedLeaf n va).isSome ∨ 2 ^ 48 ≤ va ∨ (inWindow va ∧ bitsOf va 45 32 = 0x3FFF) then s
  else (failOnLost n (if inWindow va then s.ctxLeaf n m va false else s.leafOf n m va)).2

/-- A sector that run-ahead fetches: its translation is cached, permits reads and does not carry NOPREFETCH. `landed` says
that it arrives at once; else it stays in flight (R292, R294). At most 64 sectors are in flight. -/
def State.aheadFetch (s : State) (n m va i k : Nat) (landed : Bool) : State :=
  match (s.core n).running 5, s.cachedLeaf n va with
  | some o, some l =>
    if (o.ahead.any fun f => f.elem = i && f.part = k) ∨ 64 ≤ (o.ahead.filter (·.alloc)).length ∨ l.noPrefetch then s
    else match s.leafCheck m l false with
      | .error _ => s
      | .ok _ =>
        let pa := l.pa + va % 2 ^ 16
        match failOnLost n (s.gatherSector n pa) with
        | (.error _, t) => t
        | (.ok (hit, b), t) =>
          let t := t.updOp n 5 fun o => { o with ahead := o.ahead ++ [⟨i, k, pa / 32, b, !hit && !landed⟩] }
          if !hit && landed then t.updCore n (·.allocate (pa / 32) b) else t
  | _, _ => s

/-- One act of run-ahead while element `i` is the demand element (R291, R292). The trunk accepts no request of an isolated site
(R342). -/
def State.aheadAct (s : State) (n m : Nat) (d : Line) (i : Nat) (x : Ahead) : State :=
  let a := gaAddr (s.core n) d x.elem + 32 * x.part
  if s.cutOff n ∨ x.elem ≤ i ∨ lineWord d 1 ≤ x.elem ∨ lineBits d 2 7 0 ≤ x.part ∨ a < 0 then s
  else match x.act with
    | .walk => s.aheadWalk n m a.toNat
    | .fetch landed => s.aheadFetch n m a.toNat x.elem x.part landed

/-- The run-ahead that falls on a demand element. -/
def State.runAhead (s : State) (n m : Nat) (d : Line) (i : Nat) (l : List Ahead) : State :=
  (l.filter (·.demand = i)).foldl (fun t x => t.aheadAct n m d i x) s

/-- Every page that an element touches translated, with faults reported (R293). -/
def State.gaPages (s : State) (n m : Nat) (a : Int) : List Nat → Res Unit
  | [] => (.ok (), s)
  | k :: r =>
    let x := a + 32 * k
    if k ≠ 0 ∧ x % 2 ^ 16 ≠ 0 then s.gaPages n m a r
    else if x < 0 then (.error Code.xlate, s)
    else match failOnLost n (s.xlate n m x.toNat false) with
      | (.error c, t) => (.error c, t)
      | (.ok _, t) => t.gaPages n m a r

/-- A sector that run-ahead has fetched delivered to its element, and allocated if it was in flight until now (R294, R295). -/
def State.takeFill (s : State) (n : Nat) (f : Fill) : List Byte × State :=
  let t := s.updOp n 5 fun o => { o with ahead := o.ahead.filter fun g => !(g.elem = f.elem && g.part = f.part) }
  (natToBytes 32 f.data.toNat, if f.alloc then t.updCore n (·.allocate f.sector f.data) else t)

/-- The sectors of the demand element: those fetched ahead, and the others read now (R293). -/
def State.gaElem (s : State) (n m i : Nat) (a : Int) : List Nat → Res (List Byte)
  | [] => (.ok [], s)
  | k :: r =>
    let fill := (s.core n).running 5 |>.bind fun o => o.ahead.find? fun f => f.elem = i && f.part = k
    match (match fill with
      | some f => let (b, t) := s.takeFill n f; ((.ok b, t) : Res (List Byte))
      | none => s.gatherRead n m (a + 32 * k).toNat) with
    | (.error c, t) => (.error c, t)
    | (.ok b, t) =>
      match t.gaElem n m i a r with
      | (.error c, t) => (.error c, t)
      | (.ok l, t) => (.ok (b ++ l), t)

/-- Elements consumed in order; the first error ends the operation (R291, R293). -/
def State.gaRun (s : State) (n m : Nat) (d : Line) (acts : List Ahead) : List Nat → Half × State
  | [] => (Code.ok, s)
  | i :: r =>
    let t := s.runAhead n m d i acts
    let es := lineBits d 2 7 0
    let dst := tensAt d 10
    let a := gaAddr (t.core n) d i
    match t.gaPages n m a (List.range es) with
    | (.error c, t) => (c, t)
    | (.ok _, t) =>
      match t.gaElem n m i a (List.range es) with
      | (.error c, t) => (c, t)
      | (.ok b, t) =>
        let p := dst.addr + 32 * es * i
        (t.updCore n fun c => if dst.space = 0 then c.nearWrite p b else c.deepWrite p b).gaRun n m d acts r

/-! Commands. -/

/-- The operation at the head of an engine, started if it has not been; `none` when it may not start. -/
def State.headStarted (s : State) (n e : Nat) : Option (EngOp × State) :=
  match (s.core n).engq e with
  | [] => none
  | o :: _ =>
    if o.started then some (o, s)
    else if (s.core n).stopped then none
    else some ({ o with started := true }, s.updCore n fun c => c.putOp e { o with started := true })

/-- A gather operation that runs fetches ahead of its first element (R292). -/
def State.startGather (s : State) (n : Nat) (acts : List Ahead) : State :=
  match s.headStarted n 5 with
  | none => s
  | some (o, t) => t.runAhead n ((t.meadowOf n).getD 0) o.desc 0 acts

/-- ENGINE_OP_START: an engine starts its next operation (R103, R144, R288). A gather operation runs ahead; which of its
fetches and walks fall here is the environment's timing (`acts`, log entry 21). -/
def execEngineOpStart (c : CoreIx) (e : Fin 6) (acts : List Ahead) (s : State) : Out :=
  .next (s.orHold (.engineOpStart c e acts) (match e.val with
    | 3 => match (s.core c).nextCopy with | some o => if o.started then s else s.startCopy c o | none => s
    | 4 => s.startGather c acts
    | k => match (s.core c).engq (k + 1) with
      | o :: _ =>
        if o.started then s
        else match k with
          | 0 => s.startVector c 1 o
          | 1 => s.startVector c 2 o
          | _ => match s.headStarted c (k + 1) with | some (_, t) => t | none => s
      | [] => s))

/-- MM_COMPLETE (R130, R136). -/
def execMmComplete (c : CoreIx) (s : State) : Out := .next (s.orHold (.mmComplete c) (s.finishVector c 1))
/-- VX_COMPLETE (R142). -/
def execVxComplete (c : CoreIx) (s : State) : Out := s.attempt (.vxComplete c) <| .next (s.finishVector c 2)
/-- SF_COMPLETE (R153, R154). SF, CP, GA and NZ read and write a core's stores when the row of their completion is taken, so that
an access of the control unit before it finds the stores as they were: one fixed outcome of the hazards that R98 and R9 leave
undefined. DESIGN CHOICE, log entry 68. -/
def execSfComplete (c : CoreIx) (s : State) : Out := s.attempt (.sfComplete c) <|
  .next (match s.headStarted c 3 with
    | none => s
    | some (o, t) => (t.updCore c (sfRun o)).complete c 3 Code.ok)
/-- CP_COMPLETE (R287). -/
def execCpComplete (c : CoreIx) (s : State) : Out :=
  .next (s.orHold (.cpComplete c) (s.finishCopy c))
/-- GA_COMPLETE (R291, R293). `acts` are the fetches and walks of run-ahead, each with the demand element it falls on: the
environment's timing, log entry 21. -/
def execGaComplete (c : CoreIx) (acts : List Ahead) (s : State) : Out :=
  .next (s.orHold (.gaComplete c acts) (match s.headStarted c 5 with
    | none => s
    | some (o, t) =>
      let (k, t) := t.gaRun c ((t.meadowOf c).getD 0) o.desc acts (List.range (lineWord o.desc 1))
      t.complete c 5 k))
/-- NZ_COMPLETE (R280). -/
def execNzComplete (c : CoreIx) (s : State) : Out := s.attempt (.nzComplete c) <|
  .next (match s.headStarted c 6 with
    | none => s
    | some (o, t) =>
      let seed := match t.meadowOf c with | some m => (t.meadow m).seed | none => 0
      (t.updCore c (nzRun o seed)).complete c 6 Code.ok)

/-! Remote copies. -/

/-- The first remote copy of a core that waits for its target. -/
def takeCopy : List RCopy → Option (RCopy × List RCopy × List RCopy)
  | [] => none
  | r :: l =>
    if r.answer.isNone then some (r, [], l)
    else (takeCopy l).map fun (x, a, b) => (x, r :: a, b)

/-- Why a target discards what reaches its site, if it does (R28, R30, R289, R338). -/
inductive DropWhy where | isolated | gated | generation
deriving DecidableEq, Repr

/-- The discard at a site, if any. Where a site is both isolated and in a GATED base tussock, as a self-test leaves it (R502), the
manual does not say which drop counter counts: HUB_MESH_DROP_ISOLATED does. A target that a host COREMAP has moved off a sound
site, which is neither isolated nor admitted again, has no counter in R28 either: HUB_MESH_DROP_GENERATION counts it.
DESIGN CHOICE, log entry 20. -/
def State.dropAt (s : State) (dst site : Nat) (gen : Half) : Option DropWhy :=
  if s.siteIsolated site then some .isolated
  else if (s.base (baseOf dst)).gated then some .gated
  else if s.siteOf dst ≠ site ∨ (s.core dst).gen ≠ gen then some .generation
  else none

/-- A discard counted. -/
def State.countDrop (s : State) (w : DropWhy) : State :=
  s.updHub fun h => match w with
    | .isolated => { h with dropIsolated := satInc h.dropIsolated }
    | .gated => { h with dropGated := satInc h.dropGated }
    | .generation => { h with dropGeneration := satInc h.dropGeneration }

/-- REMOTE_WRITE: the next write of the oldest unanswered remote copy of a core reaches its target, which takes it, or
discards and counts it; after the last the target answers (R289). -/
def execRemoteWrite (c : CoreIx) (s : State) : Out :=
  .next (match takeCopy (s.core c).rcopies with
    | none => s
    | some (r, a, b) =>
      match r.writes with
      | [] => s.updCore c fun k => { k with rcopies := a ++ { r with answer := some r.lost } :: b }
      | (x, d) :: ws =>
        let why := s.dropAt r.dst r.site r.gen
        let t := match why with
          | some w => s.countDrop w
          | none => s.updCore r.dst fun k => if r.deep then k.deepWrite x d else k.nearWrite x d
        let lost := r.lost || why.isSome
        t.updCore c fun k => { k with
          rcopies := a ++ { r with writes := ws, lost := lost, answer := if ws.isEmpty then some lost else none } :: b })

/-- The copy's note queued once every write is acknowledged (R112). -/
def State.queueNote (s : State) (n : Nat) (o : EngOp) : State :=
  let d := o.desc
  let tgt := lineBits d 3 15 0
  let body := (s.core n).nearLine (lineBits d 10 16 0)
  (s.updSeqOp n 4 o.seq fun o => { o with noteQueued := true }).updCore n fun c =>
    { c with sendq := c.sendq ++ [mkMsg tgt ((s.anchor tgt).getD 0) (lineBits d 0 7 5) 1 n 0 body c.gen none (some o.seq)] }

/-- REMOTE_ACK: the oldest remote copy's answer reaches its core (R112, R223, R287). An answer for an old generation,
or for a copy that has completed by timeout, is dropped and counted (R484). -/
def execRemoteAck (c : CoreIx) (s : State) : Out :=
  let late (t : State) : State := t.updHub fun h => { h with lateDrops := satInc h.lateDrops }
  .next (s.orHold (.remoteAck c) (match (s.core c).rcopies with
    | [] => s
    | r :: l =>
      match r.answer with
      | none => s
      | some dropped =>
        let t := s.updCore c fun k => { k with rcopies := l }
        if r.igen ≠ (s.core c).gen then late t
        else match r.relay with
          | none =>
            match ((t.core c).engq 4).find? (·.seq = r.seq) with
            | some o =>
              let err := if o.err = 0 ∧ dropped then Code.cpDropped else o.err
              let t := t.updSeqOp c 4 r.seq fun o => { o with acked := true, err := err }
              if err = 0 ∧ lineBits o.desc 0 4 4 = 1 then t.queueNote c o else t
            | none => late t
          | some isB =>
            match (t.core c).running 1 with
            | some o =>
              if o.seq ≠ r.seq then late t
              else if dropped then t.complete c 1 Code.cpDropped
              else
                let p := o.pop.p
                let x := o.relay isB
                let t := t.updOp c 1 fun o => o.setRelay isB { x with acked := x.acked + 1 }
                let t := (t.pushNote c (p.nextOf isB) (p.queueOf isB) (relayNote isB false x.acked) none none).pumpRelay c isB 8
                match (t.core c).running 1 with
                | some o => if o.stage = .work then t.planGo c o else t
                | none => t
            | none => late t))

/-! Prefix-tree lookups (R266 to R268). -/

/-- A result record (R266). -/
def lookupResult (status : Half) (outcome slot hash node pages bucket : Nat) : List Byte :=
  natToBytes 2 status.toNat ++ natToBytes 1 outcome ++ natToBytes 1 slot ++ natToBytes 4 0 ++ natToBytes 8 hash
    ++ natToBytes 8 node ++ natToBytes 8 pages ++ natToBytes 8 bucket ++ natToBytes 24 0

/-- Slots examined in ascending order (R267): the match, whether a candidate was seen, or a read that failed. -/
def State.examine (s : State) (n m : Nat) (bucket : List Byte) (h parent len : Nat) (src : List Byte) (seen : Bool) :
    List Nat → Except Half (Option (Nat × List Byte) × Bool) × State
  | [] => (.ok (none, seen), s)
  | i :: r =>
    let e := sliceBytes bucket (64 * i) 64
    if bitOf (fieldNat e 36 1) 0 && fieldNat e 0 8 = h && fieldNat e 8 8 = parent && fieldNat e 32 4 = len then
      match s.vreadN n m (sectorsOf (fieldNat e 24 8) len) (fieldNat e 24 8) len with
      | (.error _, t) => (.error Code.ctxSource, t)
      | (.ok b, t) => if b = src then (.ok (some (i, e), true), t) else t.examine n m bucket h parent len src true r
    else s.examine n m bucket h parent len src seen r

/-- A lookup request within its field ranges (R266). -/
def lookupOk (req : List Byte) : Bool :=
  fieldNat req 0 2 = 1 && fieldZero req 2 6 && fieldNat req 16 8 % 32 = 0 && !inWindow (fieldNat req 16 8)
    && 32 ≤ fieldNat req 24 4 && fieldNat req 24 4 ≤ 65536 && fieldNat req 24 4 % 32 = 0 && fieldZero req 28 36

/-- The walker's answer to a core's lookup (R267). -/
def State.lookup (s : State) (n m : Nat) (req : List Byte) : List Byte × State :=
  if !lookupOk req then s.freeBytes 64
  else
    let parent := fieldNat req 8 8
    let va := fieldNat req 16 8
    let len := fieldNat req 24 4
    let fail : Half → Nat → Nat → List Byte := fun k h ba => lookupResult k 0 0 h 0 0 ba
    match s.ctxDirectory n m with
    | (.error _, t) => (fail Code.ctxDirectory 0 0, t)
    | (.ok d, t) =>
      let tree := fieldNat d 16 8
      if tree = 0 then (fail Code.ctxDirectory 0 0, t)
      else match t.vreadN n m (sectorsOf va len) va len with
        | (.error _, t) => (fail Code.ctxSource 0 0, t)
        | (.ok src, t) =>
          let h := sipHash (t.meadow m).prefixKey (natToBytes 8 parent ++ src)
          let ba := tree + 256 * (h % 2 ^ fieldNat d 24 1)
          match t.vreadN n m 8 ba 256 with
          | (.error _, t) => (fail Code.ctxSource h ba, t)
          | (.ok bk, t) =>
            match t.examine n m bk h parent len src false [0, 1, 2, 3] with
            | (.error k, t) => (fail k h ba, t)
            | (.ok (some (i, e), _), t) => (lookupResult Code.ok 2 i h (fieldNat e 16 8) (fieldNat e 40 8) ba, t)
            | (.ok (none, seen), t) => (lookupResult Code.ok (if seen then 3 else 1) 0 h 0 0 ba, t)

/-- PREFIX_LOOKUP_DONE: a base tussock's walker finishes the lookup it registered first (R267, R268). -/
def execPrefixLookupDone (b : BaseIx) (s : State) : Out :=
  .next (s.orHold (.prefixLookupDone b) (match (s.base b).lookupQ with
    | [] => s
    | n :: r =>
      let t := s.updBase b fun x => { x with lookupQ := r }
      match (t.core n).lookup with
      | .pending req =>
        let (res, t) := t.lookup n ((t.meadowOf n).getD 0) req
        t.updCore n fun c => { c with lookup := .ready res }
      | _ => t))

end Sys2Proof.Machine
end

