-- ==== Sys2Proof/Machine/Messages.lean ====
section
/-!
DEFINITION. Messages on the mesh's control channel: injection, arrival, response and resend (15 R334 to R341; 18 R390).
-/

namespace Sys2Proof.Machine

open Sys2Proof

/-- The 64-byte entry of a message: its header over the payload (R337). -/
def Msg.entry (m : Msg) : Line :=
  let h := m.tussock % 2 ^ 16 + m.source % 2 ^ 12 * 2 ^ 16 + m.origin % 16 * 2 ^ 28
    + (m.queue % 8 + m.kind % 4 * 8) * 2 ^ 32 + m.gen.toNat * 2 ^ 48
  BitVec.ofNat 512 (h + m.body.toNat / 2 ^ 64 * 2 ^ 64)

/-- The global number of the queue a message goes to. -/
def Msg.global (m : Msg) : Nat := 8 * m.dst + m.queue

/-- Messages an interface holds: those waiting, and those injected and unacknowledged. -/
def State.waiting (s : State) (i : Iface) : List Msg :=
  match i with | .core c => (s.core c).sendq | .hub => s.hub.doorbells
/-- Injected messages without a response. -/
def State.unacked (s : State) (i : Iface) : List Msg :=
  match i with | .core c => (s.core c).unacked | .hub => s.hub.unacked
/-- An interface's messages replaced. -/
def State.setMsgs (s : State) (i : Iface) (w u : List Msg) : State :=
  match i with
  | .core c => s.updCore c fun k => { k with sendq := w, unacked := u }
  | .hub => s.updHub fun h => { h with doorbells := w, unacked := u }

/-- Whether a message has a place: its queue has none unacknowledged, and a doorbell's port has fewer than 256 (R340, R390). -/
def hasPlace (unacked : List Msg) (m : Msg) : Bool :=
  (unacked.all fun u => u.global ≠ m.global)
    && (m.kind ≠ 2 || (unacked.filter fun u => u.kind = 2 && u.origin = m.origin).length < 256)

/-- The first waiting message that has a place and need not wait. -/
def pickMsg (late : Msg → Bool) (unacked : List Msg) : List Msg → Option (Msg × List Msg)
  | [] => none
  | m :: r =>
    if hasPlace unacked m && !late m then some (m, r)
    else (pickMsg late unacked r).map fun (x, l) => (x, m :: l)

/-- Whether a command is a BAR2 write at a port. -/
def isBar2Write (p : Nat) (c : Instr) : Bool := match c with | .bar2Write q _ _ _ _ => q.val == p | _ => false

/-- Whether a waiting message may not be delivered yet: a doorbell, while a BAR2 write of its port has not taken effect. A
write registered after the doorbell holds it too: DESIGN CHOICE, log entry 4 (R287, R391). -/
def State.behindWrite (s : State) (m : Msg) : Bool :=
  m.kind = 2 && (s.held.any (isBar2Write (m.origin - 1)) || s.pkg.deltas.any fun d => d.owner == some (.port (m.origin - 1)))

/-- A message resolved to a site and a generation through the route table of its sender's meadow, and routed (R28, R331, R337,
R338). The hub has a copy of the table of its target's meadow, and climbs its target's column (R390). -/
def State.resolve (s : State) (i : Iface) (m : Msg) : Msg :=
  match i with
  | .core c =>
    let (g, site) := s.route (s.meadowOf c) m.dst
    { m with site := site, gen := g, path := s.routeTo c site, st := .flying }
  | .hub =>
    let (g, site) := s.route (s.meadowOf m.dst) m.dst
    { m with site := site, gen := g, path := .xy, st := .flying }

/-- Whether an interface may inject (R342). -/
def State.mayInject (s : State) (i : Iface) : Bool :=
  match i with | .core c => !(s.core c).stopped | .hub => true

/-- MESSAGE_INJECT: an interface injects its next message; its SEND's token completes (R115, R334, R340). -/
def execMessageInject (i : Iface) (s : State) : Out := s.attempt (.messageInject i) <|
  .next (
    let u := (s.unacked i).filter fun m => match i with | .core c => m.igen == (s.core c).gen | .hub => true
    if !s.mayInject i ∨ (i ≠ .hub ∧ 16 ≤ u.length) then s
    else match pickMsg s.behindWrite u (s.waiting i) with
      | none => s
      | some (m, r) =>
        let t := s.setMsgs i r (s.unacked i ++ [s.resolve i m])
        match i with
        | .hub => t
        | .core c =>
          let t := match m.cp with
            | some k => t.updSeqOp c 4 k fun o => { o with noted := true }
            | none => t
          match m.tok with
          | some k => t.tokenDone c k Code.ok
          | none => t)

/-- The state of an interface's message to a queue changed. -/
def setFirst (p : Msg → Bool) (f : Msg → Msg) : List Msg → List Msg
  | [] => []
  | m :: r => if p m then f m :: r else m :: setFirst p f r

/-- The first message that satisfies `p` taken away. -/
def eraseFirst (p : Msg → Bool) : List Msg → List Msg
  | [] => []
  | m :: r => if p m then r else m :: eraseFirst p r

/-- An interface's message to a queue, in a state. -/
def State.findMsg (s : State) (i : Iface) (q : Nat) (st : MsgSt → Bool) : Option Msg :=
  (s.unacked i).find? fun m => m.global = q && st m.st

/-- That message's state changed. -/
def State.markMsg (s : State) (i : Iface) (q : Nat) (was st : MsgSt) : State :=
  s.setMsgs i (s.waiting i) (setFirst (fun m => m.global = q && m.st = was) (fun m => { m with st := st }) (s.unacked i))

/-- An arrived entry offered to the instructions and operations that wait for one (R116, R178, R224). -/
def State.offer (s : State) (d : Nat) : State :=
  let t := match (s.core d).running 1 with
    | some o =>
      if o.isAq then s.takeTiles d (((s.core d).ring (lineBits o.desc 0 15 13)).count + 1)
      else if !o.plan.isEmpty && o.stage = Stage.work && !o.summed then s.planGo d o
      else s
    | none => s
  t.resume d

/-- MESSAGE_ARRIVAL: the message of an interface to a queue reaches its site (R28, R30, R338, R339). -/
def execMessageArrival (i : Iface) (q : QueueIx) (s : State) : Out := s.attempt (.messageArrival i q) <|
  .next (match s.findMsg i q (· == .flying) with
    | none => s
    | some m =>
      match s.dropAt m.dst m.site m.gen with
      | some w => (s.countDrop w).markMsg i q .flying .dropped
      | none =>
        let r := (s.core m.dst).ring m.queue
        let depth := s.queueDepth q
        if r.count < depth then
          let a := s.queueRing q + 64 * ((r.head + r.count) % depth)
          let t := s.updCore m.dst fun c => (c.nearWrite a (lineBytes m.entry)).setRing m.queue { r with count := r.count + 1 }
          (t.markMsg i q .flying .accepted).offer m.dst
        else
          let t := s.markMsg i q .flying .bounced
          match t.meadowOf m.dst with
          | some k => t.updMeadow k fun x => { x with bounces := satInc x.bounces }
          | none => t)

/-- A hub-built note that its target's site dropped is counted by the unit that sent it (R413, R434):
`tok` marks the transport port's notes and `cp` a Cicada pipe's. -/
def State.noteDropped (s : State) (m : Msg) : State :=
  if m.kind ≠ 1 ∨ m.igen ≠ 0xFFFF then s
  else match m.tok, m.cp with
    | some _, _ => { s with trn := { s.trn with noteDrops := satInc s.trn.noteDrops } }
    | none, some n =>
      { s with pipes := Sparse.upd Pipe.zero s.pipes n fun x => { x with noteDrops := satInc x.noteDrops } }
    | none, none => s

/-- MESSAGE_RESPONSE: the answer to a message reaches its interface (R339, R340, R484). -/
def execMessageResponse (i : Iface) (q : QueueIx) (s : State) : Out :=
  .next (match s.findMsg i q fun st => st == .accepted || st == .dropped || st == .bounced with
    | none => s
    | some m =>
      let stale := match i with | .core c => m.igen != (s.core c).gen | .hub => false
      let gone := s.setMsgs i (s.waiting i) (eraseFirst (fun x => x.global = q && x.st = m.st) (s.unacked i))
      if stale then gone.updHub fun h => { h with lateDrops := satInc h.lateDrops }
      else if m.st = .bounced then s.markMsg i q .bounced .held
      else if m.st = .dropped ∧ i = .hub then gone.noteDropped m
      else gone)

/-- Whether a message waiting to be resent is abandoned: the meadow it belongs to is in its boundary (R341). -/
def State.abandoned (s : State) (i : Iface) (m : Msg) : Bool :=
  match (match i with | .core c => s.meadowOf c | .hub => s.meadowOf m.dst) with
  | some k => (s.meadow k).state == .boundary
  | none => false

/-- MESSAGE_RESEND: a bounced message is sent again to the site it was resolved to (R28, R339, R341). -/
def execMessageResend (i : Iface) (q : QueueIx) (s : State) : Out :=
  .next (if !s.mayInject i then s
    else match s.findMsg i q (· == .held) with
      | none => s
      | some m => if s.abandoned i m then s else s.markMsg i q .held .flying)

end Sys2Proof.Machine
end

