-- ==== Sys2Proof/Machine/Epochs.lean ====
section
/-!
DEFINITION. Epochs, boundaries, job switches and step sequencers (12 R271 to R277; 16 R348 to R361; 23 R490).
-/

namespace Sys2Proof.Machine

open Sys2Proof

/-- Context `j` of a meadow. -/
def Meadow.seq (m : Meadow) (j : Nat) : Seq := Sparse.get Seq.zero m.seqs j
/-- Context `j` changed. -/
def Meadow.updSeq (m : Meadow) (j : Nat) (f : Seq → Seq) : Meadow :=
  { m with seqs := Sparse.put Seq.zero m.seqs j (f (m.seq j)) }
/-- A meadow's status code written. -/
def State.epochCode (s : State) (m : Nat) (c : Half) : State := s.updMeadow m fun x => { x with code := c }
/-- A write refused under R529. -/
def State.refuseWrite (s : State) (p f : Nat) (c : Half) (off : Nat) : State :=
  s.updFn p f fun x => { x with writeCode := c, writeOffset := BitVec.ofNat 24 off }
/-! Accesses refused (R387, R388). -/

/-- BARs of a function, as HUB_PORTp_DENIED_LAST numbers them. -/
inductive Bar where | bar0 | bar2 | bar4
deriving DecidableEq, Repr

/-- The number of a BAR. -/
def Bar.num : Bar → Nat
  | .bar0 => 0 | .bar2 => 1 | .bar4 => 2

/-- A refused access counted and recorded, with vector 10 (R387, R388, R400). -/
def State.deny (s : State) (p f : Nat) (bar : Bar) (off : Nat) (write untrusted : Bool) : State :=
  let last := off % 2 ^ 48 + f * 2 ^ 48 + bar.num * 2 ^ 53 + write.toNat * 2 ^ 55 + untrusted.toNat * 2 ^ 56
  (s.updPort p fun x => { x with denied := satInc x.denied, deniedLast := BitVec.ofNat 57 last }).raise p f 10

/-- Whether a TLP of a function is trusted; `ide` says that it came on the function's IDE stream with its check passed (R388). -/
def State.trusted (s : State) (p f : Nat) (ide : Bool) : Bool := ide && (s.fn p f).ide && (s.fn p f).tdi == .run

/-- Whether R388 refuses a TLP. -/
def State.untrusted (s : State) (p f : Nat) (ide : Bool) : Bool :=
  match s.fnMeadow p f with
  | some m => (s.meadow m).confidential && !s.trusted p f ide
  | none => false

/-- A row that is the host's write of a register of a meadow's block at `off`: of a confidential meadow it comes on the IDE stream, and
R388 refuses it where the TDI is not in RUN. DESIGN CHOICE, log entry 44. -/
def State.hostRow (s : State) (m off : Nat) (f : State → State) : State :=
  let x := s.meadow m
  if x.state ≠ .absent ∧ s.untrusted x.port x.fn true then s.deny x.port x.fn .bar0 off true true else f s

/-- BAR0 offset of a register of the meadow block (26). -/
def mdwOff (o : Nat) : Nat := 0x20000 + o
/-- BAR0 offset of a register of context `j` (26). -/
def seqOff (j o : Nat) : Nat := mdwOff (0x1000 + 0x80 * j + o)

/-! Opening an epoch (R350, R351). -/

/-- Whether an epoch may open now, the sequencer's own conditions apart (R326, R350, R494, R503, R523). -/
def State.mayOpen (s : State) (m : Nat) : Bool :=
  let x := s.meadow m
  x.state == .ready && x.resident.isSome && !x.frozenBusy && !s.sxt.benched && !x.admitting
    && ((s.meadowCores m).all fun n => !(s.core n).awaitAdmit)
    && (s.meadowBases m).all fun b => !(s.base b).gated && !(s.base b).testing

/-- The step registers of a core (R120). -/
def Core.setSteps (c : Core) (r : StepRegs) : Core :=
  { c with
    stepIndex := r.index, stepT := r.t, stepSigma := r.sigma, stepGuide := r.guide, stepFlags := r.flags,
    frameIndex := r.frame }

/-- The SEQ word of every entry of the collective ring cleared (R374). -/
def State.clearRing (s : State) (m : Nat) : State :=
  (upFrom 0 (2 ^ (s.meadow m).swSize)).foldl
    (fun t i => (t.mwriteAll 2 m ((s.meadow m).swRing + 64 * i) (natToBytes 4 0)).2) s

/-- An epoch opened, in the order of R351, with every queue empty (R336). The ring is cleared before STATE is OPEN, so the opening
epoch's own frozen state does not refuse the clearing. -/
def State.openNow (s : State) (m : Nat) (r : StepRegs) (host : Bool) : State :=
  let t := s.clearRing m
  let t := t.updCores (s.meadowCores m) fun c => { (c.setSteps r).start with rings := [] }
  t.updMeadow m fun x =>
    { x with
      state := .opened, regs := r, openReq := false, replay := false, openedByHost := host, drained := false,
      swSeq := 1, swIdx := 0, swTaken := [], swGot := [], stopFail := 0 }

/-- The step registers of an entry (R272). -/
def entryRegs (e : List Byte) (step : Nat) (frame : Word) : StepRegs :=
  { index := BitVec.ofNat 16 step, t := BitVec.ofNat 32 (fieldNat e 4 4), sigma := BitVec.ofNat 32 (fieldNat e 8 4),
    guide := BitVec.ofNat 32 (fieldNat e 12 4), flags := BitVec.ofNat 32 (fieldNat e 16 4), frame := frame }

/-- Whether the conditions of R271 and R274 for a context's next epoch hold, residency apart: the job is ready (R357). -/
def Seq.willing (q : Seq) : Bool :=
  q.state == .waiting && !q.hold && (q.step != 0 || q.frame.toNat < q.limit.toNat)

/-- Whether a context may open its next epoch: it is willing and the entry has been read (R273). -/
def Seq.mayOpen (q : Seq) : Bool := q.willing && q.entry.isSome

/-- The state that MDW_EPOCHm_STATUS shows: a meadow that start-up or a stream creates is not READY before its ADMITs are
acknowledged (R349, R477). What it shows instead is DESIGN CHOICE, log entry 62. -/
def State.shownState (s : State) (m : Nat) : MState :=
  if (s.meadow m).state = .ready ∧ (s.meadow m).admitting then .absent else (s.meadow m).state

/-- The opening that is due, taken when its conditions hold (R271, R275, R350, R490). -/
def State.tryOpen (s : State) (m : Nat) : State :=
  let x := s.meadow m
  match x.resident with
  | none => s
  | some j =>
    if !s.mayOpen m then s
    else if x.openReq then s.openNow m StepRegs.zero true
    else if x.replay && !x.openedByHost then s.openNow m x.regs false
    else
      let q := x.seq j
      if q.mayOpen then
        (s.updMeadow m (·.updSeq j fun q => { q with state := .running })).openNow m
          (entryRegs (q.entry.getD []) q.step q.frame) false
      else s

/-- Why an OPEN is refused, if it is (R350). -/
def State.openCheck (s : State) (m : Nat) : Option Half :=
  let x := s.meadow m
  match x.resident with
  | none => some Code.epochState
  | some j =>
    if s.shownState m ≠ .ready then some Code.epochState
    else if (x.seq j).state = .running ∨ (x.seq j).state = .waiting then some Code.epochBusy
    else none

/-- An OPEN that was judged, taken or refused (R350). -/
def State.openTake (s : State) (m : Nat) (c : Option Half) : State :=
  match c with
  | some c => s.epochCode m c
  | none => (s.updMeadow m fun x => { x with openReq := true }).tryOpen m

/-- A host write of OPEN (R350). -/
def State.openWrite (s : State) (m : Nat) : State := s.openTake m (s.openCheck m)

/-- OPEN. -/
def execOpen (m : MeadowIx) (s : State) : Out := s.attemptWhole (.hostOpen m) <|
  .next (s.hostRow m (mdwOff 0) fun s => s.openWrite m)

/-- EPOCH_OPEN: the sequencer or the hub opens the next epoch once its conditions hold (R351). -/
def execEpochOpen (m : MeadowIx) (s : State) : Out := s.attemptWhole (.epochOpen m) <| .next (s.tryOpen m)

/-! Job switches (R355 to R361). -/

/-- The job that rotation chooses: the first ready one after the resident (R357 rule 2). -/
def State.nextReady (s : State) (m r : Nat) : Option Nat :=
  let k := (s.meadow m).jobs + 1
  ((upFrom 1 (k - 1)).map fun i => (r + i) % k).find? fun j => j ≠ r && ((s.meadow m).seq j).willing

/-- A switch to `next` begins: the save of the resident job, the load where none is resident (R358, R359).
It works with PROGRAM and SAVE as they stand when it begins (R363). -/
def State.beginSwitch (s : State) (m next : Nat) : State :=
  let x := s.meadow m
  match x.resident with
  | none =>
    s.updMeadow m fun x =>
      { x with
        state := .switching, switchReq := false,
        switchPhase := .loading next x.state (x.seq next).program (x.seq next).save }
  | some r =>
    if r = next then s.updMeadow m fun x => { x with switchReq := false }
    else s.updMeadow m fun x =>
      { x with state := .switching, switchReq := false, switchPhase := .saving next (x.seq r).save }

/-- A SWITCH registered and not yet acted on is acted on when the meadow is READY (R357). -/
def State.readyHook (s : State) (m : Nat) : State :=
  let x := s.meadow m
  if x.state = .ready ∧ x.switchReq then s.beginSwitch m x.nextJob else s

/-- A host write of SWITCH with NEXT_JOB (R357, R359, R361). -/
def State.switchWrite (s : State) (m next : Nat) : State :=
  let x := s.meadow m
  if s.shownState m = .absent ∨ x.jobs < next then s.epochCode m Code.jobRange
  else
    let t := s.updMeadow m fun x => { x with nextJob := next, switchReq := true }
    match x.state with
    | .ready => t.readyHook m
    | .stopped => if x.resident.isNone then t.beginSwitch m next else t
    | _ => t

/-- MDW_EPOCHm_CONTROL written. An OPEN written with a SWITCH is judged as the meadow stands, and waits for the switch (R350,
R357). -/
def State.epochControl (s : State) (m v : Nat) : State :=
  let next := bitsOf v 4 2
  let t := s.updMeadow m fun x => { x with slice := bitsOf v 15 8 }
  let t := if bitOf v 1 then t.switchWrite m next else t.updMeadow m fun x => { x with nextJob := next }
  if bitOf v 0 then t.openTake m (s.openCheck m) else t

/-- SWITCH. -/
def execSwitch (m : MeadowIx) (next : JobIx) (s : State) : Out :=
  .next (s.hostRow m (mdwOff 0) fun s => s.switchWrite m next)

/-- Save-area bytes moved to or from package memory by a core's copy engine, sector by sector. -/
def State.saveSectors (s : State) (n m va : Nat) (deep : Bool) : List Nat → Res Unit
  | [] => (.ok (), s)
  | i :: r =>
    let b := Mem.read (if deep then (s.core n).deep else (s.core n).near) (32 * i) 32
    match s.engWrite n none m (va + 32 * i) b with
    | (.error c, t) => (.error c, t)
    | (.ok _, t) => t.saveSectors n m va deep r

/-- A store loaded from package memory, sector by sector (R356). -/
def State.loadSectors (s : State) (n m va : Nat) (deep : Bool) : List Nat → Res Unit
  | [] => (.ok (), s)
  | i :: r =>
    match s.engRead n m (va + 32 * i) 32 with
    | (.error c, t) => (.error c, t)
    | (.ok b, t) =>
      (t.updCore n fun c => if deep then c.deepWrite (32 * i) b else c.nearWrite (32 * i) b).loadSectors n m va deep r

/-- Sectors of the near and of the deep store. -/
def nearSectors : List Nat := upFrom 0 4096
/-- Sectors of the deep store. -/
def deepSectors : List Nat := upFrom 0 12288

/-- The save of every core, in order of rank: sectors `ns` of its near store and `ds` of its deep store (R355, R356). -/
def State.saveJob (s : State) (m area : Nat) (ns ds : List Nat) : Nat → List Nat → Res Unit
  | _, [] => (.ok (), s)
  | rank, n :: r =>
    let base := area + 2 ^ 19 * rank
    match s.saveSectors n m base false ns with
    | (.error c, t) => (.error c, t)
    | (.ok _, t) =>
      match t.saveSectors n m (base + 2 ^ 17) true ds with
      | (.error c, t) => (.error c, t)
      | (.ok _, t) => t.saveJob m area ns ds (rank + 1) r

/-- A core's read of a range of program or table bytes, 32 bytes at a time at most. -/
def State.engBytes (s : State) (n m : Nat) : Nat → Nat → Nat → Res (List Byte)
  | 0, _, _ => (.ok [], s)
  | fuel + 1, va, k =>
    if k = 0 then (.ok [], s)
    else
      let h := min k (32 - va % 32)
      match s.engRead n m va h with
      | (.error c, t) => (.error c, t)
      | (.ok b, t) =>
        match t.engBytes n m fuel (va + h) (k - h) with
        | (.error c, t) => (.error c, t)
        | (.ok b', t) => (.ok (b ++ b'), t)

/-- A program store filled from bytes, zeros above (R356). -/
def progOf (b : List Byte) : Sparse Dword :=
  (upFrom 0 (b.length / 8)).foldl (fun p i => Sparse.put 0 p i (BitVec.ofNat 64 (fieldNat b (8 * i) 8))) []

/-- The load of every core: sectors `ns` and `ds` of its stores, then its program; the bytes of the programs in order of
rank (R356, R460). -/
def State.loadJob (s : State) (m table area job : Nat) (ns ds : List Nat) : Nat → List Nat → List Byte → Res (List Byte)
  | _, [], acc => (.ok acc, s)
  | rank, n :: r, acc =>
    let base := area + 2 ^ 19 * rank
    match s.loadSectors n m base false ns with
    | (.error _, t) => (.error Code.jobLoad, t)
    | (.ok _, t) =>
      match t.loadSectors n m (base + 2 ^ 17) true ds with
      | (.error _, t) => (.error Code.jobLoad, t)
      | (.ok _, t) =>
        match t.engBytes n m 1 (table + 8 * rank) 8 with
        | (.error _, t) => (.error Code.jobLoad, t)
        | (.ok e, t) =>
          let v := bytesToNat e
          let len := bitsOf v 60 48
          if bitsOf v 47 0 % 64 ≠ 0 ∨ len = 0 ∨ 4096 < len ∨ bitsOf v 63 61 ≠ 0 then (.error Code.jobProgram, t)
          else
            match t.engBytes n m (len / 4 + 1) (bitsOf v 47 0) (8 * len) with
            | (.error _, t) => (.error Code.jobLoad, t)
            | (.ok b, t) =>
              (t.updCore n fun c => { c with prog := progOf b, job := job }).loadJob m table area job ns ds (rank + 1) r (acc ++ b)

/-- The end of a switch: STOPPED where a stop is due, else the state to return to (R359, R361). -/
def State.endSwitch (s : State) (m : Nat) (back : MState) : State :=
  let x := s.meadow m
  if x.stopDue then
    (s.updMeadow m fun x =>
      { x with state := .stopped, stopWas := .ready, stopDue := false, switchPhase := .none }).raiseM m 8
  else (s.updMeadow m fun x => { x with state := back, switchPhase := .none }).readyHook m

/-- Whether Sexton has an ADMIT of its own to be acknowledged for a core of a meadow (R492, R523). -/
def State.admitsDue (s : State) (m : Nat) : Bool :=
  (s.sxt.stemWait ++ s.sxt.stemOut).any fun c => c.op = 4 && c.by_ == .sexton && s.meadowOf (bitsOf c.arg 11 0) == some m

/-- Whether every base tussock of a meadow is ON, and those that returned have been admitted (R523). -/
def State.allOn (s : State) (m : Nat) : Bool :=
  (s.meadowBases m).all (fun b => !(s.base b).gated) && !s.admitsDue m

/-- JOB_SAVE_DONE: the save of the resident job ends, and the load begins (R356, R358, R360). -/
def execJobSaveDone (m : MeadowIx) (s : State) : Out := s.attemptWhole (.jobSaveDone m) <|
  let x := s.meadow m
  .next (if !s.allOn m then s else match x.state, x.switchPhase, x.resident with
    | .switching, .saving next area, some r =>
      match s.saveJob m area nearSectors deepSectors 0 (s.meadowCores m) with
      | (.error _, t) => ((t.epochCode m Code.jobSave).raiseM m 8).endSwitch m .ready
      | (.ok _, t) =>
        t.updMeadow m fun x =>
          { x with
            resident := none, replay := false,
            switchPhase := .loading next .ready (x.seq next).program (x.seq next).save,
            seqs := (x.updSeq r fun q => if q.state = .running then { q with state := .waiting } else q).seqs }
    | _, _, _ => s)

/-- JOB_LOAD_DONE: the load of the next job ends, and with it the switch (R356, R359, R360, R460). -/
def execJobLoadDone (m : MeadowIx) (s : State) : Out := s.attemptWhole (.jobLoadDone m) <|
  let x := s.meadow m
  .next (if !s.allOn m then s else match x.state, x.switchPhase with
  | .switching, .loading next back table area =>
    match s.loadJob m table area next nearSectors deepSectors 0 (s.meadowCores m) [] with
    | (.error c, t) =>
      (t.updMeadow m fun x =>
        { x with
          state := .stopped, stopWas := .ready, code := c, resident := none, switchPhase := .none, stopDue := false }).raiseM m 8
    | (.ok b, t) =>
      (t.updMeadow m fun x =>
        { x with resident := some next, sliceDone := 0, jobHash := Sparse.put 0 x.jobHash next (bytesToBe (sha256 b)) }).endSwitch m back
  | _, _ => s)

/-! The boundary (R352 to R354, R490). -/

/-- Whether a matrix operation waits for a note: a tile note, or a relay's note or acknowledgement (R178, R224). -/
def EngOp.waitsNote (o : EngOp) : Bool := if o.plan.isEmpty then o.isAq && !o.summed && o.stage == .work else o.waits

/-- Whether an engine operation still runs and can end without a message (R354). -/
def EngOp.busy (e : Nat) (o : EngOp) : Bool := o.started && !(e = 1 && o.waitsNote) && !(e = 4 && o.acked)

/-- Whether everything a core began on the mesh, the trunk and in its engines has ended, what it began before a reset in
the epoch included; a copy that has completed by timeout is not waited for (R341, R352 steps 1 and 2, R486). -/
def Core.drained (c : Core) : Bool :=
  c.unacked.all (fun m => m.st == .held)
    && c.rcopies.all (fun r => r.igen == c.gen && [1, 4].all fun e => (c.engq e).all fun o => o.seq ≠ r.seq)
    && [1, 2, 3, 4, 5, 6].all fun e => (c.engq e).all fun o => !o.busy e

/-- Whether a meadow's boundary or drain may complete (R341, R352, R380). -/
def State.meadowDrained (s : State) (m : Nat) : Bool :=
  (s.meadowCores m).all (fun n => (s.core n).drained) && (s.meadow m).swTaken.isEmpty
    && s.hub.unacked.all fun k => k.st == .held || s.meadowOf k.dst != some m

/-- Messages abandoned and entries left unread (R341). -/
def State.leftovers (s : State) (m : Nat) : Nat :=
  ((s.meadowCores m).map fun n =>
      ((s.core n).unacked.filter fun k => k.st == .held).length + ((s.core n).rings.map fun e => e.2.count).sum).sum
    + (s.hub.unacked.filter fun k => s.meadowOf k.dst == some m).length
    + (s.hub.doorbells.filter fun k => s.meadowOf k.dst == some m).length

/-- Step 4 of the boundary: what it clears (R352). A note of the hub's that it abandons is not delivered: the unit that sent it
counts it (R413, R434). -/
def State.boundaryClear (s : State) (m : Nat) : State :=
  let k := s.leftovers m
  let t := (s.hub.unacked ++ s.hub.doorbells).foldl (fun t x => if s.meadowOf x.dst = some m then t.noteDropped x else t) s
  let t := t.updHub fun h =>
    { h with
      unacked := h.unacked.filter fun x => s.meadowOf x.dst != some m,
      doorbells := h.doorbells.filter fun x => s.meadowOf x.dst != some m }
  let t := t.updCores (s.meadowCores m) Core.clear
  let t := t.updBases (s.meadowBases m) Base.clear
  t.updMeadow m fun x => { x with discarded := satInc x.discarded k, drained := true }

/-- Where WATCH records begin a base tussock's stage (R489). -/
def State.firstStage (s : State) (b : Nat) : Nat := Sparse.get 0 s.heath.watchFirst b

/-- The boundary recorded for the sequencer (R271, R352 step 5). -/
def State.recordStep (s : State) (m : Nat) : State :=
  let x := s.meadow m
  match x.resident with
  | none => s
  | some j =>
    let q := x.seq j
    if x.openedByHost ∨ ¬ (q.state = .running ∨ (q.state = .stopped ∧ q.entry.isSome)) then s
    else
      let st : SeqState := if q.state = .running then .waiting else q.state
      if q.step + 1 < q.runSteps then
        s.updMeadow m (·.updSeq j fun q => { q with state := st, step := q.step + 1, entry := q.ahead, ahead := none })
      else
        (s.updMeadow m (·.updSeq j fun q =>
          { q with
            state := st, step := 0, frame := q.frame + 1, framesDone := q.framesDone + 1, entry := none, ahead := none })).raiseM m j

/-- The decision at a boundary's completion (R357, R361). -/
def State.afterBoundary (s : State) (m : Nat) : State :=
  let x := s.meadow m
  if x.stopDue then
    (s.updMeadow m fun x => { x with state := .stopped, stopWas := .ready, stopDue := false }).raiseM m 8
  else
    let t := s.updMeadow m fun x => { x with state := .ready }
    if x.switchReq then t.beginSwitch m x.nextJob
    else match x.resident with
      | none => t
      | some r =>
        let idle := !(x.seq r).willing
        if x.slice ≠ 0 ∧ (x.slice ≤ x.sliceDone ∨ idle) then
          match t.nextReady m r with
          | some j => t.beginSwitch m j
          | none => t
        else t

/-- A repair whose replayed epoch has ended is over (R493 step 7). -/
def State.endRepair (s : State) (m : Nat) : State :=
  if s.sxt.repair.phase = 7 ∧ s.meadowOfBase s.sxt.repair.base = some m then
    s.updSxt fun x => { x with repair := { x.repair with phase := 0 } }
  else s

/-- The replay of a failed and drained epoch begins, or its limit is reached (R490). -/
def State.restartEpoch (s : State) (m : Nat) : State :=
  let t := s.updCores (s.meadowCores m) fun c => { c with stopped := false }
  (t.updMeadow m fun x => { x with state := .ready, replay := true, replayDue := false }).readyHook m

/-- The decision when a failed epoch has drained: the limit ends replays whether AUTO is set or not (R490). -/
def State.decideReplay (s : State) (m : Nat) : State :=
  let x := s.meadow m
  if s.sxt.repair.phase ≠ 0 ∧ s.sxt.repair.phase ≠ 7 ∧ s.meadowOfBase s.sxt.repair.base = some m then s
  else if x.replayDue then s.restartEpoch m
  else if x.attempts < x.limit then (if x.auto then s.restartEpoch m else s)
  else if x.code = Code.replayLimit then s
  else (s.updMeadow m fun x => { x with code := Code.replayLimit }).raiseM m 8

/-- A meadow's boundary, or the drain of its failed epoch, ends where it may (R352, R354, R490). -/
def State.drainEnd (s : State) (m : Nat) : State :=
  let x := s.meadow m
  if !s.meadowDrained m then s
  else match x.state with
    | .boundary =>
      let t := s.boundaryClear m
      let t := t.updMeadow m fun x =>
        { x with count := x.count + 1, attempts := 0, sliceDone := x.sliceDone + 1 }
      let t := (s.meadowBases m).foldl (fun u b => u.updBase b fun y => { y with stage := u.firstStage b }) t
      ((t.recordStep m).endRepair m).afterBoundary m
    | .failed => if x.drained then s else (s.boundaryClear m).decideReplay m
    | .stopped =>
      if !x.drained ∧ (x.stopWas = .failed ∨ (x.stopWas = .opened ∧ x.stopFail ≠ 0)) then s.boundaryClear m else s
    | _ => s

/-- BOUNDARY_DRAINED: the boundary's clears and count, or the end of a failed epoch's drain (R352, R354, R490). -/
def execBoundaryDrained (m : MeadowIx) (s : State) : Out := .next (s.drainEnd m)

/-! The step sequencer (R271 to R277). -/

/-- START of a context, by the state it is in (R277). -/
def State.seqStart (s : State) (m j : Nat) : State :=
  let q := (s.meadow m).seq j
  let refuse (c : Half) : State :=
    (s.updMeadow m (·.updSeq j fun q => { q with code := c })).refuseWrite (s.meadow m).port (s.meadow m).fn c (seqOff j 8)
  if q.state = .running ∨ q.state = .waiting then refuse Code.seqBusy
  else if q.steps = 0 ∨ 4096 < q.steps ∨ q.schedule % 64 ≠ 0 then refuse Code.seqSetup
  else s.updMeadow m (·.updSeq j fun q =>
    { q with
      state := .waiting, step := 0, frame := q.first, framesDone := 0, code := Code.ok, runSchedule := q.schedule,
      runSteps := q.steps, entry := none, ahead := none })

/-- SEQ_START. -/
def execSeqStart (m : MeadowIx) (j : JobIx) (s : State) : Out :=
  .next (if (s.meadow m).state = .absent then s else s.hostRow m (seqOff j 8) fun s => s.seqStart m j)

/-- An entry read for step `i` of a context: its bytes, or the code that stops the context (R272, R273). -/
def State.readEntry (s : State) (m j i : Nat) : Except Half (List Byte) × State :=
  match s.mreadAll m (((s.meadow m).seq j).runSchedule + 64 * i) 64 with
  | (.error _, t) => (.error Code.seqScheduleRead, t)
  | (.ok b, t) =>
    if fieldNat b 0 2 ≠ i ∨ !fieldZero b 2 2 ∨ !fieldZero b 20 44 then (.error Code.seqEntry, t) else (.ok b, t)

/-- SCHEDULE_READ: a context reads the entry of the step it waits for, or of the step after the one that runs (R273). -/
def execScheduleRead (m : MeadowIx) (j : JobIx) (s : State) : Out := s.attemptWhole (.scheduleRead m j) <|
  let q := (s.meadow m).seq j
  let stop (t : State) (c : Half) : State := t.updMeadow m (·.updSeq j fun q => { q with state := .stopped, code := c })
  .next (if q.state = .waiting ∧ q.entry.isNone then
      match s.readEntry m j q.step with
      | (.error c, t) => stop t c
      | (.ok b, t) => t.updMeadow m (·.updSeq j fun q => { q with entry := some b })
    else if q.state = .running ∧ q.ahead.isNone ∧ q.step + 1 < q.runSteps then
      match s.readEntry m j (q.step + 1) with
      | (.error c, t) => stop t c
      | (.ok b, t) => t.updMeadow m (·.updSeq j fun q => { q with ahead := some b })
    else s)

/-- STALL_CLEAR: every stall counter of every core of the meadow cleared (R302). -/
def execStallClear (m : MeadowIx) (s : State) : Out :=
  .next (s.hostRow m (mdwOff 0x90) fun s => s.updCores (s.meadowCores m) fun c => { c with stalls := [] })

end Sys2Proof.Machine
end

