-- ==== Sys2Proof/Machine/Hss.lean ====
section
/-!
DEFINITION. Verification and making of HSS signatures with SHA-256 (R48, R454, R456, R458, R461, R464).
The scheme is RFC 8554's, which the manual names and does not restate: PRESUMED, log entry 13.
-/

namespace Sys2Proof

/-- The parameters of a one-time signature: bits of a digit, and how many digits make a signature. -/
structure OtsKind where
  bits : Nat
  digits : Nat
deriving DecidableEq, Repr

/-- The one-time parameter sets of R458, by type code. -/
def otsKind : Nat → Option OtsKind
  | 3 => some ⟨4, 67⟩
  | 4 => some ⟨8, 34⟩
  | _ => none

/-- The heights of the tree parameter sets of R458, by type code. -/
def lmsHeight : Nat → Option Nat
  | 6 => some 10
  | 7 => some 15
  | 8 => some 20
  | _ => none

/-- Digit `i` of a string of `w`-bit digits, the first digit highest. -/
def otsDigit (w : Nat) (q : List Byte) (i : Nat) : Nat :=
  ((q.getD (i * w / 8) 0).toNat >>> (8 - w - i * w % 8)) % 2 ^ w

/-- The message hash with the checksum of its digits behind it; the checksum fills two bytes from the top. -/
def otsString (w : Nat) (q : List Byte) : List Byte :=
  let sum := ((upFrom 0 (256 / w)).map fun i => 2 ^ w - 1 - otsDigit w q i).sum
  q ++ natToBe 2 (if w = 4 then 2 ^ 4 * sum else sum)

/-- A chain of `n` hashes from step `j`. -/
def otsChain (pre : List Byte) : Nat → Nat → List Byte → List Byte
  | 0, _, y => y
  | n + 1, j, y => otsChain pre n (j + 1) (sha256 (pre ++ natToBe 1 j ++ y))

/-- The public key that a one-time signature `y` of a message gives at leaf `q` of the tree named `id`. -/
def otsKey (k : OtsKind) (id : List Byte) (q : Nat) (c y msg : List Byte) : List Byte :=
  let u := id ++ natToBe 4 q
  let v := otsString k.bits (sha256 (u ++ [0x81, 0x81] ++ c ++ msg))
  let z := (upFrom 0 k.digits).flatMap fun i =>
    let a := otsDigit k.bits v i
    otsChain (u ++ natToBe 2 i) (2 ^ k.bits - 1 - a) a (sliceBytes y (32 * i) 32)
  sha256 (u ++ [0x80, 0x80] ++ z)

/-- The root that a path leads to from node `n`. -/
def lmsRoot (id : List Byte) : Nat → Nat → List Byte → List Byte → List Byte
  | 0, _, t, _ => t
  | h + 1, n, t, path =>
    let p := path.take 32
    let pair := if n % 2 = 1 then p ++ t else t ++ p
    lmsRoot id h (n / 2) (sha256 (id ++ natToBe 4 (n / 2) ++ [0x83, 0x83] ++ pair)) (path.drop 32)

/-- Bytes of a public key of one tree: its types, its name and its root. -/
def lmsKeyBytes : Nat := 56

/-- Bytes of a signature of one tree, from the public key that it is under; none where R458 does not accept the types. -/
def lmsSigBytes (key : List Byte) : Option Nat :=
  match lmsHeight (bytesToBe (sliceBytes key 0 4)), otsKind (bytesToBe (sliceBytes key 4 4)) with
  | some h, some k => some (12 + 32 * (k.digits + 1 + h))
  | _, _ => none

/-- Whether a signature of one tree verifies. -/
def lmsVerify (key sig msg : List Byte) : Bool :=
  let ty := bytesToBe (sliceBytes key 0 4)
  let ots := bytesToBe (sliceBytes key 4 4)
  match lmsHeight ty, otsKind ots with
  | some h, some k =>
    let q := bytesToBe (sliceBytes sig 0 4)
    let at_ := 40 + 32 * k.digits
    let id := sliceBytes key 8 16
    let leaf := sha256 (id ++ natToBe 4 (2 ^ h + q) ++ [0x82, 0x82]
      ++ otsKey k id q (sliceBytes sig 8 32) (sliceBytes sig 40 (32 * k.digits)) msg)
    key.length == lmsKeyBytes && some sig.length == lmsSigBytes key && bytesToBe (sliceBytes sig 4 4) == ots
      && bytesToBe (sliceBytes sig at_ 4) == ty && decide (q < 2 ^ h)
      && lmsRoot id h (2 ^ h + q) leaf (sig.drop (at_ + 4)) == sliceBytes key 24 32
  | _, _ => false

/-- The levels of a signature below the first key: `n` signed public keys, then the signature of the message. -/
def hssLevels : Nat → List Byte → List Byte → List Byte → Bool
  | 0, key, sig, msg => lmsVerify key sig msg
  | n + 1, key, sig, msg =>
    match lmsSigBytes key with
    | none => false
    | some k =>
      let next := sliceBytes sig k lmsKeyBytes
      lmsVerify key (sig.take k) next && hssLevels n next (sig.drop (k + lmsKeyBytes)) msg

/-- Whether a signature verifies under a 60-byte public key with one or two levels (R458). -/
def hssVerify (key sig msg : List Byte) : Bool :=
  let l := bytesToBe (sliceBytes key 0 4)
  key.length == 60 && (l == 1 || l == 2) && bytesToBe (sliceBytes sig 0 4) + 1 == l
    && hssLevels (l - 1) (key.drop 4) (sig.drop 4) msg

/-! Making signatures (R456). One-time keys follow from a tree's seed as RFC 8554's Appendix A has it: PRESUMED, log entry 13. -/

/-- A tree that signs: its parameter sets by type code, its name and its seed. -/
structure LmsTree where
  ots : Nat
  lms : Nat
  id : List Byte
  seed : List Byte
deriving DecidableEq, Repr

/-- The level-1 tree's parameter sets (R456). -/
def LmsTree.level1 (id seed : List Byte) : LmsTree := ⟨3, 7, id, seed⟩
/-- The level-2 tree's parameter sets (R456). -/
def LmsTree.level2 (id seed : List Byte) : LmsTree := ⟨3, 6, id, seed⟩

/-- The one-time parameters and the height of a tree. -/
def LmsTree.kind (t : LmsTree) : OtsKind × Nat := ((otsKind t.ots).getD ⟨4, 67⟩, (lmsHeight t.lms).getD 10)

/-- Element `i` of the private one-time key of leaf `q`. -/
def LmsTree.otsPart (t : LmsTree) (q i : Nat) : List Byte := sha256 (t.id ++ natToBe 4 q ++ natToBe 2 i ++ [0xFF] ++ t.seed)

/-- The public one-time key of leaf `q`. -/
def LmsTree.otsPublic (t : LmsTree) (q : Nat) : List Byte :=
  let k := t.kind.1
  let u := t.id ++ natToBe 4 q
  sha256 (u ++ [0x80, 0x80]
    ++ (upFrom 0 k.digits).flatMap fun i => otsChain (u ++ natToBe 2 i) (2 ^ k.bits - 1) 0 (t.otsPart q i))

/-- Node `r` of a tree, `l` levels above the leaves. -/
def LmsTree.node (t : LmsTree) : Nat → Nat → List Byte
  | 0, r => sha256 (t.id ++ natToBe 4 r ++ [0x82, 0x82] ++ t.otsPublic (r - 2 ^ t.kind.2))
  | l + 1, r => sha256 (t.id ++ natToBe 4 r ++ [0x83, 0x83] ++ t.node l (2 * r) ++ t.node l (2 * r + 1))

/-- A tree's public key, of `lmsKeyBytes` bytes. -/
def LmsTree.key (t : LmsTree) : List Byte := natToBe 4 t.lms ++ natToBe 4 t.ots ++ t.id ++ t.node t.kind.2 1

/-- A tree's signature of a message with leaf `q`, under the randomizer `c`. -/
def LmsTree.sign (t : LmsTree) (q : Nat) (c msg : List Byte) : List Byte :=
  let (k, h) := t.kind
  let u := t.id ++ natToBe 4 q
  let v := otsString k.bits (sha256 (u ++ [0x81, 0x81] ++ c ++ msg))
  natToBe 4 q ++ natToBe 4 t.ots ++ c
    ++ (upFrom 0 k.digits).flatMap (fun i => otsChain (u ++ natToBe 2 i) (otsDigit k.bits v i) 0 (t.otsPart q i))
    ++ natToBe 4 t.lms
    ++ (upFrom 0 h).flatMap fun l => t.node l (((2 ^ h + q) / 2 ^ l) ^^^ 1)

/-- The public key of a two-level identity whose first tree is `t`. -/
def hssKey (t : LmsTree) : List Byte := natToBe 4 2 ++ t.key

end Sys2Proof
end

