-- ==== Sys2Proof/Machine/Life.lean ====
section
/-!
DEFINITION. The life cycle, the guard state in force and key slots (21 R450 to R453, R457, R462).
-/

namespace Sys2Proof.Machine

open Sys2Proof

/-- Life-cycle states (R450). -/
inductive Life where | blank | vendorTest | provisioned | owned | retired
deriving DecidableEq, Repr

/-- The number of a state, as SXT_STATE and attestation give it. -/
def Life.num : Life → Nat
  | .blank => 0 | .vendorTest => 1 | .provisioned => 2 | .owned => 3 | .retired => 4

/-- Whether a state of the life cycle has an identity (R448, R456, R457). -/
def Life.identified : Life → Bool
  | .provisioned | .owned | .retired => true
  | _ => false

/-- The number of set bits of LIFE_CYCLE. -/
def lcCount (b : Dword) : Nat := ((List.range 64).filter fun i => b.getLsbD i).length
/-- Whether the set bits are contiguous from bit 0. -/
def lcWhole (b : Dword) : Bool := b.toNat == 2 ^ lcCount b - 1

/-- The state that LIFE_CYCLE gives (R450). -/
def lifeOf (b : Dword) : Life :=
  let p := lcCount b
  if !lcWhole b ∨ p = 64 then .retired
  else if p = 0 then .blank
  else match (p - 1) % 4 with
    | 0 => .vendorTest
    | 1 => .provisioned
    | 2 => .owned
    | _ => .retired

/-- The life-cycle state. -/
def State.life (s : State) : Life := lifeOf s.sxt.lcBits

/-- One LIFE_CYCLE bit burned (R450). -/
def State.burnLife (s : State) : State :=
  s.updSxt fun x => { x with lcBits := x.lcBits ||| BitVec.ofNat 64 (2 ^ lcCount x.lcBits) }

/-- The guard state in force: the last journal entry that is valid (R453). -/
def State.guard (s : State) : Guard := match (s.sxt.journal.filter (·.valid)).getLast? with | some e => e.guard | none => Guard.zero

/-- Whether keys are registered (R452). -/
def State.keyed (s : State) : Bool := s.life == .owned || s.life == .retired

/-- DEBUG_UNLOCK and FIELD_BIST in force: the journal's, or until the next cold start those of a stream taken in VENDOR_TEST
(R47, R453). -/
def State.flags (s : State) : Bool × Bool := s.sxt.vtFlags.getD (s.guard.debug, s.guard.bist)

/-- The serial floor in force (R49, R453). -/
def State.floor (s : State) : Nat := s.guard.floor

/-- A journal entry written (R453). -/
def State.journal (s : State) (g : Guard) : State := s.updSxt fun x => { x with journal := x.journal ++ [⟨g, true⟩] }

/-- Whether the Owner's and the Steward's signatures of a message verify against the keys in force (R46, R48, R458, R465). -/
def State.bothSign (s : State) (owner steward msg : List Byte) : Bool :=
  hssVerify s.guard.owner owner msg && hssVerify s.guard.steward steward msg

/-- Whether Gnoellia's signature of a message verifies (R454, R465). -/
def State.gnoelliaSigns (s : State) (sig msg : List Byte) : Bool := hssVerify s.sxt.romKey sig msg

/-- A key slot filled with a fresh random key (R57, R462). -/
def State.freshKey (s : State) (slot : Nat) : State :=
  let (n, t) := s.fresh
  t.updPkg fun p => { p with keys := Sparse.put (.random 0) p.keys slot (.random (n + 1)) }

/-- A number of 128 bits from the random number generator. -/
def State.random128 (s : State) : Nat × State :=
  let (b, t) := s.freeBytes 16
  (bytesToNat b, t)

/-- Bytes of an identity signature (R456). -/
def sigBytes : Nat := 5236

/-- The level-1 tree of the identity, which DEVICE_SECRET gives (R456). -/
def identityTree : LmsTree :=
  .level1 (natToBe 16 Config.identityName.toNat) (natToBe 32 Config.identitySeed.toNat)

/-- A fresh level-2 tree, its root signed with leaf `i` of level 1; randomness is the random number generator's (R456). -/
def State.freshTree (s : State) (i : Nat) : State :=
  let (name, s) := s.freeBytes 16
  let (seed, s) := s.freeBytes 32
  let (c, s) := s.freeBytes 32
  let key := (LmsTree.level2 name seed).key
  s.updSxt fun x => { x with idTree := some ⟨name, seed, key, identityTree.sign i c key⟩ }

/-- The identity's signature of a message, which uses one of level 2, or the code that says there is none: the level-1 leaf's
signature of the level-2 key, that key, and the next one-time key's signature (R456, R457). -/
def State.identitySign (s : State) (msg : List Byte) : Except Half (List Byte × State) :=
  match s.sxt.bootLeaf, s.sxt.idTree with
  | some _, some t =>
    if !s.life.identified then .error Code.attNoIdentity
    else if s.sxt.sigsLeft = 0 then .error Code.attSigs
    else
      let (c, u) := s.freeBytes 32
      .ok (natToBe 4 1 ++ t.signed ++ t.key ++ (LmsTree.level2 t.name t.seed).sign (1024 - s.sxt.sigsLeft) c msg,
        u.updSxt fun x => { x with sigsLeft := x.sigsLeft - 1 })
  | _, _ => .error Code.attNoIdentity

/-- Thirty-two zero bytes. -/
def zero32 : List Byte := List.replicate 32 0

/-- The digest of a registered key; zero where no key is registered. -/
def keyDigest (keyed : Bool) (k : List Byte) : List Byte := if keyed && !k.isEmpty then sha256 k else zero32

/-- Bytes 0 to 2,111 of a report (R459). -/
def State.report (s : State) (b weights : List Byte) : List Byte :=
  let q := fieldNat b 32 1
  let m := s.meadow q
  let dev := q = 0xFF
  let (dbg, bist) := s.flags
  let flags := dbg.toNat + 2 * bist.toNat + 4 * (!dev && m.confidential).toNat
  let g := s.guard
  natToBytes 4 0x31545441 ++ natToBytes 2 1 ++ natToBytes 1 s.life.num ++ natToBytes 1 q ++ natToBytes 16 s.sxt.deviceId
    ++ natToBytes 1 s.sxt.svn ++ natToBytes 1 flags ++ natToBytes 2 0 ++ natToBytes 4 (s.sxt.bootLeaf.getD 0)
    ++ sliceBytes b 0 32 ++ sliceBytes s.sxt.fwHash 0 32 ++ sliceBytes s.qorf.fullDigest 0 32 ++ sliceBytes s.qorf.partials 0 32
    ++ natToBytes 4 s.floor ++ natToBytes 4 s.qorf.serial.toNat ++ keyDigest s.keyed g.owner ++ keyDigest s.keyed g.steward
    ++ natToBytes 16 (if dev then 0 else m.seed) ++ natToBytes 8 0
    ++ (upFrom 0 8).flatMap (fun j => if dev then zero32 else natToBe 32 (Sparse.get 0 m.jobHash j))
    ++ sliceBytes weights 0 32 ++ (upFrom s.sxt.kem 1568).map Config.freeByte

/-- Bytes of a report (R459). -/
def reportBytes : Nat := 7348

end Sys2Proof.Machine
end

