-- ==== Sys2Proof/Machine/Stream.lean ====
section
/-!
DEFINITION. Qorf streams: framing, record checks and the effect of each record on the settings (02 R37 to R62, R535).
-/

namespace Sys2Proof.Machine

open Sys2Proof

/-- A record: its type, the index of its header word and its payload words (R38). -/
structure QRec where
  ty : Nat
  pos : Nat
  pay : List Nat
deriving DecidableEq, Repr

/-- Payload word `i`. -/
def QRec.w (r : QRec) (i : Nat) : Nat := r.pay.getD i 0
/-- Bits of payload word `i`. -/
def QRec.bits (r : QRec) (i hi lo : Nat) : Nat := bitsOf (r.w i) hi lo

/-- A refusal: its code and the word at fault (R63). -/
abbrev QErr := Half × Nat

/-- The first check that fails. -/
def firstBad : List (Bool × QErr) → Option QErr
  | [] => none
  | (ok, e) :: r => if ok then firstBad r else some e

/-- The words of a byte list (R37). -/
def wordsOf : Nat → List Byte → List Nat
  | 0, _ => []
  | n + 1, b => bytesToNat (b.take 4) :: wordsOf n (b.drop 4)

/-- The walk over the records from word 8 (R38, R52). Where no record has been walked, the word at fault is word 7, which the
rule does not name: DESIGN CHOICE, log entry 64. -/
def qWalk (ws : List Nat) (len : Nat) : Nat → Nat → Nat → List QRec → Except QErr (List QRec)
  | 0, _, prev, _ => .error (Code.qRecordOrder, prev)
  | fuel + 1, pos, prev, acc =>
    if len ≤ pos then .error (Code.qRecordOrder, prev)
    else
      let h := ws.getD pos 0
      let ty := h % 2 ^ 16
      let n := h / 2 ^ 16 % 2 ^ 16
      let next := pos + n + 1
      if len < next then .error (Code.qRecordLength, pos)
      else
        let r : QRec := ⟨ty, pos, (ws.drop (pos + 1)).take n⟩
        if ty = 0xFFFE then
          if next = len then .ok (acc ++ [r]) else .error (Code.qRecordOrder, next)
        else if ty = 0xFFFD ∧ (len ≤ next ∨ ws.getD next 0 % 2 ^ 16 ≠ 0xFFFE) then .error (Code.qRecordOrder, pos)
        else qWalk ws len fuel next pos (acc ++ [r])

/-- The code of a part (R37). -/
def Part.code : Part → Nat | .m4l2 => 1 | .m5l1 => 2 | .m6 => 3
/-- Swarm ports of a part (00). -/
def Part.swarmPorts : Part → Nat | .m4l2 => 12 | .m5l1 => 9 | .m6 => 6
/-- Maximum package power of a part in watts (00). -/
def Part.watts : Part → Nat | .m4l2 => 1200 | .m5l1 => 1250 | .m6 => 1300

/-- Usable capacity of a part in a parity mode (R308). -/
def Part.capacity (p : Part) (parity : Bool) : Nat := (if parity then 48 * (p.stacks - 1) else 48 * p.stacks) * 2 ^ 30

/-- The header and framing, step 1 of R63. `n` is the delivered length in words. A LENGTH below the header's own 8 words gives
ST_QORF_LENGTH at word 2, a case the rule does not name: DESIGN CHOICE, log entry 64. -/
def qFraming (p : Part) (ws : List Nat) (n : Nat) : Except QErr (List QRec) :=
  let w (i : Nat) : Nat := ws.getD i 0
  let full := !bitOf (w 1) 16
  match firstBad
      [ (w 0 == 0x46524F51, (Code.qMagic, 0)),
        (bitsOf (w 1) 15 0 == 0x0100, (Code.qVersion, 1)),
        (bitsOf (w 1) 31 17 == 0, (Code.qReserved, 1)),
        (w 2 == n && n ≤ 262144 && 8 ≤ n, (Code.qLength, 2)),
        (bitsOf (w 3) 15 0 == p.code, (Code.qPart, 3)),
        (bitsOf (w 3) 31 16 == 0, (Code.qReserved, 3)),
        (!full || (w 6 == 2 ^ 32 - 1 && w 7 == 2 ^ 32 - 1), (Code.qFieldRange, 6)) ] with
  | some e => .error e
  | none => qWalk ws n (n + 1) 8 7 []

/-! Records of tussocks (R21 to R24, R55). -/

/-- The tussock a TUSSOCK record defines. -/
def QRec.tussock (r : QRec) : Tussock :=
  let n := r.bits 2 15 0
  { id := r.bits 0 15 0, i0 := r.bits 1 3 0, j0 := r.bits 1 7 4, h := r.bits 1 11 8 + 1 - r.bits 1 3 0,
    w := r.bits 1 15 12 + 1 - r.bits 1 7 4,
    kids := (upFrom 0 n).map fun k => r.w (3 + k / 2) / 2 ^ (16 * (k % 2)) % 2 ^ 16 }

/-- A tussock defined, in place of an earlier definition. -/
def putTussock (l : List Tussock) (t : Tussock) : List Tussock := l.filter (fun x => x.id ≠ t.id) ++ [t]

/-- Depth of a tussock down to a core, both ends counted (R24); past `fuel` it exceeds every limit. -/
def tusDepth (l : List Tussock) : Nat → Nat → Nat
  | 0, _ => 100
  | fuel + 1, id =>
    if id < 4096 then 1
    else if id ≤ 0x10FF then 2
    else match l.find? (·.id = id) with
      | none => 100
      | some t => 1 + (t.kids.map (tusDepth l fuel)).foldl max 0

/-- Whether a tussock's children tile its rectangle (R22). -/
def State.tiles (s : State) (t : Tussock) : Bool :=
  let own := rectBases (t.i0, t.j0, t.h, t.w)
  let kids := t.kids.flatMap fun k => (s.basesOf k).getD []
  kids.length == own.length && own.all kids.contains

/-- Whether an identifier names a tussock in the settings (R21). -/
def State.hasTussock (s : State) (id : Nat) : Bool := id < 4096 || (s.rect id).isSome

/-- Whether a tussock is top-level (R23). -/
def State.isTop (s : State) (id : Nat) : Bool :=
  (s.rect id).isSome && s.heath.tussocks.all fun t => !t.kids.contains id

/-! Field checks of one record: a Boolean, a code and the payload word (R12, R52). -/

/-- A reserved field is zero. -/
def rsv (r : QRec) (i hi lo : Nat) : Bool × QErr := (r.bits i hi lo == 0, (Code.qReserved, r.pos + 1 + i))
/-- A field lies in its range. -/
def rng (r : QRec) (i : Nat) (ok : Bool) : Bool × QErr := (ok, (Code.qFieldRange, r.pos + 1 + i))

/-- The LENGTH a type requires (R50, R52). -/
def QRec.lengthOk (r : QRec) : Bool :=
  let n := r.pay.length
  match r.ty with
  | 1 | 7 | 8 | 11 | 12 => n == 2
  | 2 => n == 17
  | 3 => 3 ≤ n && n == 3 + (r.bits 2 15 0 + 1) / 2
  | 4 | 5 => n == 8
  | 6 | 10 => n == 1
  | 9 => n == 4
  | 13 => n == 33
  | 0xFFFD => 1 ≤ n && n == 1 + (r.bits 0 15 0 + 3) / 4 + (r.bits 0 31 16 + 3) / 4
  | 0xFFFE => n == 8
  | _ => true

/-- Whether the type exists (R50). -/
def QRec.known (r : QRec) : Bool := (1 ≤ r.ty && r.ty ≤ 13) || r.ty == 0xFFFD || r.ty == 0xFFFE

/-- The object of a record whose second record is refused (R51). -/
def QRec.object (r : QRec) : Option (Nat × Nat) :=
  match r.ty with
  | 2 => some (2, r.bits 0 5 0)
  | 3 => some (3, r.bits 0 15 0)
  | 4 => some (4, r.bits 0 5 0)
  | 5 => some (5, r.bits 0 11 0)
  | 6 => some (6, r.bits 0 13 0)
  | 8 => some (8, r.bits 0 3 0)
  | 9 => some (9, 0)
  | 10 => some (10, r.bits 0 2 0)
  | 13 => some (13, 0)
  | _ => none

/-- The 64 columns of a COREMAP record. -/
def QRec.columns (r : QRec) : List Nat := (upFrom 0 64).map fun c => bitsOf (r.w (1 + c / 4)) (8 * (c % 4) + 6) (8 * (c % 4))

/-- The word of the first entry of a COREMAP record that repeats a column or names a failed site (R54). -/
def coremapBad (s : State) (row : Nat) : Nat → List Nat → List Nat → Option Nat
  | _, _, [] => none
  | c, seen, p :: r =>
    if seen.contains p ∨ Sparse.get false s.heath.failed (66 * row + p) then some (c / 4)
    else coremapBad s row (c + 1) (p :: seen) r

/-- The value of a signed byte. -/
def signedByte (n : Nat) : Int := signedOf 8 n

/-- What a record check needs besides the record: the state in force, the candidate settings, and the stream. -/
structure QCtx where
  old : State
  full : Bool
  scope : Nat
  /-- Identifiers a child may name so far. -/
  ids : List Nat
  /-- STACK_PARITY of the stream's first REGION record. -/
  parity : Bool
deriving Repr

/-- Whether a core lies in a meadow of SCOPE, in a settings. -/
def State.inScope (s : State) (scope n : Nat) : Bool :=
  match s.meadowOf n with
  | some m => bitOf scope m
  | none => false

/-- The logical core of a site, if the core map uses it. -/
def State.coreAtSite (s : State) (site : Nat) : Option Nat :=
  (upFrom (64 * (site / 66)) 64).find? fun n => s.column n = site % 66

/-- The fields of a record, in order (R53 to R62). `t` holds the settings so far. DESIGN CHOICE, log entry 64: in a partial stream
a ROUTE site or a CODEC pipe outside SCOPE gives ST_QORF_SCOPE here, and a pipe that no meadow owns may be taken (R50); a record
that names an undefined tussock, and a key word that is not zero where its SET is 0, give ST_QORF_FIELD_RANGE (R52). -/
def qFields (x : QCtx) (t : State) (r : QRec) : List (Bool × QErr) :=
  match r.ty with
  | 1 =>
    let id := r.bits 0 31 16
    let vm := signedByte (r.bits 1 23 16)
    [ rng r 0 (r.bits 0 1 0 ≤ 1), rsv r 0 15 2, (x.full || r.bits 0 1 0 == 0, (Code.qKind, r.pos + 1)),
      rng r 0 (t.hasTussock id), rng r 1 (200 ≤ r.bits 1 15 0 && r.bits 1 15 0 ≤ 650),
      rng r 1 (-50 ≤ vm && vm ≤ 50 && (4096 ≤ id || vm == 0)), rsv r 1 31 24 ]
  | 2 =>
    let row := r.bits 0 5 0
    [ rsv r 0 31 6 ]
    ++ (upFrom 0 64).flatMap (fun c =>
      [ rsv r (1 + c / 4) (8 * (c % 4) + 7) (8 * (c % 4) + 7), rng r (1 + c / 4) (r.columns.getD c 0 ≤ 65) ])
    ++ [ match coremapBad x.old row 0 [] r.columns with
         | some i => (false, (Code.qCoremap, r.pos + 2 + i))
         | none => (true, (Code.qCoremap, r.pos)) ]
  | 3 =>
    let n := r.bits 2 15 0
    [ rng r 0 (0x1100 ≤ r.bits 0 15 0 && r.bits 0 15 0 ≤ 0xFFFE), rsv r 0 31 16,
      rng r 1 (r.bits 1 3 0 ≤ r.bits 1 11 8 && r.bits 1 7 4 ≤ r.bits 1 15 12), rsv r 1 31 16,
      rng r 2 (1 ≤ n && n ≤ 256), rsv r 2 31 16 ]
    ++ (upFrom 0 n).flatMap (fun k =>
      let c := r.tussock.kids.getD k 0
      [ rng r (3 + k / 2) (0x1000 ≤ c && c ≤ 0xFFFE),
        (c ≤ 0x10FF || x.ids.contains c, (Code.qTussock, r.pos + 4 + k / 2)) ])
    ++ [ rng r (3 + n / 2) (n % 2 == 0 || r.bits (3 + n / 2) 31 16 == 0xFFFF) ]
  | 4 =>
    let top := r.bits 0 31 16
    [ rsv r 0 15 6, rng r 0 (0x1000 ≤ top && (!x.full || top != 0xFFFF)),
      (top == 0xFFFF || t.isTop top, (Code.qTussock, r.pos + 1)),
      rsv r 1 7 6, rsv r 1 15 14, rsv r 1 23 19, rsv r 1 31 25, rng r 2 (r.bits 2 11 0 == 0) ]
  | 5 =>
    let base := r.w 1 + r.w 2 * 2 ^ 32
    let size := r.w 3 + r.w 4 * 2 ^ 32
    let par := bitOf (r.w 0) 16
    let failed := x.old.failedStacks
    [ rsv r 0 15 12, (par == (if x.full then x.parity else x.old.pkg.parity), (Code.qParity, r.pos + 1)),
      (!x.full || (if par then failed ≤ 1 else failed == 0), (Code.qParity, r.pos + 1)), rsv r 0 31 17,
      (base % 2 ^ 21 == 0, (Code.qRegion, r.pos + 2)), rng r 3 (size != 0), (size % 2 ^ 21 == 0, (Code.qRegion, r.pos + 4)),
      (base + size ≤ x.old.part.capacity par - 2 ^ 30, (Code.qRegion, r.pos + 2)), rsv r 5 31 6 ]
  | 6 =>
    let net := bitOf (r.w 0) 13
    let node := r.bits 0 12 0
    [ rng r 0 (if net then node ≤ 255 else node ≤ 4223), (x.full || !net, (Code.qKind, r.pos + 1)),
      rsv r 0 15 14, rsv r 0 31 20,
      (x.full || (t.coreAtSite node).toList.any (fun n => t.inScope x.scope n || x.old.inScope x.scope n)
          || (x.old.coreAtSite node).toList.any (fun n => t.inScope x.scope n || x.old.inScope x.scope n),
        (Code.qScope, r.pos + 1)) ]
  | 7 =>
    [ rng r 0 (t.hasTussock (r.bits 0 15 0)), rsv r 0 31 19, rng r 1 (4 ≤ r.bits 1 8 0 && r.bits 1 8 0 ≤ 256),
      rsv r 1 15 9, rsv r 1 31 27 ]
  | 8 =>
    [ (r.bits 0 3 0 < x.old.part.swarmPorts, (Code.qAbsent, r.pos + 1)), rng r 0 (r.bits 0 6 5 ≤ 2), rng r 0 (r.bits 0 9 8 ≤ 2),
      rng r 0 (1 ≤ r.bits 0 13 10 && r.bits 0 13 10 ≤ 8), rsv r 0 31 14, rsv r 1 31 10 ]
  | 9 => [ rng r 0 (r.bits 0 5 4 ≤ 2), rsv r 0 31 12, rsv r 1 31 12 ]
  | 10 =>
    let pipe := r.bits 0 2 0
    let owner := Sparse.get none x.old.heath.codec pipe
    [ (pipe ≤ 5, (Code.qAbsent, r.pos + 1)), rsv r 0 7 3, rsv r 0 31 15,
      (x.full || (bitOf x.scope (r.bits 0 13 8) && (match owner with | some m => bitOf x.scope m | none => true)),
        (Code.qScope, r.pos + 1)) ]
  | 11 =>
    [ rng r 0 (4096 ≤ r.bits 0 15 0 && t.hasTussock (r.bits 0 15 0)), rsv r 0 31 16,
      rng r 1 (24 ≤ r.bits 1 5 0 && r.bits 1 5 0 ≤ 36), rsv r 1 7 6, rng r 1 (r.bits 1 9 8 ≤ 2), rsv r 1 31 10 ]
  | 12 =>
    let k := r.bits 0 1 0
    [ rng r 0 (k ≤ 1), (x.full || k == 1, (Code.qKind, r.pos + 1)), rsv r 0 15 2,
      rng r 0 (if k = 0 then r.bits 0 31 16 == 0xFFFF else t.hasTussock (r.bits 0 31 16)),
      rng r 1 (k ≠ 0 || (400 ≤ r.bits 1 15 0 && r.bits 1 15 0 ≤ x.old.part.watts)),
      rng r 1 (k = 0 || (16 ≤ r.bits 1 6 1 && r.bits 1 6 1 ≤ 36)),
      (k = 0 || r.bits 1 15 7 == 0, (Code.qReserved, r.pos + 2)), rsv r 1 31 16 ]
  | 13 =>
    let so := bitOf (r.w 0) 2
    let ss := bitOf (r.w 0) 3
    [ (match x.old.life with
        | .vendorTest => !so && !ss && r.w 1 == 0
        | .provisioned => so && ss
        | _ => true, (Code.qLifeCycle, r.pos)),
      rsv r 0 31 4, (x.old.floor ≤ r.w 1, (Code.qSerial, r.pos + 2)) ]
    ++ (upFrom 2 15).map (fun i => rng r i (so || r.w i == 0))
    ++ (upFrom 17 15).map (fun i => rng r i (ss || r.w i == 0))
    ++ [ rsv r 32 31 0 ]
  | _ => []

/-! The effect of a record on the settings. -/

/-- A table changed at several keys. -/
def putAll {α : Type} [DecidableEq α] (d : α) (m : Sparse α) (l : List Nat) (x : α) : Sparse α :=
  l.foldl (fun m k => Sparse.put d m k x) m

/-- The link bits of a node in a table of absent links. -/
def putLinks (m : Sparse Bool) (node down : Nat) : Sparse Bool :=
  (upFrom 0 4).foldl (fun m d => Sparse.put false m (4 * node + d) (bitOf down d)) m

/-- A site all of whose links are absent is isolated, and one whose links return is not, unless it has failed (R332).
That the links' return ends the isolation is a DESIGN CHOICE, log entry 63. -/
def cutSite (before : Sparse Bool) (t : State) (site : Nat) : State :=
  let put (x : Bool) : State := { t with heath := { t.heath with isolated := Sparse.put false t.heath.isolated site x } }
  if 4224 ≤ site then t
  else if meshCut t.heath.meshDown site then put true
  else if meshCut before site && !Sparse.get false t.heath.failed site then put false
  else t

/-- A record applied to the settings; TUSSOCK, GUARD, SIGNATURES and TRAILER records apply elsewhere. -/
def qApply (t : State) (r : QRec) : State :=
  let h := t.heath
  let cores (id : Nat) : List Nat := (t.coresOf id).getD []
  let bases (id : Nat) : List Nat := (t.basesOf id).getD []
  match r.ty with
  | 1 =>
    let id := r.bits 0 31 16
    let f := r.bits 1 15 0
    let v := signedByte (r.bits 1 23 16)
    if r.bits 0 1 0 = 0 then
      { t with heath := { h with
        freq := putAll 600 h.freq (cores id) f, vmargin := if id < 4096 then h.vmargin else putAll 0 h.vmargin (bases id) v } }
    else
      { t with heath := { h with
        trunkFreq := putAll 600 h.trunkFreq (bases id) f, trunkMargin := putAll 0 h.trunkMargin (bases id) v } }
  | 2 =>
    let row := r.bits 0 5 0
    { t with heath := { h with
      coreMap := (upFrom 0 64).foldl (fun m c => Sparse.put none m (64 * row + c) (some (r.columns.getD c 0))) h.coreMap } }
  | 4 =>
    let m := r.bits 0 5 0
    if r.bits 0 31 16 = 0xFFFF then t.updMeadow m fun x => { x with state := .absent, top := 0xFFFF }
    else t.updMeadow m fun x =>
      { x with
        state := if x.state = .absent then .ready else x.state, top := r.bits 0 31 16, port := r.bits 1 0 0,
        fn := r.bits 1 5 1, slot := r.bits 1 13 8, jobs := r.bits 1 18 16, confidential := bitOf (r.w 1) 24,
        root := r.w 2 + r.w 3 * 2 ^ 32,
        seed := r.w 4 + r.w 5 * 2 ^ 32 + r.w 6 * 2 ^ 64 + r.w 7 * 2 ^ 96 }
  | 5 =>
    let g : Region :=
      { num := r.bits 0 11 0, base := r.w 1 + r.w 2 * 2 ^ 32, size := r.w 3 + r.w 4 * 2 ^ 32, keySlot := r.bits 5 5 0,
        grant := BitVec.ofNat 64 (r.w 6 + r.w 7 * 2 ^ 32) }
    { t with
      heath := { h with regions := h.regions.filter (fun x => x.num ≠ g.num) ++ [g] }
      pkg := { t.pkg with parity := bitOf (r.w 0) 16 } }
  | 6 =>
    if bitOf (r.w 0) 13 then { t with heath := { h with trunkDown := putLinks h.trunkDown (r.bits 0 12 0) (r.bits 0 19 16) } }
    else
      let node := r.bits 0 12 0
      let t := { t with heath := { h with meshDown := putLinks h.meshDown node (r.bits 0 19 16) } }
      [node, node - 66, node + 66, node - 1, node + 1].foldl (cutSite h.meshDown) t
  | 7 =>
    let q := r.bits 0 18 16
    let keys := (cores (r.bits 0 15 0)).map fun n => 8 * n + q
    { t with heath := { h with
      qdepth := putAll none h.qdepth keys (some (r.bits 1 8 0)), qring := putAll none h.qring keys (some (r.bits 1 26 16)) } }
  | 8 =>
    { t with heath := { h with
      device := r.bits 1 9 0
      sw := Sparse.put SwCfg.default h.sw (r.bits 0 3 0)
        ⟨bitOf (r.w 0) 4, r.bits 0 6 5, bitOf (r.w 0) 7, r.bits 0 9 8, r.bits 0 13 10⟩ } }
  | 9 =>
    { t with heath := { h with
      trn := ⟨r.bits 0 3 0, r.bits 0 5 4, r.bits 0 11 6, r.bits 1 11 0, r.w 2, r.bits 3 15 0, r.bits 3 31 16⟩ } }
  | 10 =>
    { t with heath := { h with
      codec := Sparse.put none h.codec (r.bits 0 2 0) (if bitOf (r.w 0) 14 then some (r.bits 0 13 8) else none) } }
  | 11 =>
    let b := bases (r.bits 0 15 0)
    { t with heath := { h with
      watchLog := putAll 30 h.watchLog b (r.bits 1 5 0), watchFirst := putAll 0 h.watchFirst b (r.bits 1 9 8) } }
  | 12 =>
    if r.bits 0 1 0 = 0 then { t with heath := { h with cap := some (r.bits 1 15 0) } }
    else
      let b := bases (r.bits 0 31 16)
      { t with heath := { h with
        autogate := putAll false h.autogate b (bitOf (r.w 1) 0), idleLog2 := putAll 0 h.idleLog2 b (r.bits 1 6 1) } }
  | _ => t

/-- The records checked and applied in order, step 6 of R63 (R38, R50, R51). -/
def qRecords (x : QCtx) : Nat → List (Nat × Nat) → State → List QRec → Except QErr State
  | _, _, t, [] => .ok t
  | last, seen, t, r :: rest =>
    let mid := r.ty < 0xFFFD
    match firstBad
        [ (r.known, (Code.qRecordType, r.pos)), (!mid || last ≤ r.ty, (Code.qRecordOrder, r.pos)),
          (x.full || !(r.ty == 8 || r.ty == 9 || r.ty == 13), (Code.qKind, r.pos)),
          (r.lengthOk, (Code.qRecordLength, r.pos)) ] with
    | some e => .error e
    | none =>
      match firstBad (qFields x t r) with
      | some e => .error e
      | none =>
        if r.object.any seen.contains then .error (Code.qDuplicate, r.pos)
        else
          let x := if r.ty = 3 then { x with ids := r.bits 0 15 0 :: x.ids } else x
          qRecords x (if mid then r.ty else last) (r.object.toList ++ seen) (qApply t r) rest

end Sys2Proof.Machine
end

