-- ==== Sys2Proof/Machine/StreamWhole.lean ====
section
/-!
DEFINITION. The whole-stream checks of R63 and the check of a stream from end to end (02 R22 to R24, R42, R54 to R63, R535).
-/

namespace Sys2Proof.Machine

open Sys2Proof

/-! Connectivity (R59, R331, R346). -/

/-- Whether every pair of in-use sites of a meadow reach each other. -/
def State.meshJoined (t : State) (m : Nat) : Bool :=
  let sites := (t.meadowCores m).map t.siteOf
  t.heath.meshDown.isEmpty || sites.all fun a => sites.all fun b => meshGrid.reaches t.heath.meshDown a b

/-- The routers at the edge of the trunk, to which the rim dies attach. -/
def edgeRouters : List Nat := (upFrom 0 256).filter fun n => n / 16 = 0 || n / 16 = 15 || n % 16 = 0 || n % 16 = 15

/-- The routers a rim die attaches to: ten ports, at edge routers that the manual does not name (log entry 14). -/
def rimRouters (rim : Nat) : List Nat := (upFrom 0 10).map fun k => edgeRouters.getD (Config.rimPort rim k).val 0

/-- Whether every trunk router reaches each of the six rim dies (R59, R346). -/
def State.trunkJoined (t : State) : Bool :=
  t.heath.trunkDown.isEmpty || (upFrom 0 256).all fun a => (upFrom 0 6).all fun rim =>
    (rimRouters rim).any fun b => trunkGrid.reaches t.heath.trunkDown a b

/-! Checks over the whole stream. -/

/-- The header word of the last record that satisfies `p`. -/
def lastPos (recs : List QRec) (p : QRec → Bool) : Nat := ((recs.filter p).getLast?.map (·.pos)).getD 0

/-- The first element with a failed check. -/
def firstMiss {α : Type} (l : List α) (ok : α → Bool) (e : α → QErr) : Option QErr :=
  (l.find? fun a => !ok a).map e

/-- Tiling, single parents, depth, and the meadows' top tussocks, which stay top-level (R22 to R24). -/
def qTussocks (t : State) (recs : List QRec) : Option QErr :=
  let l := t.heath.tussocks
  let own (k : Nat) : Nat := lastPos recs fun r => r.ty == 3 && r.bits 0 15 0 == k
  let at_ (ids : List Nat) : Nat :=
    let p := (ids.map own).foldl max 0
    if p = 0 then lastPos recs (·.ty == 3) else p
  let kids := l.flatMap (·.kids)
  let parents (ks : List Nat) : List Nat := (l.filter fun x => x.kids.any ks.contains).map (·.id)
  firstSome id
    [ firstMiss l t.tiles fun x => (Code.qTussock, at_ (x.id :: x.kids)),
      firstMiss l (fun x => x.kids.all fun k => (kids.filter (· == k)).length == 1)
        fun x => (Code.qTussock, at_ (parents (x.kids.filter fun k => (kids.filter (· == k)).length != 1))),
      firstMiss l (fun x => tusDepth l 13 x.id ≤ 12) fun x => (Code.qDepth, at_ (x.id :: x.kids)),
      firstMiss t.meadowIds (fun m => t.isTop (t.meadow m).top) fun m => (Code.qTussock, at_ (parents [(t.meadow m).top])) ]

/-- No resource of two meadows (R33, R56). -/
def qMeadows (t : State) (recs : List QRec) : Option QErr :=
  let ms := recs.filter fun r => r.ty == 4 && r.bits 0 31 16 != 0xFFFF
  let clash (r : QRec) : Bool :=
    let m := r.bits 0 5 0
    let x := t.meadow m
    t.meadowIds.any fun k =>
      let y := t.meadow k
      k != m && !(ms.any fun q => q.bits 0 5 0 == k && r.pos < q.pos)
        && ((y.port == x.port && y.fn == x.fn) || y.slot == x.slot || y.top == x.top)
  firstMiss ms (fun r => !clash r) fun r => (Code.qDuplicate, r.pos)

/-- Regions do not overlap (R58). -/
def qRegions (t : State) (recs : List QRec) : Option QErr :=
  let g := t.heath.regions
  let meet (a b : Region) : Bool := a.num != b.num && a.base < b.base + b.size && b.base < a.base + a.size
  let at_ (x : Region) : Nat := lastPos recs fun r => r.ty == 5 && r.bits 0 11 0 == x.num
  firstMiss g (fun a => g.all fun b => !meet a b)
    fun a => (Code.qRegion, ((g.filter fun b => meet a b).map at_).foldl max (at_ a))

/-- Translation roots, key slots of regions, device numbers, the transport ring and unavailable base tussocks
(R54, R56, R58, R61, R535). -/
def qLinks (t : State) (recs : List QRec) : Option QErr :=
  let own (m : Nat) : Nat :=
    let p := lastPos recs fun r => r.ty == 4 && r.bits 0 5 0 == m
    if p = 0 then lastPos recs (·.ty == 5) else p
  let reg (x : Region) : Nat :=
    let p := lastPos recs fun r => r.ty == 5 && r.bits 0 11 0 == x.num
    if p = 0 then lastPos recs (·.ty == 4) else p
  let roots := firstMiss t.meadowIds
    (fun m => t.heath.regions.any fun g =>
      bitOf g.grant.toNat m && g.base ≤ (t.meadow m).root && (t.meadow m).root < g.base + g.size)
    fun m => (Code.qRegion, own m)
  let slots := firstMiss t.heath.regions
    (fun g =>
      let ms := t.meadowIds.filter fun m => bitOf g.grant.toNat m
      ms.isEmpty || ms.any fun m => (t.meadow m).slot == g.keySlot)
    fun g => (Code.qRegion, reg g)
  let sw := recs.filter (·.ty == 8)
  let devices := firstMiss sw (fun r => sw.all fun q => r.pos ≤ q.pos || q.bits 1 9 0 == r.bits 1 9 0)
    fun r => (Code.qFieldRange, r.pos)
  let tr := t.heath.trn
  let tPos (ty : Nat) : Nat :=
    let p := lastPos recs (·.ty == 9)
    if p = 0 then lastPos recs fun r => r.ty == ty && (ty != 5 || r.bits 0 11 0 == tr.ring) else p
  let transport : Option QErr :=
    if tr.lanes = 0 then none
    else if !(t.meadowIds.contains tr.meadow) then (if lastPos recs (·.ty == 9) = 0 then none else some (Code.qFieldRange, tPos 4))
    else if t.heath.regions.any fun g => g.num == tr.ring && bitOf g.grant.toNat tr.meadow then none
    else some (Code.qRegion, tPos 5)
  let unavail := firstMiss t.meadowIds (fun m => (t.meadowBases m).all fun b => !(t.base b).unavailable)
    fun m => (Code.qCoremap, own m)
  firstSome id [roots, slots, devices, transport, unavail]

/-- No ring past the end of near store, and no two rings of one core overlap (R60). -/
def qQueues (t : State) (recs : List QRec) : Option QErr :=
  let cores := (t.heath.qdepth.map fun e => e.1 / 8).eraseDups
  let lo (n q : Nat) : Nat := t.queueRing (8 * n + q)
  let hi (n q : Nat) : Nat := t.queueRing (8 * n + q) + 64 * t.queueDepth (8 * n + q)
  let ok (n : Nat) : Bool :=
    (upFrom 0 8).all fun a => hi n a ≤ 131072 && (upFrom 0 8).all fun b => a == b || hi n a ≤ lo n b || hi n b ≤ lo n a
  firstMiss cores ok fun n =>
    (Code.qQueue, lastPos recs fun r => r.ty == 7 && ((t.coresOf (r.bits 0 15 0)).getD []).contains n)

/-- Whether a core that no meadow owns sits on a failed site: a repair of its row may move it, though it lies in no SCOPE. DESIGN
CHOICE, log entry 64. -/
def State.rescued (s : State) (n : Nat) : Bool := (s.meadowOf n).isNone && Sparse.get false s.heath.failed (s.siteOf n)

/-- Whether a core's settings are the same in two settings (R42). -/
def sameCore (s t : State) (n : Nat) : Bool :=
  (s.column n == t.column n || s.rescued n) && Sparse.get 600 s.heath.freq n == Sparse.get 600 t.heath.freq n
    && (upFrom 0 8).all fun q =>
      s.queueDepth (8 * n + q) == t.queueDepth (8 * n + q) && s.queueRing (8 * n + q) == t.queueRing (8 * n + q)

/-- Whether a base tussock's settings are the same in two settings (R42). -/
def sameBase (s t : State) (b : Nat) : Bool :=
  let a := s.heath
  let c := t.heath
  Sparse.get 0 a.vmargin b == Sparse.get 0 c.vmargin b && Sparse.get 600 a.trunkFreq b == Sparse.get 600 c.trunkFreq b
    && Sparse.get 0 a.trunkMargin b == Sparse.get 0 c.trunkMargin b && Sparse.get 30 a.watchLog b == Sparse.get 30 c.watchLog b
    && Sparse.get 0 a.watchFirst b == Sparse.get 0 c.watchFirst b && Sparse.get false a.autogate b == Sparse.get false c.autogate b
    && Sparse.get 0 a.idleLog2 b == Sparse.get 0 c.idleLog2 b

/-- Whether a record sets, for a base tussock outside SCOPE or one of its cores, something that the stream leaves changed (R42). -/
def QRec.breaks (s t : State) (fixed : Nat → Bool) (r : QRec) : Bool :=
  let a := s.heath
  let c := t.heath
  let cores (id : Nat) (same : Nat → Bool) : Bool :=
    ((t.coresOf id).getD []).any fun n => fixed (baseOf n) && !same n
  let bases (id : Nat) (same : Nat → Bool) : Bool := ((t.basesOf id).getD []).any fun b => fixed b && !same b
  match r.ty with
  | 1 =>
    let id := r.bits 0 31 16
    cores id (fun n => Sparse.get 600 a.freq n == Sparse.get 600 c.freq n)
      || bases id fun b => Sparse.get 0 a.vmargin b == Sparse.get 0 c.vmargin b
  | 2 => (upFrom (64 * r.bits 0 5 0) 64).any fun n => fixed (baseOf n) && s.column n != t.column n && !s.rescued n
  | 3 => bases (r.bits 0 15 0) fun b => s.meadowOfBase b == t.meadowOfBase b
  | 4 => (upFrom 0 256).any fun b =>
      fixed b && s.meadowOfBase b != t.meadowOfBase b
        && (s.meadowOfBase b == some (r.bits 0 5 0) || t.meadowOfBase b == some (r.bits 0 5 0))
  | 7 =>
    cores (r.bits 0 15 0) fun n =>
      let k := 8 * n + r.bits 0 18 16
      s.queueDepth k == t.queueDepth k && s.queueRing k == t.queueRing k
  | 11 =>
    bases (r.bits 0 15 0) fun b =>
      Sparse.get 30 a.watchLog b == Sparse.get 30 c.watchLog b && Sparse.get 0 a.watchFirst b == Sparse.get 0 c.watchFirst b
  | 12 =>
    bases (r.bits 0 31 16) fun b =>
      Sparse.get false a.autogate b == Sparse.get false c.autogate b && Sparse.get 0 a.idleLog2 b == Sparse.get 0 c.idleLog2 b
  | _ => false

/-- Whether two meadows have the same fields of a MEADOW record; an absent meadow has none. -/
def Meadow.same (x y : Meadow) : Bool :=
  if x.state = .absent then y.state == .absent
  else y.state != .absent && x.top == y.top && x.port == y.port && x.fn == y.fn && x.slot == y.slot && x.jobs == y.jobs
    && x.confidential == y.confidential && x.root == y.root && x.seed == y.seed

/-- What a partial stream may change (R42, R57, R58). DESIGN CHOICE, log entry 64: SCOPE is asked for a meadow of GRANT only where
that meadow exists before or after the stream (R58); settings come first, then MEADOW, TUSSOCK and REGION records. -/
def qScopeCheck (s t : State) (scope : Nat) (recs : List QRec) : Option QErr :=
  let out (st : State) (b : Nat) : Bool := match st.meadowOfBase b with | some m => !bitOf scope m | none => true
  let fixed (b : Nat) : Bool := out s b && out t b
  let foreign (b : Nat) : Bool :=
    (match s.meadowOfBase b with | some m => !bitOf scope m | none => false)
      || (match t.meadowOfBase b with | some m => !bitOf scope m | none => false)
  let bases := firstMiss ((upFrom 0 256).filter fixed)
    (fun b => sameBase s t b && (coresOfBase b).all (sameCore s t) && s.meadowOfBase b == t.meadowOfBase b)
    fun _ => (Code.qScope, lastPos recs fun r => r.breaks s t fixed)
  let meadows := firstMiss (recs.filter (·.ty == 4))
    (fun r => let m := r.bits 0 5 0; bitOf scope m || (s.meadow m).same (t.meadow m)) fun r => (Code.qScope, r.pos)
  let tussocks := firstMiss (recs.filter (·.ty == 3))
    (fun r =>
      let id := r.bits 0 15 0
      s.heath.tussocks.contains r.tussock
        || !(((s.basesOf id).getD [] ++ (t.basesOf id).getD []).any foreign))
    fun r => (Code.qScope, r.pos)
  let regions := firstMiss (recs.filter (·.ty == 5))
    (fun r =>
      let k := r.bits 0 11 0
      let a := s.heath.regions.find? (·.num = k)
      let b := t.heath.regions.find? (·.num = k)
      a == b || (s.meadowIds ++ t.meadowIds).all fun m =>
        bitOf scope m || !((a.any fun g => bitOf g.grant.toNat m) || (b.any fun g => bitOf g.grant.toNat m)))
    fun r => (Code.qScope, r.pos)
  firstSome id [bases, meadows, tussocks, regions]

/-- Whether a meadow is stopped (R349). -/
def MState.isStopped : MState → Bool
  | .ready | .stopped | .failed | .absent => true
  | _ => false

/-! The default map with failed sites replaced (R54). -/

/-- The columns of a row that no record names: from the columns still to place, the spares still free, and the
columns chosen so far; `none` where no spare is free. Where two default sites have failed, column 65 goes to the lower
logical column: DESIGN CHOICE, log entry 64 (R54). -/
def defaultRow (bad : Nat → Bool) : List Nat → List Nat → List (Option Nat)
  | [], _ => []
  | c :: r, spares =>
    let p := if c < 32 then c else c + 1
    if bad p then
      match spares with
      | x :: l => some x :: defaultRow bad r l
      | [] => none :: defaultRow bad r []
    else some p :: defaultRow bad r spares

/-- The default maps of rows that a full stream does not name; base tussocks left without a site are unavailable. -/
def fillRows (t : State) (recs : List QRec) : State :=
  (upFrom 0 64).foldl (fun t row =>
    if recs.any fun r => r.ty == 2 && r.bits 0 5 0 == row then t
    else
      let bad (p : Nat) : Bool := Sparse.get false t.heath.failed (66 * row + p)
      let l := defaultRow bad (upFrom 0 64) ([65, 32].filter fun p => !bad p)
      let t := { t with heath := { t.heath with
        coreMap := (upFrom 0 64).foldl (fun m c =>
          Sparse.put none m (64 * row + c) (match l.getD c none with
            | some p => if p = (if c < 32 then c else c + 1) then none else some p
            | none => none)) t.heath.coreMap } }
      (upFrom 0 64).foldl (fun t c =>
        if (l.getD c none).isNone then t.updBase (baseOf (64 * row + c)) fun b => { b with unavailable := true } else t) t) t

/-! The check from end to end (R63). -/

/-- The Owner's and the Steward's signature of a SIGNATURES record, in the bytes of its stream (R48). -/
def QRec.signatures (r : QRec) (b : List Byte) : List Byte × List Byte :=
  let at_ := 4 * (r.pos + 2)
  (sliceBytes b at_ (r.bits 0 15 0), sliceBytes b (at_ + 4 * ceilDiv (r.bits 0 15 0) 4) (r.bits 0 31 16))

/-- Whether a stream touches the guard set (R46). -/
def State.touches (s : State) (full : Bool) (recs : List QRec) : Bool :=
  let tops := s.meadowIds.map (fun m => (s.meadow m).top) ++ (recs.filter (·.ty == 4)).map (·.bits 0 31 16)
  full || recs.any fun r =>
    r.ty == 13 || r.ty == 4 || (r.ty == 3 && tops.contains (r.bits 0 15 0))
      || (r.ty == 5 && 1 < ((List.range 64).filter (bitOf (r.w 6 + r.w 7 * 2 ^ 32))).length)

/-- The settings a full stream starts from. -/
def State.blankSettings (s : State) : State :=
  { s with
    heath := { Heath.zero with failed := s.heath.failed, isolated := s.heath.isolated }
    pkg := { s.pkg with parity := false }
    meadows := []
    bases := s.bases.map fun e => (e.1, { e.2 with unavailable := false }) }

/-- The guard state a stream's GUARD record would register (R62). -/
def State.guardAfter (s : State) (pay : Nat → Nat) : Guard :=
  let key (i : Nat) : List Byte := (upFrom i 15).flatMap fun k => natToBytes 4 (pay k)
  { owner := if bitOf (pay 0) 2 then key 2 else s.guard.owner
    steward := if bitOf (pay 0) 3 then key 17 else s.guard.steward
    floor := pay 1, debug := bitOf (pay 0) 0, bist := bitOf (pay 0) 1 }

/-- Whether a guard state needs a journal entry that the journal has no room for (R453). -/
def State.journalFull (s : State) (g : Guard) : Bool := 384 ≤ s.sxt.journal.length && g != s.guard

/-- A stream that passed every check: its settings and what its acceptance needs. -/
structure QOk where
  set : State
  full : Bool
  scope : Nat
  serial : Nat
  digest : List Byte
  bytes : List Byte
  guard : Option QRec
deriving Repr

/-- Steps 2 to 5 of R63. The words at fault that R63 does not name are a DESIGN CHOICE, log entry 64: word 0 for BLANK and
RETIRED; the first payload word of the TRAILER that differs for a digest; the SIGNATURES header, or the TRAILER's where none
stands, for a signature. -/
def qHead (s : State) (ws : List Nat) (b : List Byte) (recs : List QRec) : Option QErr :=
  let w (i : Nat) : Nat := ws.getD i 0
  let full := !bitOf (w 1) 16
  let tr := recs.getLastD ⟨0, 0, []⟩
  let sig := recs.find? (·.ty == 0xFFFD)
  let hash := sha256 (b.take (4 * tr.pos))
  let bad := (upFrom 0 8).find? fun k => tr.w k ≠ fieldNat hash (4 * k) 4
  let touch := s.touches full recs
  firstBad
    [ (!(s.life == .blank || s.life == .retired), (Code.qLifeCycle, 0)),
      (if full then s.sxt.bootStep == 9 else s.sxt.bootStep == 11, (Code.qKind, 1)),
      (bad.isNone, (Code.qDigest, tr.pos + 1 + bad.getD 0)),
      (match s.life, sig with
        | .owned, some r => s.bothSign (r.signatures b).1 (r.signatures b).2 (b.take (4 * r.pos))
        | .owned, none => !touch
        | _, some _ => false
        | _, none => true, (Code.qSignature, match sig with | some r => r.pos | none => tr.pos)),
      (!s.qorf.anyAccepted || s.qorf.serial.toNat < w 4, (Code.qSerial, 4)),
      (w 5 == (if full then 0 else s.qorf.fullSerial.toNat), (Code.qSerial, 5)),
      (!touch || s.floor ≤ w 4, (Code.qSerial, 4)) ]

/-- The check of a whole stream: `n` words delivered, `b` its bytes (R63). The checks that step 7 does not name are placed by
the model (DESIGN CHOICE, log entry 64): the duplicates of R33 first, unavailable base tussocks (R54) and queues (R60) between
the transport ring and the ownership claim, journal room last. -/
def State.checkStream (s : State) (n : Nat) (b : List Byte) : Except QErr QOk :=
  let ws := wordsOf n b
  match qFraming s.part ws n with
  | .error e => .error e
  | .ok recs =>
    match qHead s ws b recs with
    | some e => .error e
    | none =>
      let w (i : Nat) : Nat := ws.getD i 0
      let full := !bitOf (w 1) 16
      let scope := w 6 + w 7 * 2 ^ 32
      let start := if full then s.blankSettings else s
      let start := { start with heath := { start.heath with
        tussocks := (recs.filter (·.ty == 3)).foldl (fun l r => putTussock l r.tussock) start.heath.tussocks } }
      let x : QCtx :=
        { old := s, full := full, scope := scope, ids := if full then [] else s.heath.tussocks.map (·.id),
          parity := match recs.find? (·.ty == 5) with | some r => bitOf (r.w 0) 16 | none => false }
      match qRecords x 0 [] start recs with
      | .error e => .error e
      | .ok t =>
        let t := if full then fillRows t recs else t
        let guard := recs.find? (·.ty == 13)
        let route := lastPos recs (·.ty == 6)
        let checks : List (Option QErr) :=
          [ qMeadows t recs, qTussocks t recs, qRegions t recs,
            if route ≠ 0 ∧ !(t.trunkJoined && t.meadowIds.all t.meshJoined) then some (Code.qRoute, route) else none,
            qLinks t recs, qQueues t recs,
            if s.life == .provisioned && full && guard.isNone then some (Code.qLifeCycle, 0) else none,
            if full then none else qScopeCheck s t scope recs,
            if full ∨ (s.meadowIds.all fun m => !bitOf scope m || (s.meadow m).state.isStopped) then none
            else some (Code.qRunning, 6),
            match guard with
            | some r =>
              if s.life != .vendorTest && s.journalFull (s.guardAfter r.w) then some (Code.guardOtp, r.pos) else none
            | none => none ]
        match firstSome id checks with
        | some e => .error e
        | none =>
          let tr := recs.getLastD ⟨0, 0, []⟩
          .ok { set := t, full := full, scope := scope, serial := w 4,
                digest := tr.pay.flatMap (natToBytes 4), bytes := b, guard := guard }

/-- The settings of a stream in force applied again (R41). -/
def State.applyAgain (s : State) (b : List Byte) : State :=
  let n := b.length / 4
  let ws := wordsOf n b
  match qFraming s.part ws n with
  | .error _ => s
  | .ok recs =>
    let start := if bitOf (ws.getD 1 0) 16 then s else s.blankSettings
    recs.foldl qApply { start with heath := { start.heath with
      tussocks := (recs.filter (·.ty == 3)).foldl (fun l r => putTussock l r.tussock) start.heath.tussocks } }

/-- Sexton reapplies the streams in force from its reserved area (R41, R478). They set what they set before; the core map, the
fault map and the isolated sites are what acceptance and later repairs made of them. -/
def State.reapply (s : State) : State :=
  let h := (s.qorf.held.foldl State.applyAgain s).heath
  { s with heath := { h with coreMap := s.heath.coreMap, failed := s.heath.failed, isolated := s.heath.isolated } }

end Sys2Proof.Machine
end

