-- ==== Sys2Proof/Machine/Hub.lean ====
section
/-!
DEFINITION. Notes that the hub builds, and accesses to regions by physical address (15 R337; 18 R390; 19 R412).
-/

namespace Sys2Proof.Machine

open Sys2Proof

/-- The unit a hub-built note belongs to. -/
inductive NoteOf where
  | host (port : Nat)
  | swarm
  | transport
  | cicada (pipe : Nat)
deriving DecidableEq, Repr

/-- A note to a queue of a core, with its payload from byte 8 on; `none` where it cannot be delivered because the
core's meadow is not OPEN (R337, R390, R413, R434). A collective's note needs only that the meadow exists: it may complete in the
boundary, or while the meadow is stopped (R378, R380). -/
def State.hubNote (s : State) (core queue : Nat) (u : NoteOf) (payload : List Byte) : Option State :=
  match s.meadowOf core with
  | none => none
  | some m =>
    if (s.meadow m).state ≠ .opened ∧ u ≠ .swarm then none
    else
      let body : Line := BitVec.ofNat 512 (bytesToNat payload * 2 ^ 64)
      let (origin, tok, cp) : Nat × Option Nat × Option Nat := match u with
        | .host p => (1 + p, none, none)
        | .swarm => (0, none, none)
        | .transport => (0, some 0, none)
        | .cicada n => (0, none, some n)
      some (s.updHub fun h => { h with doorbells := h.doorbells ++ [mkMsg core core queue 1 core origin body 0xFFFF tok cp] })

/-- A note that is not repeated and whose loss no unit counts. -/
def State.tryNote (s : State) (core queue : Nat) (u : NoteOf) (payload : List Byte) : State :=
  (s.hubNote core queue u payload).getD s

/-- Bytes written at a physical address by an agent other than a core, sector by sector. -/
def State.physWrite (s : State) (agent : Nat) : Nat → Nat → List Byte → State
  | 0, _, _ => s
  | fuel + 1, pa, b =>
    if b.isEmpty then s
    else
      let h := 32 - pa % 32
      (s.agentWrite agent pa (b.take h) none).physWrite agent fuel (pa + h) (b.drop h)

/-- Bytes written at a physical address. -/
def State.physPut (s : State) (agent pa : Nat) (b : List Byte) : State := s.physWrite agent (sectorsOf pa b.length) pa b

/-- Bytes read at a physical address by an agent other than a core, all ones where a read fails, with whether any did. -/
def State.physRead (s : State) : Nat → Nat → Nat → (Bool × List Byte) × State
  | 0, _, _ => ((false, []), s)
  | fuel + 1, pa, k =>
    if k = 0 then ((false, []), s)
    else
      let h := min k (32 - pa % 32)
      let ((e, b), t) := s.agentRead pa h
      let ((e', b'), t) := t.physRead fuel (pa + h) (k - h)
      ((e || e', b ++ b'), t)

/-- Bytes read at a physical address. -/
def State.physGet (s : State) (pa k : Nat) : (Bool × List Byte) × State := s.physRead (sectorsOf pa k) pa k

end Sys2Proof.Machine
end

