-- ==== Sys2Proof/Machine/Swarm.lean ====
section
/-!
DEFINITION. Swarm links and the collective engine (17 R365 to R381).
-/

namespace Sys2Proof.Machine

open Sys2Proof

/-- Swarm port `n`. -/
def State.sw (s : State) (n : Nat) : SwLink := Sparse.get SwLink.zero s.swarm n
/-- Swarm port `n` changed. -/
def State.updSw (s : State) (n : Nat) (f : SwLink → SwLink) : State :=
  { s with swarm := Sparse.put SwLink.zero s.swarm n (f (s.sw n)) }
/-- Settings of a port. -/
def State.swCfg (s : State) (n : Nat) : SwCfg := Sparse.get SwCfg.default s.heath.sw n
/-- Whether the part has the port (R365). -/
def State.hasSw (s : State) (n : Nat) : Bool := n < s.part.swarmPorts
/-- The ports that are UP. -/
def State.swUp (s : State) : List Nat := (upFrom 0 s.part.swarmPorts).filter fun n => (s.sw n).st == .up

/-! Rim dies (00; 17 R365). -/

/-- Whether a rim site carries a link rim (R365). -/
def Part.linkRim (p : Part) (k : Nat) : Bool :=
  match p with
  | .m4l2 => k == 2 || k == 5
  | .m5l1 => k == 5
  | .m6 => false

/-- The first stack and the number of stacks of a rim site (R309). -/
def Part.rimStacks (p : Part) (k : Nat) : List Nat :=
  if p.linkRim k then [] else upFrom (5 * ((upFrom 0 k).filter fun i => !p.linkRim i).length) 5

/-- The Swarm ports of a rim site (R365). -/
def Part.rimPorts (p : Part) (k : Nat) : List Nat :=
  let n (i : Nat) : Nat := if p.linkRim i then 4 else 1
  upFrom ((upFrom 0 k).map n).sum (n k)

/-- Whether the rim die of a port has failed (R475). -/
def State.swDead (s : State) (n : Nat) : Bool :=
  (upFrom 0 6).any fun k => s.sxt.rimsFailed.getLsbD k && (s.part.rimPorts k).contains n

/-! Negotiation (R366, R367). -/

/-- The lanes that a rate passes with: their count, and whether the spare carries data. -/
def lanesAt (own : SwCfg) (t : Training) (rate : Nat) : Nat × Bool :=
  let (d, sp) := t.lanes.getD rate (0, false)
  let d := min d 8
  if own.spare && t.spare && sp && d < 8 then (d + 1, true) else (d, false)

/-- The highest rate that passes, from `rate` downward: rate, lanes, spare. -/
def pickRate (own : SwCfg) (t : Training) : Nat → Nat → Option (Nat × Nat × Bool)
  | 0, _ => none
  | fuel + 1, rate =>
    let (n, sp) := lanesAt own t rate
    if max own.minLanes t.minLanes ≤ n ∧ 1 ≤ n then some (rate, n, sp) else pickRate own t fuel (rate + 1)

/-- The FEC code of two settings at a rate: 0 RS(544,514), 1 RS(272,257); `none` where they conflict. -/
def pickFec (a b rate : Nat) : Option Nat :=
  if a = 0 ∧ b = 0 then some (if rate = 0 then 0 else 1)
  else if a = 0 then some (b - 1)
  else if b = 0 ∨ a = b then some (a - 1)
  else none

/-- The mode two ends settle on: rate, lanes, spare, FEC. -/
def negotiate (own : SwCfg) (t : Training) : Option (Nat × Nat × Bool × Nat) :=
  let from_ := max own.maxRate t.maxRate.val
  match pickRate own t (3 - from_) from_ with
  | none => none
  | some (r, n, sp) => (pickFec own.fec t.fec.val r).map fun f => (r, n, sp, f)

/-! Routes (R373). -/

/-- Hops to a device over a port, if the port's peer is or reaches it. -/
def SwLink.hopsTo (x : SwLink) (d : Nat) : Option Nat :=
  if x.peer = d then some 1 else (Sparse.get none x.hops d).map (· + 1)

/-- The ports whose peer was admitted and that are on the way back to UP (R370, R372). -/
def State.swBack (s : State) : List Nat :=
  (upFrom 0 s.part.swarmPorts).filter fun n =>
    ((s.sw n).st == .retraining || (s.sw n).st == .admitting) && (s.sw n).peerGen.isSome

/-- Fewest hops to a device over some ports. -/
def State.swHopsOver (s : State) (ports : List Nat) (d : Nat) : Option Nat :=
  ports.foldl (fun a n => match a, (s.sw n).hopsTo d with
    | none, b => b
    | a, none => a
    | some x, some y => some (min x y)) none

/-- Fewest hops to a device over the ports that are UP. -/
def State.swHops (s : State) (d : Nat) : Option Nat := s.swHopsOver s.swUp d

/-- The ports with the fewest hops to a device, in port order; none where it is unreachable (R373). A device that only ports on
the way back to UP reach keeps them: what is bound for it waits there (R371). -/
def State.swRoute (s : State) (d : Nat) : List Nat :=
  let l := if (s.swHops d).isSome then s.swUp else s.swBack
  match s.swHopsOver l d with
  | none => []
  | some k => l.filter fun n => (s.sw n).hopsTo d = some k

/-- The devices this device knows, with their hops. -/
def State.swVector (s : State) : List (Nat × Nat) :=
  (s.heath.device, 0) :: (upFrom 0 1024).filterMap fun d => if d = s.heath.device then none else (s.swHops d).map fun h => (d, h)

/-! Control frames (R371, R373, R375, R379). -/

/-- The device that a control frame is for. -/
def swDest : SwCtl → Nat
  | .side d _ _ => d.toNat
  | .failure d _ => d.toNat

/-- A control frame passed towards its device over the first port of its route; it waits at the rim while that port retrains
(R371, R373). Control traffic is not spread: DESIGN CHOICE, log entry 49. -/
def State.swControl (s : State) (c : SwCtl) : State :=
  match s.swRoute (swDest c) with
  | [] => s
  | p :: _ => if (s.sw p).st = .up then s.emit (.swControl p c) else s.updSw p fun x => { x with waiting := x.waiting ++ [c] }

/-! Collectives (R374 to R380). -/

/-- What matches a descriptor's collective across its group (R375). -/
def swKey (m : Nat) (e : List Byte) : SwKey :=
  ⟨Fin.ofNat 64 m, BitVec.ofNat 32 (fieldNat e 44 4), BitVec.ofNat 16 (fieldNat e 8 2), BitVec.ofNat 16 (fieldNat e 10 2)⟩

/-- A device's side of a collective, as its descriptor gives it (R375). -/
def swSide (d : Nat) (e : List Byte) : Member :=
  ⟨BitVec.ofNat 10 d, BitVec.ofNat 8 (fieldNat e 4 1), BitVec.ofNat 8 (fieldNat e 5 1), BitVec.ofNat 16 (fieldNat e 12 2),
    BitVec.ofNat 64 (fieldNat e 32 8), false⟩

/-- The other devices whose sides a collective waits for. -/
def swPeers (e : List Byte) (d : Nat) : List Nat :=
  if fieldNat e 4 1 = 5 ∨ fieldNat e 4 1 = 6 then [fieldNat e 12 2]
  else (upFrom (fieldNat e 8 2) (fieldNat e 10 2)).filter (· ≠ d)

/-- Whether an epoch of a meadow is open, a stop of the meadow included. -/
def Meadow.epochOpen (x : Meadow) : Bool :=
  x.state == .opened || (x.state == .stopped && x.stopWas == .opened && x.stopFail == 0)

/-- Whether the epoch of a meadow has failed and not been replayed. -/
def Meadow.epochFailed (x : Meadow) : Bool :=
  x.state == .failed || (x.state == .stopped && (x.stopWas == .failed || x.stopFail != 0))

/-- Whether a completion code fails the meadow's epoch (R379). -/
def swFails (c : Half) : Bool := c == Code.swPeerFailed || c == Code.uncorrectable

/-- The collective that runs completes: STATUS, the note, DONE and vector 11 (R378, R379, R400). -/
def State.collectiveDone (s : State) (m : Nat) (code : Half) : State :=
  match (s.meadow m).swTaken with
  | [] => s
  | k :: r =>
    let e := k.entry
    let t := (s.mwriteAll 2 m ((s.meadow m).swRing + 64 * k.ix + 48) (natToBytes 2 code.toNat)).2
    let t := t.updMeadow m fun x =>
      { x with
        swTaken := r, swGot := x.swGot.filter fun g => g.1.key ≠ swKey m e,
        swDone := BitVec.ofNat 48 (fieldNat e 0 4 + code.toNat * 2 ^ 32) }
    let t := t.tryNote (fieldNat e 40 2 % 4096) (fieldNat e 42 1 % 8) .swarm (sliceBytes e 0 4 ++ natToBytes 2 code.toNat)
    let t := t.raiseM m 11
    if swFails code then t.failEpoch m code else t

/-- The bytes of DEST that a collective writes. -/
def destLen (e : List Byte) : Nat := if fieldNat e 4 1 = 1 then fieldNat e 10 2 * fieldNat e 32 8 else fieldNat e 32 8

/-- The collective that runs fails: its DEST bytes are free values, and a notice goes to the peers (R379). -/
def State.collectiveFails (s : State) (m : Nat) (code : Half) : State :=
  match (s.meadow m).swTaken with
  | [] => s
  | k :: _ =>
    let (b, t) := s.freeBytes (if fieldNat k.entry 4 1 = 5 then 0 else destLen k.entry)
    let t := (t.mwriteAll 2 m (fieldNat k.entry 24 8) b).2
    let t := (swPeers k.entry t.heath.device).foldl
      (fun t p => t.swControl (.failure (BitVec.ofNat 10 p) (swKey m k.entry))) t
    t.collectiveDone m code

/-- Whether a descriptor is well formed on this device (R375). -/
def State.swDescOk (s : State) (e : List Byte) : Bool :=
  let op := fieldNat e 4 1
  let mode := fieldNat e 5 1
  let first := fieldNat e 8 2
  let count := fieldNat e 10 2
  let root := fieldNat e 12 2
  let bytes := fieldNat e 32 8
  let d := s.heath.device
  let reduce := op = 2 || op = 3
  fieldZero e 6 2 && fieldZero e 14 2 && fieldZero e 43 1 && fieldZero e 50 14
    && (1 ≤ op && op ≤ 6) && (mode = 0 || (mode = 1 && reduce)) && (1 ≤ count && count ≤ 1024)
    && first + count ≤ 1024 && (first ≤ d && d < first + count)
    && fieldNat e 16 8 % 32 = 0 && fieldNat e 24 8 % 32 = 0
    && bytes % (if reduce && mode = 0 then 352 else 32) = 0
    && (if 4 ≤ op then first ≤ root && root < first + count && (op = 4 || root ≠ d) else root = 0)
    && fieldNat e 40 2 < 4096 && fieldNat e 42 1 < 8

/-- The next taken collective begins: it is put to its members for matching, unless it is malformed, a member has failed, this
meadow's epoch has failed, or a member is unreachable, which complete it in its turn (R374, R375, R379). -/
def State.swAdvance (s : State) (m : Nat) : Nat → State
  | 0 => s
  | fuel + 1 =>
    match (s.meadow m).swTaken with
    | [] => s
    | k :: r =>
      let d := s.heath.device
      let peers := swPeers k.entry d
      if k.dup ∨ !s.swDescOk k.entry then (s.collectiveDone m Code.swDescriptor).swAdvance m fuel
      else if k.lost ∨ (s.meadow m).epochFailed then (s.collectiveFails m Code.swPeerFailed).swAdvance m fuel
      else if peers.any fun p => (s.swRoute p).isEmpty then (s.collectiveDone m Code.swUnreachable).swAdvance m fuel
      else if k.begun then s
      else peers.foldl (fun t p => t.swControl (.side (BitVec.ofNat 10 p) (swKey m k.entry) (swSide d k.entry)))
        (s.updMeadow m fun x => { x with swTaken := { k with begun := true } :: r })

/-- The collectives of a meadow go on as far as they can without news of their members. -/
def State.swNext (s : State) (m : Nat) : State := s.swAdvance m ((s.meadow m).swTaken.length + 1)

/-- Distance vectors sent over every UP port after a change, and the collectives with an unreachable member completed
(R373, R375). -/
def State.swRebuild (s : State) : State :=
  let t := s.swUp.foldl (fun t n => t.emit (.swVector n s.swVector)) s
  t.meadowIds.foldl (fun t m => t.swNext m) t

/-- COLLECTIVE_POLL: the engine reads the expected entry and takes it (R374, R375, R380). -/
def execCollectivePoll (m : MeadowIx) (s : State) : Out := s.attemptWhole (.collectivePoll m) <|
  let x := s.meadow m
  .next (if !x.epochOpen then s
    else match s.mreadAll m (x.swRing + 64 * x.swIdx) 64 with
      | (.error _, t) => t
      | (.ok e, t) =>
        if fieldNat e 0 4 ≠ x.swSeq then t
        else
          let dup := x.swTaken.any fun k => fieldNat k.entry 44 4 = fieldNat e 44 4
          (t.updMeadow m fun x =>
            { x with
              swTaken := x.swTaken ++ [⟨x.swIdx, e, dup, false, false, none⟩], swIdx := (x.swIdx + 1) % 2 ^ x.swSize,
              swSeq := x.swSeq + 1 }).swNext m)

/-- The fixed tree sum of R377 over L32 codes in rank order. -/
def treePass : List Nat → List Nat
  | a :: b :: r => addF .l32 .ne a b :: treePass r
  | l => l
/-- The tree sum of at most 2^`fuel` elements. -/
def treeSum : Nat → List Nat → Nat
  | 0, l => l.headD 0
  | fuel + 1, l => if l.length ≤ 1 then l.headD 0 else treeSum fuel (treePass l)

/-- Members' bytes reduced element by element (R376, R377). -/
def reduceBytes (mode n : Nat) (srcs : List (List Byte)) : List Byte :=
  if mode = 0 then
    (upFrom 0 (n / 22)).flatMap fun i =>
      let cells := srcs.map fun b => Cell.ofXp22 (fieldNat b (22 * i) 22)
      natToBytes 22 (cells.foldl Cell.add Cell.zero).xp22
  else
    (upFrom 0 (n / 4)).flatMap fun i => natToBytes 4 (treeSum 11 (srcs.map fun b => fieldNat b (4 * i) 4))

/-- The bytes a device contributes, in its rank's place. -/
def swSrcLen (e : List Byte) (d : Nat) : Nat :=
  match fieldNat e 4 1 with
  | 2 => fieldNat e 10 2 * fieldNat e 32 8
  | 4 => if fieldNat e 12 2 = d then fieldNat e 32 8 else 0
  | 6 => 0
  | _ => fieldNat e 32 8

/-- DEST of a collective from every member's part in rank order (R375). -/
def swResult (e : List Byte) (parts : List (List Byte)) : List Byte :=
  let n := fieldNat e 32 8
  match fieldNat e 4 1 with
  | 1 => parts.flatMap fun b => sliceBytes b 0 n
  | 2 | 3 => reduceBytes (fieldNat e 5 1) n (parts.map fun b => sliceBytes b 0 n)
  | 4 | 6 => sliceBytes (parts.getD (fieldNat e 12 2 - fieldNat e 8 2) []) 0 n
  | _ => []

/-- Bytes cut into pieces. -/
def piecesOf (n : Nat) : Nat → List Byte → List (List Byte)
  | 0, _ => []
  | fuel + 1, b => if b.isEmpty then [] else b.take n :: piecesOf n fuel (b.drop n)

/-- A kept frame sent on a port, enciphered and authenticated under the link key (R369). -/
def State.swEmit (s : State) (n : Nat) (u : SwOut) : State :=
  let key := (s.sw n).key
  let nonce := natToBytes 12 (Config.linkNonce s.sxt.devGen.toNat u.seq).toNat
  let c := gcmCrypt key nonce u.body
  s.emit (.swData n u.seq u.head c (gcmTag key nonce [] c))

/-- One link frame put on a port: kept until acknowledged, sent at once where the port is UP (R369, R371). -/
def State.swSend (s : State) (n : Nat) (h : SwHead) (b : List Byte) : State :=
  let x := s.sw n
  let u : SwOut := ⟨x.txSeq, h, b, x.st == .up⟩
  let t := s.updSw n fun x => { x with txSeq := x.txSeq + 1, unacked := x.unacked ++ [u] }
  if x.st = .up then t.swEmit n u else t

/-- A frame sent towards its device, over the port of its 4 KiB unit (R373). -/
def State.swForward (s : State) (h : SwHead) (b : List Byte) : State :=
  let ports := s.swRoute h.dest.toNat
  match ports[h.off / 4096 % max 1 ports.length]? with
  | some p => s.swSend p h b
  | none => s

/-- Bytes of a collective sent to a device in frames of 256 bytes (R369, R373). -/
def State.swSendTo (s : State) (k : SwKey) (d : Nat) (b : List Byte) : State :=
  (piecesOf 256 (b.length / 256 + 1) b).zipIdx.foldl (fun t (f, i) =>
    t.swForward ⟨BitVec.ofNat 10 t.heath.device, BitVec.ofNat 10 d, k, 256 * i⟩ (sliceBytes f 0 256)) s

/-- The bytes that a member sends this device. -/
def swInLen (e : List Byte) (p : Nat) : Nat :=
  match fieldNat e 4 1 with
  | 4 => if fieldNat e 12 2 = p then fieldNat e 32 8 else 0
  | 5 => 0
  | _ => fieldNat e 32 8

/-- What a member has sent this device for a collective, once all of it has arrived. -/
def Meadow.swPart (x : Meadow) (k : SwKey) (e : List Byte) (p : Nat) : Option (List Byte) :=
  ((upFrom 0 (ceilDiv (swInLen e p) 256)).mapM fun i =>
    (x.swGot.find? fun g => g.1.src.toNat = p && g.1.key = k && g.1.off = 256 * i).map (·.2)).map
      fun l => l.flatten.take (swInLen e p)

/-- What this device sends to a peer of a collective, from its source bytes. -/
def swShare (e : List Byte) (peer : Nat) (src : List Byte) : List Byte :=
  if fieldNat e 4 1 = 2 then sliceBytes src ((peer - fieldNat e 8 2) * fieldNat e 32 8) (fieldNat e 32 8) else src

/-- Whether a member's descriptor agrees with this device's (R375). -/
def swAgrees (e : List Byte) (d : Nat) (k : Member) : Bool :=
  let op := fieldNat e 4 1
  let pair := op = 5 || op = 6
  k.bytes.toNat = fieldNat e 32 8 && k.mode.toNat = fieldNat e 5 1
    && (if pair then k.op.toNat = 11 - op && k.root.toNat = d else k.op.toNat = op && k.root.toNat = fieldNat e 12 2)

/-- A matched collective's own data read and sent to the members that need it (R375, R378). -/
def State.collectiveSend (s : State) (m : Nat) (k : SwTaken) : State :=
  let d := s.heath.device
  let e := k.entry
  match s.mreadAll m (fieldNat e 16 8) (swSrcLen e d) with
  | (.error c, t) => (if c = Code.uncorrectable then t.collectiveFails m c else t.collectiveDone m c).swNext m
  | (.ok src, t) =>
    let t := t.updMeadow m fun x => { x with swTaken := { k with own := some (swShare e d src) } :: x.swTaken.drop 1 }
    (swPeers e d).foldl (fun t p => t.swSendTo (swKey m e) p (swShare e p src)) t

/-- A collective ends once every member's part has arrived (R375 to R378). -/
def State.collectiveEnd (s : State) (m : Nat) : State :=
  match (s.meadow m).swTaken with
  | [] => s
  | k :: _ =>
    let e := k.entry
    let d := s.heath.device
    match k.own, (upFrom (fieldNat e 8 2) (fieldNat e 10 2)).mapM fun p =>
        if p = d then k.own else if (swPeers e d).contains p then (s.meadow m).swPart (swKey m e) e p else some [] with
    | some _, some parts =>
      match s.mwriteAll 2 m (fieldNat e 24 8) (swResult e parts) with
      | (.error c, t) => (t.collectiveDone m c).swNext m
      | (.ok _, t) => (t.collectiveDone m Code.ok).swNext m
    | _, _ => s

/-- COLLECTIVE_COMPLETE: the collective that runs is matched with every member's descriptor, or one has failed; its own data is
sent, and it ends when the members' data has arrived (R375 to R379). -/
def execCollectiveComplete (m : MeadowIx) (members : List Member) (s : State) : Out := s.attemptWhole (.collectiveComplete m members) <|
  .next (match (s.meadow m).swTaken with
    | [] => s
    | k :: _ =>
      let d := s.heath.device
      if !k.begun ∨ (s.meadow m).epochFailed then s.swNext m
      else if members.any (·.failed) then (s.collectiveFails m Code.swPeerFailed).swNext m
      else if !((swPeers k.entry d).all fun p => members.any fun x => x.device.toNat = p) then s
      else if !members.all (swAgrees k.entry d) then (s.collectiveDone m Code.swMismatch).swNext m
      else if k.own.isSome then s.collectiveEnd m
      else (s.collectiveSend m k).collectiveEnd m)

/-! Links (R367 to R372). -/

/-- A retrain starts (R370). -/
def State.swRetrain (s : State) (n : Nat) : State :=
  (s.updSw n fun x => { x with st := .retraining, retrains := satInc x.retrains, failRun := 0 }).swRebuild

/-- A port leaves training with a mode, or DOWN (R367, R371). -/
def State.swTrained (s : State) (n : Nat) (t : Training) : State :=
  match negotiate (s.swCfg n) t with
  | none => s.updSw n fun x => { x with st := .down, code := Code.swTraining }
  | some (r, k, sp, f) =>
    s.updSw n fun x => { x with st := .admitting, rate := r, lanes := k, spareUsed := sp, fec := f, code := Code.ok }

/-- Step 8 begins when the stacks and the Swarm ports have trained and no transport lane autonegotiates any more (R469, R474). At a
warm start every site is isolated (R503). -/
def State.toStep8 (s : State) : State :=
  if s.sxt.bootStep ≠ 6 ∨ !s.sxt.stacksDone ∨ s.swarm.any (fun e => e.2.st == .training || e.2.st == .retraining)
      ∨ s.trn.lanes.any (·.2 == 1) then s
  else
    let t := s.updSxt fun x => { x with bootStep := 8 }
    let t := if s.sxt.warm then { t with heath := { t.heath with isolated := (upFrom 0 4224).map fun k => (k, true) } } else t
    let jobs : List BistJob := (upFrom 0 263).map fun k => ⟨k, .startup, true, true, true, false⟩
    { t with bist := Bist.round { t.bist with tests := t.bist.tests ++ jobs } }

/-- PORT_TRAINING_DONE (R367). -/
def execPortTrainingDone (n : SwPort) (t : Training) (s : State) : Out :=
  .next (if s.hasSw n && (s.sw n).st == .training then (s.swTrained n t).toStep8 else s)

/-- SWARM_RETRAIN_DONE (R371). -/
def execSwarmRetrainDone (n : SwPort) (t : Training) (s : State) : Out := s.attemptWhole (.swarmRetrainDone n t) <|
  .next (if s.hasSw n && (s.sw n).st == .retraining then ((s.swTrained n t).swRebuild).toStep8 else s)

/-- The collectives of every meadow that involve a device fail (R372, R379). -/
def State.failPeer (s : State) (d : Nat) : State :=
  s.meadowIds.foldl (fun t m =>
    (t.updMeadow m fun x => { x with
      swTaken := x.swTaken.map fun k => if (swPeers k.entry t.heath.device).contains d then { k with lost := true } else k }).swNext m) s

/-- A port that is UP again sends what waits at the rim, and resends what it had sent and is not acknowledged (R369, R371). -/
def State.swResend (s : State) (n : Nat) : State :=
  let x := s.sw n
  let t := x.waiting.foldl (fun t c => t.emit (.swControl n c)) s
  (x.unacked.foldl (fun t f => t.swEmit n f) t).updSw n fun x =>
    { x with
      retries := satInc x.retries (x.unacked.filter (·.sent)).length, waiting := [],
      unacked := x.unacked.map fun f => { f with sent := true } }

/-- The checks of an admission, in order: a code, or none (R368). -/
def State.admissionCheck (s : State) (r : PeerReport) : Option Half :=
  let b := r.report
  if !(r.valid && b.length == reportBytes && fieldNat b 6 1 == 3 && sliceBytes b 168 32 == keyDigest s.keyed s.guard.owner) then
    some Code.swPeerIdentity
  else if r.device.toNat = s.heath.device then some Code.swDevice
  else none

/-- Whether a port's admission may run: after training, or again when the peer restarts. At a cold start it waits until a
stream has been accepted (R368, R372, R473, R478). -/
def State.admits (s : State) (n : Nat) : Bool :=
  let x := s.sw n
  s.hasSw n && !s.swDead n && (s.sxt.warm || 10 ≤ s.sxt.bootStep)
    && (x.st == .admitting || x.st == .up || (x.st == .down && x.code != Code.swTraining))

/-- ADMISSION: this device's report goes to the peer, the peer's is checked, and the port becomes UP with a link key, or DOWN
(R368, R372, R373, R457, R473). The report is a device-only one with a fresh nonce: DESIGN CHOICE, log entry 49. -/
def execAdmission (n : SwPort) (r : PeerReport) (s : State) : Out := s.attemptWhole (.admission n r) <|
  .next (if !s.admits n then s
    else
      let down (t : State) (c : Half) : State := (t.updSw n fun x => { x with st := .down, code := c }).swRebuild
      let (nonce, t) := s.freeBytes 32
      let b := t.report (nonce ++ [0xFF]) zero32
      match t.identitySign b with
      | .error c => down s c
      | .ok (sg, t) =>
        let t := t.emit (.swHello n t.heath.device t.sxt.devGen.toNat (b ++ sg))
        match t.admissionCheck r with
        | some c => down t c
        | none =>
          let old := t.sw n
          let changed := old.peerGen.isSome && old.peerGen != some r.gen
          let (draw, t) := t.fresh
          let t := t.updSw n fun x =>
            { x with
              st := .up, peer := r.device.toNat, peerGen := some r.gen, code := Code.ok, failRun := 0,
              key := natToBytes 32 (Config.linkKey t.sxt.kem draw r.report).toNat,
              rxSeq := if changed then 0 else x.rxSeq, rxSeen := if changed then [] else x.rxSeen,
              txSeq := if changed then 0 else x.txSeq, unacked := if changed then [] else x.unacked,
              waiting := if changed then [] else x.waiting,
              hops := if changed || x.peer ≠ r.device.toNat then [] else x.hops }
          let t := if changed then t.failPeer old.peer else t.swResend n
          t.swRebuild)

/-- The lowest sequence number not received, past those received above it. -/
def rxPast (seen : List Nat) : Nat → Nat → Nat
  | 0, q => q
  | fuel + 1, q => if seen.contains q then rxPast seen fuel (q + 1) else q

/-- A payload that has arrived whole: kept for its collective, or relayed towards its device (R369, R373). -/
def State.swDeliver (s : State) (h : SwHead) (b : List Byte) : State :=
  if h.dest.toNat ≠ s.heath.device then s.swForward h b
  else if (s.meadow h.key.meadow).state = .absent then s
  else s.updMeadow h.key.meadow fun x => { x with swGot := x.swGot ++ [(h, b)] }

/-- SWARM_FRAME: a frame from the peer, with the peer's generation that it carries (R369, R370, R372, R373, R379). A member's side
that is for this device reaches the collective engine, which COLLECTIVE_COMPLETE tells of all of them. -/
def execSwarmFrame (n : SwPort) (gen : Half) (f : SwFrame) (s : State) : Out := s.attemptWhole (.swarmFrame n gen f) <|
  let x := s.sw n
  .next (if !(s.hasSw n && x.st == .up) then s
    else if f = .overRate then s.swRetrain n
    else if x.peerGen ≠ some gen then s.updSw n fun x => { x with stale := satInc x.stale }
    else match f with
      | .data seq h c tag fec =>
        match if fec then gcmOpen x.key (natToBytes 12 (Config.linkNonce gen.toNat seq).toNat) [] c tag else none with
        | none =>
          let t := (s.emit (.swNack n seq)).updSw n fun x => { x with failRun := x.failRun + 1 }
          if 16 ≤ x.failRun + 1 then t.swRetrain n else t
        | some b =>
          let t := (s.updSw n fun x => { x with failRun := 0 }).emit (.swAck n seq)
          if seq < x.rxSeq ∨ seq ∈ x.rxSeen then t
          else
            let seen := seq :: x.rxSeen
            let q := rxPast seen seen.length x.rxSeq
            (t.updSw n fun x => { x with rxSeq := q, rxSeen := seen.filter (q ≤ ·) }).swDeliver h b
      | .ack seq => s.updSw n fun x => { x with unacked := x.unacked.filter fun u => u.seq ≠ seq }
      | .nack seq =>
        match x.unacked.find? fun u => u.seq = seq with
        | some u => (s.swEmit n u).updSw n fun x => { x with retries := satInc x.retries }
        | none => s
      | .overRate => s
      | .vector hops =>
        (s.updSw n fun x => { x with hops := hops.foldl (fun m e => Sparse.put none m e.1 (some e.2)) [] }).swRebuild
      | .control c =>
        if swDest c ≠ s.heath.device then s.swControl c
        else match c with
          | .side _ _ _ => s
          | .failure _ k =>
            (s.updMeadow k.meadow fun x => { x with
              swTaken := x.swTaken.map fun y => if swKey k.meadow y.entry = k then { y with lost := true } else y }).swNext k.meadow)

/-- SWARM_ACK_TIMEOUT: a frame stays unacknowledged (R370). -/
def execSwarmAckTimeout (n : SwPort) (s : State) : Out := s.attemptWhole (.swarmAckTimeout n) <|
  .next (if s.hasSw n && (s.sw n).st == .up && !(s.sw n).unacked.isEmpty then s.swRetrain n else s)

/-- A write of MDW_SWARMm_RING (R381). -/
def State.swRingWrite (s : State) (m : Nat) (v : Dword) : State :=
  let x := s.meadow m
  let refuse (c : Half) : State := s.refuseWrite x.port x.fn c (mdwOff 0x140)
  let size := bitsOf v.toNat 51 48
  if x.state = .absent then s
  else if !x.state.isStopped then refuse Code.swBusy
  else if bitsOf v.toNat 11 0 ≠ 0 ∨ size < 4 ∨ 12 < size then refuse Code.swDescriptor
  else s.updMeadow m fun x => { x with swRing := bitsOf v.toNat 47 0, swSize := size }

/-- SWARM_RING_WRITE. -/
def execSwarmRingWrite (m : MeadowIx) (v : Dword) (s : State) : Out :=
  .next (s.hostRow m (mdwOff 0x140) fun s => s.swRingWrite m v)

/-- Training of every enabled port of the part begins (R367, R473). -/
def State.swStart (s : State) : State :=
  (upFrom 0 s.part.swarmPorts).foldl (fun t n =>
    t.updSw n fun x => { x with st := if (s.swCfg n).enable then .training else .disabled }) s

/-- A stream's SWARM records applied to trained ports (R473). -/
def State.swApply (s : State) : State :=
  (upFrom 0 s.part.swarmPorts).foldl (fun t n =>
    let c := t.swCfg n
    t.updSw n fun x =>
      if !c.enable then { x with st := .disabled }
      else if x.st = .admitting
          && (x.rate < c.maxRate || (x.spareUsed && !c.spare) || x.lanes < c.minLanes || (c.fec ≠ 0 && x.fec ≠ c.fec - 1)) then
        { x with st := .training }
      else x) s

end Sys2Proof.Machine
end

