-- ==== Sys2Proof/Machine/Transport.lean ====
section
/-!
DEFINITION. The transport port: lanes, MMP sessions, ingest and film-out (19 R403 to R424).
-/

namespace Sys2Proof.Machine

open Sys2Proof

/-- The transport port changed. -/
def State.updTrn (s : State) (f : Trn → Trn) : State := { s with trn := f s.trn }
/-- A frame dropped and counted in TRN_RX_DROPS (R404). -/
def State.rxDrop (s : State) : State := s.updTrn fun x => { x with rxDrops := satInc x.rxDrops }
/-- Whether a lane is up (R403). -/
def State.laneUp (s : State) (l : Nat) : Bool := bitOf s.heath.trn.lanes l && Sparse.get 0 s.trn.lanes l == 2

/-! The mode and the ring (R408, R412). -/

/-- Bytes per pixel of a format; 0 for a format outside R407 (R407, R408). -/
def pixelBytes (f : Nat) : Nat :=
  if f = 0x01100007 ∨ f = 0x0110002F then 2 else if f = 0x02300033 then 6 else 0

/-- Bytes of a line. -/
def TrnMode.line (m : TrnMode) : Nat := m.width * pixelBytes m.pixel
/-- Bytes of a frame. -/
def TrnMode.frame (m : TrnMode) : Nat := m.line * m.height
/-- Bytes from one slot to the next. -/
def TrnMode.stride (m : TrnMode) : Nat := ceilDiv m.frame 65536 * 65536
/-- Payload packets of a frame. -/
def TrnMode.packets (m : TrnMode) : Nat := ceilDiv m.frame m.packet

/-- Base and size of the ring region. -/
def State.ring (s : State) : Nat × Nat :=
  match s.heath.regions.find? fun r => r.num = s.heath.trn.ring with
  | some r => (r.base, r.size)
  | none => (0, 0)

/-- The slots that the ring holds for a mode (R412). -/
def State.slotsFor (s : State) (m : TrnMode) : Nat :=
  if m.stride = 0 then 0 else min 1024 ((s.ring.2 - 65536) / m.stride)

/-- The address of a slot. -/
def State.slotAt (s : State) (k : Nat) : Nat := s.ring.1 + 65536 + k * s.trn.mode.stride
/-- The address of a slot's status entry. -/
def State.entryAt (s : State) (k : Nat) : Nat := s.ring.1 + 64 + 16 * k
/-- Bytes of the ring header written (R297, R412). -/
def State.ringPut (s : State) (a : Nat) (b : List Byte) : State := s.physPut 4 a b

/-- HOST_COUNT read from the ring header (R413). -/
def State.readHostCount (s : State) : State :=
  let ((_, b), t) := s.physGet s.ring.1 8
  t.updTrn fun x => { x with hostCount := bytesToNat b }

/-- PORT_COUNT raised by one (R413, R422). -/
def State.raisePortCount (s : State) : State :=
  let t := s.updTrn fun x => { x with portCount := x.portCount + 1 }
  t.ringPut (t.ring.1 + 8) (natToBytes 8 t.trn.portCount)

/-- The note of a finished frame (R413). -/
def State.frameNote (s : State) (frame slot flags missing : Nat) : State :=
  if !s.trn.noteEn then s
  else
    let p := natToBytes 4 frame ++ natToBytes 2 slot ++ natToBytes 2 flags ++ natToBytes 4 missing
    match s.hubNote s.trn.noteCore s.trn.noteQueue .transport p with
    | some t => t
    | none => s.updTrn fun x => { x with noteDrops := satInc x.noteDrops }

/-! MMP (R409, R410). -/

/-- A message with its header (R409). -/
def mmpBytes (type session seq ack : Nat) (pay : List Byte) : List Byte :=
  natToBytes 2 0x4D4D ++ natToBytes 1 1 ++ natToBytes 1 type ++ natToBytes 4 session ++ natToBytes 4 seq
    ++ natToBytes 4 ack ++ pay

/-- A message sent; every message but ALIVE and READY waits for its acknowledgement (R410). -/
def State.mmpSend (s : State) (type session ack : Nat) (pay : List Byte) : State :=
  let seq := s.trn.txSeq + 1
  let m := mmpBytes type session seq ack pay
  (s.emit (.mmp m)).updTrn fun x =>
    { x with txSeq := seq, reqs := if type = 0xA then x.reqs else x.reqs ++ [⟨seq, m, 1⟩] }

/-- A message of the session. -/
def State.mmp (s : State) (type : Nat) (pay : List Byte) : State := s.mmpSend type s.trn.session s.trn.rxSeq pay

/-- Whether a request is a REFUSE, which belongs to no session. -/
def MmpReq.isRefuse (r : MmpReq) : Bool := fieldNat r.msg 3 1 == 3

/-- Whether a session exists (R411). -/
def TrnState.alive : TrnState → Bool
  | .idle | .ended => false
  | _ => true

/-- A message of the session registered: its number and its acknowledgement (R409, R410); `none` where it is dropped. -/
def State.register (s : State) (l : Nat) (h : MmpHdr) : Option State :=
  if !s.laneUp l ∨ s.trn.st = .idle ∨ h.session.toNat ≠ s.trn.session then none
  else some (s.updTrn fun x =>
    { x with
      rxSeq := max x.rxSeq h.seq.toNat
      reqs := x.reqs.filter fun r => r.isRefuse || h.ack.toNat < r.seq })

/-- A session message that arrives on a lane: registered and given its effect while the session exists, dropped and
counted where its SESSION is wrong (R409). Nothing arrives on a lane that is not up. -/
def State.onMessage (s : State) (l : Nat) (h : MmpHdr) (f : State → State) : State :=
  if !s.laneUp l then s
  else match s.register l h with
    | none => s.rxDrop
    | some t => if t.trn.st.alive then f t else t

/-! Ingest frames (R414 to R418). -/

/-- The line sequence of the last line of payload packet `p` of a block (R408). -/
def TrnMode.lastLine (m : TrnMode) (block p : Nat) : Nat := block * m.height + (min (p * m.packet) m.frame - 1) / m.line

/-- Lines of a frame that are not complete (R408, R418). -/
def TrnFrame.missing (f : TrnFrame) (m : TrnMode) : Nat :=
  ((List.range m.height).filter fun i =>
    let a := i * m.line / m.packet + 1
    let b := ((i + 1) * m.line - 1) / m.packet + 1
    f.lost.contains i || (upFrom a (b + 1 - a)).any fun p => !f.got.contains p).length

/-- A frame finishes: its status entry, PORT_COUNT and its note (R413, R418). -/
def State.finishFrame (s : State) (f : TrnFrame) : State :=
  let miss := f.missing s.trn.mode
  let flags := if miss = 0 then 0 else 1
  let t := s.ringPut (s.entryAt f.slot + 4) (natToBytes 4 miss ++ natToBytes 1 flags)
  let t := t.raisePortCount
  let t := t.updTrn fun x =>
    { x with missing := satInc x.missing miss, frames := x.frames.filter fun g => g.block ≠ f.block, finished := f.block :: x.finished }
  t.frameNote (f.block % 2 ^ 32) f.slot flags miss

/-- Every open frame finishes (R418, R419). -/
def State.finishAll (s : State) : State := s.trn.frames.foldl (fun t f => t.finishFrame f) s

/-- The frames whose every window has closed finish (R417, R418). -/
def State.finishClosed (s : State) : State :=
  match s.trn.hiLine with
  | none => s
  | some h =>
    (s.trn.frames.filter fun f => f.block * s.trn.mode.height + s.trn.mode.height - 1 + 256 ≤ h).foldl
      (fun t f => t.finishFrame f) s

/-- The session ends with a code (R410). -/
def State.endSession (s : State) (code : Half) : State :=
  if !s.trn.st.alive then s
  else
    let t := if s.trn.filmOut then s else s.finishAll
    t.updTrn fun x =>
      { x with
        st := .ended, code := code, sending := false, runDue := false, pauseOut := false, discarded := [], outBuf := [],
        announced := 0, reqs := x.reqs.filter fun r => r.isRefuse || fieldNat r.msg 3 1 == 0xB }

/-- PAUSE sent (R415, R422, R424). -/
def State.sendPause (s : State) : State :=
  (s.mmp 6 []).updTrn fun x => { x with pauseOut := true, st := .pausing }

/-- RUN sent (R414, R419, R420, R423). -/
def State.sendRun (s : State) : State :=
  (s.mmp 4 (natToBytes 4 s.trn.startFrame.toNat)).updTrn fun x =>
    { x with
      st := .running, pauseOut := false, runDue := false, finished := [], discarded := [], hiLine := none,
      sending := false, outFrame := x.startFrame.toNat, outLine := 0, outVoid := 0, announced := 0, outBuf := [] }

/-- A frame of a new block opens, or is discarded whole (R414 to R416). -/
def State.openFrame (s : State) (block : Nat) : State :=
  let t := s.readHostCount
  let x := t.trn
  let f := x.hostCount + x.slots - x.nextCount
  if f = 0 then t.updTrn fun x => { x with overrun := satInc x.overrun, discarded := block :: x.discarded }
  else
    let slot := x.nextCount % x.slots
    let t := t.ringPut (t.entryAt slot) (natToBytes 4 block ++ natToBytes 5 0)
    let t := t.updTrn fun x =>
      { x with nextCount := x.nextCount + 1, frames := x.frames ++ [⟨block, x.nextCount, slot, [], [], 0⟩] }
    if !x.pauseOut ∧ f - 1 < x.mode.stop + 2 then t.sendPause else t

/-- A frame changed. -/
def State.updFrame (s : State) (block : Nat) (g : TrnFrame → TrnFrame) : State :=
  s.updTrn fun x => { x with frames := x.frames.map fun f => if f.block = block then g f else f }

/-- A sector of a frame written, with whether it took effect (R297, R314, R412). -/
def State.framePut (s : State) (pa : Nat) (b : List Byte) : Bool × State :=
  if s.pageRetired pa ∨ !(s.frozenBy pa none).isEmpty then (false, s.agentWrite 4 pa b none)
  else match s.writeSec pa b with
    | (.ok _, t) => (true, t)
    | (.error _, t) => (false, t)

/-- A packet's bytes written into its frame's slot, sector by sector; a line that loses a sector counts as missing. -/
def State.putPacket (s : State) (f : TrnFrame) : Nat → Nat → List Byte → State
  | 0, _, _ => s
  | fuel + 1, off, b =>
    if b.isEmpty then s
    else
      let (ok, t) := s.framePut (s.slotAt f.slot + off) (b.take 32)
      let i := off / s.trn.mode.line
      let t := if ok then t else t.updFrame f.block fun g => { g with lost := if g.lost.contains i then g.lost else g.lost ++ [i] }
      t.putPacket f fuel (off + 32) (b.drop 32)

/-- The resend request of a gap: the packets skipped, those of closed windows left out (R407, R417). -/
def State.askResend (s : State) (f : TrnFrame) (id : Nat) : State :=
  let m := s.trn.mode
  let closed := match s.trn.hiLine with | some h => h - 255 - f.block * m.height | none => 0
  let lo := max f.next (if closed = 0 then 0 else ceilDiv (closed * m.line + 1) m.packet)
  if lo < id then s.emit (.packetResend f.block lo (id - 1)) else s

/-- The open frame of a block after its first packet has opened it, if it has a slot (R414, R416). Of a block that is not open,
a packet older than the oldest open frame counts as dropped, then one of a discarded frame is ignored, then one of a finished
frame counts as late: DEDUCED, log entry 30. -/
def State.withFrame (s : State) (block : Nat) (g : State → TrnFrame → State) : State :=
  let go (t : State) : State :=
    match t.trn.frames.find? fun f => f.block = block with
    | some f => g t f
    | none => t
  if s.trn.frames.any fun f => f.block = block then go s
  else if !s.trn.frames.isEmpty && s.trn.frames.all (block < ·.block) then s.rxDrop
  else if s.trn.discarded.contains block then s
  else if s.trn.finished.contains block then s.updTrn fun x => { x with late := satInc x.late }
  else go (s.openFrame block)

/-- A gap before packet `id` is asked for, and `id` registered as seen. -/
def State.seePacket (s : State) (f : TrnFrame) (id : Nat) : State :=
  let t := if f.next < id then s.askResend f id else s
  t.updFrame f.block fun g => { g with next := max g.next (id + 1) }

/-- A payload packet in order of R417: its window, its gap, its bytes. -/
def State.payloadPacket (s : State) (block id : Nat) (bytes : List Byte) : State :=
  let m := s.trn.mode
  let line := m.lastLine block id
  let late : Bool := match s.trn.hiLine with | some h => decide (line + 256 ≤ h) | none => false
  let t := s.withFrame block fun t f =>
    if late then t.updTrn fun x => { x with late := satInc x.late }
    else
      let t := t.updTrn fun x => { x with hiLine := some (max (x.hiLine.getD 0) line) }
      let t := t.seePacket f id
      let t := t.updFrame block fun g => { g with got := if g.got.contains id then g.got else g.got ++ [id] }
      t.putPacket f (bytes.length / 32 + 1) ((id - 1) * m.packet) bytes
  let t := if t.trn.discarded.contains block then t.updTrn fun x => { x with hiLine := some (max (x.hiLine.getD 0) line) } else t
  t.finishClosed

/-- Whether frames arrive: an ingest session that runs or pauses (R414, R415). -/
def Trn.ingesting (x : Trn) : Bool := !x.filmOut && (x.st == .running || x.st == .pausing)

/-- A packet of an ingest that runs or pauses (R404, R407, R414 to R418). -/
def State.gvspIn (s : State) (p : Gvsp) : State :=
  let m := s.trn.mode
  match p with
  | .leader block image pixel width height =>
    if !image ∨ pixel.toNat ≠ m.pixel ∨ width.toNat ≠ m.width ∨ height.toNat ≠ m.height then s.rxDrop
    else s.withFrame block.toNat fun t f => t.seePacket f 0
  | .payload block id bytes =>
    if id = 0 ∨ m.packets < id.toNat ∨ bytes.length ≠ min m.packet (m.frame - (id.toNat - 1) * m.packet) then s.rxDrop
    else s.payloadPacket block.toNat id.toNat bytes
  | .trailer block id =>
    s.withFrame block.toNat fun t f =>
      let t := t.seePacket f id.toNat
      match t.trn.frames.find? fun g => g.block = block.toNat with
      | some g => t.finishFrame g
      | none => t

/-- GVSP_PACKET. -/
def execGvspPacket (l : LaneIx) (p : Gvsp) (s : State) : Out := s.attemptWhole (.gvspPacket l p) <|
  .next (if !s.laneUp l then s else if !s.trn.ingesting then s.rxDrop else s.gvspIn p)

/-! Session messages (R410, R411, R419, R420). -/

/-- A mode entry of a HELLO from byte `o` of its payload. -/
def modeAt (b : List Byte) (o : Nat) : TrnMode :=
  { pixel := fieldNat b o 4, width := fieldNat b (o + 4) 2, height := fieldNat b (o + 6) 2, lineRate := fieldNat b (o + 8) 4,
    stop := fieldNat b (o + 12) 2, start := fieldNat b (o + 14) 2, packet := fieldNat b (o + 16) 2 }

/-- Whether a mode is supported (R411). -/
def TrnMode.supported (m : TrnMode) : Bool :=
  pixelBytes m.pixel ≠ 0 && m.width % 16 = 0 && 16 ≤ m.width && m.width ≤ 16384 && 1 ≤ m.height && m.height ≤ 16384
    && 1 ≤ m.lineRate && m.lineRate ≤ 2000000 && m.stop ≤ 64 && m.start ≤ 64 && m.packet % 32 = 0
    && 256 ≤ m.packet && m.packet ≤ 8928

/-- Whether a HELLO payload is well formed: DIRECTION, COUNT, its length and its reserved bytes (R409). -/
def helloOk (b : List Byte) : Bool :=
  let n := fieldNat b 1 1
  fieldNat b 0 1 ≤ 1 && 1 ≤ n && n ≤ 8 && b.length = 16 + 32 * n && fieldZero b 2 14
    && (upFrom 0 n).all fun i => fieldZero b (16 + 32 * i + 18) 14

/-- The better of two fitting modes: the greater rate, the first listed among equals (R411). -/
def betterMode (a : Option (Nat × TrnMode)) (b : Nat × TrnMode) : Option (Nat × TrnMode) :=
  match a with
  | none => some b
  | some x => if x.2.line * x.2.lineRate < b.2.line * b.2.lineRate then some b else some x

/-- The mode accepted: its index and the mode; the refusal otherwise (R411). -/
def State.chooseMode (s : State) (b : List Byte) : Except Half (Nat × TrnMode) :=
  let ms := (upFrom 0 (fieldNat b 1 1)).map fun i => (i, modeAt b (16 + 32 * i))
  let good := ms.filter (·.2.supported)
  if good.isEmpty then .error Code.trnFormat
  else match (good.filter fun m => m.2.stop + 2 ≤ s.slotsFor m.2).foldl betterMode none with
    | some m => .ok m
    | none => .error Code.trnMode

/-- REFUSE sent, and its code recorded (R411). -/
def State.refuseHello (s : State) (h : MmpHdr) (c : Half) : State :=
  (s.mmpSend 3 0 h.seq.toNat (natToBytes 2 c.toNat)).updTrn fun x => { x with code := c }

/-- A session number: any value but zero (R411). -/
def State.freshSession (s : State) : Nat × State :=
  let (n, t) := s.fresh
  let w := (Config.freeWord n).toNat
  (if w = 0 then 1 else w, t)

/-- The session that a HELLO opens: its mode, the ring header cleared and marked with it, and ACCEPT (R411, R412). -/
def State.acceptHello (s : State) (h : MmpHdr) (b : List Byte) (ix : Nat) (m : TrnMode) : State :=
  let (w, t) := s.freshSession
  let k := t.slotsFor m
  let t := t.updTrn fun x =>
    { x with
      st := .accepted, filmOut := fieldNat b 0 1 == 1, modeIx := ix, slots := k, code := Code.ok, session := w, mode := m,
      rxSeq := h.seq.toNat, reqs := x.reqs.filter (·.isRefuse), pauseOut := false, runDue := false, hostCount := 0,
      portCount := 0, nextCount := 0, frames := [], finished := [], discarded := [], hiLine := none, sending := false,
      outFrame := 0, outLine := 0, outGap := false, outVoid := 0, announced := 0, outBuf := [] }
  let t := t.ringPut t.ring.1 (natToBytes 16 0 ++ natToBytes 8 w)
  t.mmp 2 (natToBytes 1 ix ++ natToBytes 2 k)

/-- HELLO (R409 to R412): none is answered before start-up ends (R473). `b` is the payload from byte 16 on. -/
def execHello (l : LaneIx) (h : MmpHdr) (b : List Byte) (s : State) : Out := s.attemptWhole (.hello l h b) <|
  .next (if !s.laneUp l ∨ s.sxt.bootStep ≠ 11 then s
    else if h.session ≠ 0 ∨ !helloOk b then s.rxDrop
    else
      let s := s.updTrn fun x => { x with reqs := x.reqs.filter fun r => !(r.isRefuse && r.seq ≤ h.ack.toNat) }
      if s.trn.st.alive then s.refuseHello h Code.trnBusy
      else match s.chooseMode b with
        | .error c => s.refuseHello h c
        | .ok (ix, m) => s.acceptHello h b ix m)

/-- READY: on film-out the data path starts (R420). -/
def execReady (l : LaneIx) (h : MmpHdr) (s : State) : Out :=
  .next (s.onMessage l h fun t =>
    if t.trn.filmOut ∧ (t.trn.st = .running ∨ t.trn.st = .pausing) then t.updTrn fun x => { x with sending := true } else t)

/-- STOPPED: the partner has stopped, and open frames finish (R418, R419, R422). -/
def execStopped (l : LaneIx) (h : MmpHdr) (_lastFrame _lastLine : Word) (s : State) : Out := s.attemptWhole (.stopped l h _lastFrame _lastLine) <|
  .next (s.onMessage l h fun t =>
    if t.trn.st = .running ∨ t.trn.st = .pausing then
      let t := if t.trn.filmOut then t else t.finishAll
      t.updTrn fun x => { x with st := .paused, sending := false, discarded := [], outBuf := [], announced := 0 }
    else t)

/-- ALIVE from the partner (R410). -/
def execAlive (l : LaneIx) (h : MmpHdr) (s : State) : Out := .next (s.onMessage l h id)

/-- BYE from the partner: the session ends with its code (R410). -/
def execBye (l : LaneIx) (h : MmpHdr) (code : Half) (s : State) : Out := s.attemptWhole (.bye l h code) <|
  .next (s.onMessage l h fun t => t.endSession code)

/-- MMP_RESEND: an unacknowledged request is sent again, or given up after eight sends (R410). -/
def execMmpResend (seq : Word) (s : State) : Out := s.attemptWhole (.mmpResend seq) <|
  .next (match s.trn.reqs.find? fun r => r.seq = seq.toNat with
    | none => s
    | some r =>
      if r.sends < 8 then
        (s.emit (.mmp r.msg)).updTrn fun x =>
          { x with reqs := x.reqs.map fun q => if q.seq = r.seq then { q with sends := q.sends + 1 } else q }
      else
        let t := s.updTrn fun x => { x with reqs := x.reqs.filter fun q => q.seq ≠ r.seq }
        if r.isRefuse then t else t.endSession Code.trnPartnerLost)

/-- MMP_IDLE_TIMER: ALIVE is sent (R410). -/
def execMmpIdleTimer (s : State) : Out := .next (if s.trn.st.alive then s.mmp 0xA [] else s)

/-- PARTNER_LOST: the session ends (R410). -/
def execPartnerLost (s : State) : Out := s.attemptWhole (.partnerLost) <| .next (s.endSession Code.trnPartnerLost)

/-- HOST_COUNT_POLL: HOST_COUNT is read, and a RUN of film-out that waits for a published frame is sent (R413, R420). -/
def execHostCountPoll (s : State) : Out := s.attemptWhole (.hostCountPoll) <|
  .next (if !s.trn.st.alive then s
    else
      let t := s.readHostCount
      if t.trn.runDue ∧ t.trn.portCount < t.trn.hostCount then t.sendRun else t)

/-! Film-out (R420 to R423). -/

/-- The address of a line of the frame being sent: its count is PORT_COUNT (R412, R420). -/
def State.outAddr (s : State) (line : Nat) : Nat :=
  s.slotAt (s.trn.portCount % s.trn.slots) + line * s.trn.mode.line

/-- The consecutive lines from `line` on that are VOID, each read in turn: the first `absent` are not in the buffer, and others
return all ones for an uncorrectable error (R313, R421). A page retired before reads as ones under R314 and voids nothing. -/
def State.voidRun (s : State) (absent : Nat) : Nat → Nat → Nat → Nat
  | 0, _, _ => 0
  | fuel + 1, line, i =>
    match s.physGet (s.outAddr line) s.trn.mode.line with
    | ((lost, _), t) => if i < absent ∨ lost then 1 + t.voidRun absent fuel (line + 1) (i + 1) else 0

/-- The start of a frame: its leader, and a GAP frame's VOID message and PAUSE (R421, R422). -/
def State.startOut (s : State) : State :=
  let t := s.readHostCount
  let x := t.trn
  let gap := decide (x.hostCount ≤ x.portCount)
  let t := t.emit (.gvspLeader x.outFrame x.mode.pixel x.mode.width x.mode.height)
  let t := t.updTrn fun x => { x with outGap := gap, outVoid := 0, outBuf := [], announced := 0 }
  if !gap then t
  else
    let t := t.mmp 8 (natToBytes 4 x.outFrame ++ natToBytes 4 0 ++ natToBytes 4 x.mode.height)
    let t := t.updTrn fun y => { y with announced := y.mode.height }
    if x.pauseOut then t else t.sendPause

/-- Packets of a frame sent from the bytes gathered: whole packets, and what is left after the last line. -/
def State.outPackets (s : State) (b : List Byte) (last : Bool) : State :=
  let x := s.trn
  let first := x.outLine * x.mode.line / x.mode.packet + 1
  let n := b.length / x.mode.packet
  let t := (upFrom 0 n).foldl (fun t i =>
    t.emit (.gvspPayload x.outFrame (first + i) (sliceBytes b (i * x.mode.packet) x.mode.packet))) s
  let rest := b.drop (n * x.mode.packet)
  if last && !rest.isEmpty then (t.emit (.gvspPayload x.outFrame (first + n) rest)).updTrn fun y => { y with outBuf := [] }
  else t.updTrn fun y => { y with outBuf := rest }

/-- The end of a frame: its trailer, FRAME_END, the slot's status, PORT_COUNT and the note (R421 to R423). -/
def State.endOut (s : State) : State :=
  let x := s.trn
  let flags := (if x.outVoid = 0 then 0 else 2) + (if x.outGap then 4 else 0)
  let t := s.emit (.gvspTrailer x.outFrame (x.mode.packets + 1))
  let t := t.mmp 9 (natToBytes 4 x.outFrame ++ natToBytes 1 (flags / 2))
  let t := t.updTrn fun y =>
    { y with void := satInc y.void x.outVoid, outFrame := (y.outFrame + 1) % 2 ^ 32, outLine := 0, announced := 0 }
  if x.outGap then t.frameNote x.outFrame 0xFFFF flags x.outVoid
  else
    let slot := x.portCount % x.slots
    let t := t.ringPut (t.entryAt slot) (natToBytes 4 x.outFrame ++ natToBytes 4 x.outVoid ++ natToBytes 1 flags)
    t.raisePortCount.frameNote x.outFrame slot flags x.outVoid

/-- A line sent, of which the first `absent` from it on are not wholly in the line buffer at their send times (R420 to R422). -/
def State.sendLine (s : State) (absent : Nat) : State :=
  let t := if s.trn.outLine = 0 then s.startOut else s
  let x := t.trn
  let run := if x.announced = 0 then t.voidRun absent (x.mode.height - x.outLine) x.outLine 0 else 0
  let t := if run = 0 then t
    else (t.mmp 8 (natToBytes 4 x.outFrame ++ natToBytes 4 x.outLine ++ natToBytes 4 run)).updTrn fun y => { y with announced := run }
  let ((lost, data), t) := if x.outGap then ((false, []), t) else t.physGet (t.outAddr x.outLine) x.mode.line
  let t := if lost then t.updTrn fun y => { y with uncorrected := satInc y.uncorrected } else t
  let void := decide (0 < t.trn.announced)
  let t := if void then t.updTrn fun y => { y with announced := y.announced - 1, outVoid := y.outVoid + 1 } else t
  let bytes := if void then List.replicate x.mode.line 0 else data
  let last := x.outLine + 1 == x.mode.height
  let t := t.outPackets (t.trn.outBuf ++ bytes) last
  if last then t.endOut else t.updTrn fun y => { y with outLine := y.outLine + 1 }

/-- LINE_SEND: the pacer reaches a line's send time; it knows how many lines from this one on are absent. -/
def execLineSend (absent : Half) (s : State) : Out := s.attemptWhole (.lineSend absent) <|
  .next (if s.trn.sending && s.trn.filmOut then s.sendLine absent.toNat else s)

/-! Control from the host (R424). -/

/-- Offset of TRN_CONTROL in a PF's BAR0 (26). -/
def trnControl : Nat := 0x140048
/-- Offset of TRN_START_FRAME. -/
def trnStartFrame : Nat := 0x140050

/-- Whether a port carries the transport meadow (R424). -/
def State.trnPort (s : State) (p : Nat) : Bool :=
  s.heath.trn.lanes ≠ 0 && (s.meadow s.heath.trn.meadow).state != .absent && (s.meadow s.heath.trn.meadow).port == p

/-- A refused control write: its code in TRN_SESSION_STATUS and in the function's write status (R424, R529). -/
def State.refuseTrn (s : State) (p : Nat) (c : Half) (off : Nat) : State :=
  (s.updTrn fun x => { x with code := c }).refuseWrite p 0 c off

/-- A control write of a port: refused from the wrong port, else given its effect. -/
def State.trnWrite (s : State) (p off : Nat) (f : State → State) : State :=
  if s.trnPort p then f s else s.refuseTrn p Code.trnNotPermitted off

/-- RUN written (R414, R419, R420). -/
def State.trnRun (s : State) (p : Nat) : State :=
  s.trnWrite p trnControl fun s =>
    if s.trn.st ≠ .accepted ∧ s.trn.st ≠ .paused then s.refuseTrn p Code.trnState trnControl
    else if !s.trn.filmOut then s.sendRun
    else
      let t := s.readHostCount
      if t.trn.portCount < t.trn.hostCount then t.sendRun else t.updTrn fun x => { x with runDue := true }

/-- PAUSE written (R424). -/
def State.trnPause (s : State) (p : Nat) : State :=
  s.trnWrite p trnControl fun s => if s.trn.st ≠ .running then s.refuseTrn p Code.trnState trnControl else s.sendPause

/-- END written (R410, R424). -/
def State.trnEnd (s : State) (p : Nat) : State :=
  s.trnWrite p trnControl fun s => if s.trn.st.alive then (s.mmp 0xB (natToBytes 2 0)).endSession Code.ok else s

/-- TRN_RUN. -/
def execTrnRun (p : PortIx) (s : State) : Out := s.attemptWhole (.trnRun p) <| .next (s.trnRun p)
/-- TRN_PAUSE. -/
def execTrnPause (p : PortIx) (s : State) : Out := .next (s.trnPause p)
/-- TRN_END. -/
def execTrnEnd (p : PortIx) (s : State) : Out := s.attemptWhole (.trnEnd p) <| .next (s.trnEnd p)

/-! Lanes (R403, R404). -/

/-- LANE_STATE_CHANGE: a lane comes up with a medium, or goes down (R403, R404). The last lane whose training ends may end
step 7 (R469). -/
def execLaneStateChange (l : LaneIx) (up cr1 : Bool) (s : State) : Out :=
  .next (if Sparse.get 0 s.trn.lanes l = 0 then s
    else
      let cr := match s.heath.trn.media with | 0 => false | 1 => true | _ => cr1
      (s.updTrn fun x =>
        { x with
          lanes := Sparse.put 0 x.lanes l (if up then 2 else 3)
          media := if up then Sparse.put false x.media l cr else x.media }).toStep8)

/-- ARP_REQUEST: a request for the transport address is answered (R403). -/
def execArpRequest (l : LaneIx) (ip : Word) (s : State) : Out :=
  .next (if s.laneUp l ∧ ip.toNat = s.heath.trn.ipv4 then s.emit (.arp l ip.toNat (s.sxt.macBase + l)) else s)

/-- UNACCEPTED_FRAME: dropped and counted (R404, R409). -/
def execUnacceptedFrame (l : LaneIx) (s : State) : Out := .next (if s.laneUp l then s.rxDrop else s)

end Sys2Proof.Machine
end

