-- ==== Sys2Proof/Machine/Picture.lean ====
section
/-!
DEFINITION. Pictures of Cicada: frame buffers, regions of interest and motion search (20 R429, R430, R437, R438).
-/

namespace Sys2Proof.Machine

open Sys2Proof

/-! Frame buffers (R429). -/

/-- Width of a stream context. -/
def ctxW (c : List Byte) : Nat := fieldNat c 8 2
/-- Height of a stream context. -/
def ctxH (c : List Byte) : Nat := fieldNat c 10 2
/-- Bit depth of a stream context. -/
def ctxDepth (c : List Byte) : Nat := fieldNat c 4 1
/-- Bytes of a sample. -/
def sampleBytes (c : List Byte) : Nat := if ctxDepth c = 8 then 1 else 2
/-- Whether a stream context's profile is one of AV1. -/
def ctxAv1 (c : List Byte) : Bool := fieldNat c 0 1 / 16 = 2
/-- Bytes of a row of the Y plane. -/
def lumaPitch (c : List Byte) : Nat := 256 * ceilDiv (ctxW c * sampleBytes c) 256

/-- The planes of a context's frame buffers in order: offset, bytes of a row, samples of a row, rows. -/
def planesOf (c : List Byte) : List (Nat × Nat × Nat × Nat) :=
  let chroma := fieldNat c 3 1
  let wc := if chroma = 3 then ctxW c else ctxW c / 2
  let hc := if chroma = 1 then ctxH c / 2 else ctxH c
  let pc := 256 * ceilDiv (wc * sampleBytes c) 256
  let y := lumaPitch c * ctxH c
  (0, lumaPitch c, ctxW c, ctxH c) :: (if chroma = 0 then [] else [(y, pc, wc, hc), (y + pc * hc, pc, wc, hc)])

/-- Bytes of the planes of a context's frame buffers. -/
def planeBytes (c : List Byte) : Nat := ((planesOf c).map fun p => p.2.1 * p.2.2.2).sum

/-- The rows of all planes: offset and samples of each. -/
def rowsOf (c : List Byte) : List (Nat × Nat) :=
  (planesOf c).flatMap fun p => (upFrom 0 p.2.2.2).map fun y => (p.1 + y * p.2.1, p.2.2.1)

/-- 16 × 16 blocks of a row of a picture. -/
def blockCols (c : List Byte) : Nat := ceilDiv (ctxW c) 16
/-- Number of 16 × 16 blocks of a picture. -/
def blocksOf (c : List Byte) : Nat := blockCols c * ceilDiv (ctxH c) 16
/-- Offset of the motion area. -/
def motionOff (c : List Byte) : Nat := 256 * ceilDiv (planeBytes c) 256
/-- Offset of the side area. -/
def sideOff (c : List Byte) : Nat := 256 * ceilDiv (motionOff c + 8 * blocksOf c) 256

/-- The samples that a frame buffer holds, without the padding of rows and the unused high bits (R429). -/
def samplesOf (c b : List Byte) : List Nat :=
  (rowsOf c).flatMap fun r =>
    (upFrom 0 r.2).map fun x => fieldNat b (r.1 + sampleBytes c * x) (sampleBytes c) % 2 ^ ctxDepth c

/-- A picture read from a frame buffer. -/
def frameOf (c b : List Byte) : Frame := ⟨samplesOf c b, b.drop (motionOff c)⟩

/-- The rows of a frame buffer at `a` that hold some samples; the unused high bits are zero (R429). -/
def sampleWrites (c : List Byte) (a : Nat) : List (Nat × Nat) → List Nat → List (Nat × List Byte)
  | [], _ => []
  | r :: rows, l =>
    (a + r.1, (upFrom 0 r.2).flatMap fun x => natToBytes (sampleBytes c) (l.getD x 0 % 2 ^ ctxDepth c))
      :: sampleWrites c a rows (l.drop r.2)

/-- The samples of the two fields of a picture interleaved line by line, the top field's first (R427). -/
def weave : List (Nat × Nat) → Bool → List Nat → List Nat → List Nat
  | [], _, _, _ => []
  | r :: rows, top, a, b =>
    if top then a.take r.2 ++ weave rows false (a.drop r.2) b else b.take r.2 ++ weave rows true a (b.drop r.2)

/-- The samples of a decoded picture as a frame. -/
def wovenOf (c : List Byte) : Decoded → List Nat
  | .frame l => l
  | .fields a b => weave (rowsOf c) true a b

/-- For each sample of a picture in order, the number of the square unit of `u` luma samples that it lies in. -/
def unitsOf (c : List Byte) (u : Nat) : List Nat :=
  (planesOf c).flatMap fun p =>
    (upFrom 0 p.2.2.2).flatMap fun y =>
      (upFrom 0 p.2.2.1).map fun x =>
        y * ctxH c / p.2.2.2 / u * ceilDiv (ctxW c) u + x * ctxW c / p.2.2.1 / u

/-- The value of a sample that nothing predicts (R442). -/
def midGrey (c : List Byte) : Nat := 2 ^ (ctxDepth c - 1)

/-- A picture whose lost units show the collocated samples of a reference picture, or mid-grey where there is none (R442). -/
def conceal (c : List Byte) (u : Nat) (lost : List Nat) (ref : Option (List Nat)) (l : List Nat) : List Nat :=
  (unitsOf c u).zipIdx.map fun e =>
    if lost.contains e.1 then (match ref with | some r => r.getD e.2 0 | none => midGrey c) else l.getD e.2 0

/-- The luma sample of a picture at a place; past an edge, the nearest sample of that edge (R437, PRESUMED of both standards,
log entry 15). -/
def lumaAt (c : List Byte) (samples : List Nat) (x y : Int) : Nat :=
  let cx := (min (max x 0) (ctxW c - 1)).toNat
  let cy := (min (max y 0) (ctxH c - 1)).toNat
  samples.getD (ctxW c * cy + cx) 0

/-! Regions of interest (R438). -/

/-- The quality offset of the block whose centre lies in the 16-sample column `x` and row `y`. -/
def roiOffset (k : List Byte) (x y : Nat) : Int :=
  match ((upFrom 0 (fieldNat k 28 1)).map fun i => fieldNat k (64 + 8 * i) 8).find? fun r =>
      bitsOf r 9 0 ≤ x && x ≤ bitsOf r 29 20 && bitsOf r 19 10 ≤ y && y ≤ bitsOf r 39 30 with
  | some r => signedOf 8 (bitsOf r 47 40)
  | none => 0

/-- A QP moved by an offset and clamped to QP_MIN to QP_MAX. -/
def clampQp (c : List Byte) (q : Int) : Nat := (max (fieldNat c 13 1 : Int) (min (fieldNat c 14 1) q)).toNat

/-- The QP of every quantization group of a picture coded at QP `q`: each 16 × 16 block of HEVC, with the offset; each 64 × 64
superblock of AV1, with four times the offset. -/
def groupQps (c k : List Byte) (q : Nat) : List Nat :=
  if ctxAv1 c then
    let w := ceilDiv (ctxW c) 64
    (upFrom 0 (w * ceilDiv (ctxH c) 64)).map fun i => clampQp c (q + 4 * roiOffset k (4 * (i % w) + 2) (4 * (i / w) + 2))
  else (upFrom 0 (blocksOf c)).map fun i => clampQp c (q + roiOffset k (i % blockCols c) (i / blockCols c))

/-! Motion search (R437). -/

/-- The entry of a motion area or hint map for a block. -/
def vectOf (b : List Byte) (i : Nat) : Vect :=
  ⟨signedOf 16 (fieldNat b (8 * i) 2), signedOf 16 (fieldNat b (8 * i + 2) 2), fieldNat b (8 * i + 4) 1⟩
/-- A vector as a motion area holds it. -/
def Vect.entry (v : Vect) : List Byte :=
  natToBytes 2 (BitVec.ofInt 16 v.x).toNat ++ natToBytes 2 (BitVec.ofInt 16 v.y).toNat ++ natToBytes 1 v.ref ++ natToBytes 3 0
/-- The entry of a block that is predicted from no other picture. -/
def Vect.none : Vect := ⟨0, 0, 0xFF⟩

/-- Whether a REF index names a used entry of a control block's REF. -/
def refUsed (k : List Byte) (i : Nat) : Bool := i < 8 && fieldNat k (8 + i) 1 ≠ 0xFF
/-- The first used L0 index of REF. -/
def firstL0 (k : List Byte) : Option Nat := (upFrom 0 4).find? (refUsed k)
/-- The first used index of REF. -/
def firstRef (k : List Byte) : Nat := ((upFrom 0 8).find? (refUsed k)).getD 0xFF

/-- The nearest integer position of a quarter-sample coordinate. A tie goes upward: DESIGN CHOICE, log entry 15. -/
def nearest (v : Int) : Int := (v + 2).fdiv 4

/-- The sum of absolute differences of a block at an integer displacement, over its samples inside the picture. -/
def blockSad (j : EncInput) (i : Nat) (v : Vect) : Nat :=
  let c := j.ctx
  let bx := 16 * (i % blockCols c)
  let by' := 16 * (i / blockCols c)
  ((upFrom 0 256).map fun k =>
    let x := bx + k % 16
    let y := by' + k / 16
    if x < ctxW c ∧ y < ctxH c then
      ((lumaAt c j.source x y : Int) - lumaAt c (j.refs.getD v.ref ⟨[], []⟩).samples (x + nearest v.x) (y + nearest v.y)).natAbs
    else 0).sum

/-- The candidates of a block, from the vectors of the blocks before it: left, above, above-right, the collocated entry of the
first L0 reference's motion area, the zero vector, and the hint. One whose REF is unused counts as none. The zero vector points
into the first used reference, also where no L0 is used: DESIGN CHOICE, log entry 15. -/
def candidates (j : EncInput) (done : List Vect) (i : Nat) : List Vect :=
  let w := blockCols j.ctx
  let at_ (ok : Bool) (k : Nat) : Vect := if ok then done.getD k Vect.none else Vect.none
  let l := [at_ (i % w ≠ 0) (i - 1), at_ (w ≤ i) (i - w), at_ (w ≤ i && (i + 1) % w ≠ 0) (i + 1 - w),
    (match firstL0 j.ctrl with | some r => vectOf (j.refs.getD r ⟨[], []⟩).motion i | none => Vect.none),
    ⟨0, 0, firstRef j.ctrl⟩, if fieldZero j.ctrl 16 8 then Vect.none else vectOf j.hints i]
  l.filter fun v => refUsed j.ctrl v.ref

/-- The candidate with the lowest sum; of equal ones the first: DESIGN CHOICE, log entry 15. -/
def bestOf (sum : Vect → Nat) : List Vect → Vect
  | [] => Vect.none
  | v :: r => r.foldl (fun a b => if sum b < sum a then b else a) v

/-- The vectors around one at multiples of `d` quarter samples, up to `n` of them each way: itself first, then in raster order. -/
def around (v : Vect) (d n : Nat) : List Vect :=
  v :: (upFrom 0 (2 * n + 1)).flatMap fun y : Nat =>
    (upFrom 0 (2 * n + 1)).map fun x : Nat => ⟨v.x + d * ((x : Int) - n), v.y + d * ((y : Int) - n), v.ref⟩

/-- The final vector of a block of an attempt at QP `q`: the integer position with the lowest sum within ±16 luma samples of the
best candidate's nearest one, refined to half and then to quarter samples by the sum of transformed differences; of equal sums
the first of `around`. Whether the block is predicted from another picture at all is the encoder's choice (R436): a free value.
Log entry 15. -/
def searchBlock (j : EncInput) (q : Nat) (done : List Vect) (i : Nat) : Vect :=
  let v := bestOf (blockSad j i) (candidates j done i)
  if v.ref = 0xFF ∨ Config.encIntra j q i then Vect.none
  else
    let v := bestOf (blockSad j i) (around ⟨4 * nearest v.x, 4 * nearest v.y, v.ref⟩ 4 16)
    let v := bestOf (Config.satd j i) (around v 2 1)
    bestOf (Config.satd j i) (around v 1 1)

/-- The vectors of a picture's blocks in raster order; none where the picture is intra. -/
def searchAll (j : EncInput) (q : Nat) : List Vect :=
  if fieldNat j.ctrl 0 1 = 0 then List.replicate (blocksOf j.ctx) Vect.none
  else (upFrom 0 (blocksOf j.ctx)).foldl (fun done i => done ++ [searchBlock j q done i]) []

/-! Encoding (R436, R440). -/

/-- The result of an encode attempt: the bits, the reconstructed samples, the motion area and Cicada's part of the context. -/
structure EncOutcome where
  bits : List Byte
  samples : List Nat
  motion : List Byte
  ctx : List Byte
deriving DecidableEq, Repr

/-- The bound F of R439, in bits. -/
def fallbackBits (c : List Byte) : Nat := 8192 + 8 * blocksOf c

/-- The decoder model that a stream's headers describe in modes 1 and 2 (R439). -/
def hrdOf (c : List Byte) : Option HrdParams :=
  let mode := fieldNat c 12 1
  if mode = 0 then none else some ⟨fieldNat c 16 4, fieldNat c 20 4, fieldNat c 24 4, mode = 1⟩

/-- The plan of an attempt: AV1 codes differences of qindex in units of 4 (R438). -/
def encPlan (j : EncInput) (mode : EncMode) (qps : List Nat) (v : List Vect) : EncPlan :=
  ⟨mode, qps, if ctxAv1 j.ctx then 4 else 1, hrdOf j.ctx, v⟩

/-- An attempt at QP `q` (R436 to R438). -/
def encodeAt (j : EncInput) (q : Nat) : EncOutcome :=
  let p := encPlan j .normal (groupQps j.ctx j.ctrl q) (searchAll j q)
  ⟨Config.encBits j p, Config.encSamples j p, p.vectors.flatMap Vect.entry, Config.encContext j p⟩

/-- The fallback picture (R440): every block skipped from the first L0 reference, so that it shows that reference, or every
block intra DC without residual, so that it shows mid-grey (DEDUCED, log entry 15); at most F bits. A picture of TYPE 1 or 2 that
names no L0 reference takes the second form: DESIGN CHOICE, log entry 15. -/
def encodeFallback (j : EncInput) : EncOutcome :=
  let c := j.ctx
  let qps := (groupQps c j.ctrl 0).map fun _ => fieldNat c 14 1
  let (p, samples) := match if fieldNat j.ctrl 0 1 = 0 then none else firstL0 j.ctrl with
    | some r => (encPlan j .skip qps (List.replicate (blocksOf c) ⟨0, 0, r⟩), (j.refs.getD r ⟨[], []⟩).samples)
    | none => (encPlan j .dc qps (List.replicate (blocksOf c) Vect.none), (rowsOf c).flatMap fun r => List.replicate r.2 (midGrey c))
  ⟨(Config.encBits j p).take (fallbackBits c / 8), samples, p.vectors.flatMap Vect.entry, Config.encContext j p⟩

end Sys2Proof.Machine
end

