-- ==== Sys2Proof/Machine/Cicada.lean ====
section
/-!
DEFINITION. The Cicada codec: pipes, rings, jobs, rate control and completion (20 R425 to R443).
The bits of a picture and the samples of a decoded one are free values of what they depend on (DESIGN CHOICE, log entry 15).
-/

namespace Sys2Proof.Machine

open Sys2Proof

/-- MDW_CICm_RINGn: SIZE_LOG2 is 4 after reset. -/
def Meadow.cicReg (x : Meadow) (n : Nat) : Nat := Sparse.get (4 * 2 ^ 48) x.cicRing n
/-- A ring register written. -/
def Meadow.setCic (x : Meadow) (n v : Nat) : Meadow := { x with cicRing := Sparse.put (4 * 2 ^ 48) x.cicRing n v }
/-- A completion register written. -/
def Meadow.setCicDone (x : Meadow) (n : Nat) (v : BitVec 48) : Meadow := { x with cicDone := Sparse.put 0 x.cicDone n v }

/-! Reading (R425, R435). -/

/-- An uncorrectable read of a pipe counted; the pages that it has retired since `s` are damage to its job. -/
def State.cicUncorrected (t s : State) (n : Nat) : State :=
  t.updPipe n fun x =>
    { x with
      uncorrected := satInc x.uncorrected
      job := x.job.map fun j => { j with retired := j.retired ++ t.pkg.retired.drop s.pkg.retired.length } }

/-- Whether an address lies in a page that a read of the pipe's own job has retired. -/
def State.cicDamaged (s : State) (n m va : Nat) : Bool :=
  match (s.pipe n).job, (s.mwalk (some n) m va).1 with
  | some j, .ok l => j.retired.contains (l.pa / 2 ^ 16)
  | _, _ => false

/-- Bytes read through a meadow's tables. An uncorrectable sector reads all ones and is counted; it ends the read where `go` is
false, and is told otherwise, with the rest of a page that a read of the same decode job has retired (log entry 31). -/
def State.cicRead (s : State) (go : Bool) (n m : Nat) : Nat → Nat → Nat → Res (Bool × List Byte)
  | 0, _, _ => (.ok (false, []), s)
  | fuel + 1, va, k =>
    if k = 0 then (.ok (false, []), s)
    else
      let h := min k (32 - va % 32)
      let step (bad : Bool) (b : List Byte) (t : State) : Res (Bool × List Byte) :=
        match t.cicRead go n m fuel (va + h) (k - h) with
        | (.ok (e, r), u) => (.ok (bad || e, b ++ r), u)
        | x => x
      match s.mread (some n) m 1 va h with
      | (.ok b, t) => step false b t
      | (.error c, t) =>
        if c = Code.uncorrectable then
          let t := t.cicUncorrected s n
          if go then step true (List.replicate h 0xFF) t else (.error c, t)
        else if c = Code.retired && go && s.cicDamaged n m va then step true (List.replicate h 0xFF) t
        else (.error c, t)

/-- A whole range read by a pipe: an encode job stops at the first uncorrectable sector, a decode job goes on (R435). -/
def State.cicGet (s : State) (n m va k : Nat) : Res (Bool × List Byte) := s.cicRead (decide (2 ≤ n)) n m (sectorsOf va k) va k

/-! Profiles and levels (R427). -/

/-- Whether a profile allows a chroma format and a depth in a direction. -/
def profileOk (code chroma depth : Nat) (encode : Bool) : Bool :=
  let d (lo hi : Nat) : Bool := lo ≤ depth && depth ≤ hi
  let d810 : Bool := depth = 8 || depth = 10
  match code with
  | 0x10 => chroma = 1 && depth = 8
  | 0x11 => chroma = 1 && d810
  | 0x12 => chroma ≤ 1 && d 8 12
  | 0x13 => chroma ≤ 2 && d810
  | 0x14 => chroma ≤ 2 && d 8 12
  | 0x15 => chroma ≤ 3 && d810
  | 0x16 => chroma ≤ 3 && d 8 12
  | 0x20 => chroma ≤ 1 && d810
  | 0x21 => (chroma ≤ 1 || chroma = 3) && d810
  | 0x22 => chroma ≤ 3 && d 8 12
  | 0x30 => !encode && chroma ≤ 1 && depth = 8
  | 0x31 => !encode && chroma ≤ 1 && d 8 10
  | 0x32 => !encode && chroma ≤ 2 && d 8 10
  | 0x33 => !encode && chroma ≤ 3 && d 8 14
  | _ => false

/-- Luma samples and greatest width and height of an HEVC level code (H.265, PRESUMED, log entry 15). -/
def hevcLevel (l : Nat) : Option (Nat × Nat) :=
  let p : Option Nat := match l with
    | 30 => some 36864 | 60 => some 122880 | 63 => some 245760 | 90 => some 552960 | 93 => some 983040
    | 120 | 123 => some 2228224 | 150 | 153 | 156 => some 8912896 | 180 | 183 | 186 => some 35651584 | _ => none
  p.map fun n => (n, 8 * n)

/-- Picture size, width and height limits of an AV1 level code (AV1 Annex A, PRESUMED, log entry 15). -/
def av1Level (l : Nat) : Option (Nat × Nat × Nat) :=
  match l with
  | 0 => some (147456, 2048, 1152) | 1 => some (278784, 2816, 1584) | 4 => some (665856, 4352, 2448)
  | 5 => some (1065024, 5504, 3096) | 8 | 9 => some (2359296, 6144, 3456) | 12 | 13 | 14 | 15 => some (8912896, 8192, 4352)
  | 16 | 17 | 18 | 19 => some (35651584, 16384, 8704) | _ => none

/-- Frame size limit in macroblocks of an AVC level code (H.264, PRESUMED, log entry 15). -/
def avcLevel (l : Nat) : Option Nat :=
  match l with
  | 9 | 10 => some 99 | 11 | 12 | 13 | 20 => some 396 | 21 => some 792 | 22 | 30 => some 1620 | 31 => some 3600
  | 32 => some 5120 | 40 | 41 => some 8192 | 42 => some 8704 | 50 => some 22080 | 51 | 52 => some 36864 | _ => none

/-- Whether a size is within a level and tier of its standard. -/
def levelOk (code level tier w h : Nat) : Bool :=
  if code < 0x20 then
    (match hevcLevel level with | some (n, d) => w * h ≤ n && w * w ≤ d && h * h ≤ d | none => false)
      && (tier = 0 || (tier = 1 && 120 ≤ level))
  else if code < 0x30 then
    (match av1Level level with | some (n, x, y) => w * h ≤ n && w ≤ x && h ≤ y | none => false)
      && (tier = 0 || (tier = 1 && 8 ≤ level))
  else
    let a := ceilDiv w 16
    let b := ceilDiv h 16
    (match avcLevel level with | some n => a * b ≤ n && a * a ≤ 8 * n && b * b ≤ 8 * n | none => false) && tier = 0

/-- The size, level and tier check of R433. -/
def sizeOk (c : List Byte) : Bool :=
  let w := ctxW c
  let h := ctxH c
  w % 8 = 0 && h % 8 = 0 && 0 < w && 0 < h && w ≤ 8192 && w * h ≤ 35651584
    && levelOk (fieldNat c 0 1) (fieldNat c 1 1) (fieldNat c 2 1) w h

/-! Pools (R430). -/

/-- The address of pool entry `i`'s frame buffer (R430). -/
def poolAddr (c : List Byte) (i : Nat) : Nat := fieldNat c (64 + 16 * i) 6
/-- The flags of pool entry `i`. -/
def poolFlags (c : List Byte) (i : Nat) : Nat := fieldNat c (64 + 16 * i + 8) 1

/-- Bytes of a list replaced from an offset. -/
def patch (l : List Byte) (o : Nat) (b : List Byte) : List Byte := l.take o ++ b ++ l.drop (o + b.length)

/-- A pool entry's marks written: SHORT, LONG and OUT, then SLOTS. -/
def setMark (c : List Byte) (i : Nat) (short long out : Bool) (slots : Nat) : List Byte :=
  let f := poolFlags c i
  let v := f % 2 + (if short then 2 else 0) + (if long then 4 else 0) + (if out then 8 else 0) + f / 16 * 16
  patch c (64 + 16 * i + 8) (natToBytes 1 v ++ natToBytes 1 slots)
/-- A pool entry's ORDER written. -/
def setOrder (c : List Byte) (i order : Nat) : List Byte := patch c (64 + 16 * i + 12) (natToBytes 4 order)

/-! The checks of a job (R433). -/

/-- Check 1 on the entry: reserved fields, OP, direction and alignments. -/
def jobOk (n : Nat) (e : List Byte) : Bool :=
  let op := fieldNat e 4 1
  fieldZero e 5 3 && fieldZero e 51 1 && fieldZero e 61 3 && op = (if n < 2 then 1 else 2) && fieldNat e 8 8 % 64 = 0
    && fieldNat e 48 2 < 4096 && fieldNat e 50 1 < 8
    && (if op = 1 then fieldNat e 16 8 % 65536 = 0 && fieldZero e 24 4
        else fieldZero e 28 4 && fieldZero e 32 8 && fieldZero e 40 8)

/-- Check 1 on the stream context: its reserved fields, those of the pool entries included, and the alignment of the frame buffers
that exist (R429, R430). -/
def ctxOk (c : List Byte) : Bool :=
  fieldZero c 5 3 && fieldZero c 15 1 && fieldZero c 32 32
    && (upFrom 0 16).all fun i =>
      fieldZero c (64 + 16 * i + 6) 2 && poolFlags c i < 16 && fieldZero c (64 + 16 * i + 10) 2
        && (!bitOf (poolFlags c i) 0 || poolAddr c i % 65536 = 0)

/-- The pool indices that a control block's REF names. -/
def refsOf (k : List Byte) : List Nat := ((upFrom 8 8).map fun i => fieldNat k i 1).filter (· ≠ 0xFF)

/-- Check 1 on an encode's control block: its reserved fields and ranges. -/
def ctrlOk (k : List Byte) : Bool :=
  let n := fieldNat k 28 1
  fieldNat k 0 1 ≤ 2 && (fieldNat k 2 1 < 16 || fieldNat k 2 1 = 0xFF) && fieldZero k 5 3 && fieldZero k 29 35
    && (refsOf k).all (· < 16) && (refsOf k).length ≤ 4 && n ≤ 64
    && (upFrom 0 n).all fun i =>
      let o := signedOf 8 (fieldNat k (64 + 8 * i + 5) 1)
      fieldZero k (64 + 8 * i + 6) 2 && -32 ≤ o && o ≤ 31

/-- The rate setup of R439. -/
def rateOk (c : List Byte) : Bool :=
  let f := fallbackBits c
  let num := fieldNat c 28 2
  match fieldNat c 12 1 with
  | 0 => true
  | 1 | 2 => 2 * f ≤ fieldNat c 20 4 && 0 < num && f * num ≤ fieldNat c 16 4 * fieldNat c 30 2
  | _ => false

/-- The first failing check of a job. -/
def jobCheck (n : Nat) (e c k : List Byte) : Option Half :=
  let enc := n < 2
  if !(jobOk n e && ctxOk c && (!enc || ctrlOk k)) then some Code.cicDescriptor
  else if !profileOk (fieldNat c 0 1) (fieldNat c 3 1) (fieldNat c 4 1) enc then some Code.cicProfile
  else if !sizeOk c then some Code.cicLevel
  else if enc && !rateOk c then some Code.cicRate
  else if enc && fieldNat e 28 4 < ceilDiv (fallbackBits c) 8 + 1024 then some Code.cicOutput
  else none

/-! Completion (R434). -/

/-- Bytes written through a meadow's tables by a pipe. -/
def State.cicPut (s : State) (n m va : Nat) (b : List Byte) : Res Bool := s.mwrite (some n) 3 m (sectorsOf va b.length) va b

/-- The code of a job after a write of its entry: what stops the write, or a FROZEN page, replaces ST_OK (R435). -/
def codeAfter (code : Half) : Except Half Bool → Half
  | .error c => if code = Code.ok then c else code
  | .ok frozen => if frozen && code = Code.ok then Code.frozen else code

/-- A job completes: its entry, MDW_CICm_DONEn, the note, and the pipe's owner in force (R426, R434, R435). -/
def State.cicDone (s : State) (n : Nat) (j : CicJob) (code : Half) (result concealed flags : Nat) : State :=
  let m := j.meadow
  let (r, t) := s.cicPut n m (j.addr + 52) (natToBytes 4 result ++ natToBytes 2 code.toNat ++ natToBytes 2 concealed)
  let code := codeAfter code r
  let t := (t.cicPut n m (j.addr + 60) (natToBytes 1 (1 + flags))).2
  let t := t.updMeadow m fun x => x.setCicDone n (BitVec.ofNat 48 (fieldNat j.entry 0 4 + code.toNat * 2 ^ 32))
  let p := sliceBytes j.entry 0 4 ++ natToBytes 2 code.toNat
  let t := match t.hubNote (fieldNat j.entry 48 2 % 4096) (fieldNat j.entry 50 1 % 8) (.cicada n) p with
    | some u => u
    | none => t.updPipe n fun x => { x with noteDrops := satInc x.noteDrops }
  t.updPipe n fun x =>
    { x with job := none, jobs := satInc x.jobs, owner := Sparse.get none t.heath.codec n }

/-- A job ends with a code and nothing else written: no bytes encoded, or no picture decoded. -/
def State.cicFail (s : State) (n : Nat) (j : CicJob) (code : Half) : State :=
  s.cicDone n j code (if n < 2 then 0 else 0xFF0000) 0 (if j.memErr && 2 ≤ n then 2 else 0)

/-- An encode that met an uncorrectable read: its output bytes are free values (R435). -/
def State.cicLost (s : State) (n : Nat) (j : CicJob) : State :=
  let (b, t) := s.freeBytes (fieldNat j.entry 28 4)
  ((t.cicPut n j.meadow (fieldNat j.entry 32 8) b).2).cicFail n j Code.uncorrectable

/-- An encode job ended by an error of a read: its output bytes are open where the read was uncorrectable (R435). -/
def State.cicStop (s : State) (n : Nat) (j : CicJob) (c : Half) : State :=
  if n < 2 ∧ c = Code.uncorrectable then s.cicLost n j else s.cicFail n j c

/-! Taking a job (R432, R433). -/

/-- A control block read whole: its fixed part, then its rectangles. -/
def State.cicCtrl (s : State) (n m a : Nat) : Res (List Byte) :=
  match s.cicGet n m a 64 with
  | (.error c, t) => (.error c, t)
  | (.ok (_, h), t) =>
    match t.cicGet n m (a + 64) (8 * min 64 (fieldNat h 28 1)) with
    | (.error c, u) => (.error c, u)
    | (.ok (_, r), u) => (.ok (h ++ r), u)

/-- A job starts: the pipe's walker forgets what it held (R425), the stream context and the control block are read and the checks
made; the first failure completes the job. `bad` tells that the entry itself was read with an uncorrectable sector. -/
def State.cicTake (s : State) (n m : Nat) (e : List Byte) (addr : Nat) (bad : Bool) : State :=
  let j0 : CicJob := ⟨m, e, addr, [], [], bad, [], 0, false, false⟩
  let s := s.updPipe n fun x => { x with job := some j0, leaves := [] }
  if n < 2 ∧ bad then s.cicFail n j0 Code.uncorrectable
  else if !jobOk n e then s.cicFail n j0 Code.cicDescriptor
  else match s.cicGet n m (fieldNat e 8 8) 16384 with
    | (.error c, t) => t.cicStop n j0 c
    | (.ok (lost, c), t) =>
      let j1 := { j0 with ctx := c, memErr := bad || lost }
      match if n < 2 then t.cicCtrl n m (fieldNat e 40 8) else (.ok [], t) with
      | (.error c, t) => t.cicStop n j1 c
      | (.ok k, t) =>
        match jobCheck n e c k with
        | some code => t.cicFail n { j1 with ctrl := k } code
        | none => t.updPipe n fun x => { x with job := x.job.map fun j => { j1 with ctrl := k, retired := j.retired } }

/-- CICADA_POLL: the pipe reads the entry it expects, and takes it when SEQ matches (R425, R432); the hub's thermal
throttle pauses it between jobs (R524). The entry is read through the tables as they stand: DESIGN CHOICE, log entry 31. -/
def execCicadaPoll (n : PipeIx) (s : State) : Out := s.attemptWhole (.cicadaPoll n) <|
  let p := s.pipe n
  .next (match p.owner, p.job with
    | some m, none =>
      let r := (s.meadow m).cicReg n
      if (s.meadow m).state = .absent ∨ !bitOf r 52 ∨ Sparse.get false s.power.throttled 262 then s
      else
        let addr := bitsOf r 47 0 + 64 * p.idx
        match (s.updPipe n fun x => { x with leaves := [] }).cicRead true n m 2 addr 64 with
        | (.error _, t) => t
        | (.ok (bad, e), t) =>
          if fieldNat e 0 4 ≠ p.seq.toNat then t
          else
            (t.updPipe n fun x => { x with idx := (x.idx + 1) % 2 ^ bitsOf r 51 48, seq := x.seq + 1 }).cicTake n m e addr bad
    | _, _ => s)

/-! Encoding (R436 to R440). -/

/-- The simulated buffer of a stream before its next picture, in bits times RATE_NUM: INITIAL's removal delay for a stream that has
not begun, else what bytes 320 to 327 of its context hold, one greater (R436, R439; DESIGN CHOICE, log entry 31). -/
def bufferFull (c : List Byte) : Nat :=
  match fieldNat c 320 8 with
  | 0 => min (fieldNat c 20 4 * fieldNat c 28 2) (fieldNat c 24 4 * fieldNat c 16 4 * fieldNat c 28 2 / 90000)
  | f + 1 => f

/-- Bytes of filler that mode 1 adds so that the buffer does not overflow before the next picture (R439): at least the 8 of the
smallest unit, and none that would make the buffer underflow. DESIGN CHOICE, log entry 31. -/
def fillerBytes (c : List Byte) (full bits : Nat) : Nat :=
  let num := fieldNat c 28 2
  let left := full - bits * num
  let after := left + fieldNat c 16 4 * fieldNat c 30 2
  let cap := fieldNat c 20 4 * num
  if fieldNat c 12 1 = 1 ∧ cap < after then
    let n := min (max 8 (ceilDiv (after - cap) (8 * num))) (left / (8 * num))
    if n < 8 then 0 else n
  else 0

/-- Filler of `n` bytes, 8 or more: a filler data NAL unit with its start code, or a padding OBU with a size of 5 bytes (R439; the
coding is the standards', PRESUMED, log entry 15). -/
def filler (av1 : Bool) (n : Nat) : List Byte :=
  if n < 8 then []
  else if av1 then
    let k := n - 6
    let group (i : Nat) : Byte := BitVec.ofNat 8 (k / 128 ^ i % 128 + if i < 4 then 128 else 0)
    (0x7A : Byte) :: (upFrom 0 5).map group ++ List.replicate (k - 1) 0 ++ [0x80]
  else [0, 0, 1, 0x4C, 1] ++ List.replicate (n - 6) 0xFF ++ [0x80]

/-- Whether a picture of some bytes fits: the output buffer, and under rate control the simulated buffer (R439, R440). -/
def pictureFits (e c : List Byte) (full bytes : Nat) : Bool :=
  bytes ≤ fieldNat e 28 4 && (fieldNat c 12 1 = 0 || 8 * bytes * fieldNat c 28 2 ≤ full)

/-- The QP at which a picture is planned: the control block's in constant-QP mode (R440). -/
def plannedQp (j : EncInput) : Nat := if fieldNat j.ctx 12 1 = 0 then fieldNat j.ctrl 1 1 else clampQp j.ctx (Config.encPlanned j)

/-- The QP of an attempt: 4 higher for HEVC, or 16 higher in qindex, with each attempt, up to QP_MAX (R440). -/
def attemptQp (j : EncInput) (attempts : Nat) : Nat :=
  let q := plannedQp j
  if attempts = 0 then q else min (max q (fieldNat j.ctx 14 1)) (q + (if ctxAv1 j.ctx then 16 else 4) * attempts)

/-- Ranges read by a pipe in order; an uncorrectable read is told apart by its code (R435). -/
def State.cicRanges (s : State) (n m : Nat) : List (Nat × Nat) → Res (List (List Byte))
  | [] => (.ok [], s)
  | (a, k) :: r =>
    match s.cicGet n m a k with
    | (.error e, t) => (.error e, t)
    | (.ok (bad, b), t) =>
      if bad then (.error Code.uncorrectable, t)
      else match t.cicRanges n m r with
        | (.ok l, u) => (.ok (b :: l), u)
        | x => x

/-- What an encode attempt reads: the source picture, the pictures of its references, its hint map (R436, R437). -/
def State.encReads (s : State) (n : Nat) (j : CicJob) : Res EncInput :=
  let c := j.ctx
  let k := j.ctrl
  let hint := !fieldZero k 16 8
  let ref (i : Nat) : Nat × Nat := if refUsed k i then (poolAddr c (fieldNat k (8 + i) 1), motionOff c + 8 * blocksOf c) else (0, 0)
  match s.cicRanges n j.meadow
      ([(fieldNat j.entry 16 8, planeBytes c), (fieldNat k 16 8, if hint then 8 * blocksOf c else 0)] ++ (upFrom 0 8).map ref) with
  | (.ok l, t) =>
    (.ok ⟨j.entry.take 52, c, k, samplesOf c (l.getD 0 []),
      (upFrom 0 8).map fun i => if refUsed k i then frameOf c (l.getD (2 + i) []) else ⟨[], []⟩, l.getD 1 []⟩, t)
  | (.error e, t) => (.error e, t)

/-- Writes in order, until one meets a translation or permission fault; whether any FROZEN page dropped bytes (R435). -/
def State.cicWrites (s : State) (n m : Nat) (l : List (Nat × List Byte)) : Res Bool :=
  l.foldl (fun r a => match r with
    | (.error e, t) => (.error e, t)
    | (.ok f, t) =>
      match t.cicPut n m a.1 a.2 with
      | (.error e, u) => (.error e, u)
      | (.ok g, u) => (.ok (f || g), u)) (.ok false, s)

/-- The writes that a job makes of its context at `a`: the marks and the ORDER of the pool entries it has changed, and the bytes that
belong to Cicada (R430, R436, R442). -/
def ctxWrites (a : Nat) (old new : List Byte) : List (Nat × List Byte) :=
  ((upFrom 0 16).flatMap fun i =>
    let o := 64 + 16 * i + 8
    if sliceBytes old o 8 = sliceBytes new o 8 then [] else [(a + o, sliceBytes new o 8)]) ++ [(a + 320, sliceBytes new 320 16064)]

/-- The context after an encode: RECON's marks and ORDER, the simulated buffer, and Cicada's own part (R430, R436, R439). -/
def encContext (j : CicJob) (full : Nat) (own : List Byte) : List Byte :=
  let k := j.ctrl
  let r := fieldNat k 2 1
  let c := j.ctx.take 320 ++ natToBytes 8 full ++ sliceBytes own 0 16056
  if r = 0xFF then c
  else
    let mark := fieldNat k 3 1
    let slots := if fieldNat c 0 1 / 16 = 2 then fieldNat k 4 1 else fieldNat c (64 + 16 * r + 9) 1
    setOrder (setMark c r (bitOf mark 1) (bitOf mark 2) (bitOf (poolFlags c r) 3) slots) r (fieldNat k 24 4)

/-- A picture is emitted: its bits and filler, the reconstruction and its motion area, the context; then the job
completes (R434 to R436, R439). -/
def State.encEmit (s : State) (n : Nat) (j : CicJob) (o : EncOutcome) : State :=
  let c := j.ctx
  let e := j.entry
  let num := fieldNat c 28 2
  let full := bufferFull c
  let out := o.bits ++ filler (ctxAv1 c) (fillerBytes c full (8 * o.bits.length))
  let next := min (fieldNat c 20 4 * num) (full - 8 * out.length * num + fieldNat c 16 4 * fieldNat c 30 2)
  let kept := if fieldNat c 12 1 = 0 then fieldNat c 320 8 else next + 1
  let r := fieldNat j.ctrl 2 1
  let recon : List (Nat × List Byte) :=
    if r = 0xFF then [] else sampleWrites c (poolAddr c r) (rowsOf c) o.samples ++ [(poolAddr c r + motionOff c, o.motion)]
  match s.cicWrites n j.meadow ([(fieldNat e 32 8, out)] ++ recon ++ ctxWrites (fieldNat e 8 8) c (encContext j kept o.ctx)) with
  | (.error code, t) => t.cicFail n j code
  | (.ok frozen, t) => t.cicDone n j (if frozen then Code.frozen else Code.ok) out.length 0 0

/-- ENCODE_COMPLETE: an attempt ends; the picture is emitted, coded again at a higher QP, or replaced by the fallback
picture (R440). -/
def execEncodeComplete (n : PipeIx) (s : State) : Out := s.attemptWhole (.encodeComplete n) <|
  .next (if 2 ≤ n.val then s
    else match (s.pipe n).job with
      | none => s
      | some j =>
        match s.encReads n j with
        | (.error c, t) => t.cicStop n j c
        | (.ok i, t) =>
          let q := attemptQp i j.attempts
          let o := if j.fallback then encodeFallback i else encodeAt i q
          if j.fallback ∨ pictureFits j.entry j.ctx (bufferFull j.ctx) o.bits.length then t.encEmit n j o
          else t.updPipe n fun x => { x with
            job := some { j with attempts := j.attempts + 1, fallback := fieldNat j.ctx 14 1 ≤ q } })

/-! Decoding (R441, R442). -/

/-- The lowest entry of a pool that may take a picture (R441). -/
def freeEntry (c : List Byte) : Option Nat :=
  (upFrom 0 16).find? fun i => poolFlags c i % 16 == 1 && fieldZero c (64 + 16 * i + 9) 1

/-- Marks applied to the entries of a pool that exist; only software clears OUT (R441). -/
def applyMarks (c : List Byte) (l : List PoolMark) : List Byte :=
  l.foldl (fun c m =>
    let i := m.entry.val
    if bitOf (poolFlags c i) 0 then setMark c i m.short m.long (m.out || bitOf (poolFlags c i) 3) m.slots.toNat else c) c

/-- Whether a pool entry holds a reference picture. -/
def isReference (c : List Byte) (i : Nat) : Bool :=
  let f := poolFlags c i
  bitOf f 0 && (bitOf f 1 || bitOf f 2 || !fieldZero c (64 + 16 * i + 9) 1)

/-- The reference picture of a pool whose ORDER is nearest to one; of two as near, the lower entry: DESIGN CHOICE, log entry 31. -/
def nearestRef (c : List Byte) (order : Nat) : Option Nat :=
  let far (i : Nat) : Nat := ((fieldNat c (64 + 16 * i + 12) 4 : Int) - order).natAbs
  match (upFrom 0 16).filter (isReference c) with
  | [] => none
  | i :: r => some (r.foldl (fun a b => if far b < far a then b else a) i)

/-- What the pictures of a unit have done so far: the context, the pool's pictures, the writes, the last entry taken, and the units
concealed. -/
structure Placing where
  ctx : List Byte
  pool : List Frame
  writes : List (Nat × List Byte)
  entry : Option Nat
  concealed : Nat
deriving DecidableEq, Repr

/-- A decoded picture placed in the lowest free entry, its lost units concealed; a shown frame of AV1 has its film_grain_params in
the side area; `none` where no entry is free (R427, R429, R441, R442). -/
def Placing.add (x : Placing) (p : DecPicture) : Option Placing :=
  (freeEntry x.ctx).map fun i =>
    let c := x.ctx
    let a := poolAddr c i
    let u := max 1 p.unit
    let lost := p.lost.eraseDups.filter (· < ceilDiv (ctxW c) u * ceilDiv (ctxH c) u)
    let ref := (nearestRef c p.order.toNat).map fun r => (x.pool.getD r ⟨[], []⟩).samples
    let samples := conceal c u lost ref (wovenOf c p.picture)
    let motion := sliceBytes p.motion 0 (8 * blocksOf c)
    let side := if ctxAv1 c && p.own.out then [(a + sideOff c, sliceBytes p.grain 0 256)] else []
    { ctx := applyMarks (setOrder (setMark c i p.own.short p.own.long p.own.out p.own.slots.toNat) i p.order.toNat) p.marks
      pool := x.pool.set i ⟨samples, motion⟩
      writes := x.writes ++ sampleWrites c a (rowsOf c) samples ++ [(a + motionOff c, motion)] ++ side
      entry := some i
      concealed := x.concealed + lost.length }

/-- The pictures of a unit placed in order (R441). -/
def placePictures (c : List Byte) (pool : List Frame) (l : List DecPicture) : Option Placing :=
  l.foldl (fun x p => x.bind (·.add p)) (some ⟨c, pool, [], none, 0⟩)

/-- The entries newly marked OUT (R432). -/
def newOuts (a b : List Byte) : Nat :=
  (upFrom 0 16).foldl (fun v i => if bitOf (poolFlags b i) 3 && !bitOf (poolFlags a i) 3 then v + 2 ^ i else v) 0

/-- The pictures of the pool entries that a decode may take references from; an uncorrectable read gives all ones and is told
(R435, R441). -/
def State.decReads (s : State) (n : Nat) (j : CicJob) : List Nat → Res (Bool × List Frame)
  | [] => (.ok (false, []), s)
  | i :: r =>
    let c := j.ctx
    match s.cicGet n j.meadow (poolAddr c i) (if isReference c i then motionOff c + 8 * blocksOf c else 0) with
    | (.error e, t) => (.error e, t)
    | (.ok (bad, b), t) =>
      match t.decReads n j r with
      | (.ok (bad', l), u) => (.ok (bad || bad', (if isReference c i then frameOf c b else ⟨[], []⟩) :: l), u)
      | (.error e, u) => (.error e, u)

/-- A decoded unit written and its job completed (R434, R435, R441, R442). -/
def State.decEmit (s : State) (n : Nat) (j : CicJob) (pool : List Frame) (o : DecOutcome) : State :=
  if o.limit then s.cicFail n j Code.cicStreamLimit
  else match placePictures j.ctx pool o.pictures with
    | none => s.cicFail n j Code.cicPool
    | some x =>
      let c := (applyMarks x.ctx o.marks).take 320 ++ sliceBytes o.ctx 0 16064
      match s.cicWrites n j.meadow (x.writes ++ ctxWrites (fieldNat j.entry 8 8) j.ctx c) with
      | (.error code, t) => t.cicFail n j code
      | (.ok frozen, t) =>
        t.cicDone n j (if frozen then Code.frozen else Code.ok) (newOuts j.ctx c + x.entry.getD 0xFF * 2 ^ 16)
          (min 0xFFFF x.concealed) ((if j.memErr then 2 else 0) + (if j.bound then 4 else 0))

/-- DECODE_COMPLETE: a unit is decoded, or refused (R434, R435, R441, R442). -/
def execDecodeComplete (n : PipeIx) (s : State) : Out := s.attemptWhole (.decodeComplete n) <|
  .next (if n.val < 2 then s
    else match (s.pipe n).job with
      | none => s
      | some j =>
        match s.cicGet n j.meadow (fieldNat j.entry 16 8) (fieldNat j.entry 24 4) with
        | (.error code, t) => t.cicFail n j code
        | (.ok (bad, b), t) =>
          match t.decReads n j (upFrom 0 16) with
          | (.error code, t) => t.cicFail n j code
          | (.ok (bad', l), t) =>
            let (k, t) := t.fresh
            t.decEmit n { j with memErr := j.memErr || bad || bad' } l (Config.decoded ⟨j.ctx, b, l⟩ (if j.bound then some k else none)))

/-- DECODE_WORK_BOUND: the time bound of a decode job is reached (R442). -/
def execDecodeWorkBound (n : PipeIx) (s : State) : Out :=
  .next (if n.val < 2 then s else s.updPipe n fun x => { x with job := x.job.map fun j => { j with bound := true } })

/-! Ring registers (R432, R443). -/

/-- BAR0 offset of MDW_CICm_RINGn (26). -/
def cicRingOff (n : Nat) : Nat := mdwOff (0x200 + 0x10 * n)

/-- MDW_CICm_RINGn written. -/
def State.cicRingWrite (s : State) (m n : Nat) (v : Dword) : State :=
  let x := s.meadow m
  let old := x.cicReg n
  let new := v.toNat % 2 ^ 53
  let refuse (c : Half) : State := s.refuseWrite x.port x.fn c (cicRingOff n)
  if x.state = .absent then s
  else if (s.pipe n).owner ≠ some m then refuse Code.cicNotOwner
  else if bitOf old 52 ∧ old % 2 ^ 52 ≠ new % 2 ^ 52 then refuse Code.cicBusy
  else if new % 4096 ≠ 0 ∨ bitsOf new 51 48 < 4 ∨ 10 < bitsOf new 51 48 then refuse Code.cicDescriptor
  else
    let t := s.updMeadow m fun x => x.setCic n new
    if bitOf new 52 ∧ !bitOf old 52 then t.updPipe n fun x => { x with seq := 1, idx := 0 } else t

/-- CIC_RING_WRITE. -/
def execCicRingWrite (m : MeadowIx) (n : PipeIx) (v : Dword) (s : State) : Out :=
  .next (s.hostRow m (cicRingOff n) fun s => s.cicRingWrite m n v)

/-- A pipe without a job takes the owner that the CODEC records name (R426). -/
def State.cicOwners (s : State) : State :=
  (upFrom 0 6).foldl (fun t n => t.updPipe n fun x =>
    if x.job.isNone then { x with owner := Sparse.get none s.heath.codec n } else x) s

end Sys2Proof.Machine
end

