-- ==== Sys2Proof/Machine/Accept.lean ====
section
/-!
DEFINITION. What an accepted stream changes, teardown, and the repair stream that Sexton builds
(01 R18, R31; 02 R41 to R45, R54, R57; 16 R349, R362; 21 R450 to R453, R462; 22 R473, R476, R477; 23 R491 to R493).
-/

namespace Sys2Proof.Machine

open Sys2Proof

/-! Gating and return (R30, R31). -/

/-- A base tussock is GATED: its cores' stores are erased and its walkers lose their caches. -/
def State.gateBase (s : State) (b : Nat) : State :=
  (s.updCores (coresOfBase b) Core.erase).updBase b fun x => { x.clear with gated := true }

/-- A base tussock leaves GATED: its cores return empty with a new generation and await ADMIT. -/
def State.returnBase (s : State) (b : Nat) : State :=
  (s.updCores (coresOfBase b) fun c => c.empty s.tick).updBase b fun x => { x.clear with gated := false, idleGate := false }

/-- STORE_LOSS of a meadow raised (R362). -/
def State.loseStores (s : State) (m k : Nat) : State :=
  s.updMeadow m fun x => { x with storeLoss := x.storeLoss + BitVec.ofNat 32 k }

/-! Teardown (R57, R410, R426). -/

/-- The jobs that Cicada has taken for a meadow abandoned (R426). -/
def State.abandonJobs (s : State) (m : Nat) : State :=
  (upFrom 0 6).foldl (fun t n => t.updPipe n fun x => match x.job with
    | some j => if j.meadow = m then { x with job := none } else x
    | none => x) s

/-- A meadow torn down: its key destroyed, its base tussocks gated with nothing of it left, its Cicada jobs abandoned
and its transport session ended. `bases` are the base tussocks it had. -/
def State.teardown (s : State) (m slot : Nat) (bases : List Nat) : State :=
  let t := if s.heath.trn.lanes ≠ 0 ∧ s.heath.trn.meadow = m then s.endSession Code.ok else s
  let t := (t.abandonJobs m).freshKey slot
  let t := bases.foldl (fun u b =>
    (u.gateBase b).updCores (coresOfBase b) Core.wiped) t
  t.updMeadow m fun _ => Meadow.zero

/-! Acceptance of a stream. -/

/-- A guard state registered: a journal entry where something changes; flags taken in VENDOR_TEST are in force no longer (R453). -/
def State.registerGuard (s : State) (g : Guard) : State :=
  (if g = s.guard then s else s.journal g).updSxt fun x => { x with vtFlags := none }

/-- The guard state of an accepted stream: a journal entry where something changes, the claim of ownership in
PROVISIONED, and flags until the next cold start in VENDOR_TEST (R47, R452, R453). -/
def State.acceptGuard (s : State) (r : QRec) : State :=
  let g := s.guardAfter r.w
  match s.life with
  | .vendorTest => s.updSxt fun x => { x with vtFlags := some (g.debug, g.bist) }
  | .provisioned => (s.registerGuard g).burnLife
  | _ => s.registerGuard g

/-- The base tussocks whose owner changes, each with its new owner. -/
def ownerChanges (s t : State) : List (Nat × Option Nat) :=
  (upFrom 0 256).filterMap fun b => if s.meadowOfBase b = t.meadowOfBase b then none else some (b, t.meadowOfBase b)

/-- The cores that move to another site inside base tussocks that keep their owner (R18). -/
def movedCores (s t : State) : List Nat :=
  (upFrom 0 4096).filter fun n => s.column n != t.column n && s.meadowOf n == t.meadowOf n

/-- The settings of a stream put in force over the state `s` that it was checked against, with the cores that
return and need ADMIT (R31, R45, R349, R362, R462). A core that moves loses its stores with the move, or has lost them
with the gating of its base tussock. -/
def State.putSettings (s t : State) : List Nat × State :=
  let gone := s.meadowIds.filter fun m => !t.meadowIds.contains m
  let made := t.meadowIds.filter fun m => !s.meadowIds.contains m
  let kept := t.meadowIds.filter fun m => s.meadowIds.contains m
  let changes := ownerChanges s t
  let moved := movedCores s t
  let u := gone.foldl (fun u m => u.teardown m (s.meadow m).slot []) t
  let u := changes.foldl (fun u c => match c.2 with
    | none => (u.gateBase c.1).updCores (coresOfBase c.1) Core.wiped
    | some _ =>
      (u.returnBase c.1).updCores (coresOfBase c.1) Core.wiped
        |>.updBase c.1 fun x => { x with stage := t.firstStage c.1, watchSuspended := false }) u
  let u := moved.foldl (fun u n =>
    let u := u.updCore n fun c => c.empty u.tick
    match t.meadowOf n with
    | some m => if (s.base (baseOf n)).gated then u else u.loseStores m 1
    | none => u) u
  let u := made.foldl (fun u m =>
    let (k, v) := (u.freshKey (t.meadow m).slot).random128
    v.updMeadow m fun x => { x with prefixKey := k, admitting := true }) u
  let u := kept.foldl (fun u m => if (s.meadow m).slot = (t.meadow m).slot then u else u.freshKey (t.meadow m).slot) u
  let back := (changes.filter fun c => c.2.isSome).flatMap fun c => coresOfBase c.1
  ((upFrom 0 4096).filter fun n => back.contains n || (moved.contains n && (t.meadowOf n).isSome), u)

/-- Transport lanes follow the TRANSPORT record: those outside LANES are taken down, and all others train again where MEDIA forces
one mode (R473). -/
def State.trnApply (s : State) : State :=
  let c := s.heath.trn
  s.updTrn fun x =>
    { x with
      lanes := (upFrom 0 4).foldl (fun m l =>
        let st := Sparse.get 0 m l
        Sparse.put 0 m l (if !bitOf c.lanes l then 0
          else if st = 0 ∨ c.media < 2 then 1 else st)) x.lanes }

/-- Start-up completes: STEP reads 11 and vector 12 of both PFs is raised (R477). -/
def State.bootDone (s : State) : State :=
  ((s.updSxt fun x => { x with bootStep := 11, waiting := false, bootCode := Code.ok }).raise 0 0 12).raise 1 0 12

/-- The cores that start-up admits: those of every meadow but one that step 9 held STOPPED (R477, R478). -/
def State.startCores (s : State) : List Nat :=
  ((s.meadowIds.filter fun m => (s.meadow m).state != .stopped || (s.meadow m).code != Code.qCoremap).flatMap
    s.meadowCores).filter fun n => (s.core n).awaitAdmit

/-- Step 10 begins: ADMIT is sent for every core of every meadow, unless the A1 is BENCHED (R477, R494). -/
def State.startAdmission (s : State) : State :=
  let t := s.updSxt fun x => { x with bootStep := 10, waiting := false, bootCode := Code.ok }
  if t.sxt.benched then t
  else if t.startCores.isEmpty then t.bootDone
  else t.issueAdmits t.startCores .startup

/-- An epoch open at the STOP fails when a partial stream is accepted for its meadow (R491). -/
def State.failStopped (s : State) (ms : List Nat) : State :=
  ms.foldl (fun t m => if (t.meadow m).state = .stopped then t.failEpoch m Code.reset else t) s

/-- A stream that passed every check is applied; `admits` says who sends its ADMITs (R41 to R45, R63). It joins the streams in
force in Sexton's reserved area. SXT_QORF_OFFSET reads 0 then, which R63 does not say: DESIGN CHOICE, log entry 64. -/
def State.acceptQorf (s : State) (q : QOk) (admits : Option StemBy) : State :=
  let (back, t) := s.putSettings q.set
  let t := match q.guard with | some r => t.acceptGuard r | none => t
  let t := { t with qorf :=
    { t.qorf with
      code := Code.ok, word := 0, serial := BitVec.ofNat 32 q.serial, anyAccepted := true,
      fullSerial := if q.full then BitVec.ofNat 32 q.serial else t.qorf.fullSerial,
      fullDigest := if q.full then q.digest else t.qorf.fullDigest,
      partials := if q.full then List.replicate 32 0 else sha256 (t.qorf.partials ++ q.digest),
      held := if q.full then [q.bytes] else t.qorf.held ++ [q.bytes] } }
  let t := t.cicOwners
  if q.full then
    let t := { t with power := { t.power with cap := t.heath.cap.getD t.part.watts } }
    (t.swApply.trnApply).startAdmission
  else
    let t := t.failStopped (s.meadowIds.filter fun m => bitOf q.scope m)
    match admits with
    | some by_ => t.issueAdmits back by_
    | none => t

/-! The repair stream (R43, R54, R493 step 4). -/

/-- The spare site that a failed site's core moves to: column 65 first, then 32, of those free and sound (R54). -/
def State.spareOf (s : State) (row : Nat) (used : List Nat) : Option Nat :=
  [65, 32].find? fun p => !used.contains p && !Sparse.get false s.heath.failed (66 * row + p)

/-- The columns of a row with each core moved off its failed site; `none` where no spare is free. -/
def State.repairRow (s : State) (row : Nat) : Nat → List Nat → Option (List Nat)
  | 0, cols => some cols
  | k + 1, cols =>
    let c := 63 - k
    if Sparse.get false s.heath.failed (66 * row + cols.getD c 0) then
      match s.spareOf row cols with
      | some q => s.repairRow row k (cols.set c q)
      | none => none
    else s.repairRow row k cols

/-- The columns in force of a row. -/
def State.rowColumns (s : State) (row : Nat) : List Nat := (upFrom 0 64).map fun c => s.column (64 * row + c)

/-- Whether a core sits on a failed site. -/
def State.onFailed (s : State) (n : Nat) : Bool := Sparse.get false s.heath.failed (s.siteOf n)

/-- The rows in which some core of a list sits on a failed site. -/
def State.rowsHit (s : State) (l : List Nat) : List Nat :=
  (upFrom 0 64).filter fun row => l.any fun n => n / 64 == row && s.onFailed n

/-- The meadows with a core on a failed site. -/
def State.meadowsHit (s : State) (l : List Nat) : List Nat := ((l.filter s.onFailed).filterMap s.meadowOf).eraseDups

/-- The COREMAP record of a row in a repair, as words; `none` where the row has no free spare. -/
def State.rowRecord (s : State) (row : Nat) : Option (List Nat) :=
  (s.repairRow row 64 (s.rowColumns row)).map fun cols =>
    [0x00110002, row] ++ (upFrom 0 16).map fun i => bytesToNat (((cols.drop (4 * i)).take 4).map (BitVec.ofNat 8))

/-- The ROUTE record that marks the four links of a site's router absent (R493, Other failures). -/
def routeRecord (site : Nat) : List Nat := [0x00010006, site + 0xF * 2 ^ 16]

/-- The words of a repair stream with its records, SCOPE the meadows given (R37 to R39, R43). -/
def State.repairStream (s : State) (scope : Nat) (recs : List Nat) : List Nat :=
  let head : List Nat :=
    [0x46524F51, 0x00010100, 8 + recs.length + 9, s.part.code, (s.qorf.serial.toNat + 1) % 2 ^ 32,
      s.qorf.fullSerial.toNat, scope % 2 ^ 32, scope / 2 ^ 32]
  let body := head ++ recs
  let hash := sha256 (body.flatMap (natToBytes 4))
  body ++ [0x0008FFFE] ++ (upFrom 0 8).map fun i => fieldNat hash (4 * i) 4

/-- A repair stream handled like any stream: its code where it is refused (R54, R493). -/
def State.handleRepair (s : State) (scope : Nat) (recs : List Nat) : Option Half × State :=
  let ws := s.repairStream scope recs
  let b := ws.flatMap (natToBytes 4)
  let step := s.sxt.bootStep
  let t := s.updSxt fun x => { x with bootStep := 11 }
  let t := { t with qorf := { t.qorf with copy := b } }
  match t.checkStream ws.length b with
  | .error (c, w) => (some c, { s with qorf := { s.qorf with code := c, word := w, copy := b } })
  | .ok q => (none, (t.acceptQorf q none).updSxt fun x => { x with bootStep := step })

/-- Sexton moves the cores of some rows off their failed sites, where each has a spare, in one stream; rows without one stay as they
are. The stream also marks the links of failed routers absent where their cores move and R59 permits it (R54, R493; log entry
35). -/
def State.mend (s : State) (rows routers : List Nat) : Option Half × State :=
  let rows := rows.filter fun row => (s.rowRecord row).isSome
  let recs := rows.flatMap fun row => (s.rowRecord row).getD []
  let moves := (rows.flatMap fun row => upFrom (64 * row) 64).filter s.onFailed
  let scope := (moves.filterMap s.meadowOf).eraseDups.foldl (fun a m => a + 2 ^ m) 0
  let cut := routers.filter fun k => moves.any fun n => s.siteOf n == k && (s.meadowOf n).isSome
  if recs.isEmpty then (none, s)
  else match s.handleRepair scope (recs ++ cut.flatMap routeRecord) with
    | (some c, t) => if c = Code.qRoute ∧ !cut.isEmpty then s.handleRepair scope recs else (some c, t)
    | r => r

end Sys2Proof.Machine
end

