-- ==== Sys2Proof/Machine/Sexton.lean ====
section
/-!
DEFINITION. Sexton's mailboxes: firmware, streams, attestation, keys, debug, SPDM (21 R445 to R463, R467; 22 R469 to R472).
A command's data from host memory comes with the row that handles it; `none` is a failed or timed-out host access (R448).
-/

namespace Sys2Proof.Machine

open Sys2Proof

/-! Mailboxes (R446 to R448). -/

/-- Port `p`'s mailbox changed. -/
def State.updMbox (s : State) (p : Nat) (f : Mailbox → Mailbox) : State :=
  s.updSxt fun x => { x with mail := Sparse.put Mailbox.zero x.mail p (f (s.mbox p)) }
/-- Argument `i` of a command. -/
def MailJob.arg (j : MailJob) (i : Nat) : Nat := (Sparse.get 0 j.args i).toNat

/-- The command of a port that Sexton handles now and whose result is not yet known: the oldest (R447). -/
def State.mailJob (s : State) (p : Nat) : Option MailJob :=
  if s.sxt.lockstep ∨ s.sxt.mailQueue.head? ≠ some p ∨ (s.mbox p).ready.isSome then none else (s.mbox p).job

/-- The result of the command in progress of a port; MAILBOX_COMMAND_COMPLETE publishes it. -/
def State.mailEnd (s : State) (p : Nat) (code : Half) (result : Nat) : State :=
  s.updMbox p fun m => { m with ready := some (code, BitVec.ofNat 64 result) }

/-- A refusal at start-up recorded; the step waits for the host again (R471, R476). -/
def State.bootRefuse (s : State) (code : Half) : State :=
  if s.sxt.bootStep = 5 ∨ s.sxt.bootStep = 9 then s.updSxt fun x => { x with bootCode := code, waiting := true } else s

/-- A mailbox row: it acts on the command in progress of its port when that has its OP; the ROM refuses every
command but FIRMWARE_LOAD (R471). -/
def State.onMail (s : State) (p op : Nat) (f : MailJob → State) : State :=
  match s.mailJob p with
  | none => s
  | some j =>
    if j.op ≠ op then s
    else if !s.sxt.fwRunning ∧ op ≠ 1 then s.mailEnd p Code.sxtOp 0
    else f j

/-- SUBMIT written (R446, R469). -/
def State.submit (s : State) (p : Nat) : State :=
  let m := s.mbox p
  if m.job.isSome then s.updMbox p fun x => { x with code := Code.mboxBusy }
  else
    let t := s.updMbox p fun x => { x with job := some ⟨x.op, x.tag, x.args, s.sxt.bootStep⟩, ready := none }
    t.updSxt fun x =>
      { x with
        mailQueue := x.mailQueue ++ [p]
        waiting := if (x.bootStep = 5 ∧ m.op = 1) ∨ (x.bootStep = 9 ∧ m.op = 2) then false else x.waiting }

/-- The command at the front is published: RESULT, CODE, TAG, DONE, and vector 12 (R446). A repair that became due while a
stream or guard request was in progress starts now (R44). -/
def State.publish (s : State) (p : Nat) (j : MailJob) (code : Half) (result : Dword) : State :=
  let t := s.updMbox p fun x =>
    { x with result := result, code := code, rtag := j.tag, done := true, job := none, ready := none }
  ((t.updSxt fun x => { x with mailQueue := x.mailQueue.drop 1 }).raise p 0 12).kickRepair Code.coreSram

/-- Whether an OP is listed (R448). -/
def mailOpKnown (op : Nat) : Bool := 1 ≤ op && op ≤ 8

/-- MAILBOX_COMMAND_COMPLETE: the command in progress of a port completes; an OP that is not listed is refused (R446, R449). -/
def execMailboxCommandComplete (p : PortIx) (s : State) : Out :=
  .next (if s.sxt.lockstep ∨ s.sxt.mailQueue.head? ≠ some p.val then s
    else match (s.mbox p).job, (s.mbox p).ready with
      | some j, some (c, r) => s.publish p j c r
      | some j, none => if mailOpKnown j.op then s else s.publish p j Code.sxtOp 0
      | none, _ => s)

/-- SEXTON_DMA_TIMEOUT: a host read of the command in progress times out (R448). -/
def execSextonDmaTimeout (p : PortIx) (s : State) : Out :=
  .next (match s.mailJob p with
    | none => s
    | some j =>
      if [1, 2, 3, 4, 6].contains j.op then
        let t := s.mailEnd p Code.sxtDma 0
        if j.op ≤ 2 then t.updSxt fun x => { x with waiting := x.waiting || x.bootStep == 5 || x.bootStep == 9 } else t
      else s)

/-! Firmware and identity (R454 to R457). -/

/-- The identity of a cold start: a leaf burned, and a fresh level-2 tree (R456, R457). -/
def State.makeIdentity (s : State) : State :=
  if s.life = .blank ∨ s.life = .vendorTest ∨ 32768 ≤ s.sxt.leaves then s.updSxt fun x => { x with bootLeaf := none, sigsLeft := 0, idTree := none }
  else (s.freshTree s.sxt.leaves).updSxt fun x => { x with leaves := x.leaves + 1, bootLeaf := some x.leaves, sigsLeft := 1024 }

/-- Steps 6 and 7 begin together (R469, R473); at a cold start every transport lane autonegotiates. -/
def State.startLinks (s : State) : State :=
  let t := s.updSxt fun x => { x with bootStep := 6, waiting := false, bootCode := Code.ok, stacksDone := false }
  let t := t.swStart
  if s.sxt.warm then t.trnApply
  else t.updTrn fun x => { x with lanes := putAll 0 x.lanes [0, 1, 2, 3] 1 }

/-- The format checks of an image (R454). -/
def fwFormatOk (part : Part) (b : List Byte) : Bool :=
  let n := fieldNat b 4 4
  b.length ≤ 4194304 && 64 + n ≤ b.length && fieldNat b 0 4 = 0x54585346 && n % 64 = 0 && fieldNat b 8 1 ≤ 64
    && bitsOf (fieldNat b 9 1) 7 1 = 0 && bitOf (fieldNat b 10 2) part.code && fieldZero b 12 52

/-- FIRMWARE_LOAD: an image's data (R454, R455, R471). -/
def execFirmwareLoad (p : PortIx) (data : Option (List Byte)) (s : State) : Out :=
  .next (s.onMail p 1 fun _ =>
    if s.sxt.fwRunning ∨ s.sxt.bootStep ≠ 5 then s.mailEnd p Code.sxtOp 0
    else
      let refuse (c : Half) : State := (s.mailEnd p c 0).bootRefuse c
      match data with
      | none => (s.mailEnd p Code.sxtDma 0).updSxt fun x => { x with waiting := true }
      | some b =>
        let svn := fieldNat b 8 1
        let n := 64 + fieldNat b 4 4
        if !fwFormatOk s.part b then refuse Code.fwFormat
        else if !s.gnoelliaSigns (b.drop n) (b.take n) then refuse Code.fwSignature
        else if svn < s.sxt.svn then refuse Code.fwRollback
        else
          let t := s.updSxt fun x =>
            { x with
              svn := if bitOf (fieldNat b 9 1) 0 then max x.svn svn else x.svn, fwRunning := true,
              fwHash := sha256 (b.take n), kem := s.free }
          let t := { t with free := t.free + 1568 }
          (t.makeIdentity.startLinks).mailEnd p Code.ok 0)

/-! Streams (R40 to R44, R63). -/

/-- STREAM_LOAD: the words are copied from the host into Sexton's reserved area and handled from there (R40, R44, R63, R476). -/
def execStreamLoad (p : PortIx) (data : Option (List Byte)) (s : State) : Out := s.attemptWhole (.streamLoad p data) <|
  .next (s.onMail p 2 fun j =>
    if s.sxt.repair.phase = 4 then s.mailEnd p Code.qBusy 0
    else match data with
      | none => (s.mailEnd p Code.sxtDma 0).updSxt fun x => { x with waiting := x.waiting || x.bootStep == 9 }
      | some b =>
        let s := { s with qorf := { s.qorf with copy := b } }
        let early (x : Sexton) : Sexton := { x with bootStep := if j.step < 9 then j.step else x.bootStep }
        match (s.updSxt early).checkStream (j.arg 1) b with
        | .error (c, w) => ({ s with qorf := { s.qorf with code := c, word := w } }.mailEnd p c 0).bootRefuse c
        | .ok q => (s.acceptQorf q (some .sexton)).mailEnd p Code.ok q.serial)

/-! Attestation (R456 to R460). -/

/-- Whether an attestation request is well formed: its reserved bytes, range count and ranges. -/
def attestOk (b : List Byte) : Bool :=
  let n := fieldNat b 33 1
  64 + 16 * n ≤ b.length && n ≤ 8 && fieldZero b 34 30 && (fieldNat b 32 1 ≠ 0xFF || n = 0)
    && (upFrom 0 n).all fun i => fieldNat b (64 + 16 * i) 8 % 32 = 0 && fieldNat b (72 + 16 * i) 8 % 32 = 0

/-- The bytes of the ranges of a request, read in order through a meadow's translation (R460). -/
def State.rangeBytes (s : State) (m : Nat) (b : List Byte) : List Nat → Res (List Byte)
  | [] => (.ok [], s)
  | i :: r =>
    match s.mreadAll m (fieldNat b (64 + 16 * i) 8) (fieldNat b (72 + 16 * i) 8) with
    | (.error c, t) => (.error c, t)
    | (.ok x, t) =>
      match t.rangeBytes m b r with
      | (.ok y, u) => (.ok (x ++ y), u)
      | e => e

/-- ATTEST (R457 to R460). -/
def execAttest (p : PortIx) (data : Option (List Byte)) (s : State) : Out := s.attemptWhole (.attest p data) <|
  .next (s.onMail p 4 fun j =>
    if !s.life.identified then s.mailEnd p Code.sxtOp 0
    else match data with
      | none => s.mailEnd p Code.sxtDma 0
      | some b =>
        let q := fieldNat b 32 1
        if !attestOk b ∨ (q ≠ 0xFF ∧ (63 < q ∨ (s.meadow q).state = .absent ∨ (s.meadow q).port ≠ p)) then s.mailEnd p Code.sxtOp 0
        else if j.arg 2 < reportBytes then s.mailEnd p Code.sxtDma 0
        else match s.rangeBytes q b (upFrom 0 (fieldNat b 33 1)) with
          | (.error c, t) => t.mailEnd p c 0
          | (.ok w, t) =>
            let r := t.report b (if fieldNat b 33 1 = 0 then zero32 else sha256 w)
            match t.identitySign r with
            | .error c => t.mailEnd p c 0
            | .ok (sg, t) =>
              (t.emit (.hostWrite p 0 (j.arg 1) (r ++ sg) false)).mailEnd p Code.ok reportBytes)

/-- CERT_READ; `ok` is whether the host access succeeds (R448, R449). -/
def execCertRead (p : PortIx) (ok : Bool) (s : State) : Out :=
  .next (s.onMail p 5 fun j =>
    if !s.life.identified then s.mailEnd p Code.sxtOp 0
    else if !ok ∨ j.arg 1 < s.sxt.cert.length then s.mailEnd p Code.sxtDma 0
    else (s.emit (.hostWrite p 0 (j.arg 0) s.sxt.cert false)).mailEnd p Code.ok s.sxt.cert.length)

/-! Content keys (R461). -/

/-- Whether every meadow that a region under a key slot grants is stopped (R328, R461). -/
def State.slotStopped (s : State) (slot : Nat) : Bool :=
  s.heath.regions.all fun r => r.keySlot ≠ slot || s.meadowIds.all fun m => !bitOf r.grant.toNat m || (s.meadow m).state.isStopped

/-- The secret that a ciphertext carries to this cold start's ML-KEM key (R461, R463). -/
def State.secretOf (s : State) (ct : List Byte) : List Byte := natToBytes 32 (Config.decaps s.sxt.kem ct).toNat

/-- The key that a KEY_LOAD message wraps; none where the tag fails (R461). -/
def State.unwrap (s : State) (b : List Byte) : Option Nat :=
  let key := sha256 ([0x4B, 0x45, 0x59, 0x31] ++ s.secretOf (sliceBytes b 16 1568) ++ natToBytes 16 s.sxt.deviceId ++ sliceBytes b 4 1)
  (gcmOpen key (sliceBytes b 1584 12) (b.take 16) (sliceBytes b 1596 64) (sliceBytes b 1660 16)).map bytesToNat

/-- KEY_LOAD (R461). -/
def execKeyLoad (p : PortIx) (data : Option (List Byte)) (s : State) : Out :=
  .next (s.onMail p 6 fun _ =>
    if s.life ≠ .owned then s.mailEnd p Code.sxtOp 0
    else match data with
      | none => s.mailEnd p Code.sxtDma 0
      | some b =>
        let m := fieldNat b 4 1
        let x := s.meadow m
        let n := fieldNat b 8 8
        if b.length < 1676 ∨ fieldNat b 0 4 ≠ 0x59454B4D ∨ 63 < m ∨ !fieldZero b 5 3 then s.mailEnd p Code.keyFormat 0
        else if x.state = .absent ∨ x.port ≠ p ∨ !x.state.isStopped ∨ !s.slotStopped x.slot then s.mailEnd p Code.keyState 0
        else if (match Sparse.get none s.sxt.keyCounters m with | some k => decide (n ≤ k) | none => false) then s.mailEnd p Code.keyCounter 0
        else if !hssVerify s.guard.owner (b.drop 1676) (b.take 1676) then s.mailEnd p Code.guardSignature 0
        else match s.unwrap b with
          | none => s.mailEnd p Code.keyUnwrap 0
          | some k =>
            let t := s.updPkg fun g => { g with keys := Sparse.put (.random 0) g.keys x.slot (.loaded k) }
            (t.updSxt fun y => { y with keyCounters := Sparse.put none y.keyCounters m (some n) }).mailEnd p Code.ok 0)

/-! Debug access (R467). -/

/-- Whether DEBUG_READ may read a core for a port (R467). -/
def State.debugOk (s : State) (p n : Nat) : Bool :=
  s.flags.1 && match s.meadowOf n with
    | some m => (s.meadow m).state.isStopped && (s.meadow m).port == p && !(s.meadow m).confidential
    | none => false

/-- DEBUG_READ (R467). A read of CORE_LAST_ERROR clears it (R119). -/
def execDebugRead (p : PortIx) (s : State) : Out :=
  .next (s.onMail p 8 fun j =>
    let n := bitsOf (j.arg 0) 11 0
    let sp := bitsOf (j.arg 0) 13 12
    let a := j.arg 1
    if s.life ≠ .owned then s.mailEnd p Code.sxtOp 0
    else if !s.debugOk p n ∨ 1 < sp ∨ (sp = 1 ∧ (a % 8 ≠ 0 ∨ 131072 ≤ a)) then s.mailEnd p Code.debugLocked 0
    else if sp = 0 then
      let v := s.sysreg n a
      (if a = 0x019 then s.updCore n fun k => { k with lastError := 0 } else s).mailEnd p Code.ok v.toNat
    else s.mailEnd p Code.ok (Mem.nat (s.core n).near a 8))

/-! SPDM, IDE and TDISP (R401, R463). -/

/-- A STOP of a meadow that Sexton sends (R342). -/
def State.sendStop (s : State) (m : Nat) : State := s.issueStem ⟨1, (s.meadow m).top, 0, .sexton, false⟩

/-- A TDI changes state; a confidential meadow is stopped when its TDI leaves RUN (R401). -/
def State.setTdi (s : State) (p f : Nat) (t : Tdi) : State :=
  let was := (s.fn p f).tdi
  let u := s.updFn p f fun x => { x with tdi := t }
  if was = .run ∧ t ≠ .run then
    match s.fnMeadow p f with
    | some m => if (s.meadow m).confidential then u.sendStop m else u
    | none => u
  else u

/-- TDI_LEAVE_RUN: to ERROR or to CONFIG_UNLOCKED (R401). -/
def execTdiLeaveRun (p : PortIx) (f : FnIx) (err : Bool) (s : State) : Out :=
  .next (if (s.fn p f).tdi = .run then s.setTdi p f (if err then .error else .unlocked) else s)

/-- SPDM_REQUEST (R457, R463). An answer without content is an error answer: one with another registry's identifier has it, and any
request outside PSK mode. -/
def execSpdmRequest (p : PortIx) (f : FnIx) (r : Spdm) (s : State) : Out :=
  let level := Sparse.get 0 s.sxt.spdm p.val
  let set (t : State) (k : Nat) : State := t.updSxt fun x => { x with spdm := Sparse.put 0 x.spdm p.val k }
  let good (t : State) : State := t.emit (.spdm p f (natToBytes 2 0))
  let bad (t : State) : State := t.emit (.spdm p f [])
  .next (if !s.sxt.fwRunning ∨ s.sxt.lockstep then s
    else match r with
      | .secret registry ct nonce =>
        if registry ≠ Config.gnoelliaId then bad s
        else (match s.identitySign (sha256 (ct ++ nonce)) with
        | .error c => s.emit (.spdm p f (natToBytes 2 c.toNat))
        | .ok (b, t) =>
          let k := sha256 (s.secretOf ct ++ natToBytes 16 s.sxt.deviceId)
          (set (t.updSxt fun x => { x with psk := Sparse.put [] x.psk p.val k }) 1).emit (.spdm p f b))
      | .pskExchange psk => if 1 ≤ level ∧ psk = Sparse.get [] s.sxt.psk p.val then good (set s 2) else bad s
      | .ideKm key => if level = 2 then good (s.updFn p f fun x => { x with ide := true, ideKey := key }) else bad s
      | .other => bad s
      | .tdisp q =>
        if level ≠ 2 then bad s
        else match q, (s.fn p f).tdi with
          | .lock, .unlocked => good (s.setTdi p f .locked)
          | .start, .locked => if (s.fn p f).ide then good (s.setTdi p f .run) else bad s
          | .stop, _ => good (s.setTdi p f .unlocked)
          | _, _ => bad s)

/-- LOCKSTEP_DISAGREE: Sexton stops issuing, and the A1 is BENCHED, or start-up stops where the ROM checks did not
end; without power nothing runs (R445, R479, R494). -/
def execLockstepDisagree (s : State) : Out :=
  .next (if !s.sxt.power then s
    else if s.sxt.bootStep = 3 then s.updSxt fun x => { x with bootCode := Code.bootLockstep, lockstep := true }
    else (s.bench Code.lockstep).updSxt fun x => { x with lockstep := true })

end Sys2Proof.Machine
end

