-- ==== Sys2Proof/Machine/Guarded.lean ====
section
/-!
DEFINITION. Guard requests and the life-cycle transitions they cause (21 R450 to R453, R464 to R466).
-/

namespace Sys2Proof.Machine

open Sys2Proof

/-- OPs of a guard request (R464). -/
def guardOps : List Nat := [1, 2, 3, 5, 6, 7]

/-- OP of a request. -/
def gOp (b : List Byte) : Nat := fieldNat b 4 1
/-- The payload's length. -/
def gPay (b : List Byte) : Nat := fieldNat b 32 4
/-- SERIAL of a request. -/
def gSerial (b : List Byte) : Nat := fieldNat b 24 4
/-- Where the signature block begins. -/
def gBlock (b : List Byte) : Nat := 4 * ceilDiv (64 + gPay b) 4
/-- Lengths of the Owner's, the Steward's and Gnoellia's signature. -/
def gSigs (b : List Byte) : Nat × Nat × Nat :=
  (fieldNat b (gBlock b) 2, fieldNat b (gBlock b + 2) 2, fieldNat b (gBlock b + 4) 2)
/-- Word `i` of the GUARD payload. -/
def gWord (b : List Byte) (i : Nat) : Nat := fieldNat b (64 + 4 * i) 4

/-- The payload of SET: reserved bits zero, and a key zero where it is not set (R62, R464). -/
def gSetOk (b : List Byte) : Bool :=
  bitsOf (gWord b 0) 31 4 = 0 && gWord b 32 = 0 && (bitOf (gWord b 0) 2 || fieldZero b 72 60)
    && (bitOf (gWord b 0) 3 || fieldZero b 132 60)

/-- Check 1 of R465: layout, MAGIC, OP, LENGTH and reserved bytes; each signature is zero-padded to a whole word
(R464). -/
def gFormatOk (b : List Byte) : Bool :=
  let op := gOp b
  let (o, w, g) := gSigs b
  let at_ := gBlock b + 8
  let padded (a n : Nat) : Bool := fieldZero b (a + n) (4 * ceilDiv n 4 - n)
  64 ≤ b.length && b.length ≤ 65536 && fieldNat b 0 4 = 0x44524147 && guardOps.contains op && fieldZero b 5 3
    && fieldNat b 28 4 = b.length && fieldZero b 36 28
    && (if op = 1 then gPay b = 132 && gSetOk b else if op = 6 then 1 ≤ gPay b && gPay b ≤ 8192 else gPay b = 0)
    && b.length = gBlock b + 8 + 4 * (ceilDiv o 4 + ceilDiv w 4 + ceilDiv g 4) && fieldZero b (gBlock b + 6) 2
    && padded at_ o && padded (at_ + 4 * ceilDiv o 4) w && padded (at_ + 4 * (ceilDiv o 4 + ceilDiv w 4)) g

/-- The state that an OP requires (R464). -/
def gState : Nat → Life
  | 1 | 2 => .owned
  | 3 => .retired
  | 7 => .blank
  | _ => .vendorTest

/-- Check 5 of R465: every required signature valid over the bytes up to the block, every other length zero (R464). -/
def State.gSigned (s : State) (b : List Byte) : Bool :=
  let op := gOp b
  let (o, w, g) := gSigs b
  let msg := b.take (gBlock b)
  let at_ := gBlock b + 8
  let owner := sliceBytes b at_ o
  let steward := sliceBytes b (at_ + 4 * ceilDiv o 4) w
  let gnoellia := sliceBytes b (at_ + 4 * ceilDiv o 4 + 4 * ceilDiv w 4) g
  let two := op = 1 || op = 2 || op = 3
  let gn := op = 3 || op = 5 || op = 6 || op = 7
  (if two then 0 < o && 0 < w && s.bothSign owner steward msg else o = 0 && w = 0) && (if gn then 0 < g && s.gnoelliaSigns gnoellia msg else g = 0)

/-- The guard state that SET would leave. -/
def State.gAfter (s : State) (b : List Byte) : Guard := s.guardAfter (gWord b)

/-- The checks of R465 in order, with a certificate's own check given by `cert`. -/
def State.gCheck (s : State) (b : List Byte) (cert : Bool) : Option Half :=
  let op := gOp b
  let floor := gWord b 1
  let full := 384 ≤ s.sxt.journal.length
  let noBit := 64 ≤ lcCount s.sxt.lcBits
  if !gFormatOk b then some Code.guardFormat
  else if op ≠ 7 ∧ fieldNat b 8 16 ≠ s.sxt.deviceId then some Code.guardDevice
  else if s.life ≠ gState op then some Code.guardLifeCycle
  else if (s.qorf.anyAccepted ∧ gSerial b ≤ s.qorf.serial.toNat) ∨ gSerial b < s.floor then some Code.guardSerial
  else if !s.gSigned b then some Code.guardSignature
  else if op = 1 ∧ (floor < s.floor ∨ floor ≤ gSerial b) then some Code.guardSerial
  else if op = 6 ∧ (!cert ∨ (s.sxt.cert ≠ [] ∧ s.sxt.cert ≠ sliceBytes b 64 (gPay b))) then some Code.guardFormat
  else if (op = 1 ∧ s.journalFull (s.gAfter b)) ∨ (op = 3 ∧ full) ∨ (op ≠ 1 ∧ op ≠ 5 ∧ noBit) then some Code.guardOtp
  else none

/-- In RETIRED, meadows that are stopped are torn down (R451). -/
def State.retireSweep (s : State) : State :=
  if s.life ≠ .retired then s
  else (s.meadowIds.filter fun m => (s.meadow m).state.isStopped).foldl
    (fun t m => t.teardown m (s.meadow m).slot (s.meadowBases m)) s

/-- Every key slot destroyed (R451). -/
def State.destroyKeys (s : State) : State := (upFrom 0 64).foldl (fun t k => t.freshKey k) s

/-- RETIRE's effect: the bit burned, every meadow stopped and torn down once stopped, every key slot destroyed (R451). -/
def State.retireNow (s : State) : State :=
  let t := s.burnLife
  let t := t.meadowIds.foldl (fun u m => u.sendStop m) t
  t.destroyKeys.retireSweep

/-- A row of a guard request of port `p`: its data; the row acts on a request with its own OP, and any row on one
whose OP is malformed. An accepted request's SERIAL is taken, then its effect (R447, R464 to R466). -/
def State.guardRow (s : State) (p op : Nat) (data : Option (List Byte)) (cert : Bool)
    (f : MailJob → List Byte → State → State) : State :=
  s.onMail p 3 fun j =>
    if s.sxt.repair.phase = 4 then s.mailEnd p Code.guardBusy 0
    else match data with
      | none => s.mailEnd p Code.sxtDma 0
      | some b =>
        if gOp b ≠ op ∧ guardOps.contains (gOp b) then s
        else if b.length ≠ j.arg 1 then s.mailEnd p Code.guardFormat 0
        else match s.gCheck b cert with
          | some c => s.mailEnd p c 0
          | none => f j b { s with qorf := { s.qorf with serial := BitVec.ofNat 32 (gSerial b), anyAccepted := true } }

/-- SET: the GUARD payload applied (R62, R464). -/
def execSet (p : PortIx) (data : Option (List Byte)) (s : State) : Out :=
  .next (s.guardRow p 1 data true fun _ b t =>
    (t.registerGuard (t.gAfter b)).mailEnd p Code.ok 0)

/-- RETIRE: OWNED to RETIRED (R451). -/
def execRetire (p : PortIx) (data : Option (List Byte)) (s : State) : Out := s.attemptWhole (.guardRetire p data) <|
  .next (s.guardRow p 2 data true fun _ _ t => t.retireNow.mailEnd p Code.ok 0)

/-- RETURN: RETIRED to VENDOR_TEST, with no key registered; the flags in force are those of the entry that it writes (R451). -/
def execReturn (p : PortIx) (data : Option (List Byte)) (s : State) : Out :=
  .next (s.guardRow p 3 data true fun _ _ t =>
    ((t.burnLife.journal { Guard.zero with floor := t.guard.floor }).updSxt fun x => { x with vtFlags := none }).mailEnd p Code.ok 0)

/-- PROVISION: DEVICE_SECRET fused where blank, the level-1 public key written out (R464). -/
def execProvision (p : PortIx) (data : Option (List Byte)) (s : State) : Out :=
  .next (s.guardRow p 5 data true fun j _ t =>
    let u := t.updSxt fun x => { x with secret := true }
    if j.arg 2 = 0 then u.mailEnd p Code.ok 0
    else (u.emit (.hostWrite p 0 (j.arg 2) (hssKey identityTree) false)).mailEnd p Code.ok 60)

/-- CERTIFY: the certificate written where blank, then VENDOR_TEST to PROVISIONED; `binds` says that the certificate
binds this DEVICE_ID to the level-1 public key (R464, R465). -/
def execCertify (p : PortIx) (data : Option (List Byte)) (binds : Bool) (s : State) : Out :=
  .next (s.guardRow p 6 data binds fun _ b t =>
    (t.burnLife.updSxt fun x => { x with cert := sliceBytes b 64 (gPay b) }).mailEnd p Code.ok 0)

/-- TEST_ENTRY: DEVICE_ID fused, BLANK to VENDOR_TEST (R464). -/
def execTestEntry (p : PortIx) (data : Option (List Byte)) (s : State) : Out :=
  .next (s.guardRow p 7 data true fun _ b t =>
    (t.burnLife.updSxt fun x => { x with deviceId := fieldNat b 8 16 }).mailEnd p Code.ok 0)

end Sys2Proof.Machine
end

