-- ==== Sys2Proof/Machine/Stem.lean ====
section
/-!
DEFINITION. Stem commands of the host and their acknowledgement, the control page, admission, repair and self-test
(15 R342 to R345; 18 R393 to R395; 23 R482, R491 to R493; 24 R496 to R504).
-/

namespace Sys2Proof.Machine

open Sys2Proof

/-! Slices (R496, R497). -/

/-- The site of a partition of a base-tussock slice, where the slice has it. -/
def partSite (slice p : Nat) : Option Nat :=
  let i := slice / 16
  let j := slice % 16
  if p < 16 then some (66 * (4 * i + p / 4) + (if j < 8 then 4 * j + p % 4 else 4 * j + 1 + p % 4))
  else if p < 20 then
    if j = 7 then some (66 * (4 * i + p - 16) + 32) else if j = 15 then some (66 * (4 * i + p - 16) + 65) else none
  else none

/-- The sites of a base-tussock slice. -/
def sliceSites (slice : Nat) : List Nat := (upFrom 0 20).filterMap (partSite slice)

/-- Whether a slice has a partition. -/
def partExists (slice p : Nat) : Bool := if slice < 256 then p = 20 || (partSite slice p).isSome else p = 0

/-- The cores that a test of a slice touches: those of the base tussock and those on its sites. -/
def State.sliceCores (s : State) (slice : Nat) : List Nat :=
  ((coresOfBase slice) ++ (sliceSites slice).filterMap s.coreAtSite).eraseDups

/-- A site marked failed: it stays isolated (R493, R499). -/
def State.failSite (s : State) (site : Nat) : State :=
  { s with heath := { s.heath with
    failed := Sparse.put false s.heath.failed site true, isolated := Sparse.put false s.heath.isolated site true } }

/-! Admission (R342, R344, R349, R477, R482, R491, R493). -/

/-- Whether a meadow's cores are held by its state. -/
def MState.holds : MState → Bool
  | .stopped | .failed => true
  | _ => false

/-- A core is admitted: it takes work again, and starts where its meadow's epoch is open. A core whose base tussock is GATED
has no power, or is under test: the ADMIT of its return admits it (R30, R31, R503). A site with no link left stays isolated (R332). -/
def State.admitCore (s : State) (n : Nat) : State :=
  match s.meadowOf n with
  | none => s
  | some m =>
    if (s.base (baseOf n)).gated || (s.base (baseOf n)).testing then s else
    let x := s.meadow m
    let start := (s.core n).awaitAdmit && x.state == .opened
    let t := (s.updCore n fun c =>
      let c := { c with awaitAdmit := false, stopped := x.state.holds }
      if start then (c.setSteps x.regs).start else c).resume n
    let site := s.siteOf n
    if Sparse.get false s.heath.failed site || meshCut s.heath.meshDown site then t
    else { t with heath := { t.heath with isolated := Sparse.put false t.heath.isolated site false } }

/-- Start-up ends when every core it admits has been admitted (R477, R478). -/
def State.bootHook (s : State) : State :=
  if s.sxt.bootStep = 10 ∧ !s.sxt.benched ∧ s.startCores.isEmpty then s.bootDone else s

/-- A meadow that start-up or a stream created reads READY once every core is admitted (R349). -/
def State.admitHook (s : State) (m : Nat) : State :=
  if (s.meadowCores m).all fun n => !(s.core n).awaitAdmit then
    ((s.updMeadow m fun x => { x with admitting := false }).readyHook m).bootHook
  else s

/-- An acknowledged ADMIT (R342): the core its ARG names where TARGET is a meadow's top-level tussock, else the cores of TARGET.
The command reaches the control blocks of TARGET's meadow alone, so it admits no core of another. -/
def State.admitAck (s : State) (c : StemCmd) : State :=
  let l := match s.meadowOfTop c.target with
    | some m => [bitsOf c.arg 11 0].filter fun n => s.meadowOf n == some m
    | none => (s.coresOf c.target).getD []
  let t := l.foldl (fun t n => t.admitCore n) s
  (l.filterMap t.meadowOf).eraseDups.foldl (fun t m => t.admitHook m) t

/-! Rounds of self-test (R498 to R504). -/

/-- The test of a requested slice begins: its sites are isolated and its cores wait for ADMIT, and either its stores are saved or its
epoch fails and it is gated (R502, R503). -/
def State.startTest (s : State) (b : Nat) (preserve : Bool) : State :=
  let l := s.sliceCores b
  let t := { s with heath := { s.heath with isolated := putAll false s.heath.isolated (s.sitesOf l) true } }
  let t := if preserve then t.saveStores l
    else
      let ms := (l.filterMap s.meadowOf).eraseDups
      (ms.foldl (fun u m => u.failEpoch m Code.reset) t).gateBase b
  t.updCores l fun c => { c with stopped := true, awaitAdmit := true }

/-- The next round of tests begins where none runs (R501). -/
def State.bistRound (s : State) : State :=
  if s.bist.tests.any (·.begun) then s
  else
    let t := { s with bist := s.bist.round }
    (s.bist.tests.take 16).foldl (fun t j => match j.why with
      | .request preserve => t.startTest j.slice preserve
      | _ => t) t

/-- Tests queued behind those that run or wait. -/
def State.queueTests (s : State) (l : List BistJob) : State := { s with bist := { s.bist with tests := s.bist.tests ++ l } }.bistRound

/-- A stem command that asks for a test. -/
def StemCmd.tests (c : StemCmd) : Bool := c.op == 5

/-- Whether a requested test is not over: its frame is not acknowledged, a slice waits or is under test, a repair goes on with it,
or an ADMIT of a returning slice is not acknowledged (R501, R504). -/
def State.bistGoing (s : State) : Bool :=
  let r := s.sxt.repair
  s.bist.left != 0 || (s.sxt.stemWait ++ s.sxt.stemOut).any StemCmd.tests
    || s.bist.tests.any (fun j => match j.why with | .request _ => true | _ => false)
    || s.sxt.repairQueue.any (fun j => j.why == .test) || (r.why == .test && 1 ≤ r.phase && r.phase < 7)

/-- BUSY clears when every slice of the requested tests has returned (R501). -/
def State.bistHook (s : State) : State :=
  if s.bist.busy && !s.bistGoing then { s with bist := { s.bist with busy := false } } else s

/-! Repair (R493). -/

/-- Cores return from a test: empty with a new generation, their saved stores restored where `keep` allows. -/
def State.returnCores (s : State) (l : List Nat) (keep : Nat → Bool) : State :=
  l.foldl (fun t n =>
    let saved := Sparse.get none t.sxt.saved n
    let u := (t.updCore n fun c => c.empty t.tick).updSxt fun x => { x with saved := Sparse.put none x.saved n none }
    match saved with
    | some v => if keep n then u.updCore n fun c => { c with near := v.near, deep := v.deep } else u
    | none => u) s

/-- The saves of cores discarded. -/
def State.dropSaves (s : State) (l : List Nat) : State :=
  s.updSxt fun x => { x with saved := l.foldl (fun m n => Sparse.put none m n none) x.saved }

/-- STORE_LOSS of every meadow raised by the cores it lost the stores of (R362). -/
def State.countLosses (s : State) (l : List Nat) : State :=
  l.foldl (fun t n => match t.meadowOf n with | some m => t.loseStores m 1 | none => t) s

/-- A meadow that a repair cannot mend stays STOPPED (R493), as if stopped in the state it had (R491). -/
def State.holdMeadow (s : State) (m : Nat) (code : Half) : State :=
  let was := (s.meadow m).state
  let t := s.stopCores (s.meadowCores m)
  let t := t.updMeadow m fun x =>
    { x with
      state := .stopped, code := code, replayDue := false, stopDue := false
      stopFail := if was = .stopped then x.stopFail else 0
      stopWas := match was with
        | .stopped => x.stopWas
        | .failed | .boundary => .failed
        | .opened => .opened
        | _ => .ready }
  if was = .stopped then t else t.raiseM m 8

/-- The ROUTE record with NET 1 that marks the four links of a trunk router absent (R346). -/
def trunkRecord (b : Nat) : QRec := ⟨6, 0, [b + 2 ^ 13 + 0xF * 2 ^ 16]⟩

/-- A trunk router fails: its links are marked absent as a ROUTE record with NET 1 marks them, its base tussock is unavailable, and
the meadow is held (R346; 23, Other failures; log entry 35). -/
def State.trunkFails (s : State) (b : Nat) : State :=
  let t := (qApply s (trunkRecord b)).updBase b fun x => { x with unavailable := true }
  match s.meadowOfBase b with
  | some m => t.holdMeadow m Code.noSpare
  | none => t

/-- The repair in progress ends; the next one due begins. -/
def State.endOfRepair (s : State) (code : Half) : State :=
  ((s.updSxt fun x => { x with repair := { x.repair with phase := 0, code := code } }).kickRepair Code.coreSram).bistHook

/-- The ADMITs of a repair are acknowledged: the epoch is replayed (R490, R493). -/
def State.repairAdmitted (s : State) : State :=
  let t := s.updSxt fun x => { x with repair := { x.repair with phase := 7, code := Code.ok } }
  match t.meadowOfBase t.sxt.repair.base with
  | none => t.endOfRepair Code.ok
  | some m =>
    let x := t.meadow m
    match x.state with
    | .failed => ((if x.drained then t.decideReplay m else t).kickRepair Code.coreSram).bistHook
    | .stopped => (t.kickRepair Code.coreSram).bistHook
    | _ => t.endOfRepair Code.ok

/-- Steps 4 to 6 of a repair (R493). A core that moves returns by its move alone; the others return here, those that stay on a
failed site without their stores. They count as lost where the slice's save was lost as a whole (R362, R503). A meadow that keeps
a core on a failed site is held, and so is that of a base tussock whose trunk router has failed. -/
def State.repairBuild (s : State) : State :=
  let r := s.sxt.repair
  let b := r.base
  let l := s.sliceCores b
  let lost := if l.all fun n => (Sparse.get none s.sxt.saved n).isNone then l else []
  let t := s.updBase b fun x =>
    if r.why = .test then { x.clear with testing := false, gated := false, idleGate := false } else { x.clear with testing := false }
  let (code, t) := t.mend (t.rowsHit l) r.routers
  let stays (n : Nat) : Bool := s.siteOf n == t.siteOf n
  let back := (upFrom 0 4096).filter fun n => l.contains n || !stays n
  let t := ((t.returnCores (l.filter stays) fun n => !s.onFailed n).dropSaves l).countLosses (lost.filter stays)
  let held := t.meadowsHit l
  let why := code.getD Code.noSpare
  let t := held.foldl (fun t m => t.holdMeadow m why) t
  let t := if r.trunk then t.trunkFails b else t
  let admits := back.filter fun n => (match t.meadowOf n with | some m => !held.contains m | none => false) && !(r.trunk && baseOf n == b)
  if r.trunk ∨ (t.meadowOfBase b).any held.contains then (t.issueAdmits admits .sexton).endOfRepair why
  else if admits.isEmpty then t.endOfRepair Code.ok
  else (t.updSxt fun x => { x with repair := { x.repair with phase := 6, left := admits.length } }).issueAdmits admits .repair

/-- A repair goes on in a cycle of Sexton's: step 4 begins when the test of step 3 has ended and no stream or guard request of
the host is in progress, and a stream or guard request taken meanwhile is refused (R44). Sites of routers whose links have failed
count as failed from then on. -/
def State.repairNext (s : State) : State :=
  if s.sxt.lockstep then s
  else if s.sxt.repair.phase = 4 then s.repairBuild
  else if s.sxt.repair.phase = 3 ∧ !s.hostStream ∧ s.bist.tests.all (fun j => j.why != .repair) then
    (s.sxt.repair.routers.foldl State.failSite s).updSxt fun x => { x with repair := { x.repair with phase := 4 } }
  else s

/-! Self-test (R498 to R504). -/

/-- A requested test of a slice has ended (R502 to R504). `saved` is whether its save succeeded. Where it marks a site in use, a
repair goes on from step 4; else the slice returns. -/
def State.requestTested (s : State) (b : Nat) (preserve saved : Bool) : State :=
  let l := s.sliceCores b
  let kept := preserve && saved
  let t := if kept then s else s.dropSaves l
  let t := if preserve && !saved then { t with bist := { t.bist with code := Code.bistSave } } else t
  if l.any fun n => t.onFailed n && (t.meadowOf n).isSome then ((t.askRepair ⟨b, .test, [], false⟩).kickRepair Code.coreSram).bistHook
  else
    let t := t.returnCores l fun _ => kept
    let t := t.updBase b fun x => { x.clear with testing := false, gated := false, idleGate := false }
    let t := if kept then t else t.countLosses l
    let l := l.filter fun n => (t.meadowOf n).isSome
    let t := { t with bist := { t.bist with left := t.bist.left + l.length } }
    (t.issueAdmits l (.bist b)).bistHook

/-! Acknowledgements (R343, R345). -/

/-- A control-page command of a port ends with a code (R394, R395). -/
def State.ctlEnd (s : State) (p : Nat) (fn tag : Nat) (code : Half) : State :=
  s.updFn p fn fun x => { x with ctlTag := BitVec.ofNat 16 tag, ctlCode := code }

/-- What waits for a stem command learns of its end. -/
def State.stemEnd (s : State) (c : StemCmd) (code : Half) : State :=
  match c.by_ with
  | .sexton | .startup => s
  | .mail p => s.mailEnd p code 0
  | .ctl p =>
    match (s.port p).ctlQueue with
    | k :: r =>
      if 1 < k.left then s.updPort p fun x => { x with ctlQueue := { k with left := k.left - 1 } :: r }
      else (s.updPort p fun x => { x with ctlQueue := r }).ctlEnd p k.fn (bitsOf k.value.toNat 47 32) code
    | [] => s
  | .bist _ =>
    ({ s with bist := { s.bist with left := s.bist.left - 1 } }).bistHook
  | .repair =>
    if c.op = 4 then
      let t := s.updSxt fun x => { x with repair := { x.repair with left := x.repair.left - 1 } }
      if t.sxt.repair.phase = 6 ∧ t.sxt.repair.left = 0 then t.repairAdmitted else t
    else if s.sxt.repair.phase = 1 then
      let b := s.sxt.repair.base
      let t := if code = Code.ok then s.saveStores (s.sliceCores b) else s
      let t := (t.updSxt fun x => { x with repair := { x.repair with phase := 3 } }).updBase b fun x => { x with testing := true }
      t.queueTests [⟨b, .repair, true, true, false, false⟩]
    else s

/-- The effect that a command has when it is acknowledged. -/
def State.ackEffect (s : State) (c : StemCmd) : State :=
  match c.op with
  | 4 => s.admitAck c
  | 5 =>
    let l := (upFrom 0 256).filter ((s.basesOf c.target).getD []).contains
    (s.updBases l fun x => { x with testing := true }).queueTests
      (l.map fun b => ⟨b, .request (bitOf c.arg 0), bitOf c.arg 1, bitOf c.arg 2, bitOf c.arg 3, false⟩)
  | _ => s

/-- The meadows that a control-page command of a port stops, if its port may stop them (R394). -/
def State.ctlTargets (s : State) (p : Nat) (k : CtlCmd) : Option (List Nat) :=
  let v := k.value.toNat
  if bitsOf v 3 0 = 2 then (if k.fn = 0 then some (s.meadowIds.filter fun m => (s.meadow m).port = p) else none)
  else match (if k.fn = 0 then some (bitsOf v 9 4) else s.fnMeadow p k.fn) with
    | some m => if (s.meadow m).state ≠ .absent ∧ (s.meadow m).port = p then some [m] else none
    | none => none

/-- Control-page commands checked and begun, the front of a port's queue first (R394, R395). -/
def State.pumpCtl (s : State) (p : Nat) : Nat → State
  | 0 => s
  | fuel + 1 =>
    match (s.port p).ctlQueue with
    | [] => s
    | k :: r =>
      if k.begun ∨ s.sxt.lockstep then s
      else
        let v := k.value.toNat
        let tag := bitsOf v 47 32
        let done (c : Half) : State := ((s.updPort p fun x => { x with ctlQueue := r }).ctlEnd p k.fn tag c).pumpCtl p fuel
        let op := bitsOf v 3 0
        if (op ≠ 1 ∧ op ≠ 2) ∨ bitsOf v 31 10 ≠ 0 ∨ bitsOf v 63 48 ≠ 0 then done Code.hostCommand
        else match s.ctlTargets p k with
          | none => done Code.hostNotPermitted
          | some l =>
            let l := l.filter fun m => (s.meadow m).state ≠ .stopped
            if l.isEmpty then done Code.ok
            else
              let t := s.updPort p fun x => { x with ctlQueue := { k with begun := true, left := l.length } :: r }
              l.foldl (fun t m => t.issueStem ⟨1, (t.meadow m).top, 0, .ctl p, false⟩) t

/-- Commands that were waiting for a place or an answer go on. -/
def State.pumpAll (s : State) : State := ((s.pumpStem 4).pumpCtl 0 17).pumpCtl 1 17

/-- Whether a request of some cores is in flight: a message or a remote copy on the mesh, or a write whose parity is not written
(R342). -/
def State.flightOf (s : State) (l : List Nat) : Bool :=
  l.any fun n =>
    !(s.core n).rcopies.isEmpty || (s.core n).unacked.any (fun m => m.st != .held && m.st != .waiting)
      || s.pkg.deltas.any fun d => match d.owner with | some (.op k _) => k == n | _ => false

/-- Whether a stem command cannot be acknowledged yet: its reset waits, or a request of the sites it isolates or resets is in flight
(R342, R485). -/
def State.stemHolds (s : State) (c : StemCmd) : Bool :=
  c.waits || ((c.op == 2 || c.op == 3) && s.flightOf ((s.coresOf c.target).getD []))

/-- STEM_ACK: every control block that one of the four unacknowledged commands addresses has acknowledged it (R343, R344). -/
def execStemAck (k : Fin 4) (s : State) : Out := s.attemptWhole (.stemAck k) <|
  .next (match s.sxt.stemOut[k.val]? with
    | none => s
    | some c =>
      if s.stemHolds c ∨ s.sxt.lockstep then s
      else
        let t := s.updSxt fun x => { x with stemOut := x.stemOut.eraseIdx k }
        ((t.ackEffect c).stemEnd c Code.ok).pumpAll)

/-- STEM_NO_ACK: a command goes unacknowledged; each silent base tussock of its target is treated as failed, with the routers that
Sexton's link checks name (R345, R354, R493; log entry 37). -/
def execStemNoAck (k : Fin 4) (silent : List Silent) (s : State) : Out :=
  .next (match s.sxt.stemOut[k.val]? with
    | none => s
    | some c =>
      if s.sxt.lockstep then s
      else
        let t := s.updSxt fun x =>
          { x with stemOut := x.stemOut.eraseIdx k, delayed := if c.waits then (x.delayed.eraseP fun d => d.stem && d.dom == s.domainOf c.target) else x.delayed }
        let own := (s.basesOf c.target).getD []
        let l := silent.filter fun x => own.contains x.base.val
        let t := l.foldl (fun u x => match u.meadowOfBase x.base with | some m => u.failEpoch m Code.stemNoAck | none => u) t
        let t := l.foldl (fun u x => u.askRepair ⟨x.base, .fault, x.routers.map (·.val), x.trunk⟩) t
        (((t.stemEnd c Code.stemNoAck).kickRepair Code.stemNoAck).bistHook).pumpAll)

/-! The control page (R393 to R395). -/

/-- A control-page command write: queued, or dropped and counted where the queue is full. A VF without a meadow has
no register to write (R384, R393). -/
def State.ctlWrite (s : State) (p f : Nat) (v : Dword) : State :=
  if f ≠ 0 ∧ (s.fnMeadow p f).isNone then s
  else if 16 ≤ (s.port p).ctlQueue.length then s.updPort p fun x => { x with ctlDrops := satInc x.ctlDrops }
  else ((s.updPort p fun x => { x with ctlQueue := x.ctlQueue ++ [⟨f, v, false, 0⟩] })).pumpCtl p 17

/-- CTL_STOP_MEADOW. -/
def execCtlStopMeadow (p : PortIx) (f : FnIx) (m : MeadowIx) (tag : Half) (s : State) : Out :=
  .next (s.ctlWrite p f (BitVec.ofNat 64 (1 + m.val * 2 ^ 4 + tag.toNat * 2 ^ 32)))

/-- CTL_STOP_PORT. -/
def execCtlStopPort (p : PortIx) (f : FnIx) (tag : Half) (s : State) : Out :=
  .next (s.ctlWrite p f (BitVec.ofNat 64 (2 + tag.toNat * 2 ^ 32)))

/-! STEM frames from a mailbox (R342, R345, R449, R500, R501). -/

/-- Whether a target lies in a meadow that a port carries. -/
def State.portTarget (s : State) (p id : Nat) : Bool :=
  s.meadowIds.any fun m => (s.meadow m).port = p && s.inMeadow id m

/-- Whether the reserved bits of a frame are zero; a BIST frame's are checked apart. -/
def frameOk (fr : Nat) : Bool :=
  let arg := fr / 2 ^ 24
  bitsOf fr 7 4 = 0 && match bitsOf fr 3 0 with
    | 1 | 2 | 3 => arg = 0
    | 4 => bitsOf arg 39 35 = 0
    | 6 => bitsOf arg 39 10 = 0 && bitsOf arg 3 0 ≤ 2
    | _ => true

/-- Whether a base tussock is under test or under repair: a frame that tests it may still be unacknowledged, and a repair lasts until
the epoch has been replayed (R493, R501). -/
def State.underTest (s : State) (b : Nat) : Bool :=
  (s.base b).testing || s.sxt.repairQueue.any (·.base = b) || (1 ≤ s.sxt.repair.phase && s.sxt.repair.base == b)
    || (s.sxt.stemWait ++ s.sxt.stemOut).any fun c => c.tests && ((s.basesOf c.target).getD []).contains b

/-- The refusal of a BIST frame, if any (R449, R500, R501). -/
def State.bistCheck (s : State) (id arg : Nat) : Option Half :=
  let bases := (s.basesOf id).getD []
  let running := bases.any fun b => match s.meadowOfBase b with | some m => !(s.meadow m).state.isStopped | none => false
  if s.life = .vendorTest then some Code.bistLifeCycle
  else if !s.flags.2 ∨ !s.life.identified then some Code.sxtOp
  else if bitsOf arg 39 4 ≠ 0 ∨ (!bitOf arg 1 ∧ !bitOf arg 2) ∨ (bitOf arg 3 ∧ !bitOf arg 2) ∨ (bitOf arg 0 ∧ running) then
    some Code.bistMode
  else if bases.any s.underTest then some Code.bistBusy
  else none

/-- Whether a BIST request must wait for base tussocks of its meadows to return (R523). -/
def State.bistWaits (s : State) (id : Nat) : Bool :=
  (((s.basesOf id).getD []).filterMap s.meadowOfBase).eraseDups.any fun m => !s.allOn m

/-- A row of a STEM frame: the frame checked and issued. -/
def State.stemRow (s : State) (p op : Nat) : State :=
  s.onMail p 7 fun j =>
    let fr := j.arg 0
    let o := bitsOf fr 3 0
    let id := bitsOf fr 23 8
    let arg := fr / 2 ^ 24
    if (s.sxt.stemWait ++ s.sxt.stemOut).any fun c => c.by_ == .mail p then s
    else if o = 0 ∨ 6 < o then s.mailEnd p Code.sxtOp 0
    else if o ≠ op then s
    else if s.sxt.bootStep < 10 ∨ !frameOk fr then s.mailEnd p Code.sxtOp 0
    else if !s.portTarget p id then s.mailEnd p Code.stemTarget 0
    else
      let go (t : State) : State := t.issueStem ⟨o, id, arg, .mail p, false⟩
      if o ≠ 5 then go s
      else match s.bistCheck id arg with
        | some c => s.mailEnd p c 0
        | none => if s.bistWaits id then s else go { s with bist := { s.bist with busy := true, code := Code.ok } }

/-- STOP. -/
def execStop (p : PortIx) (s : State) : Out := .next (s.stemRow p 1)
/-- ISOLATE. -/
def execIsolate (p : PortIx) (s : State) : Out := .next (s.stemRow p 2)
/-- RESET. -/
def execReset (p : PortIx) (s : State) : Out := .next (s.stemRow p 3)
/-- ADMIT. -/
def execAdmit (p : PortIx) (s : State) : Out := .next (s.stemRow p 4)
/-- BIST. -/
def execBist (p : PortIx) (s : State) : Out := .next (s.stemRow p 5)
/-- WATCH. -/
def execWatch (p : PortIx) (s : State) : Out := .next (s.stemRow p 6)

end Sys2Proof.Machine
end

