-- ==== Sys2Proof/Machine/Boot.lean ====
section
/-!
DEFINITION. Start-up and the end of a self-test (22 R469 to R479; 24 R496 to R504; 14 R305).
-/

namespace Sys2Proof.Machine

open Sys2Proof

/-! Power good and the steps before self-test. -/

/-- POWER_GOOD: the straps are read, then the ROM checks and the OTP read, up to the wait for FIRMWARE_LOAD (R469, R479, R484,
R517). -/
def execPowerGood (rom : RomChecks) (otpOk : Bool) (strap : Fin 8) (s : State) : Out :=
  .next (if s.sxt.power then s
    else
      let t := { s with power := { s.power with strap := strap.val } }
      let t := t.updSxt fun x => { x with power := true, devGen := x.devGen + 1, bootTime := 0 }
      let stop (step : Nat) (c : Half) : State := t.updSxt fun x => { x with bootStep := step, bootCode := c }
      if !rom.lockstep then (stop 3 Code.bootLockstep).updSxt fun x => { x with lockstep := true }
      else if !rom.refclk then stop 3 Code.bootRefclk
      else if !otpOk then stop 4 Code.bootOtp
      else t.updSxt fun x => { x with bootStep := 5, waiting := true, bootCode := Code.ok })

/-- What a cold reset leaves: OTP, the device generation, and what is not the block's to lose (R480, R484). -/
def State.coldReset (s : State) : State :=
  { State.reset with
    pending := s.pending, free := s.free, tick := s.tick, part := s.part, out := s.out,
    power := { Power.zero with cap := s.part.watts }
    sxt := { Sexton.zero with
      lcBits := s.sxt.lcBits, svn := s.sxt.svn, leaves := s.sxt.leaves, journal := s.sxt.journal,
      deviceId := s.sxt.deviceId, romKey := s.sxt.romKey, secret := s.sxt.secret, cert := s.sxt.cert, macBase := s.sxt.macBase,
      devGen := s.sxt.devGen } }

/-- COLD_RESET: PWR_GOOD is lost (R480). -/
def execColdReset (s : State) : Out := .next s.coldReset

/-- STACK_TRAINING_DONE: one report for each stack of the part, in order (R305, R306). -/
def execStackTrainingDone (l : List StackReport) (s : State) : Out :=
  .next (if s.sxt.bootStep ≠ 6 ∨ s.sxt.stacksDone ∨ l.length ≠ s.part.stacks then s
    else
      let t := (upFrom 0 s.part.stacks).foldl (fun t k =>
        let r := l.getD k ⟨0, true⟩
        t.updStack k fun x =>
          { x with st := if x.st = .failed ∨ !r.good then .failed else .inService, training := [], spares := r.spares }) s
      (t.updSxt fun x => { x with stacksDone := true }).toStep8)

/-! Self-test results (R475, R499). -/

/-- The place of a partition's last test. -/
def partKey (slice p : Nat) : Nat := 32 * slice + p

/-- A rim die fails: its stacks FAILED, its Swarm ports DOWN (R475). -/
def State.failRim (s : State) (k : Nat) : State :=
  let t := s.updSxt fun x => { x with rimsFailed := x.rimsFailed ||| BitVec.ofNat 6 (2 ^ k) }
  let t := (s.part.rimStacks k).foldl (fun t i => t.updStack i fun x => { x with st := .failed }) t
  ((s.part.rimPorts k).foldl (fun t i => t.updSw i fun x => { x with st := .down }) t).swRebuild

/-- The kind of a partition (R499): a site, the shared units of a base tussock, a rim with stacks, a rim with links, the hub. -/
def State.partKind (s : State) (slice p : Nat) : Nat :=
  if slice < 256 then (if p = 20 then 1 else 0)
  else if slice < 262 then (if (s.part.rimStacks (slice - 256)).isEmpty then 3 else 2)
  else 4

/-- One partition's result recorded, and what its failure marks (R475, R498, R499). A part that the test does not run leaves what it
last left. -/
def State.partDone (s : State) (j : BistJob) (r : PartReport) : State :=
  let p := r.part.val
  if !partExists j.slice p then s
  else
    let old := Sparse.get ⟨false, false, false, 0⟩ s.bist.parts (partKey j.slice p)
    let differs := r.signature != Config.misrExpected s.sxt.fwHash (s.partKind j.slice p)
    let x : PartTest :=
      { tested := true, logicFail := if j.logic then differs else old.logicFail,
        memoryFail := if j.memory then r.memoryFail else old.memoryFail, signature := if j.logic then r.signature else old.signature }
    let t := { s with bist := { s.bist with parts := Sparse.put ⟨false, false, false, 0⟩ s.bist.parts (partKey j.slice p) x } }
    if !(x.logicFail || x.memoryFail) then t
    else if j.slice = 262 then t.updSxt fun x => { x with bootCode := Code.bootHub }
    else if 256 ≤ j.slice then t.failRim (j.slice - 256)
    else match partSite j.slice p with
      | some k => t.failSite k
      | none => (sliceSites j.slice).foldl (fun t k => t.failSite k) t

/-- Whether no stream is in force that start-up could apply again: none was accepted, or the life cycle refuses every stream
(R47, R476). -/
def State.noStream (s : State) : Bool := s.qorf.held.isEmpty || s.life == .blank || s.life == .retired

/-- Step 9: at a cold start it waits for the stream; at a warm one Sexton applies the streams in force again, repairs the core map in
one stream and admits (R476, R478). A core whose save failed returns empty and counts as lost, unless it moves (R362, R503). -/
def State.step9 (s : State) : State :=
  let t := s.updSxt fun x => { x with bootStep := 9 }
  if !s.sxt.warm || s.noStream then t.updSxt fun x => { x with waiting := true }
  else
    let t := t.reapply
    let l := (upFrom 0 4096).filter fun n => (t.meadowOf n).isSome
    let (_, u) := t.mend (t.rowsHit l) []
    let back := l.filter fun n => (Sparse.get none t.sxt.saved n).isSome && t.siteOf n == u.siteOf n
    let u := ((u.updCores back fun c => c.empty u.tick).countLosses back).updSxt fun x => { x with saved := [] }
    ((u.meadowsHit l).foldl (fun u m => u.holdMeadow m Code.qCoremap) u).startAdmission

/-- A slice's start-up test ends. At a warm start, stores that were not saved and those of a failed site are lost; the empty save of
a core whose slice's save failed tells step 9 so. Step 8 ends with the last slice (R474, R475, R503). -/
def State.startupTested (s : State) (slice : Nat) (saved : Bool) : State :=
  let l := if s.sxt.warm && slice < 256 then (s.sliceCores slice).filter fun n => (s.meadowOf n).isSome else []
  let t :=
    if s.sxt.warm && slice < 256 && !saved then
      { s.updSxt (fun x => { x with saved := l.foldl (fun m n => Sparse.put none m n (some ⟨[], []⟩)) x.saved }) with
        bist := { s.bist with code := Code.bistSave } }
    else s
  let t := t.updCores (l.filter fun n => !saved || t.onFailed n) fun c => { c with near := [], deep := [] }
  if t.sxt.bootStep = 8 ∧ t.sxt.bootCode ≠ Code.bootHub ∧ t.bist.tests.all fun j => j.why != .startup then t.step9 else t

/-- What the end of a slice's test leads to. -/
def State.sliceTested (s : State) (j : BistJob) (saved : Bool) : State :=
  match j.why with
  | .startup => s.startupTested j.slice saved
  | .repair => if saved then s else { s.dropSaves (s.sliceCores j.slice) with bist := { s.bist with code := Code.bistSave } }
  | .request preserve => s.requestTested j.slice preserve saved

/-- BIST_COMPLETE: a slice of the round under test ends its test; `saved` says whether the save of its stores
succeeded, where it had one (R474, R497 to R499, R503). With the last of a round the next begins (R501). -/
def execBistComplete (slice : Fin 263) (reports : List PartReport) (saved : Bool) (s : State) : Out :=
  s.attemptWhole (.bistComplete slice reports saved) <|
  .next (match s.bist.tests.find? fun j => j.begun && j.slice = slice.val with
    | none => s
    | some j =>
      let t := { s with bist := { s.bist with
        tests := s.bist.tests.erase j,
        prpg := if j.logic then Sparse.put 0 s.bist.prpg j.slice Config.prpgEnd else s.bist.prpg } }
      let t := reports.foldl (fun t r => t.partDone j r) t
      (t.sliceTested j saved).bistRound)

end Sys2Proof.Machine
end

