-- ==== Sys2Proof/Machine/Recovery.lean ====
section
/-!
DEFINITION. Watches, resets, replay and the state out of service (23 R480 to R491, R494; 26 R531, R532).
-/

namespace Sys2Proof.Machine

open Sys2Proof

/-! Replay and resume (R490, R491). -/

/-- A repair that has begun holds a meadow's replay until its ADMITs are acknowledged (R493). -/
def State.repairHolds (s : State) (m : Nat) : Bool :=
  1 ≤ s.sxt.repair.phase && s.sxt.repair.phase < 7 && s.meadowOfBase s.sxt.repair.base == some m

/-- A failed epoch restarted now, or once its drain or repair ends (R490, R493). -/
def State.replay (s : State) (m : Nat) : State :=
  if (s.meadow m).state ≠ .failed then s
  else if (s.meadow m).drained ∧ !s.repairHolds m then s.restartEpoch m
  else s.updMeadow m fun x => { x with replayDue := true }

/-- REPLAY: a write of REPLAY (R490). -/
def execReplay (m : MeadowIx) (s : State) : Out := .next (s.hostRow m (mdwOff 0x40) fun s => s.replay m)

/-- A stop cleared: ADMIT for every core, and the state that R491 gives. An epoch that goes on enters its boundary at once where every
core has ended it while it was stopped (R352). -/
def State.resumeMeadow (s : State) (m : Nat) : State :=
  let x := s.meadow m
  let l := s.meadowCores m
  if x.state ≠ .stopped ∨ s.sxt.lockstep then s
  else
    let open_ := x.stopWas = .opened ∧ x.stopFail = 0
    let failed := x.stopWas = .failed ∨ (x.stopWas = .opened ∧ x.stopFail ≠ 0)
    let t :=
      if open_ then
        (s.updMeadow m fun x => { x with state := .opened }).updCores l fun c => { c with progress := false }
      else
        let u := s.updCores l fun c => { c with awaitAdmit := true }
        if failed then (u.updMeadow m fun x => { x with state := .failed, stopFail := 0 }).replay m
        else (u.updMeadow m fun x => { x with state := .ready }).readyHook m
    (t.issueAdmits l .sexton).checkBoundary m

/-- RESUME: a write of RESUME (R491). -/
def execResume (m : MeadowIx) (s : State) : Out := .next (s.hostRow m (mdwOff 0x40) fun s => s.resumeMeadow m)

/-! The device warm reset (R480, R484, R494, R532). -/

/-- What a warm reset leaves of a stack (R306, R478, R532). -/
def Stack.warm (x : Stack) : Stack :=
  if x.st = .failed then { Stack.zero with st := .failed } else { Stack.zero with st := .retraining, training := List.range 32 }

/-- What a warm reset leaves of a port: PERST#, the commands of its control page, and whose turn is next; HUB_PORTp_LINK reads its
reset value until the link trains (R532). -/
def Port.warm (x : Port) : Port := { Port.zero with perst := x.perst, ctlQueue := x.ctlQueue, hcTurn := x.hcTurn }

/-- The transport session ends with BYE ST_FAULT_RESET, and the port's registers return to their reset values. -/
def State.trnWarm (s : State) : State :=
  let t := if s.trn.st.alive then (s.mmp 0xB (natToBytes 2 Code.reset.toNat)).endSession Code.reset else s
  { t with trn := Trn.zero }

/-- Sexton's own work cut short by a warm reset: repairs, tests, and resets that this one contains. SXT_REPAIR_STATUS and BST_STATUS
keep what they show (R532): a test or repair that a warm reset cuts short shows as going on until the next one. DESIGN CHOICE, log
entry 35. -/
def State.sextonWarm (s : State) : State :=
  let tested := (upFrom 0 256).filter fun b => (s.base b).testing
  let t := tested.foldl (fun t b =>
    let lost := (t.base b).gated
    let t := t.updBase b fun x => { x with testing := false, gated := false, idleGate := false }
    match t.meadowOfBase b with
    | some m => if lost then t.loseStores m 16 else t
    | none => t) s
  let t := { t with bist := { t.bist with tests := [], left := 0 } }
  t.updSxt fun x =>
    { x with
      repairQueue := [], saved := [], delayed := [],
      stemOut := x.stemOut.map fun c => { c with waits := false } }

/-- The hub's blocks, the rim dies and Cicada at a warm reset, the transport session before its memory. Parity deltas on their way
stay so, and arrive later: DEDUCED from R481, log entry 43. -/
def State.hubWarm (s : State) : State :=
  let t : State := { s.trnWarm with hub := Hub.zero, pipes := [] }
  let t := [0, 1].foldl (fun t p => t.updPort p Port.warm) t
  let t := (upFrom 0 12).foldl (fun t n => t.updSw n fun _ => SwLink.zero) t
  let t := (upFrom 0 s.part.stacks).foldl (fun t k => t.updStack k Stack.warm) t
  let t := t.meadowIds.foldl (fun t m => t.updMeadow m fun x => { x with swTaken := [], swGot := [], hcFlight := [], hcEnded := [] }) t
  t.cicOwners

/-- A start-up that a code of R479 has stopped: only a cold start ends it. -/
def State.bootStopped (s : State) : Bool :=
  s.sxt.bootCode == Code.bootLockstep || s.sxt.bootCode == Code.bootRefclk || s.sxt.bootCode == Code.bootOtp
    || s.sxt.bootCode == Code.bootHub

/-- A device warm reset, whose failed epochs record `code`: the third in a window benches the A1 (R480, R494). -/
def State.warmReset (s : State) (code : Half) : State :=
  if s.bootStopped then s else
  let recent := s.sxt.warmTimes.filter fun t => s.tick < t + 2 ^ 37
  let t := s.updSxt fun x => { x with warmTimes := recent ++ [s.tick] }
  let t := if 2 ≤ recent.length then t.bench Code.benched else t
  let t := ((t.resetDomain .warm code).hubWarm).sextonWarm
  let t := t.meadowIds.foldl (fun t m => t.drainEnd m) t
  (t.updSxt fun x => { x with warm := true, bootTime := 0, devGen := x.devGen + 1 }).startLinks

/-! Resets by domain, at once or later (R485). -/

/-- A domain reset, with its ADMITs where Sexton sends them itself (R480, R482). -/
def State.doReset (s : State) (d : Domain) (code : Half) (readmit : Bool) : State :=
  match d with
  | .warm => s.warmReset code
  | d =>
    let t := s.resetDomain d code
    if readmit then t.issueAdmits (s.domainCores d) .sexton else t

/-- A reset that Sexton performs itself, put off until R485 allows it. -/
def State.ownReset (s : State) (d : Domain) (code : Half) : State :=
  if s.tooSoon (s.domainCores d) then s.updSxt fun x => { x with delayed := x.delayed ++ [⟨d, code, true, false⟩] }
  else s.doReset d code true

/-- The first stem command that waits for a reset that `p` picks no longer waits. -/
def wakeStem (p : StemCmd → Bool) : List StemCmd → List StemCmd
  | [] => []
  | c :: r => if c.waits && p c then { c with waits := false } :: r else c :: wakeStem p r

/-- Delayed resets performed once R485 allows them, the oldest first. -/
def State.runDelayed : List Due → State → State
  | [], s => s
  | d :: r, s =>
    if s.sxt.delayed.isEmpty then s
    else if s.tooSoon (s.domainCores d.dom) then State.runDelayed r s
    else
      let t := s.updSxt fun x => { x with delayed := x.delayed.erase d }
      let t := t.doReset d.dom d.code d.readmit
      let t := if d.stem then t.updSxt fun x => { x with stemOut := wakeStem (fun c => s.domainOf c.target = d.dom) x.stemOut } else t
      State.runDelayed r (s.orSkip t)

/-! Watches (R488, R489). -/

/-- The cores of a base tussock that registered no progress event in the window that ends. -/
def State.silentCores (s : State) (b : Nat) : List Nat :=
  (coresOfBase b).filter fun n => (s.core n).ctl != .ended && !(s.core n).progress

/-- Whether the watches of a base tussock count (R488, R504). -/
def State.watching (s : State) (m b : Nat) : Bool :=
  (s.meadow m).state == .opened && !(s.base b).watchSuspended && (s.meadowBases m).all fun k => !(s.base k).testing

/-- A watch fires: it is recorded, its stage is raised, and the action of the stage it had follows (R489). -/
def State.fireWatch (s : State) (m b : Nat) (silent : List Nat) : State :=
  let st := (s.base b).stage
  let t := s.updMeadow m fun x => { x with wStage := st, wBase := b, fires := satInc x.fires }
  let t := t.updBase b fun x => { x with stage := min 3 (st + 1) }
  match st with
  | 0 => silent.foldl (fun t n => t.ownReset (.core n) Code.watch) t
  | 1 => t.ownReset (.tussock (0x1000 + b)) Code.watch
  | 2 => t.ownReset (.meadow m) Code.watch
  | _ => t.ownReset .warm Code.watch

/-- WATCH_FIRE: a window of a base tussock's watch ends (R487 to R489). -/
def execWatchFire (b : BaseIx) (s : State) : Out := s.attemptWhole (.watchFire b) <|
  .next (match s.meadowOfBase b with
    | none => s
    | some m =>
      if !s.watching m b ∨ s.sxt.lockstep then s
      else
        let silent := s.silentCores b
        let t := s.updCores (coresOfBase b) fun c => { c with progress := false }
        if silent.isEmpty then t else t.fireWatch m b silent)

/-! Memory timeouts (R486). -/

/-- Whether an operation of an engine may have a memory or remote request in flight. -/
def EngOp.requests (o : EngOp) (e : Nat) : Bool :=
  o.started && ((e == 1 && !o.plan.isEmpty) || (e == 4 && !o.acked) || e == 5)

/-- MEM_TIMEOUT: a request of the operation that an engine runs gets no reply (R486, R490). -/
def execMemTimeout (c : CoreIx) (e : Fin 6) (s : State) : Out := s.attemptWhole (.memTimeout c e) <|
  .next (match (s.core c).engq (e.val + 1) with
    | o :: _ =>
      if o.requests (e.val + 1) then
        let t := s.complete c (e.val + 1) Code.memTimeout
        match s.meadowOf c with | some m => t.failEpoch m Code.memTimeout | none => t
      else s
    | [] => s)

/-! Host resets and BENCHED (R483, R494). -/

/-- Whether a port's PF carries every meadow in existence (R483). -/
def State.carriesAll (s : State) (p : Nat) : Bool := s.meadowIds.all fun m => (s.meadow m).port = p

/-- BAR0 offset of HUB_RESET. -/
def hubResetOff : Nat := 0x100040
/-- BAR0 offset of HUB_FAULT. -/
def hubFaultOff : Nat := 0x100048

/-- A reset that a PF asks for: a port without the right is refused (R483, R529); the ROM performs none, nor does Sexton after a
lockstep disagreement. -/
def State.hostReset (s : State) (p : Nat) (d : Domain) : State :=
  if !s.carriesAll p then s.refuseWrite p 0 Code.notPermitted hubResetOff
  else if !s.sxt.fwRunning ∨ s.sxt.lockstep then s
  else s.ownReset d Code.reset

/-- HEATH_RESET: a write of HUB_RESET.HEATH. -/
def execHeathReset (p : PortIx) (s : State) : Out := s.attemptWhole (.heathReset p) <| .next (s.hostReset p .heath)
/-- WARM_RESET: a write of HUB_RESET.WARM. -/
def execWarmReset (p : PortIx) (s : State) : Out := s.attemptWhole (.warmReset p) <| .next (s.hostReset p .warm)

/-- A write of HUB_FAULT.CLEAR (R494). -/
def State.faultClear (s : State) (p : Nat) : State :=
  if !s.sxt.benched then s
  else if s.sxt.cause ≠ Code.benched then s.refuseWrite p 0 Code.benched hubFaultOff
  else
    let t := s.updSxt fun x => { x with benched := false, cause := 0, warmTimes := [] }
    if t.sxt.bootStep = 10 then t.startAdmission else t

/-- FAULT_CLEAR. -/
def execFaultClear (p : PortIx) (s : State) : Out := .next (s.faultClear p)

end Sys2Proof.Machine
end

