-- ==== Sys2Proof/Machine/Stacks.lean ====
section
/-!
DEFINITION. The stack controllers' own events: sectors, parity, scrub, lanes, and the frozen map
(14 R305 to R319, R325, R326, R534).
-/

namespace Sys2Proof.Machine

open Sys2Proof

/-- Symbols of a stored data sector, or of its parity sector, change in the stack: the pattern adds to what is there (R312).
A FAILED stack is not accessed. -/
def State.disturb (s : State) (pa : Nat) (parity : Bool) (e : BitVec 288) : State :=
  if (s.stack (if parity then s.parityStack pa else s.stackOf pa)).st = .failed then s
  else if parity then s.setPflips (s.parityIx pa) (s.pflips (s.parityIx pa) ^^^ e)
  else s.setFlips (pa / 32) (s.flips (pa / 32) ^^^ e)

/-- An error that a stack's on-die ECC has corrected and reported counts with the controller's corrections (R304). -/
def State.onDie (s : State) (k : Nat) (reported : Bool) : State := if reported then s.countCorrected k else s

/-- A reply from package memory to a core's request: one of an old generation, or to a request that has completed by timeout, is
dropped and counted (R484, R486); an uncorrectable error fails the epoch of another (R313). -/
def State.memReply (s : State) (r : SectorReader) (x : Res (List Byte)) : State :=
  if r.gen ≠ (s.core r.core).gen ∨ r.late then x.2.updHub fun h => { h with lateDrops := satInc h.lateDrops }
  else (failOnLost r.core x).2

/-- SECTOR_READ: an agent's read of a sector, in whose stored word the stack has let the symbols of `e` change since its last
access; `reader` is the core whose engine reads, none for any other agent (R304, R312, R313, R317 to R319). No read reaches a
retired page or an address beyond the capacity (R314, R323). -/
def execSectorRead (pa : BitVec 48) (e : SectorFound) (reader : Option SectorReader) (s : State) : Out :=
  let a := pa.toNat
  .next (s.orHold (.sectorRead pa e reader) (
    if s.capacity ≤ a ∨ s.pageRetired a then s
    else
      let t := (s.disturb a false e.symbols).onDie (s.stackOf a) e.onDie
      let x := t.readSec (a / 32 * 32) 32
      match reader with
      | some r => t.memReply r x
      | none => x.2))

/-- SECTOR_WRITE: bytes within one sector (R310, R314, R316, R325, R534). -/
def execSectorWrite (w : Writer) (pa : BitVec 48) (b : List Byte) (s : State) : Out :=
  let a := pa.toNat
  .next (s.orHold (.sectorWrite w pa b) (if s.capacity ≤ a ∨ b.isEmpty ∨ 32 < a % 32 + b.length then s
    else match w with
      | .core c =>
        if s.pageRetired a ∨ !(s.frozenBy a (s.meadowOf c)).isEmpty then s else (failOnLost c (s.writeSec a b)).2
      | .agent k => s.settledFrom (s.agentWrite k a b none)))

/-- PARITY_DELTA: the oldest delta takes effect at its parity controller by a read and a write of the parity sector, unless that
sector's channel is in training. An error in the parity sector stays, counted where it cannot be corrected, and a delta for a
FAILED stack is lost with it (R316, R317; log entry 43). -/
def execParityDelta (s : State) : Out :=
  .next (match s.pkg.deltas with
    | [] => s
    | d :: r =>
      if s.trains (s.parityStack (32 * d.sector)) (32 * d.sector) then s
      else (s.updPkg fun p => { p with deltas := r }).landDelta d)

/-- SCRUB: a background read of a stored sector, by no agent: of the data sector at `pa`, or of its stripe's parity sector. A
FAILED stack is not read (R304, R314). -/
def execScrub (pa : BitVec 48) (parity : Bool) (e : SectorFound) (s : State) : Out :=
  let a := pa.toNat
  .next (s.orHold (.scrub pa parity e) (
    if s.capacity ≤ a then s
    else if parity then
      let k := s.parityStack a
      if !s.pkg.parity ∨ (s.stack k).st = .failed then s
      else
        let t := (s.disturb a true e.symbols).onDie k e.onDie
        if !s.held.isEmpty || s.trains k a then t.wait
        else match t.readParity (s.parityIx a) with
          | some t => t
          | none => t.updStack k fun x => { x with uncorrected := satInc x.uncorrected }
    else if (s.stack (s.stackOf a)).st = .failed then s
    else (((s.disturb a false e.symbols).onDie (s.stackOf a) e.onDie).readSec (a / 32 * 32) 32).2))

/-! Lanes (R306, R307). -/

/-- LANE_DEGRADE: the controller retrains a channel of a stack (R306). -/
def execLaneDegrade (k : StackIx) (ch : Fin 32) (s : State) : Out :=
  .next (if k < s.part.stacks ∧ (s.stack k).st ≠ .failed ∧ !(s.stack k).training.contains ch.val ∧ s.sxt.bootStep ≠ 6 then
      s.updStack k fun x => { x with st := .retraining, training := ch.val :: x.training }
    else s)

/-- Every meadow's open epoch fails, for package memory is unusable (R307). -/
def State.memoryLost (s : State) : State := s.meadowIds.foldl (fun t m => t.failEpoch m Code.uncorrectable) s

/-- STACK_RETRAIN_DONE: the channel is readmitted, or the stack is FAILED and its requests wait no longer (R306, R307, R317). -/
def execStackRetrainDone (k : StackIx) (ch : Fin 32) (r : StackReport) (s : State) : Out :=
  .next (if !(s.stack k).training.contains ch.val ∨ s.sxt.bootStep = 6 then s
    else if r.good then s.updStack k fun x =>
      let l := x.training.filter (· ≠ ch.val)
      { x with st := if l.isEmpty then .inService else .retraining, training := l, spares := r.spares }
    else
      let t := s.updStack k fun x => { x with st := .failed, training := [] }
      if !t.pkg.parity ∨ 1 < t.failedStacks then t.memoryLost else t)

/-! The frozen map (R325, R326). -/

/-- The pages of a table that leaves with FROZEN map, added to a map; what cannot be read or is not granted maps nothing. -/
def State.scanTable (s : State) (m : Nat) : Nat → Nat → Nat → Sparse Bool → Sparse Bool × State
  | 0, _, _, acc => (acc, s)
  | fuel + 1, level, table, acc =>
    let n := match level with | 0 => 384 | 3 => 32 | _ => 512
    (upFrom 0 n).foldl (fun (r : Sparse Bool × State) ix =>
      let (acc, t) := r
      if !t.granted m table ((levelIndex level 0).2) then r
      else match t.readSec (table + 8 * ix) 8 with
        | (.error _, t) => (acc, t)
        | (.ok b, t) =>
          match checkEntry level (bytesToNat b) 0 with
          | .error _ => (acc, t)
          | .ok (.inl next) => State.scanTable t m fuel (level + 1) next acc
          | .ok (.inr l) =>
            if l.frozen && t.granted m l.base l.size then
              ((upFrom (l.base / 2 ^ 16) (l.size / 2 ^ 16)).foldl (fun a p => Sparse.put false a p true) acc, t)
            else (acc, t)) (acc, s)

/-- A write of MDW_FROZENm_SYNC.SYNC (R326). -/
def State.frozenSync (s : State) (m : Nat) : State :=
  if (s.meadow m).state = .absent then s else s.updMeadow m fun x => { x with frozenBusy := true }

/-- FROZEN_SYNC. -/
def execFrozenSync (m : MeadowIx) (s : State) : Out := .next (s.hostRow m (mdwOff 0xD0) fun s => s.frozenSync m)

/-- FROZEN_REBUILD_DONE: the meadow's map bits are those of its tables; the rebuild runs between epochs (R326). -/
def execFrozenRebuildDone (m : MeadowIx) (s : State) : Out :=
  let x := s.meadow m
  .next (s.orHold (.frozenRebuildDone m) (if !x.frozenBusy ∨ x.window then s
    else
      let (f, t) := s.scanTable m 4 0 x.root []
      t.updMeadow m fun x => { x with frozenMap := f, frozenBusy := false }))

end Sys2Proof.Machine
end

