-- ==== Sys2Proof/Machine/HostPort.lean ====
section
/-!
DEFINITION. Host ports: links, function resets, BAR2, doorbells and host copies (18 R382 to R401; 20 R426; 22 R470, R472).
-/

namespace Sys2Proof.Machine

open Sys2Proof

/-! BAR2 and BAR4 (R387 to R390). -/

/-- Whether BAR2 grants a function a range of physical addresses: none until start-up ends, but where the A1 is BENCHED
(R387, R470, R494). -/
def State.bar2Granted (s : State) (p f a n : Nat) : Bool :=
  match s.fnMeadow p f with
  | some m => (s.sxt.bootStep == 11 || s.sxt.benched) && s.granted m a n
  | none => false

/-- All ones. -/
def onesBytes (n : Nat) : List Byte := List.replicate n 0xFF

/-- Whether a sector of a range lies in a retired page. -/
def State.anyRetired (s : State) (a n : Nat) : Bool :=
  (upFrom (a / 2 ^ 16) (if n = 0 then 0 else (a + n - 1) / 2 ^ 16 + 1 - a / 2 ^ 16)).any s.pkg.retired.contains

/-- The BAR2 size of a function: by default the smallest power of two at least the part's capacity, and at least 1 GiB
(BARs, 18; R387). No command carries a host's choice of a smaller one: log entry 44. -/
def State.bar2Size (s : State) (p f : Nat) : Nat :=
  max (2 ^ 30) ((match s.part with | .m4l2 => 2 ^ 40 | _ => 2 ^ 41) / 2 ^ (s.fn p f).bar2Less)

/-- Bytes of a BAR4 (BARs, 18). -/
def bar4Bytes : Nat := 2 ^ 21

/-- A read of BAR2 (R313, R314, R387, R388, R400). -/
def State.bar2Get (s : State) (p f a n : Nat) (ide : Bool) : State :=
  if s.untrusted p f ide then (s.deny p f .bar2 a false true).emit (.hostData p f (onesBytes n))
  else if !s.bar2Granted p f a n then (s.deny p f .bar2 a false false).emit (.hostData p f (onesBytes n))
  else
    let ((bad, b), t) := s.physGet a n
    let t := if bad then t.updPort p fun x => { x with uncorrected := satInc x.uncorrected } else t
    let t := if bad || s.anyRetired a n then t.raise p f 10 else t
    t.emit (.hostData p f (if bad then onesBytes n else b))

/-- A read of BAR4: refused as R388 gives, or where the function carries no meadow; what a doorbell slot reads as otherwise is open:
a free value, log entry 44 (R384, R388). -/
def State.bar4Get (s : State) (p f a n : Nat) (ide : Bool) : State :=
  if s.untrusted p f ide then (s.deny p f .bar4 a false true).emit (.hostData p f (onesBytes n))
  else if (s.fnMeadow p f).isNone then (s.deny p f .bar4 a false false).emit (.hostData p f (onesBytes n))
  else
    let (b, t) := s.freeBytes n
    t.emit (.hostData p f b)

/-- BAR2_READ: `n` bytes at an offset of a function's BAR2, or of its BAR4. What lies past the end of the BAR is no access to it:
DESIGN CHOICE, log entry 44. -/
def execBar2Read (p : PortIx) (f : FnIx) (a : BarAddr) (n : Fin 4097) (ide : Bool) (s : State) : Out :=
  s.attemptWhole (.bar2Read p f a n ide) <|
  let o := a.off.toNat
  .next (match a.window with
    | .bar2 => if s.bar2Size p f < o + n then s else s.bar2Get p f o n ide
    | .bar4 => if bar4Bytes < o + n then s else s.bar4Get p f o n ide)

/-- Whether some sector of a write is counted: its page is retired or FROZEN, or its own read of the sector is uncorrectable
(R310, R313, R400). -/
def State.writeCounted (s : State) (agent : Nat) : Nat → Nat → List Byte → Bool
  | 0, _, _ => false
  | fuel + 1, pa, b =>
    if b.isEmpty then false
    else
      let h := 32 - pa % 32
      let here := s.pageRetired pa || !(s.frozenBy pa none).isEmpty
        || (match (s.writeSec pa (b.take h)).1 with | .error _ => true | .ok _ => false)
      here || (s.agentWrite agent pa (b.take h) none).writeCounted agent fuel (pa + h) (b.drop h)

/-- BAR2_WRITE: bytes written at BAR2 offset `a` of a function (R297, R314, R387, R388, R400). -/
def execBar2Write (p : PortIx) (f : FnIx) (a : BitVec 41) (b : List Byte) (ide : Bool) (s : State) : Out := s.attempt (.bar2Write p f a b ide) <|
  .next (if s.bar2Size p f < a.toNat + b.length then s
    else if s.untrusted p f ide then s.deny p f .bar2 a.toNat true true
    else if !s.bar2Granted p f a.toNat b.length then s.deny p f .bar2 a.toNat true false
    else
      let t := (s.physPut p a.toNat b).ownDeltas s.pkg.deltas.length (some (.port p))
      if s.writeCounted p (sectorsOf a.toNat b.length) a.toNat b then t.raise p f 10 else t)

/-! Doorbells (R389, R390). -/

/-- Whether a port's doorbell buffer is full. -/
def State.doorbellsFull (s : State) (p : Nat) : Bool :=
  256 ≤ (s.hub.doorbells.filter fun m => m.kind = 2 && m.origin = p + 1).length

/-- DOORBELL: a memory write at a BAR4 offset of a function; none is accepted before start-up ends (R389, R390, R470). -/
def execDoorbell (p : PortIx) (f : FnIx) (off : BitVec 21) (b : List Byte) (ide : Bool) (s : State) : Out :=
  let g := off.toNat / 64
  let core := g / 8
  .next (if s.untrusted p f ide then s.deny p f .bar4 off.toNat true true
    else
      let fine := match s.fnMeadow p f with
        | some m => s.meadowOf core == some m && (s.meadow m).state == .opened
        | none => false
      if s.sxt.bootStep < 11 ∨ off.toNat % 64 ≠ 0 ∨ b.length ≠ 64 ∨ !fieldZero b 0 8 ∨ !fine ∨ s.doorbellsFull p then
        s.updPort p fun x => { x with doorbellDrops := satInc x.doorbellDrops }
      else s.updHub fun h =>
        { h with doorbells := h.doorbells ++ [mkMsg core core (g % 8) 2 0 (p + 1) (bytesLine b) 0 none none] })

/-! Host copies (R396 to R399). -/

/-- Ring indices from HEAD up to TAIL, in ring order (R397). -/
def Meadow.hcRange (x : Meadow) : List Nat :=
  let n := 2 ^ x.hcSize
  (upFrom 0 ((x.hcTail.toNat + n - x.hcHead.toNat) % n)).map fun i => (x.hcHead.toNat + i) % n

/-- The ring entry that may start next: in ring order, while fewer than four of the function are in flight (R396). -/
def Meadow.hcNext (x : Meadow) : Option Nat :=
  if !x.hcEnable ∨ 4 ≤ x.hcFlight.length then none
  else x.hcRange.find? fun i => !x.hcFlight.any (fun e => e.ix = i && !e.old) && !x.hcEnded.contains i

/-- The engines of a port that hold a descriptor; a port has 16 (Host copy engines, 18). -/
def State.hcBusy (s : State) (p : Nat) : Nat :=
  ((s.meadows.filter fun e => e.2.state != .absent && e.2.port == p).map (·.2.hcFlight.length)).sum

/-- The function, meadow and entry that a free engine of a port takes: the rings are served round-robin (R396). -/
def State.hcPick (s : State) (p : Nat) : Option (Nat × Nat × Nat) :=
  if 16 ≤ s.hcBusy p then none
  else (upFrom (s.port p).hcTurn 32).findSome? fun k =>
    (s.fnMeadow p (k % 32)).bind fun m => (s.meadow m).hcNext.map fun i => (k % 32, m, i)

/-- The free engines of a port start entries (R396). -/
def State.hcServe (s : State) (p : Nat) : Nat → State
  | 0 => s
  | fuel + 1 => match s.hcPick p with
    | none => s
    | some (f, m, i) =>
      ((s.updMeadow m fun x => { x with hcFlight := x.hcFlight ++ [⟨i, x.hcBase, false⟩] }).updPort p fun x =>
        { x with hcTurn := (f + 1) % 32 }).hcServe p fuel

/-- HEAD passes the descriptors that have completed (R396). -/
def Meadow.hcAdvance (x : Meadow) : Nat → Meadow
  | 0 => x
  | fuel + 1 =>
    let h := x.hcHead.toNat
    if x.hcEnded.contains h ∧ x.hcHead ≠ x.hcTail then
      Meadow.hcAdvance
        { x with hcHead := BitVec.ofNat 32 ((h + 1) % 2 ^ x.hcSize), hcEnded := x.hcEnded.filter (· ≠ h) } fuel
    else x

/-- A descriptor's reserved fields, ranges and target (R398). -/
def State.hcDescOk (s : State) (m f : Nat) (d : List Byte) : Bool :=
  let flags := fieldNat d 20 1
  let bytes := fieldNat d 16 4
  fieldNat d 0 8 % 32 = 0 && fieldNat d 8 6 % 32 = 0 && fieldZero d 14 2 && bytes % 32 = 0 && 32 ≤ bytes
    && bitsOf flags 7 3 = 0 && fieldZero d 21 1 && fieldZero d 27 1 && fieldZero d 31 33
    && (!bitOf flags 1 || (16 ≤ fieldNat d 22 2 && fieldNat d 22 2 < fnVectors f))
    && (!bitOf flags 2 || (s.meadowOf (fieldNat d 24 2) == some m && fieldNat d 26 1 < 8))

/-- Bytes read through a meadow's tables up to the first fault, for a copy to the host. A sector that cannot be read gives all
ones and does not stop the copy (R313, R398); that STATUS then gives ST_MEM_UNCORRECTABLE is a DESIGN CHOICE, log entry 44. -/
def State.hcRead (s : State) (m : Nat) : Nat → Nat → Nat → (List Byte × Half) × State
  | 0, _, _ => (([], Code.ok), s)
  | fuel + 1, va, k =>
    if k = 0 then (([], Code.ok), s)
    else
      let h := min k (32 - va % 32)
      match s.walk none m va with
      | (.error c, t) => (([], c), t)
      | (.ok l, t) =>
        match t.leafCheck m l false with
        | .error c => (([], c), t)
        | .ok _ =>
          let ((bad, b), t) := t.agentRead (l.pa + va % 2 ^ 16) h
          let ((r, c), t) := t.hcRead m fuel (va + h) (k - h)
          ((b ++ r, if bad ∧ c = Code.ok then Code.uncorrectable else c), t)

/-- Bytes written through a meadow's tables by a host port's copy engine: what stopped it, and whether a FROZEN page dropped any. -/
def State.hcWrite (s : State) (p m : Nat) : Nat → Nat → List Byte → (Half × Bool) × State
  | 0, _, _ => ((Code.ok, false), s)
  | fuel + 1, va, b =>
    if b.isEmpty then ((Code.ok, false), s)
    else
      let h := 32 - va % 32
      match s.mwrite none p m 1 va (b.take h) with
      | (.error c, t) => ((c, false), t)
      | (.ok f, t) =>
        let ((c, f'), t) := t.hcWrite p m fuel (va + h) (b.drop h)
        ((c, f || f'), t)

/-- A descriptor's transfer and its status: `got` are the bytes that host memory delivers and `took` the number that it
takes, before an access to it fails (R398). -/
def State.hcMove (s : State) (m p f : Nat) (d got : List Byte) (took : Nat) : Half × State :=
  let va := fieldNat d 8 6
  let n := fieldNat d 16 4
  if bitOf (fieldNat d 20 1) 0 then
    let ((b, c), t) := s.hcRead m (sectorsOf va n) va n
    let t := t.emit (.hostWrite p f (fieldNat d 0 8) (b.take took) (s.meadow m).confidential)
    (if took < b.length then Code.hostDma else c, if c = Code.uncorrectable ∨ c = Code.retired then t.raise p f 10 else t)
  else
    let ((c, frozen), t) := s.hcWrite p m (sectorsOf va (got.take n).length) va (got.take n)
    let t := if frozen ∨ c = Code.retired then t.raise p f 10 else t
    (if c ≠ Code.ok then c else if got.length < n then Code.hostDma else if frozen then Code.frozen else Code.ok, t)

/-- The end of a descriptor in flight: STATUS and DONE in the ring it was started from, the note, the interrupt, and HEAD, which a
descriptor of a ring enabled anew since does not move (R396 to R398, R400). -/
def State.hcEnd (s : State) (m : Nat) (e : HcFlight) (d : List Byte) (code : Half) : State :=
  let x := s.meadow m
  let p := x.port
  let f := x.fn
  let ix := e.ix
  let a := e.base + 64 * ix
  let ide := x.confidential && (s.fn p f).tdi == .run
  let t := (s.emit (.hostWrite p f (a + 28) (natToBytes 2 code.toNat) ide)).emit (.hostWrite p f (a + 30) [1] ide)
  let flags := fieldNat d 20 1
  let t := if bitOf flags 2 ∧ s.meadowOf (fieldNat d 24 2) = some m ∧ fieldNat d 26 1 < 8 then
      t.tryNote (fieldNat d 24 2) (fieldNat d 26 1) (.host p) (natToBytes 4 ix ++ natToBytes 2 code.toNat)
    else t
  let v := fieldNat d 22 2
  let t := if bitOf flags 1 ∧ 16 ≤ v ∧ v < fnVectors f then t.raise p f v else t
  let t := t.updMeadow m fun x =>
    let y := { x with
      hcFlight := x.hcFlight.erase e, hcEnded := if !e.old && x.hcRange.contains ix then x.hcEnded ++ [ix] else x.hcEnded }
    y.hcAdvance 4096
  if (t.meadow m).hcHead ≠ x.hcHead then t.raise p f 9 else t

/-- What becomes of a descriptor in flight, as its engine read it; none where that read failed. -/
def State.hcRun (s : State) (m : Nat) (e : HcFlight) (desc : Option (List Byte)) (got : List Byte) (took : Nat) : State :=
  let x := s.meadow m
  match desc with
  | none => s.hcEnd m e [] Code.hostDma
  | some d =>
    if x.confidential ∧ (s.fn x.port x.fn).tdi ≠ .run then s.hcEnd m e d Code.hostNotTrusted
    else if !s.hcDescOk m x.fn d then s.hcEnd m e d Code.hostDescriptor
    else
      let (c, t) := s.hcMove m x.port x.fn d got took
      t.hcEnd m e d c

/-- HCOPY_COMPLETE: descriptor `ix` of a meadow's ring, in flight, ends; of two with that index the older. Every write it made has
taken effect by then (R287, R316, R396). -/
def execHcopyComplete (m : MeadowIx) (ix : BitVec 12) (desc : Option (List Byte)) (got : List Byte) (took : Word) (s : State) : Out :=
  s.attemptWhole (.hcopyComplete m ix desc got took) <|
  .next (match (s.meadow m).hcFlight.find? fun e => e.ix = ix.toNat with
    | some e => if (s.meadow m).state = .absent then s else (s.hcRun m e desc got took.toNat).hcServe (s.meadow m).port 16
    | none => s)

/-- A write of MDW_HCOPYm_TAIL (R397, R399). -/
def State.hcTailWrite (s : State) (m v : Nat) : State :=
  let x := s.meadow m
  let t := bitsOf v 11 0
  if x.state = .absent then s
  else if 2 ^ x.hcSize ≤ t then s.refuseWrite x.port x.fn Code.hostRing (mdwOff 0x190)
  else (s.updMeadow m fun x => { x with hcTail := BitVec.ofNat 32 t }).hcServe x.port 16

/-- HCOPY_TAIL. -/
def execHcopyTail (m : MeadowIx) (v : Word) (s : State) : Out :=
  .next (s.hostRow m (mdwOff 0x190) fun s => s.hcTailWrite m v.toNat)

/-- A write of MDW_HCOPYm_CONTROL (R397, R399). -/
def State.hcControlWrite (s : State) (m v : Nat) : State :=
  let x := s.meadow m
  let size := bitsOf v 3 0
  let en := bitOf v 4
  if x.state = .absent then s
  else if size < 4 ∨ 12 < size ∨ (x.hcEnable ∧ size ≠ x.hcSize) then s.refuseWrite x.port x.fn Code.hostRing (mdwOff 0x188)
  else s.updMeadow m fun x =>
    let y := { x with hcSize := size, hcEnable := en }
    if en ∧ !x.hcEnable then
      { y with hcHead := x.hcTail, hcEnded := [], hcFlight := x.hcFlight.map fun e => { e with old := true } }
    else y

/-- HCOPY_ENABLE. -/
def execHcopyEnable (m : MeadowIx) (v : Word) (s : State) : Out :=
  .next (s.hostRow m (mdwOff 0x188) fun s => s.hcControlWrite m v.toNat)

/-- A write of MDW_HCOPYm_BASE (R399). -/
def State.hcBaseWrite (s : State) (m v : Nat) : State :=
  let x := s.meadow m
  if x.hcEnable ∨ v % 64 ≠ 0 then s.refuseWrite x.port x.fn Code.hostRing (mdwOff 0x180)
  else s.updMeadow m fun x => { x with hcBase := v }

/-! Resets of functions and the link (R382, R383, R385, R426, R472). -/

/-- A function's meadow at its reset: stopped, its ring disabled with its descriptors ended, its Cicada rings disabled. `l` gives
the descriptors in flight as the engines read them when they started them (R397). -/
def State.resetFnMeadow (s : State) (l : List (MeadowIx × BitVec 12 × List Byte)) (m : Nat) : State :=
  let x := s.meadow m
  let t := if x.state = .stopped then s else s.sendStop m
  let t := t.updMeadow m fun x =>
    { x with hcEnable := false, cicRing := (upFrom 0 6).foldl (fun r n =>
      let v := Sparse.get (4 * 2 ^ 48) r n
      Sparse.put (4 * 2 ^ 48) r n (if bitOf v 52 then v - 2 ^ 52 else v)) x.cicRing }
  let desc (i : Nat) : List Byte := ((l.find? fun d => d.1.val = m && d.2.1.toNat = i).map (·.2.2)).getD []
  x.hcFlight.foldl (fun t e => t.hcEnd m e (desc e.ix) Code.hostLinkDown) t

/-- A reset of a function (R385). -/
def State.resetFn (s : State) (l : List (MeadowIx × BitVec 12 × List Byte)) (p f : Nat) : State :=
  let t := match s.fnMeadow p f with
    | some m => s.resetFnMeadow l m
    | none => s
  (t.setTdi p f .unlocked).updFn p f fun x => { x with table := [], unmasked := [], pend := [] }

/-- A load that is being read on a port whose link is lost ends, and its step waits again (R472). -/
def State.loseLoad (s : State) (p : Nat) : State :=
  match s.mailJob p with
  | some j =>
    if j.op = 1 ∨ j.op = 2 then
      (s.mailEnd p Code.sxtDma 0).updSxt fun x => { x with waiting := x.waiting || x.bootStep == 5 || x.bootStep == 9 }
    else s
  | none => s

/-- FUNCTION_LEVEL_RESET: an event on a port, or the reset of one function. PERST# resets functions only after
start-up (R383). `descs` are the host copy descriptors in flight. -/
def execFunctionLevelReset (p : PortIx) (e : HostReset) (descs : List (MeadowIx × BitVec 12 × List Byte)) (s : State) : Out :=
  let all (t : State) : State := (upFrom 0 32).foldl (fun t f => t.resetFn descs p f) t
  let down (perst : Bool) (t : State) : State :=
    (t.loseLoad p).updPort p fun x =>
      { x with rate := 0, width := 0, flit := false, vc1 := false, perst := perst || x.perst }
  .next (match e with
    | .function f => (s.resetFn descs p f).hcServe p 16
    | .linkDown => all (down false s)
    | .hotReset => all (s.loseLoad p)
    | .perst => if s.sxt.bootStep = 11 then all (down true s) else down true s)

/-- LINK_TRAINING: PERST# of a port is released and its link trains to a rate code and a width, with FLIT mode and VC1 as
the host enables them (R382, R469). -/
def execLinkTraining (p : PortIx) (rate : Fin 7) (width : Fin 9) (flit vc1 : Bool) (s : State) : Out :=
  .next (if !s.sxt.power ∨ rate.val = 0 ∨ !([1, 2, 4, 8].contains width.val) then s
    else s.updPort p fun x => { x with perst := false, rate := rate, width := width, flit := flit, vc1 := vc1 })

end Sys2Proof.Machine
end

