-- ==== Sys2Proof/Machine/Power.lean ====
section
/-!
DEFINITION. Rails, the package cap, gating, thermal limits, islands and JTAG (25 R506 to R526; 01 R29 to R31).
-/

namespace Sys2Proof.Machine

open Sys2Proof

/-- Power changed. -/
def State.updPower (s : State) (f : Power → Power) : State := { s with power := f s.power }

/-! Rails (R512, R514, R516, R517). -/

/-- Nominal or boot voltage of a rail in mV, its maximum current in units of 0.1 A, and its tolerance in tenths of a
per cent where it is fixed (R512). -/
def railSpec : Nat → Nat × Nat × Option Nat
  | 4 => (750, 1300, some 30)
  | 5 => (800, 1200, some 30)
  | 6 => (800, 900, none)
  | 7 => (750, 6200, some 20)
  | 8 => (850, 700, some 20)
  | 9 => (1800, 250, some 50)
  | _ => (800, 2400, none)

/-- The AVSBus interface and rail select of a rail that Sexton sets (R516). -/
def avsOf (k : Nat) : Option (Nat × Nat) := if k < 4 then some (0, k) else if k = 6 then some (1, 0) else none

/-- Whether a reading is an answer: one of the three attempts meets neither a NACK nor a PEC error (R517). -/
def railAnswers (r : RailReading) : Bool := r.misses.val < 3

/-- Whether a fixed rail's reading lies outside its tolerance (R514). -/
def railBreaks (k : Nat) (r : RailReading) : Bool :=
  match railSpec k with
  | (nom, _, some tol) => railAnswers r && ((r.volts.toNat * 1000 < nom * (1000 - tol)) || (nom * (1000 + tol) < r.volts.toNat * 1000))
  | _ => false

/-- A rail at fault: telemetry reads zero, and Sexton sets it no more (R517). -/
def Rail.fails (x : Rail) : Rail := ⟨x.mv, 0, 0, false, true, Code.pwrRail⟩

/-- A rail's registers after a reading (R517). -/
def Rail.read (x : Rail) (r : RailReading) : Rail :=
  if x.fault ∨ !railAnswers r ∨ r.fault then x.fails else ⟨x.mv, r.volts.toNat, r.amps.toNat, true, false, Code.ok⟩

/-- A rail. -/
def State.rail (s : State) (k : Nat) : Rail := Sparse.get Rail.zero s.power.rails k
/-- A rail changed. -/
def State.updRail (s : State) (k : Nat) (f : Rail → Rail) : State :=
  s.updPower fun x => { x with rails := Sparse.put Rail.zero x.rails k (f (s.rail k)) }

/-- A rail's part of package power in units of 0.1 mW: a faulted rail counts its maximum current (R517, R519). -/
def State.railPower (s : State) (k : Nat) : Nat :=
  let x := s.rail k
  if x.fault then (railSpec k).1 * (railSpec k).2.1 else x.vout * x.iout

/-- Package power in units of 0.1 mW (R519). -/
def State.packagePower (s : State) : Nat := ((upFrom 0 10).map s.railPower).sum

/-- The cap's enforcement at a sample (R520). -/
def Power.enforce (x : Power) (power : Nat) : Power :=
  let ms := if x.target < 650 ∨ x.halved ≠ 0 then satInc x.throttleMs else x.throttleMs
  let x := { x with throttleMs := ms, samples := (power :: x.samples).take 10 }
  if x.cap * 10000 < power then
    if 200 < x.target then { x with target := x.target - 25, below := 0 } else { x with halved := x.halved + 1, below := 0 }
  else if power * 100 < x.cap * 10000 * 97 then
    if x.below + 1 < 10 then { x with below := x.below + 1 }
    else { x with target := min 650 (x.target + 25), halved := x.halved - 1, below := 0 }
  else { x with below := 0 }

/-- A write of PWR_CAP from a PF (R386, R518). -/
def State.capWrite (s : State) (p v : Nat) : State :=
  let w := bitsOf v 15 0
  if w < 400 ∨ s.part.watts < w then s.refuseWrite p 0 Code.pwrCapRange 0x160088
  else s.updPower fun x => { x with cap := w }

/-- PWR_CAP_WRITE. -/
def execPwrCapWrite (p : PortIx) (v : Word) (s : State) : Out := .next (s.capWrite p v.toNat)

/-! Islands (R506 to R510, R521). -/

/-- OSC_TRIM (R508). -/
def execOscTrim (i : IslandIx) (s : State) : Out :=
  .next (if !s.sxt.power then s
    else s.updPower fun x => { x with trimmed := Sparse.put none x.trimmed i (some s.tick) })

/-- SUPPLY_DROOP: a stretch episode of an island begins (R509). -/
def execSupplyDroop (i : IslandIx) (s : State) : Out :=
  .next (if Sparse.get false s.power.stretched i then s
    else s.updPower fun x => { x with stretched := Sparse.put false x.stretched i true, stretch := satInc x.stretch })

/-- SUPPLY_RECOVERY: the island returns to its trimmed period (R509). -/
def execSupplyRecovery (i : IslandIx) (s : State) : Out :=
  .next (s.updPower fun x => { x with stretched := Sparse.put false x.stretched i false })

/-- The heath rail that feeds a base tussock (R512). -/
def quadrantOf (b : Nat) : Nat := 2 * (b / 128) + b % 16 / 8

/-- The frequency of a core's island in MHz: the lowest of its ceiling, the cap target and its thermal target, and
600 MHz where its rail is at fault or before Sexton's firmware runs (R53, R515, R517, R521). -/
def State.coreMhz (s : State) (n : Nat) : Nat :=
  let f := min (Sparse.get 600 s.heath.freq n / 25 * 25) (min s.power.target (s.base (baseOf n)).thermal)
  if !s.sxt.fwRunning || (s.rail (quadrantOf (baseOf n))).fault then min 600 f else f

/-- The frequency of a trunk router's island in MHz: the target of its base tussock's ISLAND record, within the island's range
(R52, R506, R515). -/
def State.trunkMhz (s : State) (b : Nat) : Nat := min 600 (max 300 (Sparse.get 600 s.heath.trunkFreq b))

/-- The frequency of a rim die's island in MHz (R506, R515, R524). -/
def State.rimMhz (s : State) (k : Nat) : Nat :=
  let f := Sparse.get 1000 s.power.rimTarget k
  if s.sxt.fwRunning then f else min 600 f

/-- The frequency of the hub's island in MHz: fixed, and 600 MHz where its rail is at fault (R506, R517). -/
def State.hubMhz (s : State) : Nat := if (s.rail 6).fault then 600 else 1000

/-- The supply in mV that Sexton selects for a base tussock: what its fastest core target needs, plus the margin (R53, R521). -/
def State.baseMv (s : State) (b : Nat) : Int :=
  Config.needMv b (((coresOfBase b).map s.coreMhz).foldl max 0) + Sparse.get 0 s.heath.vmargin b

/-- The voltage in mV that Sexton sets on an AVS rail, within the rail's range: on a quadrant rail the highest that a base tussock
with power needs, plus 30; on the hub's rail what the hub die needs (R512). -/
def State.setPoint (s : State) (k : Nat) : Nat :=
  if k < 4 then
    let l := (upFrom 0 256).filter fun b => quadrantOf b = k && !(s.base b).gated
    (min 900 (max 650 ((l.map s.baseMv).foldl max 0 + 30))).toNat
  else min 900 (max 700 Config.hubMv)

/-! Regulator transactions (R516, R517). Which ones a sample takes, and when a set point is written: DESIGN CHOICE, log entry 71. -/

/-- A PMBus transaction with a rail's regulator (R517). -/
def State.pmbus (s : State) (k : Nat) (c : Pmbus) : State := s.emit (.pmbus (0x10 + 12 * s.power.strap + k) c)

/-- One attempt at a sample of a rail: its status and temperature, and voltage and current, over AVSBus where the rail has one. -/
def State.sampleOnce (s : State) (k : Nat) : State :=
  let t := (s.pmbus k .statusWord).pmbus k .readTemperature1
  match avsOf k with
  | some (b, z) => (t.emit (.avs b z .readVolts)).emit (.avs b z .readAmps)
  | none => (t.pmbus k .readVout).pmbus k .readIout

/-- Control of a rail taken: its page selected, its faults cleared and its output on; a fixed rail is set to its nominal voltage
(R515, R516). -/
def State.takeRail (s : State) (k : Nat) : State :=
  let t := ((s.pmbus k (.page 0)).pmbus k .clearFaults).pmbus k (.operation 0x80)
  if (avsOf k).isSome then t else t.pmbus k (.voutCommand (railSpec k).1)

/-- A rail sampled: up to three attempts, and control taken of a rail that answers for the first time (R515, R517). -/
def State.sampleRail (s : State) (k : Nat) (r : RailReading) : State :=
  let t := (upFrom 0 (min 3 (r.misses.val + 1))).foldl (fun t _ => t.sampleOnce k) s
  let t := t.updRail k fun x => x.read r
  if (t.rail k).controlled && !(s.rail k).controlled then t.takeRail k else t

/-- The set point of an AVS rail written, where Sexton controls the rail and the point has changed (R512, R515). -/
def State.setRail (s : State) (k : Nat) : State :=
  let x := s.rail k
  match avsOf k with
  | some (b, z) =>
    if x.controlled && x.mv != s.setPoint k then
      (s.updRail k fun x => { x with mv := s.setPoint k }).emit (.avs b z (.setVolts (s.setPoint k)))
    else s
  | none => s

/-- The set points of every AVS rail written. -/
def State.setRails (s : State) : State := [0, 1, 2, 3, 6].foldl State.setRail s

/-- The reading of rail `k`. -/
def railReading (l : List RailReading) (k : Nat) : RailReading := l.getD k ⟨0, 0, 3, false⟩

/-- Whether a sample finds a fixed rail outside its tolerance (R514). -/
def railsBreak (l : List RailReading) : Bool := (upFrom 0 10).any fun k => railBreaks k (railReading l k)

/-- POWER_SAMPLE: a reading of each of the ten rails. A fixed rail outside its tolerance is the board's breach (R514). -/
def execPowerSample (l : List RailReading) (s : State) : Out :=
  if !s.sxt.power ∨ l.length ≠ 10 then .next s
  else if railsBreak l then .fault .railBreach
  else if !s.sxt.fwRunning then .next s
  else
    let t := (upFrom 0 10).foldl (fun t k => t.sampleRail k (railReading l k)) s
    .next (t.updPower fun x => { x.enforce t.packagePower with alert := x.alert && l.any (·.fault) }).setRails

/-- SMBALERT: a rail's regulator alerts Sexton, which reads its STATUS_WORD (R516, R517). -/
def execSmbalert (k : Fin 10) (fault : Bool) (s : State) : Out :=
  .next (if !s.sxt.fwRunning then s
    else
      let t := (s.updPower fun x => { x with alert := true }).pmbus k .statusWord
      if fault then t.updRail k Rail.fails else t)

/-! Gating (R29 to R31, R522, R523). -/

/-- The power state of a tussock (R29). -/
def State.tussockPower (s : State) (id : Nat) : PowerSt :=
  let l := ((s.basesOf id).getD []).map fun b => (s.base b).gated
  if l.all (! ·) then .on else if l.all (·) then .gated else .mixed

/-- Whether a STOP that reaches a base tussock has been registered and has not been acknowledged: in a mailbox, on a control page,
or as a stem command (R523). -/
def State.stopComing (s : State) (b : Nat) : Bool :=
  let hits (id : Nat) : Bool := ((s.basesOf id).getD []).contains b
  let m := s.meadowOfBase b
  [0, 1].any (fun p =>
    ((s.mbox p).job.any fun j => j.op = 7 && bitsOf (j.arg 0) 3 0 = 1 && hits (bitsOf (j.arg 0) 23 8))
      || (s.port p).ctlQueue.any fun k => ((s.ctlTargets p k).getD []).any fun x => some x == m)
    || (s.sxt.stemWait ++ s.sxt.stemOut).any fun c => c.op = 1 && hits c.target

/-- Whether a base tussock is idle in its meadow (R522), and nothing that waits for it has been registered (R523). -/
def State.gateOk (s : State) (b : Nat) : Bool :=
  match s.meadowOfBase b with
  | none => false
  | some m =>
    let x := s.meadow m
    Sparse.get false s.heath.autogate b && !(s.base b).gated && !(s.base b).testing && (x.state == .ready || x.state == .stopped)
      && !x.openReq && !x.switchReq && !s.stopComing b
      && (coresOfBase b).all fun n => [1, 2, 3, 4, 5, 6].all fun e => ((s.core n).engq e).isEmpty

/-- GATE: AUTOGATE's idle count of a base tussock ends (R522). -/
def execGate (b : BaseIx) (s : State) : Out :=
  .next (if s.sxt.lockstep ∨ !s.gateOk b then s
    else
      let t := (s.gateBase b).updBase b fun x => { x with idleGate := true }
      match s.meadowOfBase b with
      | some m => t.loseStores m 16
      | none => t)

/-- GATE_RETURN: Sexton returns a base tussock that AUTOGATE gated, and admits its cores (R31, R492, R522, R523). -/
def execGateReturn (b : BaseIx) (s : State) : Out :=
  .next (if s.sxt.lockstep ∨ !((s.base b).gated && (s.base b).idleGate) then s
    else (s.returnBase b).issueAdmits (coresOfBase b) .sexton)

/-! Thermal limits (R524, R525). -/

/-- A sensor's throttle and trip temperatures in units of 1/16 °C (R524). -/
def sensorLimits (k : Nat) : Int × Int :=
  if k < 256 then (1520, 1760) else if k < 263 then (1600, 1840) else (1520, 1680)

/-- Whether the part has a sensor. -/
def State.hasSensor (s : State) (k : Nat) : Bool := k < 263 + s.part.stacks

/-- Whether boundary scan holds the output pins (R526). -/
def jtagHolds : Jtag → Bool
  | .extest _ _ | .clamp | .highz => true
  | _ => false

/-- THERMTRIP_L asserted (R525), unless boundary scan holds the pins (R526). -/
def State.thermtrip (s : State) : State :=
  let t := s.updPower fun x => { x with thermtrip := true }
  if jtagHolds s.jtag then t else t.emit (.pin .thermtripL false)

/-- Sexton stops every meadow (R525). -/
def State.stopAll (s : State) : State :=
  (s.meadowIds.filter fun m => (s.meadow m).state ≠ .stopped).foldl (fun t m => t.sendStop m) s

/-- A throttle moved one step for a reading: on (`true`) or released (R524). -/
def State.throttleStep (s : State) (k : Nat) (on : Bool) : State :=
  let mark (t : State) (active : Bool) : State :=
    t.updPower fun x => { x with throttled := Sparse.put false x.throttled k active }
  if k < 256 then
    let f := (s.base k).thermal
    let g := if on then max 200 (f - 25) else min 650 (f + 25)
    mark (s.updBase k fun x => { x with thermal := g }) (g < 650)
  else if k < 262 then
    let f := Sparse.get 1000 s.power.rimTarget (k - 256)
    let g := if on then max 500 (f - 50) else min 1000 (f + 50)
    mark (s.updPower fun x => { x with rimTarget := Sparse.put 1000 x.rimTarget (k - 256) g }) (g < 1000)
  else if k = 262 then mark s on
  else
    let h := Sparse.get 0 s.power.stackHalved (k - 263)
    let g := if on then h + 1 else h - 1
    mark (s.updPower fun x => { x with stackHalved := Sparse.put 0 x.stackHalved (k - 263) g }) (0 < g)

/-- A stack's refresh follows its sensor: doubled above 85 °C (R304, R524). -/
def State.refreshStep (s : State) (k : Nat) (c : Int) : State :=
  if k < 263 then s else s.updStack (k - 263) fun x => { x with refresh2x := 1360 < c }

/-- THERMAL_SAMPLE: a 1 ms reading of a sensor in units of 1/16 °C (R524, R525). A lockstep disagreement stops the STOPs alone
(R445; log entry 56). -/
def execThermalSample (k : Fin 293) (t : BitVec 16) (s : State) : Out :=
  .next (if !s.hasSensor k ∨ !s.sxt.fwRunning then s
    else
      let (lim, trip) := sensorLimits k
      let c := t.toInt
      let u := (s.updPower fun x => { x with temps := Sparse.put 0 x.temps k c }).refreshStep k c
      let u := if lim ≤ c then u.throttleStep k true else if c ≤ lim - 48 then u.throttleStep k false else u
      let u := u.setRails
      if trip ≤ c then u.stopAll.thermtrip else u)

/-- COMPARATOR_THERMTRIP: a die's comparator asserts THERMTRIP_L (R525). -/
def execComparatorThermtrip (s : State) : Out := .next (if s.sxt.power then s.thermtrip else s)

/-! JTAG (R500, R526). -/

/-- The part number of IDCODE. -/
def Part.jtagId : Part → Nat
  | .m4l2 => 0xA101 | .m5l1 => 0xA102 | .m6 => 0xA103

/-- IDCODE (R526). -/
def State.idcode (s : State) : Nat :=
  1 + 0x2B7 * 2 + s.part.jtagId * 2 ^ 12 + Config.siliconRevision.toNat * 2 ^ 28

/-- The output pins at the levels of the boundary-scan register, whose bits are the lands in the order of log entry 50. -/
def State.drivePins (s : State) : State :=
  [(Pin.thermtripL, 4), (.pmbScl, 5), (.pmbSda, 6), (.avs0Clk, 8), (.avs0Data, 9), (.avs1Clk, 11), (.avs1Data, 12)].foldl
    (fun t (p, i) => t.emit (.pin p (t.bscan.getLsbD i))) s

/-- A register that the JTAG port reaches in VENDOR_TEST shifted out, and in (R497, R500). What a scan chain holds is free, and
nothing is said of what it takes in: DESIGN CHOICE, log entry 70. -/
def State.scanReg (s : State) (r : ScanReg) (load : Option Dword) : State :=
  let b := s.bist
  match r with
  | .misr z p =>
    let key := partKey z p
    let x := Sparse.get ⟨false, false, false, 0⟩ b.parts key
    let t := s.emit (.tdo x.signature.toNat)
    match load with
    | some v => { t with bist := { b with parts := Sparse.put ⟨false, false, false, 0⟩ b.parts key { x with signature := v } } }
    | none => t
  | .prpg z =>
    let t := s.emit (.tdo (Sparse.get 0 b.prpg z).toNat)
    match load with
    | some v => { t with bist := { b with prpg := Sparse.put 0 b.prpg z v } }
    | none => t
  | .chain _ _ =>
    let (l, t) := s.freeBytes 20
    t.emit (.tdo (bytesToNat l))

/-- JTAG_INSTRUCTION: an instruction other than those of R526 acts as BYPASS outside VENDOR_TEST; the device's own level
returns to THERMTRIP_L when boundary scan lets the pins go. SAMPLE/PRELOAD and EXTEST shift the levels at the lands out and
the register's next contents in; EXTEST and CLAMP drive the output pins from it. -/
def execJtagInstruction (i : Jtag) (s : State) : Out :=
  let i := match i with | .scan r v => if s.life = .vendorTest then .scan r v else .bypass | x => x
  let t := { s with jtag := i }
  let t := if jtagHolds s.jtag && !jtagHolds i then t.emit (.pin .thermtripL (!s.power.thermtrip)) else t
  .next (match i with
    | .idcode => t.emit (.tdo s.idcode)
    | .bypass | .highz => t.emit (.tdo 0)
    | .clamp => t.drivePins.emit (.tdo 0)
    | .sample pins load => { t.emit (.tdo pins.toNat) with bscan := load }
    | .extest pins load => ({ t.drivePins.emit (.tdo pins.toNat) with bscan := load } : State).drivePins
    | .scan r v => t.scanReg r v)

end Sys2Proof.Machine
end

