-- ==== Sys2Proof/Machine/Registers.lean ====
section
/-!
DEFINITION. Host-visible registers: their values, reads that clear, and writes (26 R528 to R533; 18 R384, R386, R400).
-/

namespace Sys2Proof.Machine

open Sys2Proof

/-! Encodings of states. -/

/-- STATE of MDW_EPOCHm_STATUS (R348). -/
def MState.num : MState → Nat
  | .absent => 0 | .ready => 1 | .opened => 2 | .boundary => 3 | .switching => 4 | .stopped => 5 | .failed => 6
/-- STATE of MDW_SEQm_JOBj_STATUS. -/
def SeqState.num : SeqState → Nat
  | .idle => 0 | .running => 1 | .waiting => 2 | .stopped => 3
/-- STATE of STK_STACKs_STATUS. -/
def StackSt.num : StackSt → Nat
  | .inService => 0 | .retraining => 1 | .failed => 2
/-- STATE of SWM_PORTn_STATUS. -/
def SwState.num : SwState → Nat
  | .disabled => 0 | .training => 1 | .admitting => 2 | .up => 3 | .retraining => 4 | .down => 5
/-- STATE of TRN_SESSION_STATUS. -/
def TrnState.num : TrnState → Nat
  | .idle => 0 | .accepted => 1 | .running => 2 | .pausing => 3 | .paused => 4 | .ended => 5

/-- A value in a field that begins at bit `lo`. -/
def at_ (lo v : Nat) : Nat := v * 2 ^ lo
/-- A flag in bit `lo`. -/
def flag (lo : Nat) (b : Bool) : Nat := b.toNat * 2 ^ lo

/-- What a read of a register gives: its value, and the state after the read, which an RC register's read clears. -/
abbrev RegRead := Nat × State

/-! The control page and MSI-X structures (R386, R394, R400, R529). -/

/-- A register of the control page. -/
def State.ctlRead (s : State) (p f off : Nat) : Nat :=
  let x := s.fn p f
  if off = 0x040 then
    x.ctlTag.toNat + at_ 16 x.ctlCode.toNat + flag 32 ((s.port p).ctlQueue.any fun c => c.fn = f)
  else if off = 0x080 then x.writeCode.toNat + at_ 16 x.writeOffset.toNat
  else 0

/-- Eight bytes of the MSI-X table or the pending-bit array. -/
def State.msixRead (s : State) (p f off : Nat) : Nat :=
  let x := s.fn p f
  let n := fnVectors f
  if off < 0x18000 then
    let v := (off - 0x10000) / 16
    if n ≤ v then 0
    else if off % 16 < 8 then Mem.nat x.table (16 * v) 8
    else Mem.nat x.table (16 * v + 8) 4 + flag 32 (!Sparse.get false x.unmasked v)
  else if off < 0x18100 then
    let v := 8 * (off - 0x18000)
    ((upFrom 0 64).map fun i => if v + i < n ∧ Sparse.get false x.pend (v + i) then 2 ^ i else 0).sum
  else 0

/-- A vector's mask bit written: a pending vector is sent when it is unmasked (R400). -/
def State.setMask (s : State) (p f v : Nat) (masked : Bool) : State :=
  let t := s.updFn p f fun x => { x with unmasked := Sparse.put false x.unmasked v (!masked) }
  if !masked && Sparse.get false (s.fn p f).pend v then
    (t.updFn p f fun x => { x with pend := Sparse.put false x.pend v false }).emit (.msix p f v)
  else t

/-- Eight bytes written to the MSI-X table. -/
def State.msixWrite (s : State) (p f off v : Nat) : State :=
  let k := (off - 0x10000) / 16
  if 0x18000 ≤ off ∨ fnVectors f ≤ k then s
  else if off % 16 < 8 then s.updFn p f fun x => { x with table := Mem.write x.table (16 * k) (natToBytes 8 v) }
  else (s.updFn p f fun x => { x with table := Mem.write x.table (16 * k + 8) (natToBytes 4 v) }).setMask p f k (bitOf v 32)

/-! The meadow block. -/

/-- The engines and causes whose counters the manual lists (R301). -/
def stallListed (e c : Nat) : Bool :=
  match e with
  | 0 => [4, 6, 7].contains c
  | 1 => [0, 1, 7].contains c
  | 2 => [1, 5, 7].contains c
  | 3 => [5, 7].contains c
  | 4 => [2, 3, 4, 7, 8].contains c
  | 5 => [2, 3, 7, 8].contains c
  | 6 => c == 7
  | _ => false

/-- The place of a counter in a core's table. -/
def stallKey (e c : Nat) : Nat := 16 * e + c

/-- MDW_STALLm_DATA (R302). -/
def State.stallData (s : State) (m : Nat) : Nat :=
  let sel := (s.meadow m).stallSel.toNat
  let n := bitsOf sel 11 0
  let e := bitsOf sel 15 12
  let c := bitsOf sel 19 16
  if s.meadowOf n ≠ some m ∨ !stallListed e c then 0 else (Sparse.get 0 (s.core n).stalls (stallKey e c)).toNat

/-- A register of a sequencer context, by its offset from the context's first (12, 16). -/
def Meadow.seqRead (x : Meadow) (j o : Nat) : Nat :=
  let q := x.seq j
  match o with
  | 0x00 => q.schedule
  | 0x08 => q.steps + flag 17 q.hold
  | 0x10 => q.first.toNat
  | 0x18 => q.limit.toNat
  | 0x20 => q.state.num + at_ 4 q.step + at_ 16 q.code.toNat
  | 0x28 => q.frame.toNat
  | 0x30 => q.framesDone.toNat
  | 0x38 => q.program
  | 0x40 => q.save
  | _ => 0

/-- A register of the meadow block at offset `o` (26, Meadow block offsets). -/
def State.mdwRead (s : State) (m o : Nat) : RegRead :=
  let x := s.meadow m
  let rc (v : Word) (f : Meadow → Meadow) : RegRead := (v.toNat, s.updMeadow m f)
  if 0x1000 ≤ o ∧ o < 0x1400 then (x.seqRead ((o - 0x1000) / 0x80) ((o - 0x1000) % 0x80), s)
  else if 0x200 ≤ o ∧ o < 0x260 then
    let n := (o - 0x200) / 0x10
    (if o % 0x10 = 0 then x.cicReg n else if o % 0x10 = 8 then (Sparse.get 0 x.cicDone n).toNat else 0, s)
  else match o with
    | 0x0000 => (at_ 2 x.nextJob + at_ 8 x.slice, s)
    | 0x0008 => ((s.shownState m).num + at_ 3 (x.resident.getD 8) + at_ 16 x.code.toNat, s)
    | 0x0010 => (x.count.toNat, s)
    | 0x0018 => (x.storeLoss.toNat, s)
    | 0x0040 => (flag 0 x.auto + at_ 8 x.limit, s)
    | 0x0048 => (x.attempts + at_ 4 x.wStage + at_ 6 x.wBase + at_ 16 x.rcode.toNat, s)
    | 0x0050 => rc x.fires fun y => { y with fires := 0 }
    | 0x0080 => (x.stallSel.toNat, s)
    | 0x0088 => (s.stallData m, s)
    | 0x00C0 => rc x.frozenDrops fun y => { y with frozenDrops := 0 }
    | 0x00C8 => (x.frozenLast.toNat, s)
    | 0x00D0 => (flag 1 x.frozenBusy, s)
    | 0x0100 => rc x.bounces fun y => { y with bounces := 0 }
    | 0x0108 => rc x.discarded fun y => { y with discarded := 0 }
    | 0x0140 => (x.swRing + at_ 48 x.swSize, s)
    | 0x0148 => (x.swDone.toNat, s)
    | 0x0180 => (x.hcBase, s)
    | 0x0188 => (x.hcSize + flag 4 x.hcEnable, s)
    | 0x0190 => (x.hcTail.toNat, s)
    | 0x0198 => (x.hcHead.toNat, s)
    | _ => (0, s)

/-- A sequencer register written (R277, R363, R529). -/
def State.seqWrite (s : State) (m j o v : Nat) : State :=
  let x := s.meadow m
  let set (f : Seq → Seq) : State := s.updMeadow m (·.updSeq j f)
  let addr := bitsOf v 47 0
  let refuse (o : Nat) : State := s.refuseWrite x.port x.fn Code.jobProgram (seqOff j o)
  match o with
  | 0x00 => set fun q => { q with schedule := addr }
  | 0x08 =>
    let t := set fun q => { q with steps := bitsOf v 12 0, hold := bitOf v 17 }
    if !bitOf v 16 then t
    else
      let u := t.seqStart m j
      if ((u.meadow m).seq j).code = Code.ok then u
      else u.updMeadow m (·.updSeq j fun q => { q with steps := (x.seq j).steps, hold := (x.seq j).hold })
  | 0x10 => set fun q => { q with first := BitVec.ofNat 32 v }
  | 0x18 => set fun q => { q with limit := BitVec.ofNat 32 v }
  | 0x38 => if addr % 64 ≠ 0 then refuse 0x38 else set fun q => { q with program := addr }
  | 0x40 => if addr % 65536 ≠ 0 then refuse 0x40 else set fun q => { q with save := addr }
  | _ => s

/-- MDW_RECOVERm_CONTROL written (R490, R491). -/
def State.recoverControl (s : State) (m v : Nat) : State :=
  let t := s.updMeadow m fun x => { x with auto := bitOf v 0, limit := bitsOf v 11 8 }
  let t := if bitOf v 1 then t.replay m else t
  if bitOf v 2 then t.resumeMeadow m else t

/-- A register of the meadow block written. -/
def State.mdwWrite (s : State) (m o v : Nat) : State :=
  if 0x1000 ≤ o ∧ o < 0x1400 then s.seqWrite m ((o - 0x1000) / 0x80) ((o - 0x1000) % 0x80) v
  else if 0x200 ≤ o ∧ o < 0x260 then
    if o % 0x10 = 0 then s.cicRingWrite m ((o - 0x200) / 0x10) (BitVec.ofNat 64 v) else s
  else match o with
    | 0x0000 => s.epochControl m v
    | 0x0040 => s.recoverControl m v
    | 0x0080 => s.updMeadow m fun x => { x with stallSel := BitVec.ofNat 20 v }
    | 0x0090 => if bitOf v 0 then s.updCores (s.meadowCores m) fun c => { c with stalls := [] } else s
    | 0x00D0 => if bitOf v 0 then s.frozenSync m else s
    | 0x0140 => s.swRingWrite m (BitVec.ofNat 64 v)
    | 0x0180 => s.hcBaseWrite m v
    | 0x0188 => s.hcControlWrite m v
    | 0x0190 => s.hcTailWrite m v
    | _ => s

/-! The device block. -/

/-- The HUB block. -/
def State.hubRead (s : State) (o : Nat) : RegRead :=
  let h := s.hub
  let rc (v : Word) (f : Hub → Hub) : RegRead := (v.toNat, s.updHub f)
  if 0x100 ≤ o ∧ o < 0x180 then
    let p := (o - 0x100) / 0x40
    let x := s.port p
    let rcp (v : Word) (f : Port → Port) : RegRead := (v.toNat, s.updPort p f)
    match (o - 0x100) % 0x40 with
    | 0x00 => (x.rate + at_ 3 x.width + flag 7 x.flit + flag 8 x.vc1, s)
    | 0x08 => rcp x.denied fun y => { y with denied := 0 }
    | 0x10 => (x.deniedLast.toNat, s)
    | 0x18 => rcp x.uncorrected fun y => { y with uncorrected := 0 }
    | 0x20 => rcp x.doorbellDrops fun y => { y with doorbellDrops := 0 }
    | 0x28 => rcp x.ctlDrops fun y => { y with ctlDrops := 0 }
    | _ => (0, s)
  else match o with
    | 0x00 => rc h.dropIsolated fun y => { y with dropIsolated := 0 }
    | 0x08 => rc h.dropGated fun y => { y with dropGated := 0 }
    | 0x10 => rc h.dropGeneration fun y => { y with dropGeneration := 0 }
    | 0x18 => rc h.lateDrops fun y => { y with lateDrops := 0 }
    | 0x20 => rc h.sramCorrected fun y => { y with sramCorrected := 0 }
    | 0x48 =>
      let w := (s.sxt.warmTimes.filter fun t => s.tick < t + 2 ^ 37).length
      (flag 0 s.sxt.benched + at_ 2 (min 3 w) + at_ 16 s.sxt.cause.toNat, s)
    | _ => (0, s)

/-- The failed sites of a row, as bits. -/
def State.faultRow (s : State) (row lo n : Nat) : Nat :=
  ((upFrom lo n).map fun i => if Sparse.get false s.heath.failed (66 * row + i) then 2 ^ (i - lo) else 0).sum

/-- The SXT block as port `p`'s PF shows it (R531). -/
def State.sxtRead (s : State) (p o : Nat) : Nat :=
  let x := s.sxt
  let m := s.mbox p
  if 0x100 ≤ o then
    if (o - 0x100) / 0x80 ≠ p then 0
    else match (o - 0x100) % 0x80 with
      | 0x00 => m.op + at_ 16 m.tag.toNat
      | 0x08 => (Sparse.get 0 m.args 0).toNat
      | 0x10 => (Sparse.get 0 m.args 1).toNat
      | 0x18 => (Sparse.get 0 m.args 2).toNat
      | 0x20 => (Sparse.get 0 m.args 3).toNat
      | 0x30 => flag 0 m.job.isSome + flag 1 m.done + at_ 16 m.code.toNat + at_ 32 m.rtag.toNat
      | 0x38 => m.result.toNat
      | _ => 0
  else match o with
    | 0x00 =>
      s.life.num + flag 3 s.flags.1 + flag 4 s.flags.2 + flag 5 (!lcWhole x.lcBits)
        + flag 6 (x.fwRunning && x.bootLeaf.isNone && 32768 ≤ x.leaves)
    | 0x08 => x.leaves + at_ 16 x.journal.length + at_ 25 x.svn
    | 0x10 => x.sigsLeft
    | 0x18 => s.floor
    | 0x20 => x.bootStep + flag 4 x.waiting + flag 5 x.warm + at_ 16 x.bootCode.toNat
    | 0x28 => x.bootTime.toNat
    | 0x40 => s.qorf.code.toNat + flag 16 s.streamBusy
    | 0x48 => s.qorf.word
    | 0x50 => s.qorf.serial.toNat
    | 0x58 => s.qorf.fullSerial.toNat
    | 0x80 => x.faultSel
    | 0x88 => s.faultRow x.faultSel 0 64
    | 0x90 => s.faultRow x.faultSel 64 2 + at_ 2 x.rimsFailed.toNat
    | 0x98 => x.repair.phase + at_ 3 x.repair.base + at_ 16 x.repair.code.toNat
    | _ => 0

/-- The STK block. -/
def State.stkRead (s : State) (o : Nat) : RegRead :=
  if o < 0x3C0 then
    let k := o / 0x20
    let x := s.stack k
    if s.part.stacks ≤ k then (0, s)
    else match o % 0x20 with
      | 0x00 =>
        (x.st.num + flag 2 (x.st == .failed && s.pkg.parity && s.failedStacks == 1) + at_ 8 x.spares.toNat, s)
      | 0x08 => (x.corrected.toNat, s.updStack k fun y => { y with corrected := 0 })
      | 0x10 => (x.uncorrected.toNat, s.updStack k fun y => { y with uncorrected := 0 })
      | _ => (0, s)
  else match o with
    | 0x400 => (s.pkg.retired.length, s)
    | 0x408 => (at_ 16 s.pkg.retireLast, s)
    | 0x410 => (s.pkg.retireDrops.toNat, s.updPkg fun y => { y with retireDrops := 0 })
    | _ => (0, s)

/-- The SWM block. -/
def State.swmRead (s : State) (o : Nat) : RegRead :=
  let n := o / 0x20
  let x := s.sw n
  let rc (v : Word) (f : SwLink → SwLink) : RegRead := (v.toNat, s.updSw n f)
  if !s.hasSw n then (0, s)
  else match o % 0x20 with
    | 0x00 =>
      (x.st.num + at_ 3 x.rate + at_ 5 x.lanes + flag 9 x.spareUsed + at_ 10 x.fec + at_ 16 x.peer + at_ 32 x.code.toNat, s)
    | 0x08 => rc x.retries fun y => { y with retries := 0 }
    | 0x10 => rc x.retrains fun y => { y with retrains := 0 }
    | 0x18 => rc x.stale fun y => { y with stale := 0 }
    | _ => (0, s)

/-- The TRN block. -/
def State.trnRead (s : State) (o : Nat) : RegRead :=
  let x := s.trn
  let rc (v : Word) (f : Trn → Trn) : RegRead := (v.toNat, s.updTrn f)
  if o < 0x40 then
    let n := o / 0x10
    (if o % 0x10 = 0 then Sparse.get 0 x.lanes n + flag 2 (Sparse.get false x.media n)
     else if o % 0x10 = 8 then s.sxt.macBase + n else 0, s)
  else match o with
    | 0x40 => (x.st.num + flag 3 x.filmOut + at_ 4 x.modeIx + at_ 8 x.slots + at_ 32 x.code.toNat, s)
    | 0x50 => (x.startFrame.toNat, s)
    | 0x58 => (x.noteCore + at_ 12 x.noteQueue + flag 15 x.noteEn, s)
    | 0x80 => rc x.rxDrops fun y => { y with rxDrops := 0 }
    | 0x88 => rc x.late fun y => { y with late := 0 }
    | 0x90 => rc x.missing fun y => { y with missing := 0 }
    | 0x98 => rc x.overrun fun y => { y with overrun := 0 }
    | 0xA0 => rc x.void fun y => { y with void := 0 }
    | 0xA8 => rc x.uncorrected fun y => { y with uncorrected := 0 }
    | 0xB0 => rc x.noteDrops fun y => { y with noteDrops := 0 }
    | _ => (0, s)

/-- The CIC block. -/
def State.cicBlockRead (s : State) (o : Nat) : RegRead :=
  let n := o / 0x20
  let x := s.pipe n
  let rc (v : Word) (f : Pipe → Pipe) : RegRead := (v.toNat, s.updPipe n f)
  if 6 ≤ n then (0, s)
  else match o % 0x20 with
    | 0x00 => (x.owner.getD 0 + flag 6 (Sparse.get none s.heath.codec n).isSome + flag 7 x.job.isSome, s)
    | 0x08 => rc x.jobs fun y => { y with jobs := 0 }
    | 0x10 => rc x.uncorrected fun y => { y with uncorrected := 0 }
    | 0x18 => rc x.noteDrops fun y => { y with noteDrops := 0 }
    | _ => (0, s)

/-- The PWR block. Fractions of a watt are dropped (DESIGN CHOICE, log entry 16). -/
def State.pwrRead (s : State) (o : Nat) : RegRead :=
  let x := s.power
  if o < 0x50 then
    let r := s.rail (o / 8)
    (if o % 8 = 0 then r.vout + at_ 16 r.iout + flag 32 r.controlled + flag 33 r.fault + at_ 48 r.code.toNat else 0, s)
  else match o with
    | 0x80 => (x.samples.headD 0 / 10000 + at_ 16 (x.samples.sum / 100000), s)
    | 0x88 => (x.cap, s)
    | 0x90 => (x.target + flag 10 (x.halved != 0), s)
    | 0x98 => (x.tempSel, s)
    | 0xA0 =>
      let k := x.tempSel
      (if s.hasSensor k then (BitVec.ofInt 16 (Sparse.get 0 x.temps k)).toNat + flag 16 (Sparse.get false x.throttled k) else 0, s)
    | 0xA8 => (x.throttleMs.toNat, s.updPower fun y => { y with throttleMs := 0 })
    | 0xB0 => (x.stretch.toNat, s.updPower fun y => { y with stretch := 0 })
    | _ => (0, s)

/-- The BST block. -/
def State.bstRead (s : State) (o : Nat) : Nat :=
  let b := s.bist
  let r := Sparse.get ⟨false, false, false, 0⟩ b.parts (partKey b.selSlice b.selPart)
  let there := b.selSlice < 263 && partExists b.selSlice b.selPart
  match o with
  | 0x00 => flag 0 b.busy + at_ 16 b.code.toNat
  | 0x08 => b.selSlice + at_ 9 b.selPart
  | 0x10 => if there then r.signature.toNat else 0
  | 0x18 => if there then flag 0 r.tested + flag 1 r.logicFail + flag 2 r.memoryFail else 0
  | _ => 0

/-- A register of the device block at offset `o` from 0x10_0000 (R531). -/
def State.devRead (s : State) (p o : Nat) : RegRead :=
  match o / 0x10000 with
  | 0 => s.hubRead (o % 0x10000)
  | 1 => (s.sxtRead p (o % 0x10000), s)
  | 2 => s.stkRead (o % 0x10000)
  | 3 => s.swmRead (o % 0x10000)
  | 4 => s.trnRead (o % 0x10000)
  | 5 => s.cicBlockRead (o % 0x10000)
  | 6 => s.pwrRead (o % 0x10000)
  | 7 => (s.bstRead (o % 0x10000), s)
  | _ => (0, s)

/-- A mailbox register of port `p` written (R446). -/
def State.mboxWrite (s : State) (p o v : Nat) : State :=
  let arg (i : Nat) : State := s.updMbox p fun m => { m with args := Sparse.put 0 m.args i (BitVec.ofNat 64 v) }
  match o with
  | 0x00 => s.updMbox p fun m => { m with op := bitsOf v 7 0, tag := BitVec.ofNat 16 (bitsOf v 31 16) }
  | 0x08 => arg 0
  | 0x10 => arg 1
  | 0x18 => arg 2
  | 0x20 => arg 3
  | 0x28 => if bitOf v 0 then s.submit p else s
  | 0x30 => if bitOf v 1 then s.updMbox p fun m => { m with done := false } else s
  | _ => s

/-- The code that refuses a whole write of TRN_CONTROL: from the wrong port, or where RUN, or PAUSE in the state that RUN leaves,
finds the session in a wrong state (R424, R529). -/
def State.trnControlBad (s : State) (p v : Nat) : Option Half :=
  let run := bitOf v 0
  let pause := bitOf v 1
  let startsNow := run && (!s.trn.filmOut || decide (s.readHostCount.trn.portCount < s.readHostCount.trn.hostCount))
  if !s.trnPort p then some Code.trnNotPermitted
  else if run && s.trn.st != .accepted && s.trn.st != .paused then some Code.trnState
  else if pause && !(if run then startsNow else s.trn.st == .running) then some Code.trnState
  else none

/-- TRN_CONTROL written: refused whole, or RUN, PAUSE and END in this order (R424, R529). -/
def State.trnControlWrite (s : State) (p v : Nat) : State :=
  match s.trnControlBad p v with
  | some c => s.refuseTrn p c trnControl
  | none =>
    let t := if bitOf v 0 then s.trnRun p else s
    let t := if bitOf v 1 then t.trnPause p else t
    if bitOf v 2 then t.trnEnd p else t

/-- A register of the device block written from port `p`'s PF. -/
def State.devWrite (s : State) (p o v : Nat) : State :=
  match o with
  | 0x00040 => if bitOf v 1 then s.hostReset p .warm else if bitOf v 0 then s.hostReset p .heath else s
  | 0x00048 => if bitOf v 1 then s.faultClear p else s
  | 0x10080 => s.updSxt fun x => { x with faultSel := bitsOf v 5 0 }
  | 0x40048 => s.trnControlWrite p v
  | 0x40050 => s.trnWrite p trnStartFrame fun s => s.updTrn fun x => { x with startFrame := BitVec.ofNat 32 v }
  | 0x40058 =>
    s.updTrn fun x => { x with noteCore := bitsOf v 11 0, noteQueue := bitsOf v 14 12, noteEn := bitOf v 15 }
  | 0x60088 => s.capWrite p v
  | 0x60098 => s.updPower fun x => { x with tempSel := bitsOf v 8 0 }
  | 0x70008 => { s with bist := { s.bist with selSlice := bitsOf v 8 0, selPart := bitsOf v 13 9 } }
  | _ =>
    if 0x10100 ≤ o ∧ o < 0x10200 ∧ (o - 0x10100) / 0x80 = p then s.mboxWrite p ((o - 0x10100) % 0x80) v else s

/-! Accesses to BAR0 (R384, R386, R388, R528). -/

/-- The slot of a register read: its value and the state after it. -/
def State.slotRead (s : State) (p f off : Nat) : RegRead :=
  if f ≠ 0 ∧ (s.fnMeadow p f).isNone then (0, s)
  else if off < 0x1000 then (s.ctlRead p f off, s)
  else if off < 0x10000 then (0, s)
  else if off < 0x20000 then (s.msixRead p f off, s)
  else if off < 0x30000 then
    match s.fnMeadow p f with
    | some m => s.mdwRead m (off - 0x20000)
    | none => (0, s)
  else if 0x100000 ≤ off ∧ f = 0 then s.devRead p (off - 0x100000)
  else (0, s)

/-- Whether a register's slot has 64 bits, of those that a write changes. -/
def wideReg (off : Nat) : Bool :=
  let m := off - 0x20000
  let b := off - 0x110100
  off = 0 || (0x10000 ≤ off && off < 0x18000) || off = 0x20140 || off = 0x20180
    || (0x20200 ≤ off && off < 0x20260)
    || (0x21000 ≤ off && off < 0x21400 && [0x00, 0x38, 0x40].contains (m % 0x80))
    || (0x110100 ≤ off && off < 0x110200 && [0x00, 0x08, 0x10, 0x18, 0x20, 0x30].contains (b % 0x80))

/-- Whether the half of a slot that a 4-byte write does not name is written as zero: the register has a WO or W1S field
(R528), or a W1C field, where a zero changes nothing. -/
def zeroHalf (off : Nat) : Bool :=
  off = 0 || (0x110100 ≤ off && off < 0x110200 && (off - 0x110100) % 0x80 = 0x30)

/-- The value of a whole slot for an access of 4 or 8 bytes at `off`. -/
def State.slotValue (s : State) (p f off : Nat) (wide : Bool) (v : Nat) : Nat :=
  let slot := off / 8 * 8
  let old := if zeroHalf slot then 0 else (s.slotRead p f slot).1
  if wide then v % 2 ^ 64
  else if off % 8 = 0 then v % 2 ^ 32 + old / 2 ^ 32 * 2 ^ 32
  else old % 2 ^ 32 + v % 2 ^ 32 * 2 ^ 32

/-- A register slot written. -/
def State.slotWrite (s : State) (p f slot v : Nat) : State :=
  if f ≠ 0 ∧ (s.fnMeadow p f).isNone then s
  else if slot = 0 then s.ctlWrite p f (BitVec.ofNat 64 v)
  else if slot < 0x10000 then s
  else if slot < 0x20000 then s.msixWrite p f slot v
  else if slot < 0x30000 then
    match s.fnMeadow p f with
    | some m => s.mdwWrite m (slot - 0x20000) v
    | none => s
  else if 0x100000 ≤ slot ∧ f = 0 then s.devWrite p (slot - 0x100000) v
  else s

/-- Whether an access of `n` bytes is 4 or 8 bytes wide and naturally aligned (R528). -/
def accessOk (off n : Nat) : Bool := (n == 4 || n == 8) && off % n == 0

/-- Whether R388 refuses an access to BAR0: only the meadow block is guarded. -/
def State.bar0Untrusted (s : State) (p f off : Nat) (ide : Bool) : Bool :=
  0x20000 ≤ off && off < 0x30000 && s.untrusted p f ide

/-- READ_CLEAR: a read of `n` bytes at a BAR0 offset of a function (R528, R530). -/
def execReadClear (p : PortIx) (f : FnIx) (off : BitVec 24) (n : Fin 4097) (ide : Bool) (s : State) : Out :=
  let o := off.toNat
  .next (if !accessOk o n then s.emit (.hostData p f (List.replicate n 0))
    else if s.bar0Untrusted p f o ide then (s.deny p f .bar0 o false true).emit (.hostData p f (onesBytes n))
    else if n.val = 4 ∧ o % 8 = 4 then s.emit (.hostData p f (natToBytes 4 ((s.slotRead p f (o - 4)).1 / 2 ^ 32)))
    else
      let (v, t) := s.slotRead p f o
      t.emit (.hostData p f (natToBytes n v)))

/-- REGISTER_WRITE: a write of `n` bytes at a BAR0 offset of a function (R528, R529). -/
def execRegisterWrite (p : PortIx) (f : FnIx) (off : BitVec 24) (n : Fin 513) (v : Dword) (ide : Bool) (s : State) : Out := s.attemptWhole (.registerWrite p f off n v ide) <|
  let o := off.toNat
  .next (if !accessOk o n then s
    else if s.bar0Untrusted p f o ide then s.deny p f .bar0 o true true
    else if n.val = 4 ∧ o % 8 = 4 ∧ !wideReg (o - 4) then s
    else s.slotWrite p f (o / 8 * 8) (s.slotValue p f o (n.val == 8) v.toNat))

end Sys2Proof.Machine
end

