-- ==== Sys2Proof/Machine/TileCommands.lean ====
section
/-!
DEFINITION. The tile-program commands: each is taken by the vector engine in the row step in force
(06 R145, 07 R171, 08 R187). With no sweep in force a command changes nothing (log entry 12).
-/

namespace Sys2Proof.Machine

open Sys2Proof

/-- VNOP: no effect (R145). -/
def execVnop (c : CoreIx) (f : TFields) (s : State) : Out := s.attempt (.vnop c f) <| .next (s.tile c .nop f)
/-- VADD: lane-wise sum (R145, R146). -/
def execVadd (c : CoreIx) (f : TFields) (s : State) : Out := s.attempt (.vadd c f) <| .next (s.tile c .add f)
/-- VSUB: lane-wise difference (R145, R146). -/
def execVsub (c : CoreIx) (f : TFields) (s : State) : Out := s.attempt (.vsub c f) <| .next (s.tile c .sub f)
/-- VMUL: lane-wise product (R145, R146). -/
def execVmul (c : CoreIx) (f : TFields) (s : State) : Out := s.attempt (.vmul c f) <| .next (s.tile c .mul f)
/-- VFMA: fused multiply-add (R145, R146). -/
def execVfma (c : CoreIx) (f : TFields) (s : State) : Out := s.attempt (.vfma c f) <| .next (s.tile c .fma f)
/-- VMIN: minimum (R145, R69). -/
def execVmin (c : CoreIx) (f : TFields) (s : State) : Out := s.attempt (.vmin c f) <| .next (s.tile c .min f)
/-- VMAX: maximum (R145, R69). -/
def execVmax (c : CoreIx) (f : TFields) (s : State) : Out := s.attempt (.vmax c f) <| .next (s.tile c .max f)
/-- VCEQ: quiet equality mask (R146). -/
def execVceq (c : CoreIx) (f : TFields) (s : State) : Out := s.attempt (.vceq c f) <| .next (s.tile c .ceq f)
/-- VCLT: quiet less-than mask (R146). -/
def execVclt (c : CoreIx) (f : TFields) (s : State) : Out := s.attempt (.vclt c f) <| .next (s.tile c .clt f)
/-- VCLE: quiet less-or-equal mask (R146). -/
def execVcle (c : CoreIx) (f : TFields) (s : State) : Out := s.attempt (.vcle c f) <| .next (s.tile c .cle f)
/-- VSEL: bitwise select (R146). -/
def execVsel (c : CoreIx) (f : TFields) (s : State) : Out := s.attempt (.vsel c f) <| .next (s.tile c .sel f)
/-- VAND: bitwise and (R146). -/
def execVand (c : CoreIx) (f : TFields) (s : State) : Out := s.attempt (.vand c f) <| .next (s.tile c .and f)
/-- VOR: bitwise or (R146). -/
def execVor (c : CoreIx) (f : TFields) (s : State) : Out := s.attempt (.vor c f) <| .next (s.tile c .or f)
/-- VXOR: bitwise exclusive or (R146). -/
def execVxor (c : CoreIx) (f : TFields) (s : State) : Out := s.attempt (.vxor c f) <| .next (s.tile c .xor f)
/-- VLDX: the current row of X, of PSRC or of the drain stage (R147, R169, R170). -/
def execVldx (c : CoreIx) (f : TFields) (s : State) : Out := s.attempt (.vldx c f) <| .next (s.tile c .ldx f)
/-- VLDY: the current row of Y or EY (R147, R170). -/
def execVldy (c : CoreIx) (f : TFields) (s : State) : Out := s.attempt (.vldy c f) <| .next (s.tile c .ldy f)
/-- VLDZ: the current row of Z (R147). -/
def execVldz (c : CoreIx) (f : TFields) (s : State) : Out := s.attempt (.vldz c f) <| .next (s.tile c .ldz f)
/-- VSTO: the current row of the output (R148). -/
def execVsto (c : CoreIx) (f : TFields) (s : State) : Out := s.attempt (.vsto c f) <| .next (s.tile c .sto f)
/-- VLDS: scratch load (R145). -/
def execVlds (c : CoreIx) (f : TFields) (s : State) : Out := s.attempt (.vlds c f) <| .next (s.tile c .lds f)
/-- VSTS: scratch store (R145). -/
def execVsts (c : CoreIx) (f : TFields) (s : State) : Out := s.attempt (.vsts c f) <| .next (s.tile c .sts f)
/-- VIMM: an L32 immediate in every lane (R145). -/
def execVimm (c : CoreIx) (f : TFields) (s : State) : Out := s.attempt (.vimm c f) <| .next (s.tile c .imm f)
/-- VSYS: a system register in every lane (R145). -/
def execVsys (c : CoreIx) (f : TFields) (s : State) : Out := s.attempt (.vsys c f) <| .next (s.tile c .sys f)
/-- VIDX: lane, tile row, row or column number (R145). -/
def execVidx (c : CoreIx) (f : TFields) (s : State) : Out := s.attempt (.vidx c f) <| .next (s.tile c .idx f)
/-- VCVT: format conversion (R145). -/
def execVcvt (c : CoreIx) (f : TFields) (s : State) : Out := s.attempt (.vcvt c f) <| .next (s.tile c .cvt f)
/-- VSFN: a special function (R143, R154). -/
def execVsfn (c : CoreIx) (f : TFields) (s : State) : Out := s.attempt (.vsfn c f) <| .next (s.tile c .sfn f)
/-- RCLR: the slot made EMPTY (R187). -/
def execRclr (c : CoreIx) (f : TFields) (s : State) : Out := s.attempt (.rclr c f) <| .next (s.tile c .rclr f)
/-- RSX: exact row sums (R190). -/
def execRsx (c : CoreIx) (f : TFields) (s : State) : Out := s.attempt (.rsx c f) <| .next (s.tile c .rsx f)
/-- RSL: L64 row sums (R193). -/
def execRsl (c : CoreIx) (f : TFields) (s : State) : Out := s.attempt (.rsl c f) <| .next (s.tile c .rsl f)
/-- RMEAN: the mean (R191, R194). -/
def execRmean (c : CoreIx) (f : TFields) (s : State) : Out := s.attempt (.rmean c f) <| .next (s.tile c .rmean f)
/-- RVAR: the variance (R191, R194). -/
def execRvar (c : CoreIx) (f : TFields) (s : State) : Out := s.attempt (.rvar c f) <| .next (s.tile c .rvar f)
/-- RDIV: division by the slot's sum (R201). -/
def execRdiv (c : CoreIx) (f : TFields) (s : State) : Out := s.attempt (.rdiv c f) <| .next (s.tile c .rdiv f)
/-- RSMAX: a soft-maximum step (R199). -/
def execRsmax (c : CoreIx) (f : TFields) (s : State) : Out := s.attempt (.rsmax c f) <| .next (s.tile c .rsmax f)
/-- RPROB: probabilities against the stored reference (R199). -/
def execRprob (c : CoreIx) (f : TFields) (s : State) : Out := s.attempt (.rprob c f) <| .next (s.tile c .rprob f)
/-- RSTR: the slot stored as a record (R196). -/
def execRstr (c : CoreIx) (f : TFields) (s : State) : Out := s.attempt (.rstr c f) <| .next (s.tile c .rstr f)
/-- RLDR: a record loaded (R197). -/
def execRldr (c : CoreIx) (f : TFields) (s : State) : Out := s.attempt (.rldr c f) <| .next (s.tile c .rldr f)
/-- RADDR: a record added (R197). -/
def execRaddr (c : CoreIx) (f : TFields) (s : State) : Out := s.attempt (.raddr c f) <| .next (s.tile c .raddr f)
/-- RDFR: the deferred correction (R205). -/
def execRdfr (c : CoreIx) (f : TFields) (s : State) : Out := s.attempt (.rdfr c f) <| .next (s.tile c .rdfr f)
/-- RSCALE: the second operation's cells scaled by the slot's shift (R200). -/
def execRscale (c : CoreIx) (f : TFields) (s : State) : Out := s.attempt (.rscale c f) <| .next (s.tile c .rscale f)
/-- CLDG: the gate region's current row (R171, R176). -/
def execCldg (c : CoreIx) (f : TFields) (s : State) : Out := s.attempt (.cldg c f) <| .next (s.tile c .cldg f)
/-- CFEED: the feed block's current row (R171, R181). -/
def execCfeed (c : CoreIx) (f : TFields) (s : State) : Out := s.attempt (.cfeed c f) <| .next (s.tile c .cfeed f)
/-- CSCALE: the second operation's cells scaled (R171, R182). -/
def execCscale (c : CoreIx) (f : TFields) (s : State) : Out := s.attempt (.cscale c f) <| .next (s.tile c .cscale f)

end Sys2Proof.Machine
end

