-- ==== Sys2Proof/Machine/Dispatch.lean ====
section
/-!
DEFINITION. One arm per command: the meaning of each row of the opcode table.
-/

namespace Sys2Proof.Machine

open Sys2Proof

def exec (i : Instr) (s : State) : Host.Outcome State Fault Refusal :=
  match i with
  | .nop c f => Sys2Proof.Machine.execNop c f s
  | .add c f => Sys2Proof.Machine.execAdd c f s
  | .sub c f => Sys2Proof.Machine.execSub c f s
  | .and c f => Sys2Proof.Machine.execAnd c f s
  | .or c f => Sys2Proof.Machine.execOr c f s
  | .xor c f => Sys2Proof.Machine.execXor c f s
  | .shl c f => Sys2Proof.Machine.execShl c f s
  | .shr c f => Sys2Proof.Machine.execShr c f s
  | .sra c f => Sys2Proof.Machine.execSra c f s
  | .mul c f => Sys2Proof.Machine.execMul c f s
  | .mulhu c f => Sys2Proof.Machine.execMulhu c f s
  | .slt c f => Sys2Proof.Machine.execSlt c f s
  | .sltu c f => Sys2Proof.Machine.execSltu c f s
  | .min c f => Sys2Proof.Machine.execMin c f s
  | .max c f => Sys2Proof.Machine.execMax c f s
  | .clz c f => Sys2Proof.Machine.execClz c f s
  | .popc c f => Sys2Proof.Machine.execPopc c f s
  | .lih c f => Sys2Proof.Machine.execLih c f s
  | .br c f => Sys2Proof.Machine.execBr c f s
  | .call c f => Sys2Proof.Machine.execCall c f s
  | .jr c f => Sys2Proof.Machine.execJr c f s
  | .ld c f e => Sys2Proof.Machine.execLd c f e s
  | .st c f => Sys2Proof.Machine.execSt c f s
  | .vld c f e => Sys2Proof.Machine.execVld c f e s
  | .vst c f => Sys2Proof.Machine.execVst c f s
  | .ldd c f e => Sys2Proof.Machine.execLdd c f e s
  | .std c f => Sys2Proof.Machine.execStd c f s
  | .dput c f => Sys2Proof.Machine.execDput c f s
  | .dget c f => Sys2Proof.Machine.execDget c f s
  | .mm c f => Sys2Proof.Machine.execMm c f s
  | .vx c f => Sys2Proof.Machine.execVx c f s
  | .sf c f => Sys2Proof.Machine.execSf c f s
  | .cp c f => Sys2Proof.Machine.execCp c f s
  | .ga c f => Sys2Proof.Machine.execGa c f s
  | .nz c f => Sys2Proof.Machine.execNz c f s
  | .send c f => Sys2Proof.Machine.execSend c f s
  | .recv c f => Sys2Proof.Machine.execRecv c f s
  | .poll c f => Sys2Proof.Machine.execPoll c f s
  | .wait c f => Sys2Proof.Machine.execWait c f s
  | .fence c f => Sys2Proof.Machine.execFence c f s
  | .epochEnd c f => Sys2Proof.Machine.execEpochEnd c f s
  | .sysrd c f => Sys2Proof.Machine.execSysrd c f s
  | .syswr c f => Sys2Proof.Machine.execSyswr c f s
  | .waitTimeout c => Sys2Proof.Machine.execWaitTimeout c s
  | .recvTimeout c => Sys2Proof.Machine.execRecvTimeout c s
  | .engineOpStart c e acts => Sys2Proof.Machine.execEngineOpStart c e acts s
  | .mmComplete c => Sys2Proof.Machine.execMmComplete c s
  | .vxComplete c => Sys2Proof.Machine.execVxComplete c s
  | .sfComplete c => Sys2Proof.Machine.execSfComplete c s
  | .cpComplete c => Sys2Proof.Machine.execCpComplete c s
  | .gaComplete c acts => Sys2Proof.Machine.execGaComplete c acts s
  | .nzComplete c => Sys2Proof.Machine.execNzComplete c s
  | .vnop c f => Sys2Proof.Machine.execVnop c f s
  | .vadd c f => Sys2Proof.Machine.execVadd c f s
  | .vsub c f => Sys2Proof.Machine.execVsub c f s
  | .vmul c f => Sys2Proof.Machine.execVmul c f s
  | .vfma c f => Sys2Proof.Machine.execVfma c f s
  | .vmin c f => Sys2Proof.Machine.execVmin c f s
  | .vmax c f => Sys2Proof.Machine.execVmax c f s
  | .vceq c f => Sys2Proof.Machine.execVceq c f s
  | .vclt c f => Sys2Proof.Machine.execVclt c f s
  | .vcle c f => Sys2Proof.Machine.execVcle c f s
  | .vsel c f => Sys2Proof.Machine.execVsel c f s
  | .vand c f => Sys2Proof.Machine.execVand c f s
  | .vor c f => Sys2Proof.Machine.execVor c f s
  | .vxor c f => Sys2Proof.Machine.execVxor c f s
  | .vldx c f => Sys2Proof.Machine.execVldx c f s
  | .vldy c f => Sys2Proof.Machine.execVldy c f s
  | .vldz c f => Sys2Proof.Machine.execVldz c f s
  | .vsto c f => Sys2Proof.Machine.execVsto c f s
  | .vlds c f => Sys2Proof.Machine.execVlds c f s
  | .vsts c f => Sys2Proof.Machine.execVsts c f s
  | .vimm c f => Sys2Proof.Machine.execVimm c f s
  | .vsys c f => Sys2Proof.Machine.execVsys c f s
  | .vidx c f => Sys2Proof.Machine.execVidx c f s
  | .vcvt c f => Sys2Proof.Machine.execVcvt c f s
  | .vsfn c f => Sys2Proof.Machine.execVsfn c f s
  | .rclr c f => Sys2Proof.Machine.execRclr c f s
  | .rsx c f => Sys2Proof.Machine.execRsx c f s
  | .rsl c f => Sys2Proof.Machine.execRsl c f s
  | .rmean c f => Sys2Proof.Machine.execRmean c f s
  | .rvar c f => Sys2Proof.Machine.execRvar c f s
  | .rdiv c f => Sys2Proof.Machine.execRdiv c f s
  | .rsmax c f => Sys2Proof.Machine.execRsmax c f s
  | .rprob c f => Sys2Proof.Machine.execRprob c f s
  | .rstr c f => Sys2Proof.Machine.execRstr c f s
  | .rldr c f => Sys2Proof.Machine.execRldr c f s
  | .raddr c f => Sys2Proof.Machine.execRaddr c f s
  | .rdfr c f => Sys2Proof.Machine.execRdfr c f s
  | .rscale c f => Sys2Proof.Machine.execRscale c f s
  | .cldg c f => Sys2Proof.Machine.execCldg c f s
  | .cfeed c f => Sys2Proof.Machine.execCfeed c f s
  | .cscale c f => Sys2Proof.Machine.execCscale c f s
  | .messageInject x => Sys2Proof.Machine.execMessageInject x s
  | .messageArrival x q => Sys2Proof.Machine.execMessageArrival x q s
  | .messageResponse x q => Sys2Proof.Machine.execMessageResponse x q s
  | .messageResend x q => Sys2Proof.Machine.execMessageResend x q s
  | .remoteWrite c => Sys2Proof.Machine.execRemoteWrite c s
  | .remoteAck c => Sys2Proof.Machine.execRemoteAck c s
  | .prefixLookupDone b => Sys2Proof.Machine.execPrefixLookupDone b s
  | .stemStop p => Sys2Proof.Machine.execStop p s
  | .stemIsolate p => Sys2Proof.Machine.execIsolate p s
  | .stemReset p => Sys2Proof.Machine.execReset p s
  | .stemAdmit p => Sys2Proof.Machine.execAdmit p s
  | .stemBist p => Sys2Proof.Machine.execBist p s
  | .stemWatch p => Sys2Proof.Machine.execWatch p s
  | .stemAck k => Sys2Proof.Machine.execStemAck k s
  | .stemNoAck k silent => Sys2Proof.Machine.execStemNoAck k silent s
  | .ctlStopMeadow p f m tag => Sys2Proof.Machine.execCtlStopMeadow p f m tag s
  | .ctlStopPort p f tag => Sys2Proof.Machine.execCtlStopPort p f tag s
  | .firmwareLoad p data => Sys2Proof.Machine.execFirmwareLoad p data s
  | .streamLoad p data => Sys2Proof.Machine.execStreamLoad p data s
  | .guardSet p data => Sys2Proof.Machine.execSet p data s
  | .guardRetire p data => Sys2Proof.Machine.execRetire p data s
  | .guardReturn p data => Sys2Proof.Machine.execReturn p data s
  | .guardProvision p data => Sys2Proof.Machine.execProvision p data s
  | .guardCertify p data binds => Sys2Proof.Machine.execCertify p data binds s
  | .guardTestEntry p data => Sys2Proof.Machine.execTestEntry p data s
  | .attest p data => Sys2Proof.Machine.execAttest p data s
  | .certRead p ok => Sys2Proof.Machine.execCertRead p ok s
  | .keyLoad p data => Sys2Proof.Machine.execKeyLoad p data s
  | .debugRead p => Sys2Proof.Machine.execDebugRead p s
  | .sextonDmaTimeout p => Sys2Proof.Machine.execSextonDmaTimeout p s
  | .spdmRequest p f r => Sys2Proof.Machine.execSpdmRequest p f r s
  | .tdiLeaveRun p f err => Sys2Proof.Machine.execTdiLeaveRun p f err s
  | .hostOpen m => Sys2Proof.Machine.execOpen m s
  | .epochOpen m => Sys2Proof.Machine.execEpochOpen m s
  | .seqStart m j => Sys2Proof.Machine.execSeqStart m j s
  | .scheduleRead m j => Sys2Proof.Machine.execScheduleRead m j s
  | .boundaryDrained m => Sys2Proof.Machine.execBoundaryDrained m s
  | .switch m next => Sys2Proof.Machine.execSwitch m next s
  | .jobSaveDone m => Sys2Proof.Machine.execJobSaveDone m s
  | .jobLoadDone m => Sys2Proof.Machine.execJobLoadDone m s
  | .stallClear m => Sys2Proof.Machine.execStallClear m s
  | .resume m => Sys2Proof.Machine.execResume m s
  | .replay m => Sys2Proof.Machine.execReplay m s
  | .watchFire b => Sys2Proof.Machine.execWatchFire b s
  | .memTimeout c e => Sys2Proof.Machine.execMemTimeout c e s
  | .heathReset p => Sys2Proof.Machine.execHeathReset p s
  | .warmReset p => Sys2Proof.Machine.execWarmReset p s
  | .faultClear p => Sys2Proof.Machine.execFaultClear p s
  | .lockstepDisagree => Sys2Proof.Machine.execLockstepDisagree s
  | .bistComplete slice reports saved => Sys2Proof.Machine.execBistComplete slice reports saved s
  | .sectorRead pa e reader => Sys2Proof.Machine.execSectorRead pa e reader s
  | .sectorWrite w pa b => Sys2Proof.Machine.execSectorWrite w pa b s
  | .parityDelta => Sys2Proof.Machine.execParityDelta s
  | .scrub pa parity e => Sys2Proof.Machine.execScrub pa parity e s
  | .laneDegrade k ch => Sys2Proof.Machine.execLaneDegrade k ch s
  | .stackRetrainDone k ch r => Sys2Proof.Machine.execStackRetrainDone k ch r s
  | .frozenSync m => Sys2Proof.Machine.execFrozenSync m s
  | .frozenRebuildDone m => Sys2Proof.Machine.execFrozenRebuildDone m s
  | .bar2Read p f a n ide => Sys2Proof.Machine.execBar2Read p f a n ide s
  | .bar2Write p f a b ide => Sys2Proof.Machine.execBar2Write p f a b ide s
  | .doorbell p f off b ide => Sys2Proof.Machine.execDoorbell p f off b ide s
  | .hcopyTail m v => Sys2Proof.Machine.execHcopyTail m v s
  | .hcopyEnable m v => Sys2Proof.Machine.execHcopyEnable m v s
  | .hcopyComplete m ix desc got took => Sys2Proof.Machine.execHcopyComplete m ix desc got took s
  | .functionLevelReset p e descs => Sys2Proof.Machine.execFunctionLevelReset p e descs s
  | .linkTraining p rate width flit vc1 => Sys2Proof.Machine.execLinkTraining p rate width flit vc1 s
  | .portTrainingDone n t => Sys2Proof.Machine.execPortTrainingDone n t s
  | .admission n r => Sys2Proof.Machine.execAdmission n r s
  | .swarmFrame n gen f => Sys2Proof.Machine.execSwarmFrame n gen f s
  | .swarmAckTimeout n => Sys2Proof.Machine.execSwarmAckTimeout n s
  | .swarmRetrainDone n t => Sys2Proof.Machine.execSwarmRetrainDone n t s
  | .swarmRingWrite m v => Sys2Proof.Machine.execSwarmRingWrite m v s
  | .collectivePoll m => Sys2Proof.Machine.execCollectivePoll m s
  | .collectiveComplete m members => Sys2Proof.Machine.execCollectiveComplete m members s
  | .arpRequest l ip => Sys2Proof.Machine.execArpRequest l ip s
  | .gvspPacket l p => Sys2Proof.Machine.execGvspPacket l p s
  | .hello l h b => Sys2Proof.Machine.execHello l h b s
  | .ready l h => Sys2Proof.Machine.execReady l h s
  | .stopped l h lastFrame lastLine => Sys2Proof.Machine.execStopped l h lastFrame lastLine s
  | .alive l h => Sys2Proof.Machine.execAlive l h s
  | .bye l h code => Sys2Proof.Machine.execBye l h code s
  | .mmpResend seq => Sys2Proof.Machine.execMmpResend seq s
  | .mmpIdleTimer => Sys2Proof.Machine.execMmpIdleTimer s
  | .partnerLost => Sys2Proof.Machine.execPartnerLost s
  | .hostCountPoll => Sys2Proof.Machine.execHostCountPoll s
  | .lineSend absent => Sys2Proof.Machine.execLineSend absent s
  | .trnRun p => Sys2Proof.Machine.execTrnRun p s
  | .trnPause p => Sys2Proof.Machine.execTrnPause p s
  | .trnEnd p => Sys2Proof.Machine.execTrnEnd p s
  | .laneStateChange l up cr1 => Sys2Proof.Machine.execLaneStateChange l up cr1 s
  | .cicadaPoll n => Sys2Proof.Machine.execCicadaPoll n s
  | .encodeComplete n => Sys2Proof.Machine.execEncodeComplete n s
  | .decodeComplete n => Sys2Proof.Machine.execDecodeComplete n s
  | .decodeWorkBound n => Sys2Proof.Machine.execDecodeWorkBound n s
  | .cicRingWrite m n v => Sys2Proof.Machine.execCicRingWrite m n v s
  | .powerSample l => Sys2Proof.Machine.execPowerSample l s
  | .thermalSample k t => Sys2Proof.Machine.execThermalSample k t s
  | .oscTrim x => Sys2Proof.Machine.execOscTrim x s
  | .supplyDroop x => Sys2Proof.Machine.execSupplyDroop x s
  | .pwrCapWrite p v => Sys2Proof.Machine.execPwrCapWrite p v s
  | .gate b => Sys2Proof.Machine.execGate b s
  | .gateReturn b => Sys2Proof.Machine.execGateReturn b s
  | .powerGood rom otpOk strap => Sys2Proof.Machine.execPowerGood rom otpOk strap s
  | .coldReset => Sys2Proof.Machine.execColdReset s
  | .stackTrainingDone l => Sys2Proof.Machine.execStackTrainingDone l s
  | .readClear p f off n ide => Sys2Proof.Machine.execReadClear p f off n ide s
  | .registerWrite p f off n v ide => Sys2Proof.Machine.execRegisterWrite p f off n v ide s
  | .illegalInstruction c => Sys2Proof.Machine.execIllegalInstruction c s
  | .mailboxCommandComplete p => Sys2Proof.Machine.execMailboxCommandComplete p s
  | .supplyRecovery x => Sys2Proof.Machine.execSupplyRecovery x s
  | .comparatorThermtrip => Sys2Proof.Machine.execComparatorThermtrip s
  | .smbalert k fault => Sys2Proof.Machine.execSmbalert k fault s
  | .jtagInstruction x => Sys2Proof.Machine.execJtagInstruction x s
  | .unacceptedFrame l => Sys2Proof.Machine.execUnacceptedFrame l s

end Sys2Proof.Machine
end

