-- ==== Sys2Proof/Machine/Tick.lean ====
section
/-!
DEFINITION. What passes while no command waits: one Sexton cycle (23 R485; 22, Start-up registers; 13 R301; 21 R451).
The model's clock is DESIGN CHOICE, log entry 4.
-/

namespace Sys2Proof.Machine

open Sys2Proof

/-- A 48-bit counter that saturates, `k` higher (R301). -/
def sat48 (v : BitVec 48) (k : Nat) : BitVec 48 := BitVec.ofNat 48 (min (2 ^ 48 - 1) (v.toNat + k))

/-- Whether a relay copy of a plan waits for a free note (R224, R229). -/
def EngOp.relayWaits (o : EngOp) (isB : Bool) : Bool :=
  let p := o.pop.p
  let r := o.relay isB
  p.nextOf isB != 0xFFFF && r.fwd < r.loads && p.n3 ≤ r.fwd && r.freed ≤ r.fwd - p.n3

/-- Whether a counter counts every cycle of a core as it stands (R139, R229, R301, R334, R340): a SEND or a note that waits
at the interface, a stalled control unit, an array that waits for a note, a relay copy that waits for a free note. -/
def Core.stalled (c : Core) (e k : Nat) : Bool :=
  match e, k with
  | 0, 4 => c.sendq.any (·.kind ≠ 1)
  | 0, 6 => match c.ctl with | .held .recv _ => c.vBusy | .held _ _ => true | _ => false
  | 1, 0 => (c.running 1).any fun o => o.waitsNote && (o.plan.isEmpty || o.pos < o.pop.p.steps.length)
  | 4, 4 => c.sendq.any (·.kind = 1) || (c.running 1).any fun o => !o.plan.isEmpty && (o.relayWaits false || o.relayWaits true)
  | _, _ => false

/-- Whether a counter may count a cycle of a core as it stands: what goes on inside a running engine, at a near-store bank or at
a router is not in the state. The vector engine works for an MM operation while a sweep of its chain is in force, and waits for
the drain under GATE and NEXT; the copy engine works for a plan (R172, R223, R301). -/
def Core.mayStall (c : Core) (e k : Nat) : Bool :=
  let back (p : Nat → Bool) : Bool := c.unacked.any fun m => m.st == .held && p m.kind
  match e, k with
  | 0, 4 => back (· ≠ 1)
  | 0, 6 => false
  | 0, _ => c.ctl == .run
  | 4, 4 => back (· = 1) || c.rcopies.any fun r => !r.writes.isEmpty
  | 2, 1 => c.sweeping.any fun p => p.1 = 1 && (lineBits p.2.chain 0 3 3 = 1 || lineBits p.2.chain 0 4 4 = 1)
  | 2, _ => (c.running 2).isSome || c.sweeping.any fun p => p.1 = 1
  | 4, _ => (c.running 4).isSome || (c.running 1).any fun o => !o.plan.isEmpty
  | _, _ => (c.running e).isSome

/-- The counters that the manual lists, as pairs of engine and cause. -/
def stallPairs : List (Nat × Nat) :=
  ((upFrom 0 7).flatMap fun e => (upFrom 0 9).map fun k => (e, k)).filter fun p => stallListed p.1 p.2

/-- A counter of a core raised (R301). -/
def State.countStall (s : State) (n e c k : Nat) : State :=
  s.updCore n fun x => { x with stalls := Sparse.upd 0 x.stalls (stallKey e c) fun v => sat48 v k }

/-- A Sexton cycle of a core: the cycles of its own island that it brings, counted by CORE_CYCLE and by the stall counters
(R11, R301, R507). A core whose base tussock is GATED has no cycles. How many cycles a cause that `mayStall` names holds is a
free value, DESIGN CHOICE, log entry 53. -/
def State.coreCycle (s : State) (n : Nat) : State :=
  if (s.base (baseOf n)).gated then s
  else
    let c := s.core n
    let p := c.phase + s.coreMhz n
    let k := p / 600 - c.phase / 600
    let t := s.updCore n fun x => { x with phase := p }
    if k = 0 then t
    else stallPairs.foldl (fun t (e, z) =>
      if c.stalled e z then t.countStall n e z k
      else if c.mayStall e z then
        let (b, u) := t.freeBytes 1
        u.countStall n e z (bytesToNat b % (k + 1))
      else t) t

/-- SXT_BOOT_TIME counts from power good, or a warm reset, until STEP reaches 11. -/
def Sexton.cycle (x : Sexton) : Sexton :=
  if x.power ∧ x.bootStep ≠ 11 then { x with bootTime := x.bootTime + 1 } else x

/-- One cycle: the counts of time, resets whose wait of R485 is over, the next step of a repair, and the teardown that RETIRED
asks for, each unless a request of it waits. Commands whose requests waited at a stack controller are then tried again, in their order (R306, R318). -/
def State.idle (s : State) : State :=
  let t := { s with tick := s.tick + 1, pending := s.held, held := [] }
  let t := (t.cores.map (·.1)).foldl State.coreCycle t
  let t := t.updSxt Sexton.cycle
  let t := State.runDelayed t.sxt.delayed t
  let t := t.orSkip t.repairNext
  t.orSkip t.retireSweep

end Sys2Proof.Machine
end

