-- ==== Sys2Proof/Machine/Step.lean ====
section
/-!
DEFINITION. One step: the command at the front of the queue, or one cycle where none waits.
-/

namespace Sys2Proof.Machine

open Sys2Proof

/-- The command at the front of the queue runs on the state with the rest of the queue; on an empty queue the block idles
for one cycle. DESIGN CHOICE, log entry 4. -/
def step (s : State) : Host.Outcome State Fault Refusal :=
  match s.pending with
  | [] => .next s.idle
  | i :: r => exec i { s with pending := r }

/-- The state with the command that a table word spells at the front of its queue; the table gives no row any bits, so no
word spells a command. -/
def State.withFetchWord (s : State) (nbits w : Nat) : State :=
  match decodeTableWord nbits w with
  | some i => { s with pending := i :: s.pending }
  | none => s

end Sys2Proof.Machine
end

