-- ==== Sys2Proof/Safety.lean ====
section
/-!
DEFINITION. What counts as a safe run, in the terms that claims use.
-/

namespace Sys2Proof.Machine

open Sys2Proof

/-- Package memory has its canonical form: addresses strictly rising, no entry that reads as an unlisted one. -/
def State.memoryWf (s : State) : Prop := Memory.wf s.pkg.bytes = true

/-- A step that neither faults nor is refused. -/
def State.stepsOn (s : State) : Prop := ∃ t, step s = .next t

/-- `k` steps from a state. -/
def State.runs (s : State) (k : Nat) (t : State) : Prop := Sys2Proof.core.run k s = .next t

/-- Core `n` issues an instruction, and one follows it in the program store (R91, R93). -/
def State.issues (s : State) (n : Nat) : Prop := (s.core n).issuing = true ∧ (s.core n).pc ≠ 4095

/-- The word at the program counter of core `n` is that of opcode `op` with the fields `f` (R92, R94). -/
def State.spells (s : State) (n : Nat) (op : BitVec 8) (f : Fields) : Prop := (s.core n).word = f.word op

/-- Core `n` changed by `f`, with its next instruction next; everything else as it was. -/
def State.nextWith (s : State) (n : Nat) (f : Core → Core) : State := s.updCore n fun k => { f k with pc := (f k).pc + 1 }

/-- The control unit is not stalled on an instruction. -/
def Core.unstalled (c : Core) : Prop := ∀ op f, c.ctl ≠ .held op f

/-- The operation at the head of engine `e` of core `n` has left it with a status, after its work `f` on the core; `r` are
the operations behind it (R100, R103). -/
def State.finished (s : State) (n e : Nat) (o : EngOp) (r : List EngOp) (code : Half) (f : Core → Core) : State :=
  s.updCore n fun k => { ((f k).setEngq e r).setTok o.tok (.done code) with progress := true }

/-- The vector engine of core `n` stands at a row step of the sweep `sw` of operation `o` of engine `e`, and the next
instruction of the program is `op` with fields `f`, which passes its checks there (R142, R144). -/
structure State.AtRow (s : State) (n e : Nat) (o : EngOp) (sw : Sweep) (op : TOp) (f : TFields) : Prop where
  sweeping : (s.core n).sweeping = some (e, o)
  sweep : o.sweep = some sw
  next : o.nextTile sw = (some op, f)
  passes : tileCheck sw op f = none

/-- The statistic slot that an instruction of a row step sees: EMPTY at the first of its row (R185). -/
def State.slotSeen (s : State) (n : Nat) (o : EngOp) (sw : Sweep) : Slot :=
  let st := sw.step o.tile o.row
  if o.ip = 0 ∧ st.col = 0 ∧ sw.kind ≠ .epi2 then Slot.zero else (s.core n).slot st.row

/-- Sexton handles the command `j` of port `p`'s mailbox, whose OP is `op`: the ROM handles FIRMWARE_LOAD alone
(R446, R447, R471). -/
structure State.Handles (s : State) (p op : Nat) (j : MailJob) : Prop where
  job : s.mailJob p = some j
  same : j.op = op
  running : s.sxt.fwRunning = true ∨ op = 1

/-- No request of an agent's command waits or is turned away: `t` is its effect on `s`, before its deltas (R306, R318, R342). -/
def State.undelayed (s t : State) : Prop :=
  (s.settledFrom t).pkg.barred = s.pkg.barred ∧ (s.settledFrom t).pkg.blocked = s.pkg.blocked

/-- An agent's command completed: `t` is its effect on `s`, and each of its writes has taken effect (R287, R316). It is `t` itself
where the command has written no package memory in parity mode. -/
def State.completed (s t : State) : State := s.sentFrom (s.settledFrom t)

/-- Whether R388 lets the host write a register of the meadow's block; a meadow that does not exist has none. -/
def State.hostMay (s : State) (m : Nat) : Prop :=
  (s.meadow m).state = .absent ∨ s.untrusted (s.meadow m).port (s.meadow m).fn true = false

/-- The host's write of a register of the meadow's block at `off` refused by R388: counted and recorded, with vector 10. -/
def State.hostDenied (s : State) (m off : Nat) : State :=
  s.deny (s.meadow m).port (s.meadow m).fn .bar0 (0x20000 + off) true true

/-- Safe for good: no number of steps ends in a fault or a refusal. -/
def State.safe (s : State) : Prop := ∀ k, ∃ t, Sys2Proof.core.run k s = .next t

end Sys2Proof.Machine
end

