-- ==== Sys2Proof/Certificates/Slice0/Obligations.lean ====
section
/-!
DEFINITION. The statements for the provers. A command's result is an equation that names every part of the state it changes,
so that it is the command's frame too: what the equation does not name is as it was.
-/

open Sys2Proof Sys2Proof.Machine

/-- A step runs the command at the front of the queue, on the state with the rest of it. That commands are taken one at a time from
a queue is the model's choice, log entry 1. -/
def Obligations.StepRunsFront : Prop :=
  ∀ (c : Instr) (s : State), step { s with pending := c :: s.pending } = exec c s

/-- On an empty queue a step is one Sexton cycle. The model's choice, log entries 4 and 43. -/
def Obligations.IdleStep : Prop :=
  ∀ s : State, s.pending = [] →
    ∃ t, step s = .next t ∧ t.pending = s.held ∧ t.held = [] ∧ t.tick = s.tick + 1
      ∧ (s.held = [] → s.sxt.delayed = [] → s.sxt.repair.phase ≠ 3 → s.sxt.repair.phase ≠ 4 → s.life ≠ .retired →
        t = { s with tick := s.tick + 1, cores := t.cores, free := t.free, sxt := s.sxt.cycle }
          ∧ ∀ n, t.core n = { s.core n with phase := (t.core n).phase, stalls := (t.core n).stalls })

/-- An ALU instruction writes its result, NOP none (R94, R95); g0 discards writes (R90). -/
def Obligations.AluWritesItsResult : Prop :=
  ∀ (c : CoreIx) (f : Fields) (s : State), s.issues c →
    let a := (s.core c).gr f.sa.toNat
    let b := if f.sub = 0 then (s.core c).gr f.sb.toNat else f.imm.signExtend 64
    let n := b.toNat % 64
    let done (x : Dword) : Out := .next (s.nextWith c fun k => k.setG f.dst.toNat x)
    let runs (op : BitVec 8) (i : Instr) (o : Out) : Prop := s.spells c op f → exec i s = o
    (aluLegal f = true →
      runs 0x01 (.add c f) (done (a + b)) ∧ runs 0x02 (.sub c f) (done (a - b)) ∧ runs 0x09 (.mul c f) (done (a * b))
      ∧ runs 0x03 (.and c f) (done (a &&& b)) ∧ runs 0x04 (.or c f) (done (a ||| b)) ∧ runs 0x05 (.xor c f) (done (a ^^^ b))
      ∧ runs 0x06 (.shl c f) (done (a <<< n)) ∧ runs 0x07 (.shr c f) (done (a >>> n))
      ∧ runs 0x08 (.sra c f) (done (a.sshiftRight n))
      ∧ runs 0x0A (.mulhu c f) (done (BitVec.ofNat 64 (a.toNat * b.toNat / 2 ^ 64)))
      ∧ runs 0x0B (.slt c f) (done (if a.toInt < b.toInt then 1 else 0))
      ∧ runs 0x0C (.sltu c f) (done (if a.toNat < b.toNat then 1 else 0))
      ∧ runs 0x0D (.min c f) (done (if a.toInt < b.toInt then a else b))
      ∧ runs 0x0E (.max c f) (done (if a.toInt < b.toInt then b else a)))
    ∧ (f.only true true false false false 0 = true →
      (∃ z : Nat, runs 0x0F (.clz c f) (done (BitVec.ofNat 64 z)) ∧ z ≤ 64 ∧ (∀ i, 64 - z ≤ i → a.getLsbD i = false)
        ∧ (z < 64 → a.getLsbD (63 - z) = true))
      ∧ runs 0x10 (.popc c f) (done (BitVec.ofNat 64 ((List.range 64).countP fun i => a.getLsbD i))))
    ∧ (f.only true true false false false 0xFFFFFFFF = true →
      runs 0x11 (.lih c f) (done (BitVec.ofNat 64 (f.imm.toNat * 2 ^ 32 + a.toNat % 2 ^ 32))))
    ∧ (f.only false false false false false 0 = true → runs 0x00 (.nop c f) (.next (s.nextWith c id)))

/-- An illegal instruction faults its core, and the epoch of its meadow fails; no register and no store changes (R93, R122, R354).
The list gives every core instruction its opcode and the fields that it uses (R92 to R95). -/
def Obligations.IllegalInstructionFaults : Prop :=
  ∀ (c : CoreIx) (f : Fields) (s : State), (s.core c).issuing = true →
    let hit (o : Out) : Prop := ∃ t, o = .next t ∧ (t.core c).ctl = .faulted ∧ (t.core c).faulted = true
      ∧ (t.core c).lastError = 0x0211 ∧ (t.core c).faultPc = (s.core c).pc ∧ (t.core c).g = (s.core c).g
      ∧ (t.core c).d = (s.core c).d ∧ (t.core c).v = (s.core c).v ∧ (t.core c).deep = (s.core c).deep
      ∧ (t.core c).near = (s.core c).near ∧ (t.core c).prog = (s.core c).prog ∧ t.pkg = s.pkg
      ∧ ∀ m, s.meadowOf c = some m → (s.meadow m).state = .opened →
          (t.meadow m).state = .failed ∧ (t.meadow m).code = 0x0211
    (∀ op : BitVec 8, opcodeOf (f.word op) = op.toNat ∧ Fields.ofWord (f.word op) = f
      ∧ (op.toNat ∉ coreOps → coreInstr c (f.word op) = .illegalInstruction c))
    ∧ (opcodeOf (s.core c).word ∉ coreOps → hit (exec (.illegalInstruction c) s))
    ∧ (opcodeOf (s.core c).word ∈ coreOps → exec (.illegalInstruction c) s = .next s)
    ∧ (let time : Nat := if f.sb = 0 then 0xFFFFFFFF else 0
      let alu : List (BitVec 8 × Instr × Bool) :=
        [(0x01, .add c f, aluLegal f), (0x02, .sub c f, aluLegal f), (0x03, .and c f, aluLegal f), (0x04, .or c f, aluLegal f),
          (0x05, .xor c f, aluLegal f), (0x06, .shl c f, aluLegal f), (0x07, .shr c f, aluLegal f), (0x08, .sra c f, aluLegal f),
          (0x09, .mul c f, aluLegal f), (0x0A, .mulhu c f, aluLegal f), (0x0B, .slt c f, aluLegal f),
          (0x0C, .sltu c f, aluLegal f), (0x0D, .min c f, aluLegal f), (0x0E, .max c f, aluLegal f),
          (0x0F, .clz c f, f.only true true false false false 0), (0x10, .popc c f, f.only true true false false false 0),
          (0x11, .lih c f, f.only true true false false false 0xFFFFFFFF)]
      let control : List (BitVec 8 × Instr × Bool) :=
        [(0x00, .nop c f, f.only false false false false false 0),
          (0x20, .br c f, f.only false true true false true 0xFFF && f.sub.toNat < 7),
          (0x21, .call c f, f.only true false false false false 0xFFF), (0x22, .jr c f, f.only false true false false false 0),
          (0x60, .wait c f, f.only true false true true false time),
          (0x61, .fence c f, f.only false false false false true 0 && f.sub.toNat < 4),
          (0x62, .epochEnd c f, f.only false false false false false 0)]
      let moves : List (BitVec 8 × Instr × Bool) :=
        [(0x30, .ld c f .clean, f.only true true false false true 0xFFFFFFFF),
          (0x31, .st c f, f.only false true true false true 0xFFFFFFFF && f.sub.toNat < 4),
          (0x32, .vld c f .clean, f.only true true false false false 0xFFFFFFFF && f.dst.toNat < 16),
          (0x33, .vst c f, f.only false true true false false 0xFFFFFFFF && f.sb.toNat < 16),
          (0x34, .ldd c f .clean, f.only true true false false false 0xFFFFFFFF && f.dst.toNat < 16),
          (0x35, .std c f, f.only false true true false false 0xFFFFFFFF && f.sb.toNat < 16),
          (0x36, .dput c f, f.only true true false false false 7 && f.dst.toNat < 16),
          (0x37, .dget c f, f.only true true false false false 7 && f.sa.toNat < 16),
          (0x50, .send c f, f.only true true true true false 0 && f.sa.toNat < 16),
          (0x51, .recv c f, f.only true true true false true time && f.sa.toNat < 16),
          (0x52, .poll c f, f.only true false false false true 0), (0x70, .sysrd c f, f.only true false false false false 0xFFF),
          (0x71, .syswr c f, f.only false true false false false 0xFFF)]
      let issues : List (BitVec 8 × Instr × Bool) :=
        [(0x40, .mm c f, issueLegal f), (0x41, .vx c f, issueLegal f), (0x42, .sf c f, issueLegal f), (0x43, .cp c f, issueLegal f),
          (0x44, .ga c f, issueLegal f), (0x45, .nz c f, issueLegal f)]
      ∀ x ∈ alu ++ control ++ moves ++ issues, s.spells c x.1 f → x.2.2 = false → hit (exec x.2.1 s))

/-- BR, CALL and JR (R94, R95). -/
def Obligations.BranchesGoToTheirTargets : Prop :=
  ∀ (c : CoreIx) (f : Fields) (s : State), (s.core c).issuing = true →
    let a := (s.core c).gr f.sa.toNat
    let b := (s.core c).gr f.sb.toNat
    let holds : Prop := match f.sub.toNat with
      | 0 => True | 1 => a = b | 2 => a ≠ b | 3 => a.toInt < b.toInt | 4 => b.toInt ≤ a.toInt
      | 5 => a.toNat < b.toNat | _ => b.toNat ≤ a.toNat
    let runs (op : BitVec 8) (i : Instr) (o : Out) : Prop := s.spells c op f → exec i s = o
    (f.only false true true false true 0xFFF = true → f.sub ≠ 7 →
      (holds → runs 0x20 (.br c f) (.next (s.updCore c fun k => { k with pc := f.imm.toNat })))
      ∧ (¬ holds → (s.core c).pc ≠ 4095 → runs 0x20 (.br c f) (.next (s.nextWith c id))))
    ∧ (f.only true false false false false 0xFFF = true →
      runs 0x21 (.call c f) (.next (s.updCore c fun k =>
        { k.setG f.dst.toNat (BitVec.ofNat 64 (k.pc + 1)) with pc := f.imm.toNat })))
    ∧ (f.only false true false false false 0 = true →
      runs 0x22 (.jr c f) (.next (s.updCore c fun k => { k with pc := a.toNat % 4096 })))

/-- Loads from the near store, with clean or corrected check bits (R94, R97, R104; 23, Repair of failed hardware). That an access both misaligned and out
of range faults with ST_CORE_ALIGN is the model's choice, log entry 25. -/
def Obligations.NearLoads : Prop :=
  ∀ (c : CoreIx) (f : Fields) (s : State) (e : Ecc), s.issues c → e ≠ .uncorrectable →
    let a := ((s.core c).gr f.sa.toNat + f.imm.signExtend 64).toNat
    let size := 2 ^ (f.sub.toNat % 4)
    let x := Mem.nat (s.core c).near a size
    let s' : State := if e = .corrected then s.updHub fun h => { h with sramCorrected := satInc h.sramCorrected } else s
    let runs (op : BitVec 8) (i : Instr) (o : Out) : Prop := s.spells c op f → exec i s = o
    (f.only true true false false true 0xFFFFFFFF = true → a % size = 0 → a + size ≤ 0x20000 →
      runs 0x30 (.ld c f e) (.next (s'.nextWith c fun k =>
        k.setG f.dst.toNat (if 4 ≤ f.sub.toNat then BitVec.ofInt 64 (signedOf (8 * size) x) else BitVec.ofNat 64 x))))
    ∧ (f.only true true false false false 0xFFFFFFFF = true → f.dst.toNat < 16 → a % 64 = 0 → a + 64 ≤ 0x20000 →
      runs 0x34 (.ldd c f e) (.next (s'.nextWith c fun k => k.setD f.dst.toNat (k.nearLine a)))
      ∧ ((s.core c).vBusy = false → runs 0x32 (.vld c f e) (.next (s'.nextWith c fun k => k.setV f.dst.toNat (k.nearLine a))))
      ∧ ((s.core c).vBusy = true → runs 0x32 (.vld c f e) (.next (s.hold c .vld f))))
    ∧ (f.only true true false false true 0xFFFFFFFF = true → a % size ≠ 0 → 0x20000 < a + size →
      runs 0x30 (.ld c f e) (.next (s.faultHere c 0x0212)))
    ∧ (f.only true true false false false 0xFFFFFFFF = true → f.dst.toNat < 16 → a % 64 ≠ 0 → 0x20000 < a + 64 →
      runs 0x34 (.ldd c f e) (.next (s.faultHere c 0x0212))
      ∧ ((s.core c).vBusy = false → runs 0x32 (.vld c f e) (.next (s.faultHere c 0x0212))))

/-- Stores to the near store and their frame (R94, R97, R104). That an access both misaligned and out
of range faults with ST_CORE_ALIGN is the model's choice, log entry 25. -/
def Obligations.NearStoresChangeTheirBytesOnly : Prop :=
  ∀ (c : CoreIx) (f : Fields) (s : State), s.issues c →
    let a := ((s.core c).gr f.sa.toNat + f.imm.signExtend 64).toNat
    let size := 2 ^ (f.sub.toNat % 4)
    let wrote (o : Out) (b : List Byte) : Prop := ∃ t, o = .next t
      ∧ (∀ i, i < b.length → Mem.byte (t.core c).near (a + i) = b.getD i 0)
      ∧ (∀ x, x < a ∨ a + b.length ≤ x → Mem.byte (t.core c).near x = Mem.byte (s.core c).near x)
      ∧ t.core c = { s.core c with near := (t.core c).near, pc := (s.core c).pc + 1 }
      ∧ t = { s with cores := t.cores } ∧ ∀ n, n ≠ c.val → t.core n = s.core n
    (f.only false true true false true 0xFFFFFFFF = true → f.sub.toNat < 4 → a % size = 0 → a + size ≤ 0x20000 →
      s.spells c 0x31 f → wrote (exec (.st c f) s) (natToBytes size ((s.core c).gr f.sb.toNat).toNat))
    ∧ (f.only false true true false false 0xFFFFFFFF = true → f.sb.toNat < 16 → a % 64 = 0 → a + 64 ≤ 0x20000 →
      (s.spells c 0x35 f → wrote (exec (.std c f) s) (lineBytes ((s.core c).dr f.sb.toNat)))
      ∧ (s.spells c 0x33 f → (s.core c).vBusy = false → wrote (exec (.vst c f) s) (lineBytes ((s.core c).vr f.sb.toNat)))
      ∧ (s.spells c 0x33 f → (s.core c).vBusy = true → exec (.vst c f) s = .next (s.hold c .vst f)))
    ∧ (f.only false true true false true 0xFFFFFFFF = true → f.sub.toNat < 4 → a % size ≠ 0 → 0x20000 < a + size →
      s.spells c 0x31 f → exec (.st c f) s = .next (s.faultHere c 0x0212))
    ∧ (f.only false true true false false 0xFFFFFFFF = true → f.sb.toNat < 16 → a % 64 ≠ 0 → 0x20000 < a + 64 →
      (s.spells c 0x35 f → exec (.std c f) s = .next (s.faultHere c 0x0212))
      ∧ (s.spells c 0x33 f → (s.core c).vBusy = false → exec (.vst c f) s = .next (s.faultHere c 0x0212)))

/-- The address of a near-store access, and its faults (R97). -/
def Obligations.NearAccessFaults : Prop :=
  ∀ (c : CoreIx) (f : Fields) (s : State), s.issues c → (s.core c).vBusy = false → (s.core c).faulted = false →
    let a := ((s.core c).gr f.sa.toNat + f.imm.signExtend 64).toNat
    let faults (o : Out) (k : Half) : Prop := ∃ t, o = .next t ∧ (t.core c).faulted = true ∧ (t.core c).lastError = k
      ∧ (t.core c).near = (s.core c).near ∧ (t.core c).deep = (s.core c).deep ∧ (t.core c).g = (s.core c).g
      ∧ (t.core c).d = (s.core c).d ∧ (t.core c).v = (s.core c).v
    let checks (o : Out) (size : Nat) : Prop :=
      (a % size ≠ 0 → a + size ≤ 0x20000 → faults o 0x0212)
      ∧ (a % size = 0 → 0x20000 < a + size → faults o 0x0213)
      ∧ (a % size ≠ 0 → 0x20000 < a + size → faults o 0x0212 ∨ faults o 0x0213)
      ∧ (a % size = 0 → a + size ≤ 0x20000 → ∃ t, o = .next t ∧ (t.core c).faulted = false)
    (f.only true true false false true 0xFFFFFFFF = true → s.spells c 0x30 f →
      checks (exec (.ld c f .clean) s) (2 ^ (f.sub.toNat % 4)))
    ∧ (f.only false true true false true 0xFFFFFFFF = true → f.sub.toNat < 4 →
      s.spells c 0x31 f → checks (exec (.st c f) s) (2 ^ (f.sub.toNat % 4)))
    ∧ (f.only true true false false false 0xFFFFFFFF = true → f.dst.toNat < 16 →
      (s.spells c 0x34 f → checks (exec (.ldd c f .clean) s) 64)
      ∧ (s.spells c 0x32 f → checks (exec (.vld c f .clean) s) 64))
    ∧ (f.only false true true false false 0xFFFFFFFF = true → f.sb.toNat < 16 →
      (s.spells c 0x35 f → checks (exec (.std c f) s) 64) ∧ (s.spells c 0x33 f → checks (exec (.vst c f) s) 64))

/-- Moves between register files, the queue count and the system registers (R94, R116, R119). -/
def Obligations.RegistersMoved : Prop :=
  ∀ (c : CoreIx) (f : Fields) (s : State), s.issues c →
    let k := s.core c
    let a := k.gr f.sa.toNat
    let ix := f.imm.toNat
    let runs (op : BitVec 8) (i : Instr) (o : Out) : Prop := s.spells c op f → exec i s = o
    (f.only true true false false false 7 = true → f.dst.toNat < 16 →
      ∃ x : Line, runs 0x36 (.dput c f) (.next (s.nextWith c fun k => k.setD f.dst.toNat x))
        ∧ ∀ i, i < 8 → x.extractLsb' (64 * i) 64 = if i = ix then a else (k.dr f.dst.toNat).extractLsb' (64 * i) 64)
    ∧ (f.only true true false false false 7 = true → f.sa.toNat < 16 →
      runs 0x37 (.dget c f) (.next (s.nextWith c fun n =>
        n.setG f.dst.toNat ((k.dr f.sa.toNat).extractLsb' (64 * ix) 64))))
    ∧ (f.only true false false false true 0 = true →
      runs 0x52 (.poll c f) (.next (s.nextWith c fun n => n.setG f.dst.toNat (BitVec.ofNat 64 (k.ring f.sub.toNat).count))))
    ∧ (f.only true false false false false 0xFFF = true →
      (ix ≠ 0x019 → runs 0x70 (.sysrd c f) (.next (s.nextWith c fun n => n.setG f.dst.toNat (s.sysreg c ix))))
      ∧ (ix = 0x019 → runs 0x70 (.sysrd c f) (.next (s.nextWith c fun n =>
          { n.setG f.dst.toNat (k.lastError.setWidth 64) with lastError := 0 })))
      ∧ (ix ∉ [0, 1, 2, 3, 4, 8, 9, 10, 11, 12, 13, 16, 17, 24, 25, 26, 32, 33, 34, 35] → s.sysreg c ix = 0))
    ∧ (f.only false true false false false 0xFFF = true →
      (ix = 0x018 → runs 0x71 (.syswr c f) (.next (s.nextWith c fun n =>
          { n with uncollected := n.uncollected && !a.getLsbD 0 })))
      ∧ (0x020 ≤ ix → ix ≤ 0x023 → runs 0x71 (.syswr c f) (.next (s.nextWith c fun n =>
          { n with scratch := Sparse.put 0 n.scratch (ix - 0x020) a })))
      ∧ (ix ≠ 0x018 → ix < 0x020 ∨ 0x023 < ix → runs 0x71 (.syswr c f) (.next (s.faultHere c 0x0214))))

/-- g0 (R90). -/
def Obligations.RegisterZeroIsHardwired : Prop :=
  ∀ (c : CoreIx) (f : Fields) (s : State), s.issues c →
    let k := s.core c
    let none : Out := .next (s.nextWith c id)
    let a := (k.gr f.sa.toNat + f.imm.signExtend 64).toNat
    let size := 2 ^ (f.sub.toNat % 4)
    let runs (op : BitVec 8) (i : Instr) (o : Out) : Prop := s.spells c op f → exec i s = o
    let y := if f.sub = 0 then k.gr f.sb.toNat else f.imm.signExtend 64
    let alu (a b : Dword) : Prop :=
      let done (x : Dword) : Out := .next (s.nextWith c fun n => n.setG f.dst.toNat x)
      runs 0x01 (.add c f) (done (a + b)) ∧ runs 0x02 (.sub c f) (done (a - b)) ∧ runs 0x03 (.and c f) (done (a &&& b))
      ∧ runs 0x04 (.or c f) (done (a ||| b)) ∧ runs 0x05 (.xor c f) (done (a ^^^ b))
      ∧ runs 0x06 (.shl c f) (done (a <<< (b.toNat % 64))) ∧ runs 0x07 (.shr c f) (done (a >>> (b.toNat % 64)))
      ∧ runs 0x08 (.sra c f) (done (a.sshiftRight (b.toNat % 64))) ∧ runs 0x09 (.mul c f) (done (a * b))
      ∧ runs 0x0A (.mulhu c f) (done (BitVec.ofNat 64 (a.toNat * b.toNat / 2 ^ 64)))
      ∧ runs 0x0B (.slt c f) (done (if a.toInt < b.toInt then 1 else 0))
      ∧ runs 0x0C (.sltu c f) (done (if a.toNat < b.toNat then 1 else 0))
      ∧ runs 0x0D (.min c f) (done (if a.toInt < b.toInt then a else b))
      ∧ runs 0x0E (.max c f) (done (if a.toInt < b.toInt then b else a))
    (∀ (t : State) (n : Nat), (t.core n).gr 0 = 0)
    ∧ (aluLegal f = true → f.sa = 0 → alu 0 y)
    ∧ (aluLegal f = true → f.sb = 0 → f.sub = 0 → alu (k.gr f.sa.toNat) 0)
    ∧ (f.only false true true false true 0xFFFFFFFF = true → f.sub.toNat < 4 → f.sb = 0 → a % size = 0 →
      a + size ≤ 0x20000 → s.spells c 0x31 f →
      ∃ t, exec (.st c f) s = .next t ∧ ∀ i, i < size → Mem.byte (t.core c).near (a + i) = 0)
    ∧ (f.dst = 0 →
      (aluLegal f = true →
        runs 0x01 (.add c f) none ∧ runs 0x02 (.sub c f) none ∧ runs 0x03 (.and c f) none ∧ runs 0x04 (.or c f) none
        ∧ runs 0x05 (.xor c f) none ∧ runs 0x06 (.shl c f) none ∧ runs 0x07 (.shr c f) none ∧ runs 0x08 (.sra c f) none
        ∧ runs 0x09 (.mul c f) none ∧ runs 0x0A (.mulhu c f) none ∧ runs 0x0B (.slt c f) none ∧ runs 0x0C (.sltu c f) none
        ∧ runs 0x0D (.min c f) none ∧ runs 0x0E (.max c f) none)
      ∧ (f.only true true false false false 0 = true → runs 0x0F (.clz c f) none ∧ runs 0x10 (.popc c f) none)
      ∧ (f.only true true false false false 0xFFFFFFFF = true → runs 0x11 (.lih c f) none)
      ∧ (f.only true true false false true 0xFFFFFFFF = true → a % size = 0 → a + size ≤ 0x20000 →
        runs 0x30 (.ld c f .clean) none)
      ∧ (f.only true true false false false 7 = true → f.sa.toNat < 16 → runs 0x37 (.dget c f) none)
      ∧ (f.only true false false false true 0 = true → runs 0x52 (.poll c f) none)
      ∧ (f.only true false false false false 0xFFF = true → f.imm.toNat ≠ 0x019 → runs 0x70 (.sysrd c f) none)
      ∧ (f.only true false false false false 0xFFF = true →
        runs 0x21 (.call c f) (.next (s.updCore c fun n => { n with pc := f.imm.toNat }))))

/-- WAIT (R100 to R102). -/
def Obligations.WaitOutcomes : Prop :=
  ∀ (c : CoreIx) (f : Fields) (s : State), (s.core c).pc ≠ 4095 →
    let k := s.core c
    let time := if f.sb = 0 then f.imm.toNat else (k.gr f.sb.toNat).toNat % 2 ^ 32
    let runs (op : BitVec 8) (i : Instr) (o : Out) : Prop := s.spells c op f → exec i s = o
    (k.issuing = true → f.only true false true true false (if f.sb = 0 then 0xFFFFFFFF else 0) = true →
      (k.token f.tok.toNat = .free → runs 0x60 (.wait c f) (.next (s.nextWith c fun n => n.setG f.dst.toNat 0x0209)))
      ∧ (∀ code, k.token f.tok.toNat = .done code → runs 0x60 (.wait c f) (.next (s.nextWith c fun n =>
          { (n.setTok f.tok.toNat .free).setG f.dst.toNat (code.setWidth 64) with
            progress := n.progress || decide (code = 0) })))
      ∧ (k.token f.tok.toNat = .pending → time = 0 →
          runs 0x60 (.wait c f) (.next (s.nextWith c fun n => n.setG f.dst.toNat 0x020A)))
      ∧ (k.token f.tok.toNat = .pending → time ≠ 0 →
          runs 0x60 (.wait c f) (.next (s.updCore c fun n => { n with ctl := .held .wait f }))))
    ∧ (k.ctl = .held .wait f → time ≠ 0xFFFFFFFF → exec (.waitTimeout c) s
        = .next (s.nextWith c fun n => { n.setG f.dst.toNat 0x020A with ctl := .run }))
    ∧ (k.ctl = .held .wait f → time = 0xFFFFFFFF → exec (.waitTimeout c) s = .next s)
    ∧ (∀ o r, k.engq 3 = o :: r → k.ctl = .held .wait f → f.tok.toNat = o.tok → k.stopped = false → k.awaitAdmit = false →
      exec (.sfComplete c) s = .next (s.nextWith c fun k =>
        { (({ k with near := (sfRun o k).near }.setEngq 3 r).setTok o.tok .free).setG f.dst.toNat 0 with
          ctl := .run, progress := true }))

/-- RECV (R101, R116, R336). -/
def Obligations.ReceiveTakesTheHeadEntry : Prop :=
  ∀ (c : CoreIx) (f : Fields) (s : State), (s.core c).pc ≠ 4095 →
    let k := s.core c
    let q := f.sub.toNat
    let r := k.ring q
    let time := if f.sb = 0 then f.imm.toNat else (k.gr f.sb.toNat).toNat % 2 ^ 32
    let runs (op : BitVec 8) (i : Instr) (o : Out) : Prop := s.spells c op f → exec i s = o
    (k.issuing = true → k.vBusy = false → f.sa.toNat < 16 →
      f.only true true true false true (if f.sb = 0 then 0xFFFFFFFF else 0) = true →
      (r.count ≠ 0 → k.queueTaken q = false → runs 0x51 (.recv c f) (.next (s.nextWith c fun n =>
          { ((n.setRing q ⟨(r.head + 1) % s.queueDepth (8 * c + q), r.count - 1⟩).setV f.sa.toNat
              (k.nearLine (s.queueRing (8 * c + q) + 64 * r.head))).setG f.dst.toNat 0 with progress := true })))
      ∧ (r.count = 0 ∨ k.queueTaken q = true → time = 0 →
          runs 0x51 (.recv c f) (.next (s.nextWith c fun n => n.setG f.dst.toNat 0x020A)))
      ∧ (r.count = 0 ∨ k.queueTaken q = true → time ≠ 0 →
          runs 0x51 (.recv c f) (.next (s.updCore c fun n => { n with ctl := .held .recv f }))))
    ∧ (k.ctl = .held .recv f → time ≠ 0xFFFFFFFF → k.vBusy = false → exec (.recvTimeout c) s
        = .next (s.nextWith c fun n => { n.setG f.dst.toNat 0x020A with ctl := .run }))
    ∧ (k.ctl = .held .recv f → time = 0xFFFFFFFF ∨ k.vBusy = true → exec (.recvTimeout c) s = .next s)

/-- SEND (R115); the token completes at injection (R340). -/
def Obligations.SendChecksThenHandsOver : Prop :=
  ∀ (c : CoreIx) (f : Fields) (s : State) (m : Nat), s.issues c → (s.core c).vBusy = false → f.sa.toNat < 16 →
    f.only true true true true false 0 = true → s.meadowOf c = some m →
    let k := s.core c
    let x := (k.gr f.sb.toNat).toNat
    let runs (op : BitVec 8) (i : Instr) (o : Out) : Prop := s.spells c op f → exec i s = o
    let refused (e : Half) : Prop := runs 0x50 (.send c f) (.next (s.nextWith c fun n => n.setG f.dst.toNat (e.setWidth 64)))
    (k.token f.tok.toNat ≠ .free → refused 0x0208)
    ∧ (k.token f.tok.toNat = .free → x / 2 ^ 19 ≠ 0 → refused 0x0206)
    ∧ (k.token f.tok.toNat = .free → x / 2 ^ 19 = 0 → s.inMeadow (x % 2 ^ 16) m = false → refused 0x020F)
    ∧ (k.token f.tok.toNat = .free → x / 2 ^ 19 = 0 → s.inMeadow (x % 2 ^ 16) m = true →
      ∃ msg, runs 0x50 (.send c f) (.next (s.nextWith c fun n =>
          { (n.setTok f.tok.toNat .pending).setG f.dst.toNat 0 with sendq := n.sendq ++ [msg], progress := true }))
        ∧ msg.tussock = x % 2 ^ 16 ∧ msg.dst = (s.anchor (x % 2 ^ 16)).getD 0 ∧ msg.queue = x / 2 ^ 16
        ∧ msg.body = k.vr f.sa.toNat ∧ msg.source = c.val ∧ msg.kind = 0 ∧ msg.tok = some f.tok.toNat ∧ msg.st = .waiting)

/-- FENCE (R117); the walker's caches are those of R296 and R324. -/
def Obligations.FenceOrders : Prop :=
  ∀ (c : CoreIx) (f : Fields) (s : State), f.only false false false false true 0 = true →
    let runs (op : BitVec 8) (i : Instr) (o : Out) : Prop := s.spells c op f → exec i s = o
    (s.issues c →
      (4 ≤ f.sub.toNat → runs 0x61 (.fence c f) (.next (s.faultHere c 0x0211)))
      ∧ (f.sub.toNat < 4 → f.sub.getLsbD 0 = true → (s.core c).anyPending = true →
        runs 0x61 (.fence c f) (.next (s.updCore c fun n => { n with ctl := .held .fence f })))
      ∧ (f.sub.toNat < 4 → (f.sub.getLsbD 0 = false ∨ (s.core c).anyPending = false) →
        (f.sub.getLsbD 1 = false → runs 0x61 (.fence c f) (.next (s.nextWith c id)))
        ∧ (f.sub.getLsbD 1 = true → runs 0x61 (.fence c f)
            (.next ((s.nextWith c Core.dropCaches).updBase (baseOf c) fun b =>
                { b with ptrCache := [], leafCache := [] })))))
    ∧ (∀ k : Core, k.dropCaches.rcache = [] ∧ k.dropCaches.tlb = [])
    ∧ (∀ o r, (s.core c).ctl = .held .fence f → (s.core c).engq 3 = o :: r → (s.core c).stopped = false →
      (s.core c).awaitAdmit = false → (s.core c).pc ≠ 4095 → f.sub.getLsbD 0 = true →
      let done (n : Core) : Core :=
        { ({ n with near := (sfRun o n).near }.setEngq 3 r).setTok o.tok (.done 0) with progress := true }
      ((done (s.core c)).anyPending = true → exec (.sfComplete c) s = .next (s.updCore c done))
      ∧ ((done (s.core c)).anyPending = false →
        (f.sub.getLsbD 1 = false → exec (.sfComplete c) s = .next (s.nextWith c fun n => { done n with ctl := .run }))
        ∧ (f.sub.getLsbD 1 = true → exec (.sfComplete c) s
            = .next ((s.nextWith c fun n => { (done n).dropCaches with ctl := .run }).updBase (baseOf c) fun b =>
                { b with ptrCache := [], leafCache := [] }))))

/-- EPOCH_END (R118) and the entry of the boundary (R352). -/
def Obligations.EpochEndStopsTheCore : Prop :=
  ∀ (c : CoreIx) (f : Fields) (s : State), (s.core c).issuing = true → s.spells c 0x62 f →
    f.only false false false false false 0 = true →
    let k := s.core c
    (k.anyPending = true → exec (.epochEnd c f) s = .next (s.updCore c fun n => { n with ctl := .held .epochEnd f }))
    ∧ (k.anyPending = false → ∃ t, exec (.epochEnd c f) s = .next t
      ∧ t = { s with cores := t.cores, meadows := t.meadows } ∧ (∀ n, n ≠ c.val → t.core n = s.core n)
      ∧ (∀ i, (t.core c).token i = .free) ∧ (t.core c).ctl = .ended ∧ (t.core c).pc = k.pc ∧ (t.core c).g = k.g
      ∧ (t.core c).near = k.near ∧ (t.core c).deep = k.deep
      ∧ (k.firstError = none → (t.core c).uncollected = k.uncollected ∧ (t.core c).lastError = k.lastError)
      ∧ (∀ e, k.firstError = some e → (t.core c).uncollected = true ∧ (t.core c).lastError = e)
      ∧ (∀ m, s.meadowOf c = some m → (s.meadow m).state = .opened →
          ((t.meadow m).state = .boundary ↔ ∀ n ∈ s.meadowCores m, n = c.val ∨ (s.core n).ctl = .ended)))

/-- Acceptance of VX, SF, CP, GA, NZ and MM (R99, R103, R105). -/
def Obligations.EngineIssueAccepted : Prop :=
  ∀ (c : CoreIx) (f : Fields) (s : State), s.issues c → issueLegal f = true →
    let k := s.core c
    let d := k.dr f.sa.toNat
    let joins (t : State) (e : Nat) (x : MMIssue) (ex : Nat × Nat × Nat) : State := t.nextWith c fun n =>
      let n' := (n.setTok f.tok.toNat .pending).setEngq e (n.engq e ++ [mkOp n f.tok.toNat x ex])
      { n' with opSeq := n.opSeq + 1 }.setG f.dst.toNat 0
    let goes (w : BitVec 8) (i : Instr) (op : HeldOp) (e : Nat) (check : Option Half) : Prop :=
      s.spells c w f → k.token f.tok.toNat = .free → lineBits d 0 3 0 = e → check = none →
        ((k.engq e).length < 4 → exec i s = .next (joins s e ⟨d, 0, [], 0, 0⟩ (0, 0, 0)))
        ∧ (4 ≤ (k.engq e).length → exec i s = .next (s.updCore c fun n => { n with ctl := .held op f }))
    goes 0x41 (.vx c f) .vx 2 (vxCheck d) ∧ goes 0x42 (.sf c f) .sf 3 (sfCheck d)
    ∧ goes 0x43 (.cp c f) .cp 4 (cpCheck s c d) ∧ goes 0x44 (.ga c f) .ga 5 (gaCheck d)
    ∧ goes 0x45 (.nz c f) .nz 6 (nzCheck d)
    ∧ (s.spells c 0x40 f → k.token f.tok.toNat = .free → lineBits d 0 3 0 = 1 →
      (4 ≤ (k.engq 1).length → exec (.mm c f) s = .next (s.updCore c fun n => { n with ctl := .held .mm f }))
      ∧ ((k.engq 1).length < 4 → lineBits d 0 30 20 = 0 → mmCheck1 (mmCopies k d) = none → exec (.mm c f) s
          = .next (joins s 1 (mmCopies k d) (lineBits d 2 15 0, lineBits d 1 30 0, lineBits d 2 31 16)))
      ∧ ((k.engq 1).length < 4 → s.cutOff c = true → (mmCopies k d).bound = true → planCheck1 s c (mmCopies k d) = none →
          exec (.mm c f) s = .next (s.updCore c fun n => { n with ctl := .held .mm f }))
      ∧ ((k.engq 1).length < 4 → s.cutOff c = false ∨ (mmCopies k d).bound = false →
          ∀ ex t, mmResolve s c (mmCopies k d) = (.ok ex, t) →
          t.pkg.barred = s.pkg.barred → t.pkg.blocked = s.pkg.blocked → (t.core c).ctl = k.ctl → (t.core c).pc = k.pc →
          exec (.mm c f) s = .next (s.sentFrom (joins t 1 (mmCopies k d) ex))))

/-- Refusals at issue: steps 1 and 2 of R105, then the first failing check (R8, R99). That a failing check refuses an issue also
where the engine is full, which R103 has stall, is the model's choice, log entry 25. -/
def Obligations.EngineIssueRefused : Prop :=
  ∀ (c : CoreIx) (f : Fields) (s : State), s.issues c → issueLegal f = true →
    let k := s.core c
    let d := k.dr f.sa.toNat
    let out (code : Half) : Out := .next (s.nextWith c fun n => n.setG f.dst.toNat (code.setWidth 64))
    let head (w : BitVec 8) (i : Instr) (e : Nat) : Prop := s.spells c w f →
      (k.token f.tok.toNat ≠ .free → exec i s = out 0x0208)
      ∧ (k.token f.tok.toNat = .free → lineBits d 0 3 0 ≠ e → exec i s = out 0x0207)
    let refused (w : BitVec 8) (i : Instr) (e : Nat) (check : Option Half) : Prop :=
      head w i e ∧ (s.spells c w f → k.token f.tok.toNat = .free → lineBits d 0 3 0 = e →
        ∀ code, check = some code → exec i s = out code)
    head 0x40 (.mm c f) 1 ∧ refused 0x41 (.vx c f) 2 (vxCheck d) ∧ refused 0x42 (.sf c f) 3 (sfCheck d)
    ∧ refused 0x43 (.cp c f) 4 (cpCheck s c d) ∧ refused 0x44 (.ga c f) 5 (gaCheck d)
    ∧ refused 0x45 (.nz c f) 6 (nzCheck d)

/-- Starts of SF, CP, GA, NZ and VX operations (R103, R144, R185, R292); log entries 21, 61. Remote copies are left out. -/
def Obligations.EngineOperationStarts : Prop :=
  ∀ (c : CoreIx) (s : State) (o : EngOp) (r : List EngOp) (acts : List Ahead), (s.core c).stopped = false →
    let started (e : Nat) (o : EngOp) : State := s.updCore c fun k => k.setEngq e (o :: r)
    (∀ e : Fin 6, (s.core c).engq (e.val + 1) = o :: r →
      (o.started = true → e.val ∈ [0, 1, 2, 5] → exec (.engineOpStart c e acts) s = .next s)
      ∧ (o.started = false → e.val ∈ [2, 5] →
        exec (.engineOpStart c e acts) s = .next (started (e.val + 1) { o with started := true })))
    ∧ ((s.core c).nextCopy = some o → o.started = false → cpRemote o.desc = false →
      exec (.engineOpStart c 3 acts) s = .next (s.updSeqOp c 4 o.seq fun o => { o with started := true }))
    ∧ ((s.core c).engq 5 = o :: r → o.started = false →
      let t := (started 5 { o with started := true }).runAhead c ((s.meadowOf c).getD 0) o.desc 0 acts
      t.pkg.barred = s.pkg.barred → t.pkg.blocked = s.pkg.blocked →
        exec (.engineOpStart c 4 acts) s = .next (s.sentFrom t))
    ∧ ((s.core c).engq 2 = o :: r → o.started = false → o.err = 0 → (s.core c).vectorFree o.seq = true →
      progCheck (s.core c) (vxSweep o.desc) = none →
      exec (.engineOpStart c 1 acts) s = .next ((started 2
          { o with
            started := true, words := [progWords (s.core c) (vxSweep o.desc)], stage := .vx, tile := 0, row := 0,
            ip := 0 }).updCore c fun k => { k with slots := [] }))

/-- An unchained, unplanned matrix operation: its cells, or its drain (R79, R124, R127, R133, R136). -/
def Obligations.MatrixProductsSummed : Prop :=
  ∀ (c : CoreIx) (s : State) (o : EngOp) (r : List EngOp), (s.core c).engq 1 = o :: r → (s.core c).unstalled →
    o.chain = 0 → o.plan = [] → o.stage = .work → o.isAq = false → s.acking c o.seq = false →
    (o.started = false → o.err = 0 → (s.core c).stopped = false → o.summed = false → lineBits o.desc 0 8 8 = 0 →
      ∃ t, exec (.mmComplete c) s = .next t ∧ (t.core c).engq 1 = r ∧ (t.core c).token o.tok = .done 0
        ∧ (t.core c).near = (s.core c).near ∧ t = { s with cores := t.cores } ∧ (∀ n, n ≠ c.val → t.core n = s.core n)
        ∧ ∀ m n, m < o.em → n < o.en → (t.core c).cell (o.cellIx m n)
            = o.dot (s.core c) m n 0 o.ek (o.startCell (s.core c) m n ((s.core c).cell (o.cellIx m n))))
    ∧ (o.started = true → o.summed = true → lineBits o.desc 0 8 8 = 1 →
      exec (.mmComplete c) s
        = .next (s.finished c 1 o r o.err fun k => { k with near := (o.drainAll k).near }))

/-- Completions of SF, NZ, GA and VX operations (R100, R114, R154, R278, R280, R291). -/
def Obligations.EngineResultsWritten : Prop :=
  ∀ (c : CoreIx) (s : State) (o : EngOp) (r : List EngOp), (s.core c).unstalled → (s.core c).stopped = false →
    let m := s.meadowOf c
    let t := tensAt o.desc 4
    let size := t.f.size
    let seed := (m.map fun m => (s.meadow m).seed).getD 0
    let first := lineWord o.desc 2 + lineWord o.desc 3 * 2 ^ 32
    let gauss := decide (lineBits o.desc 0 4 4 = 1)
    let value (j : Nat) : Nat := ladybirdElem gauss seed (lineBits o.desc 0 31 16) o.frame o.step ((first + j) % 2 ^ 64)
    let code (j : Nat) : Nat := if gauss then storeElem .l32 t.f t.scale .ne (value j) else value j
    let store (k : Core) : Mem := if t.space = 0 then k.near else k.deep
    ((s.core c).engq 3 = o :: r →
      exec (.sfComplete c) s = .next (s.finished c 3 o r 0 fun k => { k with near := (sfRun o k).near }))
    ∧ ((s.core c).engq 6 = o :: r → ∃ u, exec (.nzComplete c) s = .next u
      ∧ (∃ w, u = s.finished c 6 o r 0 fun k => if t.space = 0 then { k with near := w } else { k with deep := w })
      ∧ (∀ j, j < lineWord o.desc 1 → Mem.nat (store (u.core c)) (t.addr + j * size) size = code j % 256 ^ size)
      ∧ ∀ x, (x < t.addr ∨ t.addr + lineWord o.desc 1 * size ≤ x) →
          Mem.byte (store (u.core c)) x = Mem.byte (store (s.core c)) x)
    ∧ ((s.core c).engq 5 = o :: r → o.started = true →
      ∀ acts k u p, s.gaRun c (m.getD 0) o.desc acts (List.range (lineWord o.desc 1)) = (k, u) →
        (u.core c).engq 5 = p :: r → (u.core c).unstalled → u.pkg.barred = s.pkg.barred → u.pkg.blocked = s.pkg.blocked →
        exec (.gaComplete c acts) s = .next (s.sentFrom (u.finished c 5 p r k id)))
    ∧ ((s.core c).engq 2 = o :: r → o.started = true → o.stage = .work → o.vdone = true → o.plan = [] →
      exec (.vxComplete c) s = .next (s.finished c 2 o r o.err id))

/-- A copy within a core (R112, R286); overlapping copies are R288's. -/
def Obligations.LocalCopyMovesItsBytes : Prop :=
  ∀ (c : CoreIx) (s : State) (o : EngOp) (q : List EngOp), (s.core c).engq 4 = o :: q → (s.core c).unstalled →
    o.started = true → o.sent = false → s.acking c o.seq = false → (s.core c).ownWrites c = false →
    (∀ p ∈ q, p.seq ≠ o.seq) →
    let a := tensAt o.desc 4
    let b := tensAt o.desc 7
    let rows := lineBits o.desc 2 15 0
    let rb := lineBits o.desc 1 19 0
    let byte (k : Core) (space x : Nat) : Byte := Mem.byte (if space = 0 then k.near else k.deep) x
    cpRemote o.desc = false → a.space ≤ 1 → b.space ≤ 1 → rb % 32 = 0 → cpOverlap false o.desc = false →
      ∃ t, exec (.cpComplete c) s = .next t ∧ (t.core c).engq 4 = q ∧ (t.core c).token o.tok = .done 0
        ∧ (∀ r i, r < rows → i < rb → byte (t.core c) b.space (b.addr + 32 * b.stride * r + i)
            = byte (s.core c) a.space (a.addr + 32 * a.stride * r + i))
        ∧ (∀ space x, space ≤ 1 → (space = b.space →
              ∀ r, r < rows → x < b.addr + 32 * b.stride * r ∨ b.addr + 32 * b.stride * r + rb ≤ x) →
            byte (t.core c) space x = byte (s.core c) space x)
        ∧ (t.core c).g = (s.core c).g ∧ (t.core c).d = (s.core c).d ∧ (t.core c).v = (s.core c).v
        ∧ t = { s with cores := t.cores } ∧ ∀ n, n ≠ c.val → t.core n = s.core n

/-- Remote copies (R289, R287, R484) and prefix-tree lookups (R266 to R268). That a malformed lookup receives 64 free bytes is the
model's choice, log entry 19 (free values: log entry 3). -/
def Obligations.RemoteCopiesAndLookups : Prop :=
  (∀ (c : CoreIx) (s : State) (r : RCopy) (l : List RCopy), (s.core c).rcopies = r :: l → r.answer = none →
      (r.writes = [] → exec (.remoteWrite c) s
        = .next (s.updCore c fun k => { k with rcopies := { r with answer := some r.lost } :: l }))
      ∧ (∀ x d ws, r.writes = (x, d) :: ws →
        let after (t : State) (lost : Bool) : State := t.updCore c fun k => { k with
          rcopies := { r with writes := ws, lost := lost, answer := if ws = [] then some lost else none } :: l }
        (s.dropAt r.dst r.site r.gen = none → exec (.remoteWrite c) s = .next (after (s.updCore r.dst fun k =>
          if r.deep then k.deepWrite x d else k.nearWrite x d) r.lost))
        ∧ (∀ w, s.dropAt r.dst r.site r.gen = some w → exec (.remoteWrite c) s = .next (after (s.countDrop w) true))))
  ∧ (∀ (c : CoreIx) (s : State) (r : RCopy) (l : List RCopy) (dropped : Bool), (s.core c).rcopies = r :: l →
      r.answer = some dropped →
      let t := s.updCore c fun k => { k with rcopies := l }
      let late := t.updHub fun h => { h with lateDrops := satInc h.lateDrops }
      (r.igen ≠ (s.core c).gen → exec (.remoteAck c) s = .next late)
      ∧ (r.igen = (s.core c).gen → r.relay = none →
        ((∀ o ∈ (s.core c).engq 4, o.seq ≠ r.seq) → exec (.remoteAck c) s = .next late)
        ∧ (∀ o, ((s.core c).engq 4).find? (·.seq = r.seq) = some o →
          let err := if o.err = 0 ∧ dropped = true then 0x0561 else o.err
          let u := t.updSeqOp c 4 r.seq fun p => { p with acked := true, err := err }
          (err = 0 → lineBits o.desc 0 4 4 = 1 → exec (.remoteAck c) s = .next (u.queueNote c o))
          ∧ (err ≠ 0 ∨ lineBits o.desc 0 4 4 = 0 → exec (.remoteAck c) s = .next u))))
  ∧ (∀ (b : BaseIx) (s : State) (n : Nat) (q : List Nat) (req : List Byte), (s.base b).lookupQ = n :: q →
      (s.core n).lookup = .pending req →
      let u := s.updBase b fun x => { x with lookupQ := q }
      let done (res : List Byte) (t : State) : Out := .next (t.updCore n fun k => { k with lookup := .ready res })
      let a := u.lookup n ((s.meadowOf n).getD 0) req
      (a.2.pkg.barred = s.pkg.barred → a.2.pkg.blocked = s.pkg.blocked → exec (.prefixLookupDone b) s
        = .next (s.sentFrom (a.2.updCore n fun k => { k with lookup := .ready a.1 })))
      ∧ a.1.length = 64
      ∧ (lookupOk req = false →
        exec (.prefixLookupDone b) s = done ((upFrom s.free 64).map Config.freeByte) { u with free := s.free + 64 }))

/-- Every tile-program command in a row step: what moves on and what stays (R142, R145, R171, R187). -/
def Obligations.TileInstructionIsOneRowStep : Prop :=
  ∀ (c : CoreIx) (f : TFields) (s : State) (e : Nat) (o : EngOp) (sw : Sweep) (r : List EngOp), (s.core c).engq e = o :: r →
    let steps (i : Instr) (op : TOp) : Prop := s.AtRow c e o sw op f →
      ∀ o', (sw.after o.tile o.row o.ip = none → o.stage = .vx → o' = { o with stage := .work, vdone := true }) →
        (∀ a b k, sw.after o.tile o.row o.ip = some (a, b, k) → o' = { o with tile := a, row := b, ip := k }) →
        (sw.after o.tile o.row o.ip ≠ none ∨ o.stage = .vx) →
        ∃ t, exec i s = .next t ∧ (t.core c).engq e = o' :: r ∧ t = { s with cores := t.cores }
          ∧ (∀ n, n ≠ c.val → t.core n = s.core n) ∧ (t.core c).g = (s.core c).g ∧ (t.core c).d = (s.core c).d
          ∧ (t.core c).prog = (s.core c).prog ∧ (t.core c).pc = (s.core c).pc ∧ (t.core c).ctl = (s.core c).ctl
          ∧ (t.core c).tok = (s.core c).tok ∧ (t.core c).deep = (s.core c).deep
    steps (.vnop c f) .nop ∧ steps (.vadd c f) .add ∧ steps (.vsub c f) .sub ∧ steps (.vmul c f) .mul
    ∧ steps (.vfma c f) .fma ∧ steps (.vmin c f) .min ∧ steps (.vmax c f) .max ∧ steps (.vceq c f) .ceq
    ∧ steps (.vclt c f) .clt ∧ steps (.vcle c f) .cle ∧ steps (.vsel c f) .sel ∧ steps (.vand c f) .and
    ∧ steps (.vor c f) .or ∧ steps (.vxor c f) .xor ∧ steps (.vldx c f) .ldx ∧ steps (.vldy c f) .ldy
    ∧ steps (.vldz c f) .ldz ∧ steps (.vsto c f) .sto ∧ steps (.vlds c f) .lds ∧ steps (.vsts c f) .sts
    ∧ steps (.vimm c f) .imm ∧ steps (.vsys c f) .sys ∧ steps (.vidx c f) .idx ∧ steps (.vcvt c f) .cvt
    ∧ steps (.vsfn c f) .sfn ∧ steps (.rclr c f) .rclr ∧ steps (.rsx c f) .rsx ∧ steps (.rsl c f) .rsl
    ∧ steps (.rmean c f) .rmean ∧ steps (.rvar c f) .rvar ∧ steps (.rdiv c f) .rdiv ∧ steps (.rsmax c f) .rsmax
    ∧ steps (.rprob c f) .rprob ∧ steps (.rstr c f) .rstr ∧ steps (.rldr c f) .rldr ∧ steps (.raddr c f) .raddr
    ∧ steps (.rdfr c f) .rdfr ∧ steps (.rscale c f) .rscale ∧ steps (.cldg c f) .cldg ∧ steps (.cfeed c f) .cfeed
    ∧ steps (.cscale c f) .cscale

/-- Lane-wise arithmetic, comparisons and selection (R145, R146). -/
def Obligations.TileLaneArithmetic : Prop :=
  ∀ (c : CoreIx) (f : TFields) (s : State) (e : Nat) (o : EngOp) (sw : Sweep),
    let k := s.core c
    let m := wf f.w
    let width := if f.w then 64 else 32
    let lane (i : Instr) (op : TOp) (g : Nat → Nat → Nat → Nat) : Prop := s.AtRow c e o sw op f →
      (sw.after o.tile o.row o.ip ≠ none ∨ o.stage = .vx) → ∃ t, exec i s = .next t ∧ (t.core c).near = k.near
        ∧ ∀ j, j < 16 → (t.core c).lane f.w f.vd.toNat j
            = g (k.lane f.w f.va.toNat j) (k.lane f.w f.vb.toNat j) (k.lane f.w f.vc.toNat j) % 2 ^ width
    let holds (p : Ordering → Bool) (a b : Nat) : Nat :=
      if (cmpF m a b).any p then 2 ^ width - 1 else 0
    lane (.vadd c f) .add (fun a b _ => addF m sw.rd a b) ∧ lane (.vsub c f) .sub (fun a b _ => subF m sw.rd a b)
    ∧ lane (.vmul c f) .mul (fun a b _ => mulF m sw.rd a b) ∧ lane (.vfma c f) .fma (fun a b d => fmaF m sw.rd a b d)
    ∧ lane (.vmin c f) .min (fun a b _ => minF m a b) ∧ lane (.vmax c f) .max (fun a b _ => maxF m a b)
    ∧ lane (.vceq c f) .ceq (fun a b _ => holds (· == .eq) a b) ∧ lane (.vclt c f) .clt (fun a b _ => holds (· == .lt) a b)
    ∧ lane (.vcle c f) .cle (fun a b _ => holds (· != .gt) a b)
    ∧ lane (.vand c f) .and (fun a b _ => a &&& b) ∧ lane (.vor c f) .or (fun a b _ => a ||| b)
    ∧ lane (.vxor c f) .xor (fun a b _ => a ^^^ b)
    ∧ lane (.vsel c f) .sel (fun a b d => (a &&& d) ||| (b &&& (d ^^^ (2 ^ width - 1))))

/-- Loads, stores, immediates, indices, conversions and special functions of a row step (R143 to R148, R154). -/
def Obligations.TileLoadsStoresAndConversions : Prop :=
  ∀ (c : CoreIx) (f : TFields) (s : State) (e : Nat) (o : EngOp) (sw : Sweep),
    let k := s.core c
    let st := sw.step o.tile o.row
    let at_ (i : Instr) (op : TOp) (P : Core → Prop) : Prop := s.AtRow c e o sw op f →
      (sw.after o.tile o.row o.ip ≠ none ∨ o.stage = .vx) → ∃ t, exec i s = .next t ∧ P (t.core c)
    let lanes (w : Bool) (g : Nat → Nat) (n : Core) : Prop := n.near = k.near
      ∧ ∀ j, j < 16 → n.lane w f.vd.toNat j = g j % 2 ^ (if w then 64 else 32)
    let row (t : Tens) (n : Core) : Prop := lanes f.w (fun j =>
      if j < st.act then loadElem t.f (wf f.w) t.scale sw.rd (k.elem t st.row (st.col + j)) else 0) n
    let out (j : Nat) : Nat := sw.outAddr + sw.outPitch * st.p + sw.outFmt.size * (st.col + j - sw.col0)
    at_ (.vnop c f) .nop (fun n => n.v = k.v ∧ n.near = k.near)
    ∧ (∀ t, sw.x = some t → at_ (.vldx c f) .ldx (row t)) ∧ (∀ t, sw.y = some t → at_ (.vldy c f) .ldy (row t))
    ∧ (∀ t, sw.z = some t → at_ (.vldz c f) .ldz (row t))
    ∧ (sw.x = none → at_ (.vldx c f) .ldx (lanes f.w fun j =>
        if j < st.act then loadElem sw.dfmt (wf f.w) sw.dscale sw.rd (sw.drained k st.p (st.col + j)) else 0))
    ∧ at_ (.vsto c f) .sto (fun n => n.v = k.v
        ∧ (∀ j, j < st.act → Mem.nat n.near (out j) sw.outFmt.size
            = storeElem (wf f.w) sw.outFmt sw.outScale sw.rd (k.lane f.w f.va.toNat j) % 256 ^ sw.outFmt.size)
        ∧ ∀ x, (∀ j, j < st.act → x < out j ∨ out j + sw.outFmt.size ≤ x) → Mem.byte n.near x = Mem.byte k.near x)
    ∧ (f.w = false → at_ (.vlds c f) .lds (fun n => n = { n with v := (k.setV f.vd.toNat
        (k.nearLine (sw.scratch + 64 * f.imm.toNat))).v } ∧ n.near = k.near))
    ∧ (f.w = false → at_ (.vsts c f) .sts (fun n => n.v = k.v
        ∧ Mem.read n.near (sw.scratch + 64 * f.imm.toNat) 64 = lineBytes (k.vr f.va.toNat)
        ∧ ∀ x, x < sw.scratch + 64 * f.imm.toNat ∨ sw.scratch + 64 * f.imm.toNat + 64 ≤ x →
            Mem.byte n.near x = Mem.byte k.near x))
    ∧ at_ (.vimm c f) .imm (lanes f.w fun _ => if f.w then l32ToL64 f.imm.toNat else f.imm.toNat)
    ∧ at_ (.vsys c f) .sys (lanes false fun _ => (s.sysreg c f.imm.toNat).toNat)
    ∧ at_ (.vidx c f) .idx (lanes false fun j => natToL32 (match f.imm.toNat % 4 with
        | 0 => j | 1 => st.trow | 2 => st.row | _ => st.col + j))
    ∧ (f.imm = 0 → at_ (.vcvt c f) .cvt (lanes true fun j => l32ToL64 (k.lane false f.va.toNat j)))
    ∧ (f.imm = 1 → at_ (.vcvt c f) .cvt (lanes false fun j => l64ToL32 sw.rd (k.lane true f.va.toNat j)))
    ∧ (f.imm = 2 → at_ (.vcvt c f) .cvt (lanes false fun j =>
        widenShort .s16 .l32 0 (toShort .s16 .l32 0 (k.lane false f.va.toNat j))))
    ∧ (f.imm = 3 → at_ (.vcvt c f) .cvt (lanes false fun j =>
        widenShort .s8 .l32 0 (toShort .s8 .l32 0 (k.lane false f.va.toNat j))))
    ∧ at_ (.vsfn c f) .sfn (lanes f.w fun j => if j < st.act then
        sfEval f.set ((fnOf f.fn.toNat).getD .exp2) (wf f.w) (wf f.w) 0 (k.lane f.w f.va.toNat j) else 0)

/-- The statistic slot of the row and VD after each row-statistics command (R184 to R201). -/
def Obligations.RowStatistics : Prop :=
  ∀ (c : CoreIx) (f : TFields) (s : State) (e : Nat) (o : EngOp) (sw : Sweep),
    let k := s.core c
    let st := sw.step o.tile o.row
    let slot := s.slotSeen c o sw
    let rec_ := 64 * (f.imm.toNat + st.row)
    let act := List.range st.act
    let at_ (i : Instr) (op : TOp) (P : Core → Prop) : Prop := s.AtRow c e o sw op f →
      (sw.after o.tile o.row o.ip ≠ none ∨ o.stage = .vx) → ∃ t, exec i s = .next t ∧ P (t.core c)
    let lanes (w : Bool) (g : Nat → Nat) (n : Core) : Prop :=
      ∀ j, j < 16 → n.lane w f.vd.toNat j = g j % 2 ^ (if w then 64 else 32)
    let holds (x : Slot) (n : Core) : Prop := n.slot st.row = x ∧ n.near = k.near
    at_ (.rclr c f) .rclr (holds Slot.zero)
    ∧ (∀ t, sw.x = some t → at_ (.rsx c f) .rsx
        (holds (slotRsx slot t.f t.scale (act.map fun j => k.elem t st.row (st.col + j)))))
    ∧ at_ (.rsl c f) .rsl (holds (slotRsl slot (act.map fun j => k.lane false f.va.toNat j)))
    ∧ (slot.kind = .exact ∨ slot.kind = .wide →
        at_ (.rmean c f) .rmean (fun n => holds slot n ∧ lanes f.w (fun _ => slotMean slot (wf f.w) sw.rd) n)
        ∧ at_ (.rvar c f) .rvar (fun n => holds slot n ∧ lanes f.w (fun _ => slotVar slot (wf f.w) sw.rd) n))
    ∧ (slot.kind ≠ .exact → slot.kind ≠ .wide →
        at_ (.rmean c f) .rmean (fun n => holds slot.bad n ∧ lanes f.w (fun _ => (wf f.w).nan) n)
        ∧ at_ (.rvar c f) .rvar (fun n => holds slot.bad n ∧ lanes f.w (fun _ => (wf f.w).nan) n))
    ∧ at_ (.rdiv c f) .rdiv (fun n => holds (if slot.kind = .softmax then slot else slot.bad) n
        ∧ lanes f.w (fun j => slotDiv slot (wf f.w) sw.rd (k.lane f.w f.va.toNat j)) n)
    ∧ at_ (.rsmax c f) .rsmax (fun n =>
        let p := slotRsmax slot f.set (act.map fun j => k.lane false f.va.toNat j)
        holds p.1 n ∧ lanes false (fun j => if j < st.act then widenShort .s16 .l32 0 (p.2.getD j 0) else 0) n)
    ∧ (slot.kind = .softmax → at_ (.rprob c f) .rprob (fun n => holds slot n ∧ lanes false (fun j =>
        if j < st.act then probLane f.set false slot.ref (k.lane false f.va.toNat j) else 0) n))
    ∧ (slot.kind ≠ .softmax → at_ (.rprob c f) .rprob (fun n => holds slot.bad n ∧ lanes false (fun j =>
        if j < st.act then Fmt.l32.nan else 0) n))
    ∧ at_ (.rstr c f) .rstr (fun n => n.slot st.row = slot ∧
        (sw.allCols ≤ st.col + 16 → Mem.read n.near rec_ 64 = slotRecord slot)
        ∧ ∀ x, (sw.allCols ≤ st.col + 16 → x < rec_ ∨ rec_ + 64 ≤ x) → Mem.byte n.near x = Mem.byte k.near x)
    ∧ at_ (.rldr c f) .rldr (holds (recordSlot (Mem.read k.near rec_ 64)))
    ∧ at_ (.raddr c f) .raddr (holds (slotAddRecord slot (Mem.read k.near rec_ 64)))

/-- The instructions of chained operations (R171, R176, R181, R182, R200, R205). -/
def Obligations.ChainInstructions : Prop :=
  ∀ (c : CoreIx) (f : TFields) (s : State) (e : Nat) (o : EngOp) (sw : Sweep), sw.after o.tile o.row o.ip ≠ none →
    let k := s.core c
    let st := sw.step o.tile o.row
    let slot := s.slotSeen c o sw
    let at_ (i : Instr) (op : TOp) (P : Core → Prop) : Prop := s.AtRow c e o sw op f →
      ∃ t, exec i s = .next t ∧ P (t.core c)
    let lanes (g : Nat → Nat) (n : Core) : Prop :=
      ∀ j, j < 16 → n.lane f.w f.vd.toNat j = g j % 2 ^ (if f.w then 64 else 32)
    let base := sw.cell2 + sw.n2 * (st.row % 16)
    let scaled (b : Nat) (n : Core) : Prop := n.near = k.near
      ∧ ∀ x, n.cell x = if base ≤ x ∧ x < base + sw.n2 then (k.cell x).shr b else k.cell x
    let feed (j : Nat) : Nat := sw.feed.addr + 32 * sw.feed.stride * (st.row % 16) + sw.feed.f.size * (sw.feedCol + j)
    at_ (.cldg c f) .cldg (fun n => n.near = k.near ∧ lanes (fun j => if j < st.act then
        loadElem sw.gfmt (wf f.w) sw.gscale sw.rd (drainCell (k.cell (sw.gcell + sw.gpitch * st.p + (st.col + j - sw.col0)))
          (sw.gsum - sw.gscale) sw.gfmt sw.drd) else 0) n)
    ∧ at_ (.cfeed c f) .cfeed (fun n => n.v = k.v
        ∧ (∀ j, j < st.act → Mem.nat n.near (feed j) sw.feed.f.size
            = toShort sw.feed.f .l32 sw.feed.scale (k.lane false f.va.toNat j) % 256 ^ sw.feed.f.size)
        ∧ ∀ x, (∀ j, j < st.act → x < feed j ∨ feed j + sw.feed.f.size ≤ x) → Mem.byte n.near x = Mem.byte k.near x)
    ∧ at_ (.cscale c f) .cscale (scaled (f.imm.toNat % 64))
    ∧ (slot.kind = .softmax → at_ (.rscale c f) .rscale (scaled slot.shift))
    ∧ (slot.kind ≠ .softmax → at_ (.rscale c f) .rscale (fun n => n.slot st.row = slot.bad ∧ n.cells = k.cells))
    ∧ at_ (.rdfr c f) .rdfr (fun n => n.near = k.near ∧ lanes (fun j => rdfrLane slot sw (wf f.w)
        (sw.cell k st.p (st.col + j)) (Mem.nat k.near (32 * f.imm.toNat + 22 * (st.col + j)) 22) sw.sum
        (k.lane f.w f.va.toNat j)) n)

/-- A failing check of a tile program (R100, R144), and a command out of its program's order (R142, log entry 12). -/
def Obligations.IllegalTileInstructionEndsItsOperation : Prop :=
  (∀ (c : CoreIx) (s : State) (o : EngOp) (r : List EngOp) (acts : List Ahead) (code : Half),
    (s.core c).engq 2 = o :: r → o.started = false → (s.core c).stopped = false → (s.core c).vectorFree o.seq = true →
    (s.core c).unstalled → progCheck (s.core c) (vxSweep o.desc) = some code →
    exec (.engineOpStart c 1 acts) s = .next (s.finished c 2 o r code fun k => { k with slots := [] }))
  ∧ (∀ (c : CoreIx) (f : TFields) (s : State) (e : Nat) (o : EngOp) (sw : Sweep),
    (s.core c).sweeping = some (e, o) → o.sweep = some sw →
    let idle (i : Instr) (op : TOp) : Prop := o.nextTile sw ≠ (some op, f) → exec i s = .next s
    idle (.vadd c f) .add ∧ idle (.vsto c f) .sto ∧ idle (.rsx c f) .rsx ∧ idle (.cldg c f) .cldg)

/-- Messages from injection to answer (R334 to R341). Which of several waiting messages is injected or answered, where R340 orders
one queue only, is the model's choice, log entry 20. -/
def Obligations.MessagesInjectedDeliveredAndAnswered : Prop :=
  ∀ (i : Iface) (c : CoreIx) (q : QueueIx) (m : Msg) (pre post : List Msg) (s : State),
    let sent (k : Option Nat) (path : Route) : Msg :=
      { m with site := (s.route k m.dst).2, gen := (s.route k m.dst).1, path := path, st := .flying }
    let mine := (s.core c).unacked.filter fun u => u.igen == (s.core c).gen
    let goes (j : Instr) (t : State) : Prop :=
      t.pkg.barred = s.pkg.barred → t.pkg.blocked = s.pkg.blocked → exec j s = .next (s.sentFrom t)
    ((s.core c).stopped = false → mine.length < 16 → (s.core c).sendq = pre ++ m :: post →
      (∀ x ∈ pre, ∃ u ∈ mine, u.global = x.global) → (∀ u ∈ mine, u.global ≠ m.global) → m.kind ≠ 2 →
      let k := s.meadowOf c
      let fly := sent k (s.routeTo c (s.route k m.dst).2)
      let t := s.updCore c fun n => { n with sendq := pre ++ post, unacked := n.unacked ++ [fly] }
      (∀ k, m.tok = some k → m.cp = none →
        goes (.messageInject (.core c)) ((t.updCore c fun n => { n.setTok k (.done 0) with progress := true }).resume c))
      ∧ (∀ k, m.tok = none → m.cp = some k →
        goes (.messageInject (.core c)) (t.updSeqOp c 4 k fun o => { o with noted := true })))
    ∧ (s.hub.doorbells = pre ++ m :: post → (∀ x ∈ pre, ∃ u ∈ s.hub.unacked, u.global = x.global) →
      (∀ u ∈ s.hub.unacked, u.global ≠ m.global) → s.behindWrite m = false →
      (s.hub.unacked.filter fun u => u.kind = 2 && u.origin = m.origin).length < 256 →
      exec (.messageInject .hub) s = .next (s.updHub fun h =>
        { h with doorbells := pre ++ post, unacked := h.unacked ++ [sent (s.meadowOf m.dst) .xy] }))
    ∧ (s.findMsg i q (· == .flying) = some m →
      let r := (s.core m.dst).ring m.queue
      (∀ w, s.dropAt m.dst m.site m.gen = some w →
        exec (.messageArrival i q) s = .next ((s.countDrop w).markMsg i q .flying .dropped))
      ∧ (s.dropAt m.dst m.site m.gen = none → r.count < s.queueDepth q →
        goes (.messageArrival i q) (((s.updCore m.dst fun n =>
          (n.nearWrite (s.queueRing q + 64 * ((r.head + r.count) % s.queueDepth q)) (lineBytes m.entry)).setRing m.queue
            ⟨r.head, r.count + 1⟩).markMsg i q .flying .accepted).offer m.dst))
      ∧ (∀ w, s.dropAt m.dst m.site m.gen = none → s.queueDepth q ≤ r.count → s.meadowOf m.dst = some w →
        exec (.messageArrival i q) s
          = .next ((s.markMsg i q .flying .bounced).updMeadow w fun x => { x with bounces := satInc x.bounces })))
    ∧ (s.findMsg (.core c) q (fun st => st == .accepted || st == .dropped || st == .bounced) = some m →
      let gone := s.updCore c fun n => { n with unacked := eraseFirst (fun x => x.global = q && x.st = m.st) n.unacked }
      (m.igen ≠ (s.core c).gen → exec (.messageResponse (.core c) q) s
        = .next (gone.updHub fun h => { h with lateDrops := satInc h.lateDrops }))
      ∧ (m.igen = (s.core c).gen → m.st ≠ .bounced → exec (.messageResponse (.core c) q) s = .next gone)
      ∧ (m.igen = (s.core c).gen → m.st = .bounced → exec (.messageResponse (.core c) q) s
        = .next (s.markMsg (.core c) q .bounced .held)))
    ∧ (s.findMsg i q (· == .held) = some m →
      (s.mayInject i = true → s.abandoned i m = false → exec (.messageResend i q) s = .next (s.markMsg i q .held .flying))
      ∧ (s.mayInject i = false ∨ s.abandoned i m = true → exec (.messageResend i q) s = .next s))

/-- STEM frames (R342, R449). That reserved bits end a frame with ST_SXT_OP is the model's choice, log entry 34. -/
def Obligations.StemFramesAreIssued : Prop :=
  ∀ (p : PortIx) (j : MailJob) (s : State), s.mailJob p = some j → j.op = 7 → s.sxt.fwRunning = true →
    ((s.sxt.stemWait ++ s.sxt.stemOut).any fun k => k.by_ == .mail p) = false →
    let fr := j.arg 0
    let op := bitsOf fr 3 0
    let id := bitsOf fr 23 8
    let arg := fr / 2 ^ 24
    let cores := (s.coresOf id).getD []
    let k : StemCmd := ⟨op, id, arg, .mail p, false⟩
    let out (w : Bool) (t : State) : Out := .next (t.updSxt fun x => { x with stemOut := x.stemOut ++ [{ k with waits := w }] })
    let stop := match s.meadowOfTop id with | some m => s.stopMeadow m | none => s.stopCores cores
    (10 ≤ s.sxt.bootStep → frameOk fr = true → s.portTarget p id = true → s.sxt.stemWait = [] → stemPlace s.sxt.stemOut k = true →
      (op = 1 → exec (.stemStop p) s = out false stop)
      ∧ (op = 2 → exec (.stemIsolate p) s = out false { stop with heath := { stop.heath with
          isolated := (s.sitesOf cores).foldl (fun m x => Sparse.put false m x true) stop.heath.isolated } })
      ∧ (op = 3 → exec (.stemReset p) s = out (s.stemReset id).1 (s.stemReset id).2)
      ∧ (op = 4 → ∀ w, s.meadowOfTarget id = some w → exec (.stemAdmit p) s = out false (s.updMeadow w fun x => { x with
          routes := Sparse.put none x.routes (bitsOf arg 11 0)
            (some (BitVec.ofNat 16 (bitsOf arg 27 12), bitsOf arg 34 28)) }))
      ∧ (op = 5 → s.bistCheck id arg = none → s.bistWaits id = false →
          exec (.stemBist p) s = out false { s with bist := { s.bist with busy := true, code := Code.ok } })
      ∧ (op = 5 → ∀ e, s.bistCheck id arg = some e → exec (.stemBist p) s = .next (s.mailEnd p e 0))
      ∧ (op = 6 → exec (.stemWatch p) s = out false (s.watchCommand ((s.basesOf id).getD []) arg)))
    ∧ (10 ≤ s.sxt.bootStep → frameOk fr = true → s.portTarget p id = false →
      let no : Out := .next (s.mailEnd p Code.stemTarget 0)
      (op = 1 → exec (.stemStop p) s = no) ∧ (op = 2 → exec (.stemIsolate p) s = no) ∧ (op = 3 → exec (.stemReset p) s = no)
      ∧ (op = 4 → exec (.stemAdmit p) s = no) ∧ (op = 5 → exec (.stemBist p) s = no) ∧ (op = 6 → exec (.stemWatch p) s = no))
    ∧ (s.sxt.bootStep < 10 ∨ frameOk fr = false →
      let no : Out := .next (s.mailEnd p Code.sxtOp 0)
      (op = 1 → exec (.stemStop p) s = no) ∧ (op = 2 → exec (.stemIsolate p) s = no) ∧ (op = 3 → exec (.stemReset p) s = no)
      ∧ (op = 4 → exec (.stemAdmit p) s = no) ∧ (op = 5 → exec (.stemBist p) s = no) ∧ (op = 6 → exec (.stemWatch p) s = no))

/-- The end of a stem command (R343 to R345). What holds an acknowledgement back is a reset that waits (R485), or a request of the
sites that the command isolates or resets (R342). -/
def Obligations.StemAcknowledgements : Prop :=
  ∀ (i : Fin 4) (k : StemCmd) (s : State), s.sxt.stemOut[i.val]? = some k → s.sxt.lockstep = false →
    s.sxt.stemWait = [] → (s.port 0).ctlQueue = [] → (s.port 1).ctlQueue = [] →
    let t := s.updSxt fun x => { x with stemOut := x.stemOut.eraseIdx i }
    let flies (n : Nat) : Prop := (s.core n).rcopies ≠ [] ∨ (∃ m ∈ (s.core n).unacked, m.st ≠ .held ∧ m.st ≠ .waiting)
      ∨ ∃ d ∈ s.pkg.deltas, ∃ q, d.owner = some (.op n q)
    (k.waits = true ∨ ((k.op = 2 ∨ k.op = 3) ∧ ∃ n ∈ (s.coresOf k.target).getD [], flies n) → exec (.stemAck i) s = .next s)
    ∧ (∀ p, k.waits = false → k.by_ = .mail p → k.op = 1 ∨ k.op = 2 ∨ k.op = 3 ∨ k.op = 6 →
      ((k.op = 2 ∨ k.op = 3 → ∀ n ∈ (s.coresOf k.target).getD [], ¬ flies n) →
        exec (.stemAck i) s = .next (t.mailEnd p Code.ok 0))
      ∧ (s.sxt.repairQueue = [] → s.bist.busy = false → exec (.stemNoAck i []) s = .next (t.mailEnd p Code.stemNoAck 0)))
    ∧ (∀ m, k.waits = false → k.by_ = .sexton → k.op = 4 → s.meadowOfTop k.target = some m →
      s.meadowOf (bitsOf k.arg 11 0) = some m →
      let n := bitsOf k.arg 11 0
      let x := s.meadow m
      let c := { s.core n with awaitAdmit := false, stopped := decide (x.state = .stopped ∨ x.state = .failed) }
      (s.core n).unstalled → (s.base (baseOf n)).gated = false → (s.base (baseOf n)).testing = false →
      (x.state ≠ .ready ∨ x.switchReq = false) → s.sxt.bootStep ≠ 10 →
      ∃ u, exec (.stemAck i) s = .next u ∧ u.sxt.stemOut = s.sxt.stemOut.eraseIdx i
        ∧ u.core n = (if (s.core n).awaitAdmit ∧ x.state = .opened then (c.setSteps x.regs).start else c)
        ∧ Sparse.get false u.heath.isolated (s.siteOf n)
          = ((Sparse.get false s.heath.failed (s.siteOf n) || meshCut s.heath.meshDown (s.siteOf n))
              && Sparse.get false s.heath.isolated (s.siteOf n)))
    ∧ (∀ p m (b : BaseIx), k.waits = false → k.by_ = .mail p → k.op = 1 → ((s.basesOf k.target).getD []).contains b.val = true →
      s.meadowOfBase b = some m → (s.meadow m).state = .opened → s.sxt.repairQueue = [] → s.sxt.repair.phase = 0 →
      s.hostStream = false →
      ∃ u, exec (.stemNoAck i [⟨b, [], false⟩]) s = .next u ∧ (u.meadow m).state = .failed ∧ (u.meadow m).code = Code.stemNoAck
        ∧ u.sxt.repair.phase = 1 ∧ u.sxt.repair.base = b ∧ (u.mbox p).ready = some (Code.stemNoAck, 0))

/-- CTL_STOP_MEADOW and CTL_STOP_PORT (R393 to R395). -/
def Obligations.ControlPageStops : Prop :=
  ∀ (p : PortIx) (f : FnIx) (m : MeadowIx) (tag : Half) (s : State),
    let full := s.updPort p fun x => { x with ctlDrops := satInc x.ctlDrops }
    let ended (g : FnIx) (e : Half) : Out := .next ((s.updPort p id).updFn p g fun x => { x with ctlTag := tag, ctlCode := e })
    let mine (k : Nat) : Prop := (s.meadow k).state ≠ .absent ∧ (s.meadow k).port = p.val
    let v : Dword := BitVec.ofNat 64 (1 + m.val * 2 ^ 4 + tag.toNat * 2 ^ 32)
    let w : Dword := BitVec.ofNat 64 (2 + tag.toNat * 2 ^ 32)
    let kept (g : FnIx) (x : Dword) (n : Nat) : State := s.updPort p fun q => { q with ctlQueue := [⟨g, x, true, n⟩] }
    (16 ≤ (s.port p).ctlQueue.length → (f.val = 0 ∨ (s.fnMeadow p f).isSome = true) →
      exec (.ctlStopMeadow p f m tag) s = .next full ∧ exec (.ctlStopPort p f tag) s = .next full)
    ∧ ((s.port p).ctlQueue = [] → s.sxt.lockstep = false →
      (mine m → (s.meadow m).state ≠ .stopped →
        exec (.ctlStopMeadow p 0 m tag) s = .next ((kept 0 v 1).issueStem ⟨1, (s.meadow m).top, 0, .ctl p, false⟩))
      ∧ (mine m → (s.meadow m).state = .stopped → exec (.ctlStopMeadow p 0 m tag) s = ended 0 Code.ok)
      ∧ (¬ mine m → exec (.ctlStopMeadow p 0 m tag) s = ended 0 Code.hostNotPermitted)
      ∧ (∀ k, f.val ≠ 0 → s.fnMeadow p f = some k → mine k → (s.meadow k).state ≠ .stopped →
        exec (.ctlStopMeadow p f m tag) s = .next ((kept f v 1).issueStem ⟨1, (s.meadow k).top, 0, .ctl p, false⟩))
      ∧ (f.val ≠ 0 → (s.fnMeadow p f).isSome = true → exec (.ctlStopPort p f tag) s = ended f Code.hostNotPermitted)
      ∧ (let l := (s.meadowIds.filter fun k => (s.meadow k).port = p).filter fun k => (s.meadow k).state ≠ .stopped
        (l = [] → exec (.ctlStopPort p 0 tag) s = ended 0 Code.ok)
        ∧ (l ≠ [] → exec (.ctlStopPort p 0 tag) s
          = .next (l.foldl (fun t k => t.issueStem ⟨1, (t.meadow k).top, 0, .ctl p, false⟩) (kept 0 w l.length)))))

/-- FIRMWARE_LOAD and STREAM_LOAD (R44, R63, R454, R471, R476). -/
def Obligations.FirmwareAndStreamsAreLoaded : Prop :=
  ∀ (p : PortIx) (j : MailJob) (b : List Byte) (s : State),
    let refused (e : Half) : Out := .next ((s.mailEnd p e 0).updSxt fun x => { x with bootCode := e, waiting := true })
    let svn := fieldNat b 8 1
    let n := 64 + fieldNat b 4 4
    let signed := s.gnoelliaSigns (b.drop n) (b.take n)
    (s.Handles p 1 j → (s.sxt.fwRunning = true ∨ s.sxt.bootStep ≠ 5) → ∀ d,
      exec (.firmwareLoad p d) s = .next (s.mailEnd p Code.sxtOp 0))
    ∧ (s.Handles p 1 j → s.sxt.fwRunning = false → s.sxt.bootStep = 5 →
      exec (.firmwareLoad p none) s = .next ((s.mailEnd p Code.sxtDma 0).updSxt fun x => { x with waiting := true })
      ∧ (fwFormatOk s.part b = false → exec (.firmwareLoad p (some b)) s = refused Code.fwFormat)
      ∧ (fwFormatOk s.part b = true → signed = false → exec (.firmwareLoad p (some b)) s = refused Code.fwSignature)
      ∧ (fwFormatOk s.part b = true → signed = true → svn < s.sxt.svn →
        exec (.firmwareLoad p (some b)) s = refused Code.fwRollback)
      ∧ (fwFormatOk s.part b = true → signed = true → s.sxt.svn ≤ svn → ∃ t, exec (.firmwareLoad p (some b)) s = .next t
        ∧ t.sxt.fwRunning = true ∧ t.sxt.bootStep = 6 ∧ t.sxt.fwHash = sha256 (b.take n)
        ∧ t.sxt.svn = (if bitOf (fieldNat b 9 1) 0 then max s.sxt.svn svn else s.sxt.svn)
        ∧ (t.mbox p).ready = some (Code.ok, 0) ∧ t.sxt.idTree.isSome = t.sxt.bootLeaf.isSome
        ∧ (if s.life = .blank ∨ s.life = .vendorTest ∨ 32768 ≤ s.sxt.leaves
            then t.sxt.bootLeaf = none ∧ t.sxt.leaves = s.sxt.leaves
            else t.sxt.bootLeaf = some s.sxt.leaves ∧ t.sxt.leaves = s.sxt.leaves + 1 ∧ t.sxt.sigsLeft = 1024)))
    ∧ (s.Handles p 2 j →
      let kept : State := { s with qorf := { s.qorf with copy := b } }
      let check := (kept.updSxt fun x => { x with bootStep := if j.step < 9 then j.step else x.bootStep }).checkStream (j.arg 1) b
      let failed (e : Half) (w : Nat) : State := { kept with qorf := { kept.qorf with code := e, word := w } }.mailEnd p e 0
      (∀ d, s.sxt.repair.phase = 4 → exec (.streamLoad p d) s = .next (s.mailEnd p Code.qBusy 0))
      ∧ (s.sxt.repair.phase ≠ 4 → s.sxt.bootStep ≠ 5 → s.sxt.bootStep ≠ 9 →
        exec (.streamLoad p none) s = .next (s.mailEnd p Code.sxtDma 0)
        ∧ ∀ e w, check = .error (e, w) → exec (.streamLoad p (some b)) s = .next (failed e w))
      ∧ (s.sxt.repair.phase ≠ 4 → s.sxt.bootStep = 9 →
        exec (.streamLoad p none) s = .next ((s.mailEnd p Code.sxtDma 0).updSxt fun x => { x with waiting := true })
        ∧ ∀ e w, check = .error (e, w) → exec (.streamLoad p (some b)) s
          = .next ((failed e w).updSxt fun x => { x with bootCode := e, waiting := true }))
      ∧ ∀ q, s.sxt.repair.phase ≠ 4 → check = .ok q →
        s.undelayed (kept.acceptQorf q (some .sexton)) → ∃ t, exec (.streamLoad p (some b)) s = .next t
          ∧ (t.mbox p).ready = some (Code.ok, BitVec.ofNat 64 q.serial) ∧ t.qorf.code = Code.ok
          ∧ t.qorf.serial = BitVec.ofNat 32 q.serial ∧ t.qorf.anyAccepted = true ∧ t.qorf.copy = q.set.qorf.copy
          ∧ (if q.full then t.qorf.fullSerial = BitVec.ofNat 32 q.serial ∧ t.qorf.fullDigest = q.digest
                ∧ t.qorf.partials = List.replicate 32 0 ∧ t.qorf.held = [q.bytes] ∧ 10 ≤ t.sxt.bootStep
              else t.qorf.fullSerial = q.set.qorf.fullSerial ∧ t.qorf.held = q.set.qorf.held ++ [q.bytes]
                ∧ t.qorf.partials = sha256 (q.set.qorf.partials ++ q.digest)))

/-- Guard requests (R451, R464 to R466). -/
def Obligations.GuardRequestsTakeEffect : Prop :=
  ∀ (p : PortIx) (j : MailJob) (b : List Byte) (cert : Bool) (s : State), s.Handles p 3 j →
    s.sxt.repair.phase ≠ 4 → b.length = j.arg 1 →
    let u : State := { s with qorf := { s.qorf with serial := BitVec.ofNat 32 (fieldNat b 24 4), anyAccepted := true } }
    let burn : State := u.updSxt fun x => { x with lcBits := x.lcBits ||| BitVec.ofNat 64 (2 ^ lcCount x.lcBits) }
    let add (t : State) (g : Guard) : State := t.updSxt fun x => { x with journal := x.journal ++ [⟨g, true⟩] }
    let rows (op : Nat) (i : Instr) (bound : Bool) (P : Out → Prop) : Prop := fieldNat b 4 1 = op →
      (∀ e, s.gCheck b bound = some e → exec i s = .next (s.mailEnd p e 0)) ∧ (s.gCheck b bound = none → P (exec i s))
    rows 1 (.guardSet p (some b)) true (fun o =>
      o = .next (((if s.gAfter b = s.guard then u else add u (s.gAfter b)).updSxt fun x =>
        { x with vtFlags := none }).mailEnd p Code.ok 0))
    ∧ rows 2 (.guardRetire p (some b)) true (fun o =>
      s.undelayed u.retireNow → ∃ t, o = .next t ∧ t.sxt.lcBits = burn.sxt.lcBits ∧ t.sxt.journal = s.sxt.journal
        ∧ (t.mbox p).ready = some (Code.ok, 0) ∧ t.qorf = u.qorf
        ∧ ∀ k, k < 64 → ∃ n, s.free ≤ n ∧ t.slotKey k = .random (n + 1))
    ∧ rows 3 (.guardReturn p (some b)) true (fun o =>
      o = .next (((add burn { Guard.zero with floor := s.guard.floor }).updSxt fun x => { x with vtFlags := none }).mailEnd p Code.ok 0))
    ∧ rows 5 (.guardProvision p (some b)) true (fun o =>
      let t := u.updSxt fun x => { x with secret := true }
      o = .next (if j.arg 2 = 0 then t.mailEnd p Code.ok 0
        else (t.emit (.hostWrite p 0 (j.arg 2) (hssKey identityTree) false)).mailEnd p Code.ok 60))
    ∧ rows 6 (.guardCertify p (some b) cert) cert (fun o =>
      o = .next ((burn.updSxt fun x => { x with cert := sliceBytes b 64 (fieldNat b 32 4) }).mailEnd p Code.ok 0))
    ∧ rows 7 (.guardTestEntry p (some b)) true (fun o =>
      o = .next ((burn.updSxt fun x => { x with deviceId := fieldNat b 8 16 }).mailEnd p Code.ok 0))

/-- ATTEST, CERT_READ, KEY_LOAD, DEBUG_READ (R457 to R461, R467). That a DEBUG_READ of CORE_LAST_ERROR clears it is DEDUCED, log
entry 32. -/
def Obligations.AttestationKeysAndDebug : Prop :=
  ∀ (p : PortIx) (j : MailJob) (b w : List Byte) (s u : State),
    let q := fieldNat b 32 1
    let n := fieldNat b 33 1
    let told := u.report b (if n = 0 then List.replicate 32 0 else sha256 w)
    (s.Handles p 4 j → s.life.identified = true → attestOk b = true → 7348 ≤ j.arg 2 →
      (q = 0xFF ∨ (q ≤ 63 ∧ (s.meadow q).state ≠ .absent ∧ (s.meadow q).port = p.val)) →
      s.rangeBytes q b (upFrom 0 n) = (.ok w, u) → u.life.identified = true → s.undelayed u →
      (∀ i k, u.sxt.bootLeaf = some i → u.sxt.idTree = some k → u.sxt.sigsLeft ≠ 0 →
        let (c, v) := u.freeBytes 32
        let sg := natToBe 4 1 ++ k.signed ++ k.key ++ (LmsTree.level2 k.name k.seed).sign (1024 - u.sxt.sigsLeft) c told
        exec (.attest p (some b)) s = .next (s.completed (((v.updSxt fun x => { x with sigsLeft := x.sigsLeft - 1 }).emit
          (.hostWrite p 0 (j.arg 1) (told ++ sg) false)).mailEnd p Code.ok 7348)))
      ∧ (u.sxt.bootLeaf = none → exec (.attest p (some b)) s = .next (s.completed (u.mailEnd p Code.attNoIdentity 0)))
      ∧ (u.sxt.bootLeaf.isSome = true → u.sxt.idTree.isSome = true → u.sxt.sigsLeft = 0 →
          exec (.attest p (some b)) s = .next (s.completed (u.mailEnd p Code.attSigs 0))))
    ∧ (s.Handles p 5 j → s.life.identified = true → s.sxt.cert.length ≤ j.arg 1 → exec (.certRead p true) s
      = .next ((s.emit (.hostWrite p 0 (j.arg 0) s.sxt.cert false)).mailEnd p Code.ok s.sxt.cert.length))
    ∧ (s.Handles p 6 j → s.life = .owned → 1676 ≤ b.length → fieldNat b 0 4 = 0x59454B4D → fieldZero b 5 3 = true →
      let m := fieldNat b 4 1
      let x := s.meadow m
      let c := fieldNat b 8 8
      m ≤ 63 → x.state ≠ .absent → x.port = p.val → x.state.isStopped = true → s.slotStopped x.slot = true →
      (∀ l, Sparse.get none s.sxt.keyCounters m = some l → l < c) →
      let signed := hssVerify s.guard.owner (b.drop 1676) (b.take 1676)
      (∀ k, signed = true → s.unwrap b = some k → exec (.keyLoad p (some b)) s
        = .next (((s.updPkg fun g => { g with keys := Sparse.put (.random 0) g.keys x.slot (.loaded k) }).updSxt
            fun y => { y with keyCounters := Sparse.put none y.keyCounters m (some c) }).mailEnd p Code.ok 0))
      ∧ (signed = false → exec (.keyLoad p (some b)) s = .next (s.mailEnd p Code.guardSignature 0))
      ∧ (signed = true → s.unwrap b = none → exec (.keyLoad p (some b)) s = .next (s.mailEnd p Code.keyUnwrap 0)))
    ∧ (s.Handles p 8 j → s.life = .owned →
      let r := bitsOf (j.arg 0) 11 0
      let sp := bitsOf (j.arg 0) 13 12
      let a := j.arg 1
      (s.debugOk p r = false → exec (.debugRead p) s = .next (s.mailEnd p Code.debugLocked 0))
      ∧ (s.debugOk p r = true → sp = 0 → exec (.debugRead p) s
        = .next ((if a = 0x019 then s.updCore r fun n => { n with lastError := 0 } else s).mailEnd p Code.ok
            (s.sysreg r a).toNat))
      ∧ (s.debugOk p r = true → sp = 1 → a % 8 = 0 → a < 131072 → exec (.debugRead p) s
        = .next (s.mailEnd p Code.ok (Mem.nat (s.core r).near a 8))))

/-- The end of a mailbox command (R446 to R449); SPDM and TDISP (R401, R463); the transitions are log entry 33's. -/
def Obligations.SextonPublishesAndAnswersSpdm : Prop :=
  ∀ (p : PortIx) (j : MailJob) (e : Half) (r : Dword) (f : FnIx) (x y id : List Byte) (s : State),
    let shown (e : Half) (r : Dword) : Out := .next ((((s.updMbox p fun x =>
      { x with result := r, code := e, rtag := j.tag, done := true, job := none, ready := none }).updSxt fun x =>
        { x with mailQueue := x.mailQueue.drop 1 }).raise p 0 12).kickRepair Code.coreSram)
    let level := Sparse.get 0 s.sxt.spdm p.val
    let lvl (k : Nat) : State := s.updSxt fun x => { x with spdm := Sparse.put 0 x.spdm p.val k }
    let good (t : State) : Out := .next (t.emit (.spdm p f [0, 0]))
    let moved (t : Tdi) : State := s.updFn p f fun x => { x with tdi := t }
    (s.sxt.lockstep = false → s.sxt.mailQueue.head? = some p.val → (s.mbox p).job = some j →
      ((s.mbox p).ready = some (e, r) → exec (.mailboxCommandComplete p) s = shown e r)
      ∧ ((s.mbox p).ready = none → j.op = 0 ∨ 8 < j.op → exec (.mailboxCommandComplete p) s = shown Code.sxtOp 0))
    ∧ (∀ op, s.mailJob p = some j → j.op = op →
      (op = 3 ∨ op = 4 ∨ op = 6 → exec (.sextonDmaTimeout p) s = .next (s.mailEnd p Code.sxtDma 0))
      ∧ (op = 1 ∨ op = 2 → s.sxt.bootStep = 5 ∨ s.sxt.bootStep = 9 → exec (.sextonDmaTimeout p) s
        = .next ((s.mailEnd p Code.sxtDma 0).updSxt fun x => { x with waiting := true })))
    ∧ (s.sxt.fwRunning = true → s.sxt.lockstep = false →
      exec (.spdmRequest p f .other) s = .next (s.emit (.spdm p f []))
      ∧ (id ≠ Config.gnoelliaId → exec (.spdmRequest p f (.secret id x y)) s = .next (s.emit (.spdm p f [])))
      ∧ (∀ i k, s.sxt.bootLeaf = some i → s.sxt.idTree = some k → s.life.identified = true → s.sxt.sigsLeft ≠ 0 →
        ∃ t, exec (.spdmRequest p f (.secret Config.gnoelliaId x y)) s = .next t
          ∧ t.sxt.sigsLeft = s.sxt.sigsLeft - 1 ∧ Sparse.get 0 t.sxt.spdm p.val = 1
          ∧ Sparse.get [] t.sxt.psk p.val = sha256 (s.secretOf x ++ natToBytes 16 s.sxt.deviceId)
          ∧ t.out = s.out ++ [.spdm p f (natToBe 4 1 ++ k.signed ++ k.key
              ++ (LmsTree.level2 k.name k.seed).sign (1024 - s.sxt.sigsLeft) (s.freeBytes 32).1 (sha256 (x ++ y)))])
      ∧ (1 ≤ level → x = Sparse.get [] s.sxt.psk p.val → exec (.spdmRequest p f (.pskExchange x)) s = good (lvl 2))
      ∧ (level = 0 ∨ x ≠ Sparse.get [] s.sxt.psk p.val →
        exec (.spdmRequest p f (.pskExchange x)) s = .next (s.emit (.spdm p f [])))
      ∧ (level = 2 → exec (.spdmRequest p f (.ideKm x)) s = good (s.updFn p f fun y => { y with ide := true, ideKey := x })
        ∧ ((s.fn p f).tdi = .unlocked → exec (.spdmRequest p f (.tdisp .lock)) s = good (moved .locked))
        ∧ ((s.fn p f).tdi = .locked → (s.fn p f).ide = true → exec (.spdmRequest p f (.tdisp .start)) s = good (moved .run))
        ∧ ((s.fn p f).tdi ≠ .run → exec (.spdmRequest p f (.tdisp .stop)) s = good (moved .unlocked))
        ∧ (∀ m, (s.fn p f).tdi = .run → s.fnMeadow p f = some m → (s.meadow m).confidential = true →
          exec (.spdmRequest p f (.tdisp .stop)) s
            = good ((moved .unlocked).issueStem ⟨1, (s.meadow m).top, 0, .sexton, false⟩))))
    ∧ ((s.fn p f).tdi = .run → ∀ err : Bool,
      let t := moved (if err then .error else .unlocked)
      (∀ m, s.fnMeadow p f = some m → (s.meadow m).confidential = true → exec (.tdiLeaveRun p f err) s
        = .next (t.issueStem ⟨1, (s.meadow m).top, 0, .sexton, false⟩))
      ∧ (s.fnMeadow p f = none → exec (.tdiLeaveRun p f err) s = .next t))

/-- Openings (R350, R351; R271 to R274). That the host alone opens its failed epoch again is DEDUCED, log entry 23. -/
def Obligations.EpochsOpen : Prop :=
  ∀ (m : MeadowIx) (j : Nat) (e : List Byte) (s : State),
    let x := s.meadow m
    let q := x.seq j
    let opens (i : Instr) (t : State) (r : StepRegs) (host : Bool) : Prop :=
      let u := t.clearRing m
      s.undelayed u → exec i s
        = .next (s.completed ((u.updCores (u.meadowCores m) fun c => { (c.setSteps r).start with rings := [] }).updMeadow m
          fun x => { x with
            state := .opened, regs := r, openReq := false, replay := false, openedByHost := host, drained := false,
            swSeq := 1, swIdx := 0, swTaken := [], swGot := [], stopFail := 0 }))
    let entry : StepRegs :=
      { index := BitVec.ofNat 16 q.step, t := BitVec.ofNat 32 (fieldNat e 4 4), sigma := BitVec.ofNat 32 (fieldNat e 8 4),
        guide := BitVec.ofNat 32 (fieldNat e 12 4), flags := BitVec.ofNat 32 (fieldNat e 16 4), frame := q.frame }
    let coded (c : Half) : Out := .next (s.updMeadow m fun x => { x with code := c })
    let due := s.updMeadow m fun x => { x with openReq := true }
    (¬ s.hostMay m → exec (.hostOpen m) s = .next (s.hostDenied m 0))
    ∧ (s.hostMay m → x.resident = none ∨ s.shownState m ≠ .ready → exec (.hostOpen m) s = coded Code.epochState)
    ∧ (s.hostMay m → s.shownState m = .ready → x.resident = some j →
      (q.state = .running ∨ q.state = .waiting → exec (.hostOpen m) s = coded Code.epochBusy)
      ∧ (q.state ≠ .running → q.state ≠ .waiting → due.mayOpen m = true → opens (.hostOpen m) due StepRegs.zero true)
      ∧ (q.state ≠ .running → q.state ≠ .waiting → due.mayOpen m = false → exec (.hostOpen m) s = .next due))
    ∧ (s.mayOpen m = false → exec (.epochOpen m) s = .next s)
    ∧ (s.mayOpen m = true → x.openReq = true → opens (.epochOpen m) s StepRegs.zero true)
    ∧ (s.mayOpen m = true → x.openReq = false → x.replay = true → x.openedByHost = false →
      opens (.epochOpen m) s x.regs false)
    ∧ (s.mayOpen m = true → x.openReq = false →
      x.replay = false ∨ x.openedByHost = true → x.resident = some j → q.state = .waiting →
      q.hold = false → q.step ≠ 0 ∨ q.frame.toNat < q.limit.toNat → q.entry = some e →
      opens (.epochOpen m) (s.updMeadow m (·.updSeq j fun q => { q with state := .running })) entry false)

/-- Contexts and job switches (R271 to R277, R357 to R361); what R388 refuses of a confidential meadow's registers. -/
def Obligations.SequencersStartAndJobsSwitch : Prop :=
  ∀ (m : MeadowIx) (j next : JobIx) (b : List Byte) (c : Half) (s t : State),
    let x := s.meadow m
    let q := x.seq j
    let set (t : State) (f : Seq → Seq) : State := t.updMeadow m (·.updSeq j f)
    let refused (c : Half) : Out :=
      .next ((set s fun q => { q with code := c }).refuseWrite x.port x.fn c (0x21008 + 0x80 * j.val))
    let now (f : Meadow → Meadow) : Out := .next (s.updMeadow m f)
    (¬ s.hostMay m → exec (.seqStart m j) s = .next (s.hostDenied m (0x1008 + 0x80 * j.val))
      ∧ exec (.switch m next) s = .next (s.hostDenied m 0))
    ∧ (s.hostMay m → x.state ≠ .absent →
      (q.state = .running ∨ q.state = .waiting → exec (.seqStart m j) s = refused Code.seqBusy)
      ∧ (q.state = .idle ∨ q.state = .stopped → q.steps = 0 ∨ 4096 < q.steps ∨ q.schedule % 64 ≠ 0 →
        exec (.seqStart m j) s = refused Code.seqSetup)
      ∧ (q.state = .idle ∨ q.state = .stopped → 1 ≤ q.steps → q.steps ≤ 4096 → q.schedule % 64 = 0 →
        exec (.seqStart m j) s = .next (set s fun q =>
          { q with
            state := .waiting, step := 0, frame := q.first, framesDone := 0, code := 0, runSchedule := q.schedule,
            runSteps := q.steps, entry := none, ahead := none })))
    ∧ (q.state = .waiting → q.entry = none → s.undelayed t →
      let stop (c : Half) : Out := .next (s.completed (set t fun q => { q with state := .stopped, code := c }))
      let good := fieldNat b 0 2 = q.step ∧ fieldZero b 2 2 = true ∧ fieldZero b 20 44 = true
      (s.mreadAll m (q.runSchedule + 64 * q.step) 64 = (.error c, t) → exec (.scheduleRead m j) s = stop Code.seqScheduleRead)
      ∧ (s.mreadAll m (q.runSchedule + 64 * q.step) 64 = (.ok b, t) → ¬ good → exec (.scheduleRead m j) s = stop Code.seqEntry)
      ∧ (s.mreadAll m (q.runSchedule + 64 * q.step) 64 = (.ok b, t) → good →
        exec (.scheduleRead m j) s = .next (s.completed (set t fun q => { q with entry := some b }))))
    ∧ (q.state = .running → q.ahead = none → q.step + 1 < q.runSteps → fieldNat b 0 2 = q.step + 1 → fieldZero b 2 2 = true →
      fieldZero b 20 44 = true → s.mreadAll m (q.runSchedule + 64 * (q.step + 1)) 64 = (.ok b, t) →
      s.undelayed t → exec (.scheduleRead m j) s = .next (s.completed (set t fun q => { q with ahead := some b })))
    ∧ (s.hostMay m → s.shownState m = .absent ∨ x.jobs < next →
      exec (.switch m next) s = now fun x => { x with code := Code.jobRange })
    ∧ (s.hostMay m → next ≤ x.jobs → s.shownState m = .ready →
      (∀ r, x.resident = some r → r ≠ next → exec (.switch m next) s = now fun x =>
        { x with nextJob := next, switchReq := false, state := .switching, switchPhase := .saving next (x.seq r).save })
      ∧ (x.resident = some next.val → exec (.switch m next) s = now fun x =>
        { x with nextJob := next, switchReq := false })
      ∧ (x.resident = none → exec (.switch m next) s = now fun x =>
        { x with
          nextJob := next, switchReq := false, state := .switching,
          switchPhase := .loading next .ready (x.seq next).program (x.seq next).save }))
    ∧ (s.hostMay m → next ≤ x.jobs → x.state = .opened →
      exec (.switch m next) s = now fun x => { x with nextJob := next, switchReq := true })
    ∧ (s.hostMay m → next ≤ x.jobs → x.state = .stopped → x.resident = none → exec (.switch m next) s = now fun x =>
        { x with
          nextJob := next, switchReq := false, state := .switching,
          switchPhase := .loading next .stopped (x.seq next).program (x.seq next).save })

/-- Boundaries and job switches (R352 to R361, R490). -/
def Obligations.BoundariesEndAndJobsMove : Prop :=
  ∀ (m : MeadowIx) (j next : Nat) (b : List Byte) (c : Half) (s t : State),
    let x := s.meadow m
    let cleared (u : State) : Prop := (∀ n ∈ s.meadowCores m, ∃ h, u.core n = { (s.core n).clear with stopped := h })
      ∧ ∀ n, n ∉ s.meadowCores m → u.core n = s.core n
    (s.meadowDrained m = false → exec (.boundaryDrained m) s = .next s)
    ∧ (s.meadowDrained m = true → x.state = .boundary →
      ∃ u, exec (.boundaryDrained m) s = .next u ∧ cleared u ∧ (u.meadow m).count = x.count + 1 ∧ (u.meadow m).attempts = 0
        ∧ (x.stopDue = true → (u.meadow m).state = .stopped ∧ (u.meadow m).stopDue = false)
        ∧ (x.stopDue = false → x.switchReq = false → x.slice = 0 → (u.meadow m).state = .ready)
        ∧ (x.resident = some j → x.openedByHost = false → (x.seq j).state = .running → (x.seq j).step + 1 < (x.seq j).runSteps →
          ((u.meadow m).seq j).state = .waiting ∧ ((u.meadow m).seq j).step = (x.seq j).step + 1
            ∧ ((u.meadow m).seq j).entry = (x.seq j).ahead)
        ∧ (x.resident = some j → x.openedByHost = false → (x.seq j).state = .running → (x.seq j).runSteps ≤ (x.seq j).step + 1 →
          ((u.meadow m).seq j).state = .waiting ∧ ((u.meadow m).seq j).step = 0
            ∧ ((u.meadow m).seq j).framesDone = (x.seq j).framesDone + 1))
    ∧ (s.meadowDrained m = true → x.state = .failed → x.drained = false → s.sxt.repair.phase = 0 →
      x.replayDue = false → ∃ u, exec (.boundaryDrained m) s = .next u ∧ cleared u
        ∧ (x.attempts < x.limit → x.auto = true → x.switchReq = false → (u.meadow m).state = .ready ∧ (u.meadow m).replay = true)
        ∧ (x.attempts < x.limit → x.auto = false → (u.meadow m).state = .failed ∧ (u.meadow m).code = x.code)
        ∧ (x.limit ≤ x.attempts → (u.meadow m).state = .failed ∧ (u.meadow m).code = Code.replayLimit))
    ∧ (∀ area, s.allOn m = true → x.state = .switching → x.switchPhase = .saving next area → x.resident = some j →
      s.undelayed t → s.saveJob m area nearSectors deepSectors 0 (s.meadowCores m) = (.ok (), t) →
      exec (.jobSaveDone m) s = .next (s.completed (t.updMeadow m fun x =>
        { x with
          resident := none, replay := false, switchPhase := .loading next .ready (x.seq next).program (x.seq next).save,
          seqs := (x.updSeq j fun q => if q.state = .running then { q with state := .waiting } else q).seqs })))
    ∧ (∀ back table area, s.allOn m = true → x.state = .switching → x.switchPhase = .loading next back table area →
      s.undelayed t →
      (s.loadJob m table area next nearSectors deepSectors 0 (s.meadowCores m) [] = (.ok b, t) →
        (t.meadow m).stopDue = false → (t.meadow m).switchReq = false →
        exec (.jobLoadDone m) s = .next (s.completed (t.updMeadow m fun x =>
          { x with
            resident := some next, sliceDone := 0, jobHash := Sparse.put 0 x.jobHash next (bytesToBe (sha256 b)),
            state := back, switchPhase := .none })))
      ∧ (s.loadJob m table area next nearSectors deepSectors 0 (s.meadowCores m) [] = (.error c, t) →
        exec (.jobLoadDone m) s = .next (s.completed ((t.updMeadow m fun x =>
          { x with
            state := .stopped, stopWas := .ready, code := c, resident := none, switchPhase := .none,
            stopDue := false }).raiseM m 8))))

/-- Writes of the recovery registers (R302, R490, R491, R494). -/
def Obligations.RecoveryWrites : Prop :=
  ∀ (m : MeadowIx) (p : PortIx) (s : State),
    let x := s.meadow m
    let l := s.meadowCores m
    let go (t : State) : Out := let u := t.issueAdmits l .sexton
      .next (if (u.meadow m).state = .opened ∧ (∀ n ∈ u.meadowCores m, (u.core n).ctl = .ended) then
        u.updMeadow m fun x => { x with state := .boundary, drained := false } else u)
    (¬ s.hostMay m → exec (.stallClear m) s = .next (s.hostDenied m 0x90)
      ∧ exec (.replay m) s = .next (s.hostDenied m 0x40) ∧ exec (.resume m) s = .next (s.hostDenied m 0x40))
    ∧ (s.hostMay m → exec (.stallClear m) s = .next (s.updCores l fun c => { c with stalls := [] }))
    ∧ (s.hostMay m → x.state ≠ .failed → exec (.replay m) s = .next s)
    ∧ (s.hostMay m → x.state = .failed → x.drained = true → s.sxt.repair.phase = 0 → x.switchReq = false → exec (.replay m) s
      = .next ((s.updCores l fun c => { c with stopped := false }).updMeadow m fun x =>
          { x with state := .ready, replay := true, replayDue := false }))
    ∧ (s.hostMay m → x.state = .failed → x.drained = false →
      exec (.replay m) s = .next (s.updMeadow m fun x => { x with replayDue := true }))
    ∧ (s.hostMay m → x.state ≠ .stopped → exec (.resume m) s = .next s)
    ∧ (s.hostMay m → x.state = .stopped → s.sxt.lockstep = false →
      (x.stopWas = .opened → x.stopFail = 0 → exec (.resume m) s
        = go ((s.updMeadow m fun x => { x with state := .opened }).updCores l fun c => { c with progress := false }))
      ∧ (x.stopWas = .ready → x.switchReq = false → exec (.resume m) s
        = go ((s.updCores l fun c => { c with awaitAdmit := true }).updMeadow m fun x => { x with state := .ready }))
      ∧ (x.stopWas = .failed → x.drained = false → exec (.resume m) s
        = go ((s.updCores l fun c => { c with awaitAdmit := true }).updMeadow m fun x =>
            { x with state := .failed, stopFail := 0, replayDue := true })))
    ∧ (s.sxt.benched = false → exec (.faultClear p) s = .next s)
    ∧ (s.sxt.benched = true → s.sxt.cause ≠ Code.benched → exec (.faultClear p) s
      = .next (s.updFn p 0 fun x => { x with writeCode := Code.benched, writeOffset := 0x100048 }))
    ∧ (s.sxt.benched = true → s.sxt.cause = Code.benched → s.sxt.bootStep ≠ 10 → exec (.faultClear p) s
      = .next (s.updSxt fun x => { x with benched := false, cause := 0, warmTimes := [] }))

/-- Watches (R488, R489) and memory timeouts (R486). -/
def Obligations.WatchesAndTimeoutsFire : Prop :=
  ∀ (b : BaseIx) (m : Nat) (c : CoreIx) (e : Fin 6) (o : EngOp) (r : List EngOp) (s : State),
    let quiet := s.updCores (coresOfBase b) fun c => { c with progress := false }
    let st := (s.base b).stage
    (s.meadowOfBase b = none → exec (.watchFire b) s = .next s)
    ∧ (s.meadowOfBase b = some m → s.watching m b = false → exec (.watchFire b) s = .next s)
    ∧ (s.meadowOfBase b = some m → s.watching m b = true → s.sxt.lockstep = false → s.silentCores b = [] →
      exec (.watchFire b) s = .next quiet)
    ∧ (s.meadowOfBase b = some m → s.watching m b = true → s.sxt.lockstep = true → exec (.watchFire b) s = .next s)
    ∧ (s.meadowOfBase b = some m → s.watching m b = true → s.sxt.lockstep = false → s.silentCores b ≠ [] →
      s.sxt.stemWait = [] →
      let fired := (quiet.updMeadow m fun x => { x with wStage := st, wBase := b, fires := satInc x.fires }).updBase b fun x =>
        { x with stage := min 3 (st + 1) }
      let late (d : Domain) : Out := .next (fired.updSxt fun x => { x with delayed := x.delayed ++ [⟨d, Code.watch, true, false⟩] })
      let anew (t : State) (n : Nat) : Prop := (t.core n).gen = (s.core n).gen + 1 ∧ (t.core n).near = (s.core n).near
        ∧ (t.core n).deep = (s.core n).deep ∧ (t.core n).prog = (s.core n).prog ∧ (t.core n).awaitAdmit = true
        ∧ (t.core n).g = [] ∧ (t.core n).tok = [] ∧ (t.core n).eng = [] ∧ (t.core n).ctl = .idle
      (st = 0 → ∃ t, exec (.watchFire b) s = .next t ∧ (t.meadow m).state = .opened ∧ (t.meadow m).wStage = 0
        ∧ (t.meadow m).wBase = b ∧ (t.meadow m).fires = satInc (s.meadow m).fires ∧ (t.base b).stage = 1
        ∧ (∀ n ∈ s.silentCores b, t.core n
            = if s.tooSoon [n] then quiet.core n else { s.core n with progress := false }.reset s.tick)
        ∧ ∀ n, n ∉ s.silentCores b → t.core n = quiet.core n)
      ∧ (st = 1 → let d := Domain.tussock (0x1000 + b)
        (s.tooSoon (s.domainCores d) = true → exec (.watchFire b) s = late d)
        ∧ (s.tooSoon (s.domainCores d) = false → ∃ t, exec (.watchFire b) s = .next t
          ∧ t = (fired.resetDomain d Code.watch).issueAdmits (coresOfBase b) .sexton ∧ (t.base b).stage = 2
          ∧ (∀ n ∈ coresOfBase b, anew t n) ∧ (t.meadow m).state = .failed ∧ (t.meadow m).code = Code.watch))
      ∧ (st = 2 → let d := Domain.meadow m
        (s.tooSoon (s.domainCores d) = true → exec (.watchFire b) s = late d)
        ∧ (s.tooSoon (s.domainCores d) = false → (s.meadowCores m).Nodup → ∃ t, exec (.watchFire b) s = .next t
          ∧ t = (fired.resetDomain d Code.watch).issueAdmits (s.meadowCores m) .sexton ∧ (t.base b).stage = 3
          ∧ (∀ n ∈ s.meadowCores m, anew t n) ∧ (∀ n, n ∉ s.meadowCores m → t.core n = quiet.core n)
          ∧ (∀ k ∈ s.meadowBases m, (t.base k).ptrCache = [] ∧ (t.base k).leafCache = [] ∧ (t.base k).ctxDir = none
            ∧ (t.base k).ctxBuf = [] ∧ (t.base k).lookupQ = [])
          ∧ (t.meadow m).swSeq = 1 ∧ (t.meadow m).swIdx = 0 ∧ (t.meadow m).wStage = 2
          ∧ (t.meadow m).state = .failed ∧ (t.meadow m).code = Code.watch))
      ∧ (3 ≤ st → let d := Domain.warm
        (s.tooSoon (s.domainCores d) = true → exec (.watchFire b) s = late d)
        ∧ (s.tooSoon (s.domainCores d) = false → s.bootStopped = true → exec (.watchFire b) s = .next fired)
        ∧ (s.tooSoon (s.domainCores d) = false → s.bootStopped = false → s.trn.st.alive = false →
          ∃ t, exec (.watchFire b) s = .next t ∧ t.sxt.bootStep = 6 ∧ t.sxt.warm = true ∧ t.sxt.bootTime = 0
            ∧ t.sxt.devGen = s.sxt.devGen + 1 ∧ t.sxt.warmTimes
              = (s.sxt.warmTimes.filter fun t => s.tick < t + 2 ^ 37) ++ [s.tick] ∧ (t.meadow m).rcode = Code.watch)))
    ∧ ((s.core c).engq (e + 1) = o :: r → (s.core c).unstalled →
      (o.requests (e + 1) = false → exec (.memTimeout c e) s = .next s)
      ∧ (o.requests (e + 1) = true → s.meadowOf c = some m → exec (.memTimeout c e) s
        = .next ((s.finished c (e + 1) o r Code.memTimeout id).failEpoch m Code.memTimeout))
      ∧ (o.requests (e + 1) = true → s.meadowOf c = none → exec (.memTimeout c e) s
        = .next (s.finished c (e + 1) o r Code.memTimeout id)))
    ∧ ((s.core c).engq (e + 1) = [] → exec (.memTimeout c e) s = .next s)

/-- Resets of the device (R469, R480 to R485, R494). The tick and the free counter are the model's, log entry 4. -/
def Obligations.ResetsOfTheDevice : Prop :=
  ∀ (p : PortIx) (m : Nat) (ok rf ot : Bool) (strap : Fin 8) (s : State),
    let up := (s.updPower fun x => { x with strap := strap }).updSxt fun x => { x with power := true, devGen := x.devGen + 1, bootTime := 0 }
    let at_ (step : Nat) (c : Half) (l w : Bool) : Out := .next (up.updSxt fun x =>
      { x with bootStep := step, bootCode := c, lockstep := x.lockstep || l, waiting := x.waiting || w })
    let asked (i : Instr) (d : Domain) : Prop :=
      (s.carriesAll p = false → exec i s = .next (s.updFn p 0 fun x =>
        { x with writeCode := Code.notPermitted, writeOffset := 0x100040 }))
      ∧ (s.carriesAll p = true → s.sxt.fwRunning = false ∨ s.sxt.lockstep = true → exec i s = .next s)
      ∧ (s.carriesAll p = true → s.sxt.fwRunning = true → s.sxt.lockstep = false → s.tooSoon (s.domainCores d) = true → exec i s
        = .next (s.updSxt fun x => { x with delayed := x.delayed ++ [⟨d, Code.reset, true, false⟩] }))
    (s.sxt.power = true → exec (.powerGood ⟨ok, rf⟩ ot strap) s = .next s)
    ∧ (s.sxt.power = false → exec (.powerGood ⟨false, rf⟩ ot strap) s = at_ 3 Code.bootLockstep true false
      ∧ exec (.powerGood ⟨true, false⟩ ot strap) s = at_ 3 Code.bootRefclk false false
      ∧ exec (.powerGood ⟨true, true⟩ false strap) s = at_ 4 Code.bootOtp false false
      ∧ exec (.powerGood ⟨true, true⟩ true strap) s = at_ 5 Code.ok false true)
    ∧ exec .coldReset s = .next { State.reset with
        pending := s.pending, free := s.free, tick := s.tick, part := s.part, out := s.out,
        power := { Power.zero with cap := s.part.watts },
        sxt := { Sexton.zero with
          lcBits := s.sxt.lcBits, svn := s.sxt.svn, leaves := s.sxt.leaves, journal := s.sxt.journal,
          deviceId := s.sxt.deviceId, romKey := s.sxt.romKey, secret := s.sxt.secret, cert := s.sxt.cert,
          macBase := s.sxt.macBase, devGen := s.sxt.devGen } }
    ∧ asked (.heathReset p) .heath ∧ asked (.warmReset p) .warm
    ∧ (s.sxt.fwRunning = true → s.sxt.lockstep = false →
      (s.carriesAll p = true → s.tooSoon (s.domainCores .heath) = false → (s.domainCores .heath).Nodup → s.sxt.stemWait = [] →
        ∃ t, exec (.heathReset p) s = .next t
          ∧ (∀ n ∈ s.domainCores .heath, (t.core n).gen = (s.core n).gen + 1 ∧ (t.core n).near = (s.core n).near
            ∧ (t.core n).deep = (s.core n).deep ∧ (t.core n).prog = (s.core n).prog ∧ (t.core n).awaitAdmit = true
            ∧ (t.core n).unacked = [])
          ∧ ((s.meadow m).state = .opened → m ∈ s.meadowIds → (t.meadow m).state = .failed ∧ (t.meadow m).code = Code.reset))
      ∧ (s.carriesAll p = true → s.tooSoon (s.domainCores .warm) = false → s.bootStopped = true →
          exec (.warmReset p) s = .next s)
      ∧ (s.carriesAll p = true → s.tooSoon (s.domainCores .warm) = false → s.bootStopped = false →
          s.undelayed (s.warmReset Code.reset) → ∃ t, exec (.warmReset p) s = .next t
          ∧ t.sxt.bootStep = 6 ∧ t.sxt.warm = true ∧ t.sxt.bootTime = 0 ∧ t.sxt.devGen = s.sxt.devGen + 1
          ∧ (2 ≤ (s.sxt.warmTimes.filter fun t => s.tick < t + 2 ^ 37).length → t.sxt.benched = true)))
    ∧ (s.sxt.power = false → exec .lockstepDisagree s = .next s)
    ∧ (s.sxt.power = true → s.sxt.bootStep = 3 → exec .lockstepDisagree s
      = .next (s.updSxt fun x => { x with bootCode := Code.bootLockstep, lockstep := true }))
    ∧ (s.sxt.power = true → s.sxt.bootStep ≠ 3 → ∃ t, exec .lockstepDisagree s = .next t ∧ t.sxt.benched = true
      ∧ t.sxt.lockstep = true
      ∧ (m ∈ s.meadowIds → (s.meadow m).state = .ready ∨ (s.meadow m).state = .opened ∨ (s.meadow m).state = .failed →
        (t.meadow m).state = .stopped))

/-- Self-test (R498 to R504) and step 6 (R305). What a partition leaves, and the rounds of sixteen slices, are as the rules say; the
seed and the signatures are free, log entry 70. -/
def Obligations.SelfTestsAndStackTrainingEnd : Prop :=
  ∀ (b : Fin 263) (r : PartReport) (saved : Bool) (j : BistJob) (tests : List BistJob) (l : List StackReport) (s : State),
    let entry (t : State) : PartTest := Sparse.get ⟨false, false, false, 0⟩ t.bist.parts (32 * b.val + r.part.val)
    let old := entry s
    let result : PartTest :=
      { tested := true,
        logicFail := if j.logic then r.signature != Config.misrExpected s.sxt.fwHash (s.partKind b r.part) else old.logicFail,
        memoryFail := if j.memory then r.memoryFail else old.memoryFail,
        signature := if j.logic then r.signature else old.signature }
    let sound := result.logicFail = false ∧ result.memoryFail = false
    let run := s.sliceCores b
    let whole := ∀ n ∈ run, Sparse.get false s.heath.failed (s.siteOf n) = false
    let round (k : List BistJob) : List BistJob :=
      if k.any (·.begun) then k else (k.take 16).map (fun x => { x with begun := true }) ++ k.drop 16
    let ends := s.bist.tests = j :: tests ∧ j.slice = b.val ∧ j.begun = true
    ((∀ k ∈ s.bist.tests, k.slice = b.val → k.begun = false) → exec (.bistComplete b [r] saved) s = .next s)
    ∧ (ends → tests = [] → j.why = .startup → s.sxt.bootStep = 8 → s.sxt.bootCode ≠ Code.bootHub → s.sxt.warm = false → sound →
      partExists b r.part = true → ∃ t, exec (.bistComplete b [r] saved) s = .next t ∧ entry t = result ∧ t.bist.tests = []
        ∧ t.sxt.bootStep = 9 ∧ t.sxt.waiting = true)
    ∧ (∀ site, ends → j.why = .startup → (∃ k ∈ tests, k.why = .startup) → s.sxt.warm = false → ¬ sound → b.val < 256 →
      partSite b r.part = some site → ∃ t, exec (.bistComplete b [r] saved) s = .next t ∧ entry t = result
        ∧ Sparse.get false t.heath.failed site = true ∧ Sparse.get false t.heath.isolated site = true
        ∧ t.bist.tests = round tests)
    ∧ (ends → j.why = .request true → b.val < 256 → tests = [] ∨ tests.any (·.begun) = true → s.sxt.stemWait = [] →
      (sound → whole → ∃ t, exec (.bistComplete b [r] true) s = .next t ∧ t.bist.tests = tests
        ∧ (t.base b).testing = false ∧ (t.base b).gated = false
        ∧ (j.logic = true → Sparse.get 0 t.bist.prpg b = Config.prpgEnd)
        ∧ ∀ n ∈ run, ∀ v, Sparse.get none s.sxt.saved n = some v → (t.core n).near = v.near ∧ (t.core n).deep = v.deep
          ∧ (t.core n).gen = (s.core n).gen + 1 ∧ (t.core n).awaitAdmit = true)
      ∧ (∀ n ∈ run, ¬ sound → partSite b r.part = some (s.siteOf n) → (s.meadowOf n).isSome = true → s.sxt.repairQueue = [] →
        s.sxt.repair.phase = 0 → s.hostStream = false → s.sxt.lockstep = false → ∃ t,
          exec (.bistComplete b [r] true) s = .next t ∧ t.bist.tests = tests ∧ t.sxt.repair.phase = 3 ∧ t.sxt.repair.base = b
          ∧ t.sxt.repair.why = .test ∧ t.sxt.saved = s.sxt.saved ∧ t.cores = s.cores))
    ∧ (ends → j.why = .repair → b.val < 256 → tests = [] ∨ tests.any (·.begun) = true → sound →
      ∃ t, exec (.bistComplete b [r] true) s = .next t
        ∧ t.bist.tests = tests ∧ entry t = (if partExists b r.part then result else old)
        ∧ t.sxt.repair = s.sxt.repair ∧ t.sxt.saved = s.sxt.saved)
    ∧ (s.pending = [] → s.sxt.lockstep = false → s.sxt.delayed = [] → s.life ≠ .retired →
      (s.sxt.repair.phase = 3 → s.hostStream = false → (∀ k ∈ s.bist.tests, k.why ≠ .repair) → ∃ t, step s = .next t
        ∧ t.sxt.repair = { s.sxt.repair with phase := 4 })
      ∧ (∀ m, s.sxt.repair.phase = 4 → s.sxt.repair.base = b.val → s.sxt.repair.trunk = false → b.val < 256 → whole →
        s.sxt.stemWait = [] → s.meadowOfBase b = some m →
        (∀ n ∈ run, (Sparse.get none s.sxt.saved n).isSome = true) → ∃ t, step s = .next t ∧ t.sxt.repair.phase = 6
          ∧ t.sxt.repair.left = (run.filter fun n => (s.meadowOf n).isSome).length))
    ∧ (s.sxt.bootStep = 6 → s.sxt.stacksDone = false → l.length = s.part.stacks → ∃ t, exec (.stackTrainingDone l) s = .next t
      ∧ t.sxt.stacksDone = true
      ∧ (∀ k, k < s.part.stacks → t.stack k = { s.stack k with
          st := if (s.stack k).st = .failed ∨ (l.getD k ⟨0, true⟩).good = false then .failed else .inService,
          training := [], spares := (l.getD k ⟨0, true⟩).spares })
      ∧ ((s.swarm.any fun e => e.2.st == .training || e.2.st == .retraining) = false → (s.trn.lanes.any (·.2 == 1)) = false →
        t.sxt.bootStep = 8
        ∧ t.bist.tests = round (s.bist.tests ++ (upFrom 0 263).map fun k => ⟨k, .startup, true, true, true, false⟩))
      ∧ ((s.trn.lanes.any (·.2 == 1)) = true → t.sxt.bootStep = 6))
    ∧ (s.sxt.bootStep ≠ 6 → exec (.stackTrainingDone l) s = .next s)

/-- Sector accesses and parity deltas (R304, R310 to R316, R327, R484, R486); log entry 43. -/
def Obligations.SectorsAreReadWrittenAndScrubbed : Prop :=
  ∀ (pa : BitVec 48) (e : BitVec 288) (b : List Byte) (c : CoreIx) (k : Fin 5) (m : Nat) (w : Writer) (p od : Bool)
    (r : SectorReader) (s : State),
    let a := pa.toNat
    let st := s.stackOf a
    let same (t u : State) : Prop := t = { u with pkg := { u.pkg with flips := t.pkg.flips } } ∧ ∀ x, t.flips x = s.flips x
    let one := s.updStack st fun x => { x with corrected := satInc x.corrected }
    let runs (i : Instr) (u : State) : Prop := ∃ t, exec i s = .next t ∧ same t u
    let live (r : SectorReader) : Prop := r.gen = (s.core r.core).gen ∧ r.late = false
    (∀ i v, i < 36 → 0 < v → v < 256 → rsRead (BitVec.ofNat 288 (v * 2 ^ (8 * i))) = .corrected 0)
    ∧ (s.capacity ≤ a → exec (.sectorRead pa ⟨e, od⟩ (some r)) s = .next s ∧ exec (.sectorWrite w pa b) s = .next s
      ∧ exec (.scrub pa p ⟨e, od⟩) s = .next s)
    ∧ (a < s.capacity → s.pageRetired a = false → s.pkg.parity = false →
      (s.stack st).st ≠ .failed → s.flips (a / 32) = 0 → s.mustWait a = false → s.mustWait (a / 32 * 32) = false →
      (∀ q : Option SectorReader, (∀ r, q = some r → live r) → runs (.sectorRead pa ⟨0, false⟩ q) s
        ∧ runs (.sectorRead pa ⟨0, true⟩ q) one ∧ (rsRead e = .corrected 0 → runs (.sectorRead pa ⟨e, false⟩ q) one))
      ∧ (¬ live r → runs (.sectorRead pa ⟨0, false⟩ (some r)) (s.updHub fun h => { h with lateDrops := satInc h.lateDrops }))
      ∧ runs (.scrub pa false ⟨0, false⟩) s ∧ runs (.scrub pa false ⟨0, true⟩) one
      ∧ (rsRead e = .corrected 0 → runs (.scrub pa false ⟨e, false⟩) one)
      ∧ (rsRead e = .detected → s.pkg.retired.length < 4096 →
        let lost (t : State) : Prop := (t.stack st).uncorrected = satInc (s.stack st).uncorrected
          ∧ t.pageRetired a = true ∧ t.pkg.retireLast = a / 2 ^ 16 ∧ t.sectorBad (a / 32) = true ∧ t.pkg.bytes = s.pkg.bytes
        (∃ t, exec (.scrub pa false ⟨e, false⟩) s = .next t ∧ lost t ∧ t.meadows = s.meadows)
        ∧ (s.meadowOf r.core = some m → (s.meadow m).state = .opened → live r →
          ∃ t, exec (.sectorRead pa ⟨e, false⟩ (some r)) s = .next t ∧ lost t
            ∧ (t.meadow m).state = .failed ∧ (t.meadow m).code = Code.uncorrectable)
        ∧ (¬ live r → ∃ t, exec (.sectorRead pa ⟨e, false⟩ (some r)) s = .next t ∧ lost t ∧ t.meadows = s.meadows)))
    ∧ (a < s.capacity → b ≠ [] → a % 32 + b.length ≤ 32 → s.pageRetired a = false →
      (∀ x, w = .core x → s.frozenBy a (s.meadowOf x) = []) → (∀ x, w = .agent x → s.frozenBy a none = []) →
      s.pkg.parity = false → (s.stack st).st ≠ .failed → s.flips (a / 32) = 0 → s.mustWait a = false →
      ∃ t, exec (.sectorWrite w pa b) s = .next t ∧ t = { s with pkg := t.pkg }
        ∧ (∀ i, i < b.length → t.byteUnder (s.keyAt a) (a + i) = b.getD i 0)
        ∧ ∀ x, x < a ∨ a + b.length ≤ x → t.byteUnder (s.keyAt a) x = s.byteUnder (s.keyAt a) x)
    ∧ (a < s.capacity → b ≠ [] → a % 32 + b.length ≤ 32 → s.pageRetired a = true →
      exec (.sectorWrite (.core c) pa b) s = .next s ∧ exec (.sectorWrite (.agent k) pa b) s
        = .next (s.updPkg fun p => { p with retireDrops := satInc p.retireDrops }))
    ∧ (s.pkg.deltas = [] → exec .parityDelta s = .next s)
    ∧ (∀ d l, s.pkg.deltas = d :: l →
      let x := 32 * d.sector
      let j := s.parityStack x
      let t := s.updPkg fun p => { p with deltas := l }
      (s.trains j x = true → exec .parityDelta s = .next s)
      ∧ (s.trains j x = false → (s.stack j).st = .failed → exec .parityDelta s = .next t)
      ∧ (s.trains j x = false → (s.stack j).st ≠ .failed → s.pflips (s.parityIx x) = 0 → exec .parityDelta s = .next t
        ∧ t.parityBytes (s.parityIx x) = xorBytes (s.parityBytes (s.parityIx x)) (natToBytes 32 d.change.toNat)))

/-- Stacks (R306, R307) and the frozen map (R326). -/
def Obligations.StacksDegradeAndFrozenMapsRebuild : Prop :=
  ∀ (k : StackIx) (ch : Fin 32) (r : StackReport) (m : MeadowIx) (s : State),
    let down := s.updStack k fun x => { x with st := .failed, training := [] }
    let l := (s.stack k).training
    let left := l.filter (· ≠ ch.val)
    (k.val < s.part.stacks → (s.stack k).st ≠ .failed → ch.val ∉ l → s.sxt.bootStep ≠ 6 →
      exec (.laneDegrade k ch) s = .next (s.updStack k fun x => { x with st := .retraining, training := ch.val :: l }))
    ∧ (s.part.stacks ≤ k ∨ (s.stack k).st = .failed ∨ ch.val ∈ l ∨ s.sxt.bootStep = 6 →
      exec (.laneDegrade k ch) s = .next s)
    ∧ (ch.val ∉ l → exec (.stackRetrainDone k ch r) s = .next s)
    ∧ (ch.val ∈ l → s.sxt.bootStep ≠ 6 →
      (r.good = true → exec (.stackRetrainDone k ch r) s = .next (s.updStack k fun x =>
          { x with st := if left = [] then .inService else .retraining, training := left, spares := r.spares }))
      ∧ (r.good = false → s.pkg.parity = true → down.failedStacks ≤ 1 → exec (.stackRetrainDone k ch r) s = .next down)
      ∧ (r.good = false → s.pkg.parity = false ∨ 1 < down.failedStacks → exec (.stackRetrainDone k ch r) s
        = .next (s.meadowIds.foldl (fun t m => t.failEpoch m Code.uncorrectable) down)))
    ∧ (s.hostMay m → (s.meadow m).state ≠ .absent →
      exec (.frozenSync m) s = .next (s.updMeadow m fun x => { x with frozenBusy := true }))
    ∧ (¬ s.hostMay m → exec (.frozenSync m) s = .next (s.hostDenied m 0xD0))
    ∧ ((s.meadow m).frozenBusy = true → (s.meadow m).window = false →
      let (f, t) := s.scanTable m 4 0 (s.meadow m).root []
      t.pkg.barred = s.pkg.barred → t.pkg.blocked = s.pkg.blocked →
      exec (.frozenRebuildDone m) s = .next (s.sentFrom (t.updMeadow m fun x => { x with frozenMap := f, frozenBusy := false })))
    ∧ ((s.meadow m).frozenBusy = false ∨ (s.meadow m).window = true → exec (.frozenRebuildDone m) s = .next s)

/-- BAR2 (R387, R388), reads of BAR4 (R388) and doorbells (R389, R390, R470). An access past the end of a BAR, and what a doorbell slot
reads as, are log entry 44. -/
def Obligations.HostReadsWritesAndDoorbells : Prop :=
  ∀ (p : PortIx) (f : FnIx) (a : BitVec 41) (n : Fin 4097) (b d : List Byte) (off : BitVec 21) (ide : Bool) (m : Nat)
    (s t : State),
    let x := a.toNat
    let last (bar o : Nat) (wr un : Bool) : State := (s.updPort p fun q => { q with
      denied := satInc q.denied,
      deniedLast := BitVec.ofNat 57 (o + f * 2 ^ 48 + bar * 2 ^ 53 + wr.toNat * 2 ^ 55 + un.toNat * 2 ^ 56) }).raise p f 10
    let ones (t : State) : State := t.emit (.hostData p f (List.replicate n 0xFF))
    let size := s.bar2Size p f
    let w := (s.physPut p x b).ownDeltas s.pkg.deltas.length (some (.port p))
    let get := exec (.bar2Read p f ⟨.bar2, a⟩ n ide) s
    let get4 := exec (.bar2Read p f ⟨.bar4, a⟩ n ide) s
    (size = max (2 ^ 30) ((match s.part with | .m4l2 => 2 ^ 40 | _ => 2 ^ 41) / 2 ^ (s.fn p f).bar2Less))
    ∧ (size < x + n → get = .next s) ∧ (2 ^ 21 < x + n → get4 = .next s)
    ∧ (size < x + b.length → exec (.bar2Write p f a b ide) s = .next s)
    ∧ (s.untrusted p f ide = true → (x + n ≤ size → get = .next (ones (last 1 x false true)))
      ∧ (x + n ≤ 2 ^ 21 → get4 = .next (ones (last 2 x false true)))
      ∧ (x + b.length ≤ size → exec (.bar2Write p f a b ide) s = .next (last 1 x true true))
      ∧ exec (.doorbell p f off b ide) s = .next (last 2 off.toNat true true))
    ∧ (s.untrusted p f ide = false →
      (x + n ≤ size → s.bar2Granted p f x n = false → get = .next (ones (last 1 x false false)))
      ∧ (x + n ≤ 2 ^ 21 → s.fnMeadow p f = none → get4 = .next (ones (last 2 x false false)))
      ∧ (x + n ≤ 2 ^ 21 → (s.fnMeadow p f).isSome = true →
        get4 = .next ((s.freeBytes n).2.emit (.hostData p f (s.freeBytes n).1)))
      ∧ (x + b.length ≤ size → s.bar2Granted p f x b.length = false →
        exec (.bar2Write p f a b ide) s = .next (last 1 x true false))
      ∧ (x + n ≤ size → s.bar2Granted p f x n = true → s.physGet x n = ((false, d), t) → s.undelayed t →
        get = .next (s.completed ((if s.anyRetired x n then t.raise p f 10 else t).emit (.hostData p f d))))
      ∧ (x + n ≤ size → s.bar2Granted p f x n = true → s.physGet x n = ((true, d), t) → s.undelayed t →
        get = .next (s.completed (ones ((t.updPort p fun q => { q with uncorrected := satInc q.uncorrected }).raise p f 10))))
      ∧ (x + b.length ≤ size → s.bar2Granted p f x b.length = true →
        w.pkg.barred = s.pkg.barred → w.pkg.blocked = s.pkg.blocked → exec (.bar2Write p f a b ide) s
        = .next (s.sentFrom (if s.writeCounted p (sectorsOf x b.length) x b then w.raise p f 10 else w)))
      ∧ (let g := off.toNat / 64
        let kept := 11 ≤ s.sxt.bootStep ∧ off.toNat % 64 = 0 ∧ b.length = 64 ∧ fieldZero b 0 8 = true
          ∧ s.meadowOf (g / 8) = some m ∧ (s.meadow m).state = .opened ∧ s.doorbellsFull p = false
        s.fnMeadow p f = some m →
        (kept → exec (.doorbell p f off b ide) s = .next (s.updHub fun h =>
          { h with doorbells := h.doorbells ++ [mkMsg (g / 8) (g / 8) (g % 8) 2 0 (p + 1) (bytesLine b) 0 none none] }))
        ∧ (¬ kept → exec (.doorbell p f off b ide) s = .next (s.updPort p fun q =>
          { q with doorbellDrops := satInc q.doorbellDrops }))))

/-- Host copies (R396 to R399): the ring registers, the end of a descriptor, and the engines that serve the rings. A TAIL beyond
the ring and a size changed under ENABLE are log entry 45; that the 16 engines bound the descriptors in flight, and that the end
of one and a new TAIL are when free engines look, is log entry 44. -/
def Obligations.HostCopiesRunAndEnd : Prop :=
  ∀ (m : MeadowIx) (v : Word) (ix : BitVec 12) (e : HcFlight) (d got : List Byte) (took : Word) (s : State),
    let x := s.meadow m
    let i := ix.toNat
    let refused (o : Nat) : Out := .next (s.refuseWrite x.port x.fn Code.hostRing (0x20000 + o))
    let tail := bitsOf v.toNat 11 0
    let size := bitsOf v.toNat 3 0
    let moved := s.hcMove m x.port x.fn d got took.toNat
    let first := x.hcFlight.find? fun e => e.ix = i
    let ended (desc : Option (List Byte)) (t : State) (d : List Byte) (code : Half) : Prop := s.undelayed t →
      exec (.hcopyComplete m ix desc got took) s = .next (s.completed ((t.hcEnd m e d code).hcServe x.port 16))
    (¬ s.hostMay m → exec (.hcopyTail m v) s = .next (s.hostDenied m 0x190)
      ∧ exec (.hcopyEnable m v) s = .next (s.hostDenied m 0x188))
    ∧ (s.hostMay m → x.state ≠ .absent →
      (2 ^ x.hcSize ≤ tail → exec (.hcopyTail m v) s = refused 0x190)
      ∧ (tail < 2 ^ x.hcSize → exec (.hcopyTail m v) s = .next
          ((s.updMeadow m fun x => { x with hcTail := BitVec.ofNat 32 tail }).hcServe x.port 16))
      ∧ (size < 4 ∨ 12 < size ∨ (x.hcEnable = true ∧ size ≠ x.hcSize) → exec (.hcopyEnable m v) s = refused 0x188)
      ∧ (4 ≤ size → size ≤ 12 → (x.hcEnable = true → size = x.hcSize) → exec (.hcopyEnable m v) s = .next (s.updMeadow m fun x =>
          let y := { x with hcSize := size, hcEnable := bitOf v.toNat 4 }
          if bitOf v.toNat 4 = true ∧ x.hcEnable = false then
            { y with hcHead := x.hcTail, hcEnded := [], hcFlight := x.hcFlight.map fun e => { e with old := true } }
          else y)))
    ∧ (first = none → exec (.hcopyComplete m ix (some d) got took) s = .next s)
    ∧ (x.state ≠ .absent → first = some e →
      ended none s [] Code.hostDma
      ∧ (x.confidential = true → (s.fn x.port x.fn).tdi ≠ .run → ended (some d) s d Code.hostNotTrusted)
      ∧ (x.confidential = false ∨ (s.fn x.port x.fn).tdi = .run →
        (s.hcDescOk m x.fn d = false → ended (some d) s d Code.hostDescriptor)
        ∧ (s.hcDescOk m x.fn d = true → ended (some d) moved.2 d moved.1)))
    ∧ (∀ (c : Half) (t : State), let y := t.meadow m
      let ide := y.confidential && (t.fn y.port y.fn).tdi == .run
      ∃ l, (t.hcEnd m e d c).out = t.out ++
        [.hostWrite y.port y.fn (e.base + 64 * e.ix + 28) (natToBytes 2 c.toNat) ide,
          .hostWrite y.port y.fn (e.base + 64 * e.ix + 30) [1] ide] ++ l)
    ∧ ∀ (p : Nat) (s : State),
      let t := s.hcServe p 16
      (∀ m, let x := s.meadow m
        ∃ l, t.meadow m = { x with hcFlight := x.hcFlight ++ l } ∧ (x.hcEnable = false → l = [])
          ∧ (x.hcFlight.length ≤ 4 → (x.hcFlight ++ l).length ≤ 4)
          ∧ (∀ k ∈ l, k.base = x.hcBase ∧ k.old = false ∧ k.ix ∈ x.hcRange ∧ k.ix ∉ x.hcEnded
            ∧ ∀ o ∈ x.hcFlight, o.ix = k.ix → o.old = true) ∧ (l.map (·.ix)).Nodup)
      ∧ (∀ q, ∃ turn, t.port q = { s.port q with hcTurn := turn }) ∧ t.fns = s.fns ∧ t.out = s.out ∧ t.pkg = s.pkg
      ∧ (Sparse.wf Meadow.zero s.meadows = true →
        (s.hcBusy p ≤ 16 → t.hcBusy p ≤ 16) ∧ (16 ≤ t.hcBusy p ∨ t.hcPick p = none))

/-- Links and function resets (R382 to R385): an event resets every function of its port, and a function's reset stops its meadow
through Sexton, ends its host copies and takes its TDI to CONFIG_UNLOCKED. -/
def Obligations.PortsLinkAndFunctionsReset : Prop :=
  ∀ (p : PortIx) (f : FnIx) (rate : Fin 7) (width : Fin 9) (flit vc1 : Bool)
    (descs : List (MeadowIx × BitVec 12 × List Byte)) (s : State),
    let reset (e : HostReset) (t : State) : Prop := exec (.functionLevelReset p e descs) s = .next t
    let all (t : State) : State := (upFrom 0 32).foldl (fun t g => t.resetFn descs p g) t
    let down (perst : Bool) : State := (s.loseLoad p).updPort p fun x =>
      { x with rate := 0, width := 0, flit := false, vc1 := false, perst := perst || x.perst }
    let stop (m : Nat) : StemCmd := ⟨1, (s.meadow m).top, 0, .sexton, false⟩
    (s.sxt.power = true → rate.val ≠ 0 → width = 1 ∨ width = 2 ∨ width = 4 ∨ width = 8 →
      exec (.linkTraining p rate width flit vc1) s = .next (s.updPort p fun _ =>
        { s.port p with perst := false, rate := rate, width := width, flit := flit, vc1 := vc1 }))
    ∧ (s.sxt.power = false → exec (.linkTraining p rate width flit vc1) s = .next s)
    ∧ (s.fnMeadow p f = none → reset (.function f) ((s.updFn p f fun x =>
      { x with tdi := .unlocked, table := [], unmasked := [], pend := [] }).hcServe p 16))
    ∧ (∀ m, s.fnMeadow p f = some m → ∃ t, reset (.function f) t
      ∧ (t.fn p f).tdi = .unlocked ∧ (t.fn p f).table = [] ∧ (t.fn p f).pend = [] ∧ (t.fn p f).unmasked = []
      ∧ (t.meadow m).hcEnable = false
      ∧ ((s.meadow m).state ≠ .stopped → stop m ∈ t.sxt.stemWait ++ t.sxt.stemOut
        ∧ (s.sxt.lockstep = false → s.sxt.stemWait = [] → stemPlace s.sxt.stemOut (stop m) = true →
          s.meadowOfTop (s.meadow m).top = some m →
          (s.meadow m).state = .ready ∨ (s.meadow m).state = .opened ∨ (s.meadow m).state = .failed →
          (t.meadow m).state = .stopped ∧ (t.meadow m).stopWas = (s.meadow m).state))
      ∧ ((s.meadow m).state = .stopped → (s.fn p f).tdi ≠ .run → t.sxt = s.sxt))
    ∧ reset .linkDown (all (down false)) ∧ reset .hotReset (all (s.loseLoad p))
    ∧ (s.sxt.bootStep = 11 → reset .perst (all (down true))) ∧ (s.sxt.bootStep ≠ 11 → reset .perst (down true))

/-- Training and admission (R366 to R368, R371, R372); log entry 49. -/
def Obligations.SwarmPortsTrainAndAdmit : Prop :=
  ∀ (n : SwPort) (t : Training) (r : PeerReport) (s : State),
    let c := s.swCfg n
    let least := max 1 (max c.minLanes t.minLanes)
    let trained : State := match negotiate c t with
      | none => s.updSw n fun x => { x with st := .down, code := Code.swTraining }
      | some (r, k, sp, f) =>
        s.updSw n fun x => { x with st := .admitting, rate := r, lanes := k, spareUsed := sp, fec := f, code := Code.ok }
    let passes (x : Nat) : Prop := max c.maxRate t.maxRate ≤ x ∧ x < 3 ∧ least ≤ (lanesAt c t x).1
    let clash := c.fec ≠ 0 ∧ t.fec.val ≠ 0 ∧ c.fec ≠ t.fec.val
    let ends (u : State) : Prop := s.undelayed u → exec (.admission n r) s = .next (s.completed u)
    let down (u : State) (e : Half) : State := (u.updSw n fun x => { x with st := .down, code := e }).swRebuild
    let b := (s.freeBytes 32).2.report ((s.freeBytes 32).1 ++ [0xFF]) zero32
    let mine := r.valid = true ∧ r.report.length = reportBytes ∧ fieldNat r.report 6 1 = 3
      ∧ sliceBytes r.report 168 32 = keyDigest s.keyed s.guard.owner
    let retrained := trained.swRebuild.toStep8
    (negotiate c t = none ↔ (∀ x, ¬ passes x) ∨ clash)
    ∧ (∀ x k sp f, negotiate c t = some (x, k, sp, f) → passes x ∧ lanesAt c t x = (k, sp) ∧ (∀ y, y < x → ¬ passes y)
      ∧ f = (if c.fec = 0 then (if t.fec.val = 0 then (if x = 0 then 0 else 1) else t.fec.val - 1) else c.fec - 1))
    ∧ (s.hasSw n = true → (s.sw n).st = .training → exec (.portTrainingDone n t) s = .next trained.toStep8)
    ∧ (s.hasSw n = true → (s.sw n).st = .retraining → s.undelayed retrained →
      exec (.swarmRetrainDone n t) s = .next (s.completed retrained))
    ∧ (s.hasSw n = false ∨ (s.sw n).st ≠ .training → exec (.portTrainingDone n t) s = .next s)
    ∧ (s.hasSw n = false ∨ (s.sw n).st ≠ .retraining → exec (.swarmRetrainDone n t) s = .next s)
    ∧ (s.admits n = true →
      (∀ c, (s.freeBytes 32).2.identitySign b = .error c → ends (down s c))
      ∧ (∀ sg w, (s.freeBytes 32).2.identitySign b = .ok (sg, w) →
        let u := w.emit (.swHello n w.heath.device w.sxt.devGen.toNat (b ++ sg))
        w.sxt.sigsLeft + 1 = s.sxt.sigsLeft
        ∧ (¬ mine → ends (down u Code.swPeerIdentity))
        ∧ (mine → r.device.toNat = s.heath.device → ends (down u Code.swDevice))
        ∧ (mine → r.device.toNat ≠ s.heath.device → (∀ m ∈ s.meadowIds, (s.meadow m).swTaken = []) →
          ∃ v, exec (.admission n r) s = .next v ∧ (v.sw n).st = .up
          ∧ (v.sw n).peer = r.device.toNat ∧ (v.sw n).peerGen = some r.gen ∧ (v.sw n).code = Code.ok
          ∧ (∃ draw, (v.sw n).key = natToBytes 32 (Config.linkKey s.sxt.kem draw r.report).toNat)
          ∧ (∀ g, (s.sw n).peerGen = some g → g ≠ r.gen →
            (v.sw n).rxSeq = 0 ∧ (v.sw n).rxSeen = [] ∧ (v.sw n).txSeq = 0 ∧ (v.sw n).unacked = [] ∧ (v.sw n).waiting = [])
          ∧ ((s.sw n).peerGen = none ∨ (s.sw n).peerGen = some r.gen → (v.sw n).rxSeq = (s.sw n).rxSeq
            ∧ (v.sw n).rxSeen = (s.sw n).rxSeen ∧ (v.sw n).waiting = []
            ∧ (v.sw n).unacked = (s.sw n).unacked.map (fun f => { f with sent := true })
            ∧ (v.sw n).retries = satInc (s.sw n).retries ((s.sw n).unacked.filter (·.sent)).length))))
    ∧ (s.admits n = false → exec (.admission n r) s = .next s)
    ∧ (s.sxt.warm = false → s.sxt.bootStep < 10 → s.admits n = false)

/-- Link frames (R369 to R373, R379). -/
def Obligations.SwarmFramesAreAnswered : Prop :=
  ∀ (n : SwPort) (seq : Nat) (g : Half) (h : SwHead) (c tag b : List Byte) (fec : Bool) (hops : List (Nat × Nat)) (f : SwFrame)
    (k : SwKey) (dev : BitVec 10) (y : Member) (u : SwOut) (s : State),
    let x := s.sw n
    let runs (i : Instr) (t : State) : Prop := s.undelayed t → exec i s = .next (s.completed t)
    let retrain (t : State) : State :=
      (t.updSw n fun x => { x with st := .retraining, retrains := satInc x.retrains, failRun := 0 }).swRebuild
    let heard := (s.updSw n fun x => { x with failRun := 0 }).emit (.swAck n seq)
    let deliver (t : State) : State :=
      if h.dest.toNat ≠ s.heath.device then t.swForward h b
      else if (s.meadow h.key.meadow).state = .absent then t
      else t.updMeadow h.key.meadow fun x => { x with swGot := x.swGot ++ [(h, b)] }
    let lost := s.updMeadow k.meadow fun x =>
      { x with swTaken := x.swTaken.map fun y => if fieldNat y.entry 44 4 = k.tag.toNat ∧ fieldNat y.entry 8 2 = k.first.toNat
        ∧ fieldNat y.entry 10 2 = k.count.toNat then { y with lost := true } else y }
    let vector := s.updSw n fun x => { x with hops := hops.foldl (fun m e => Sparse.put none m e.1 (some e.2)) [] }
    (s.hasSw n = false ∨ x.st ≠ .up → exec (.swarmFrame n g f) s = .next s ∧ exec (.swarmAckTimeout n) s = .next s)
    ∧ (s.hasSw n = true → x.st = .up →
      runs (.swarmFrame n g .overRate) (retrain s)
      ∧ (x.peerGen ≠ some g → f ≠ .overRate → exec (.swarmFrame n g f) s
        = .next (s.updSw n fun x => { x with stale := satInc x.stale }))
      ∧ (x.peerGen = some g →
        let nonce := natToBytes 12 (Config.linkNonce g.toNat seq).toNat
        let bad := (s.emit (.swNack n seq)).updSw n fun x => { x with failRun := x.failRun + 1 }
        let data := Instr.swarmFrame n g (.data seq h c tag fec)
        (fec = false ∨ gcmOpen x.key nonce [] c tag = none →
          (x.failRun < 15 → exec data s = .next bad) ∧ (15 ≤ x.failRun → runs data (retrain bad)))
        ∧ (fec = true → gcmOpen x.key nonce [] c tag = some b →
          (seq < x.rxSeq ∨ seq ∈ x.rxSeen → exec data s = .next heard)
          ∧ (x.rxSeq ≤ seq → seq ∉ x.rxSeen → ∃ q, x.rxSeq ≤ q ∧ q ∉ seq :: x.rxSeen
            ∧ (∀ k, x.rxSeq ≤ k → k < q → k ∈ seq :: x.rxSeen)
            ∧ exec data s = .next (deliver (heard.updSw n fun x =>
              { x with rxSeq := q, rxSeen := (seq :: x.rxSeen).filter (q ≤ ·) }))))
        ∧ exec (.swarmFrame n g (.ack seq)) s
          = .next (s.updSw n fun x => { x with unacked := x.unacked.filter fun u => u.seq ≠ seq })
        ∧ ((x.unacked.find? fun u => u.seq = seq) = some u → exec (.swarmFrame n g (.nack seq)) s
          = .next ((s.swEmit n u).updSw n fun x => { x with retries := satInc x.retries }))
        ∧ ((x.unacked.find? fun u => u.seq = seq) = none → exec (.swarmFrame n g (.nack seq)) s = .next s)
        ∧ runs (.swarmFrame n g (.vector hops)) vector.swRebuild
        ∧ (∀ f, f = .side dev k y ∨ f = .failure dev k → dev.toNat ≠ s.heath.device →
          exec (.swarmFrame n g (.control f)) s = .next (match s.swRoute dev.toNat with
            | [] => s
            | q :: _ => if (s.sw q).st = .up then s.emit (.swControl q f)
              else s.updSw q fun x => { x with waiting := x.waiting ++ [f] }))
        ∧ (dev.toNat = s.heath.device → exec (.swarmFrame n g (.control (.side dev k y))) s = .next s
          ∧ runs (.swarmFrame n g (.control (.failure dev k))) (lost.swNext k.meadow)))
      ∧ (x.unacked ≠ [] → runs (.swarmAckTimeout n) (retrain s))
      ∧ (x.unacked = [] → exec (.swarmAckTimeout n) s = .next s))

/-- Collectives (R374 to R381). That a bad or repeated descriptor completes in its turn is log entry 49. -/
def Obligations.CollectivesAreTakenAndCompleted : Prop :=
  ∀ (m : MeadowIx) (v : Dword) (e src : List Byte) (k : SwTaken) (r : List SwTaken) (l : List Member) (c : Half) (s t w : State),
    let x := s.meadow m
    let size := bitsOf v.toNat 51 48
    let d := s.heath.device
    let refused (c : Half) : Out := .next (s.refuseWrite x.port x.fn c 0x20140)
    let runs (i : Instr) (t : State) : Prop := s.undelayed t → exec i s = .next (s.completed t)
    let key := swKey m k.entry
    let dup := (t.meadow m).swTaken.any fun k => fieldNat k.entry 44 4 = fieldNat e 44 4
    let took := t.updMeadow m fun x =>
      { x with
        swTaken := x.swTaken ++ [⟨x.swIdx, e, dup, false, false, none⟩], swIdx := (x.swIdx + 1) % 2 ^ x.swSize,
        swSeq := x.swSeq + 1 }
    let bad := k.dup = true ∨ s.swDescOk k.entry = false
    let failed := k.lost = true ∨ x.epochFailed = true
    let cut := ∃ p ∈ swPeers k.entry d, s.swRoute p = []
    let fails := s.collectiveFails m Code.swPeerFailed
    (¬ s.hostMay m → exec (.swarmRingWrite m v) s = .next (s.hostDenied m 0x140))
    ∧ (s.hostMay m → x.state ≠ .absent → x.state.isStopped = false → exec (.swarmRingWrite m v) s = refused Code.swBusy)
    ∧ (s.hostMay m → x.state ≠ .absent → x.state.isStopped = true →
      (bitsOf v.toNat 11 0 ≠ 0 ∨ size < 4 ∨ 12 < size → exec (.swarmRingWrite m v) s = refused Code.swDescriptor)
      ∧ (bitsOf v.toNat 11 0 = 0 → 4 ≤ size → size ≤ 12 → exec (.swarmRingWrite m v) s
        = .next (s.updMeadow m fun x => { x with swRing := bitsOf v.toNat 47 0, swSize := size })))
    ∧ (x.epochOpen = false → exec (.collectivePoll m) s = .next s)
    ∧ (x.epochOpen = true → s.mreadAll m (x.swRing + 64 * x.swIdx) 64 = (.ok e, t) →
      (fieldNat e 0 4 ≠ x.swSeq → runs (.collectivePoll m) t)
      ∧ (fieldNat e 0 4 = x.swSeq → runs (.collectivePoll m) (took.swNext m)))
    ∧ (x.epochOpen = true → s.mreadAll m (x.swRing + 64 * x.swIdx) 64 = (.error c, t) → runs (.collectivePoll m) t)
    ∧ (x.swTaken = [] → s.swNext m = s ∧ exec (.collectiveComplete m l) s = .next s)
    ∧ (x.swTaken = [k] →
      (bad → s.swNext m = s.collectiveDone m Code.swDescriptor) ∧ (¬ bad → failed → s.swNext m = fails)
      ∧ (¬ bad → ¬ failed → cut → s.swNext m = s.collectiveDone m Code.swUnreachable)
      ∧ (¬ bad → ¬ failed → ¬ cut → (k.begun = true → s.swNext m = s)
        ∧ (k.begun = false → s.swNext m = (swPeers k.entry d).foldl
            (fun t p => t.swControl (.side (BitVec.ofNat 10 p) key (swSide d k.entry)))
            (s.updMeadow m fun x => { x with swTaken := [{ k with begun := true }] }))))
    ∧ (x.swTaken = k :: r →
      (k.begun = false ∨ x.epochFailed = true → runs (.collectiveComplete m l) (s.swNext m))
      ∧ (k.begun = true → x.epochFailed = false →
        (l.any (·.failed) = true → runs (.collectiveComplete m l) (fails.swNext m))
        ∧ (l.any (·.failed) = false → (∀ p ∈ swPeers k.entry d, ∃ y ∈ l, y.device.toNat = p) →
          (l.all (swAgrees k.entry d) = false → runs (.collectiveComplete m l) ((s.collectiveDone m Code.swMismatch).swNext m))
          ∧ (l.all (swAgrees k.entry d) = true →
            (k.own = none → s.mreadAll m (fieldNat k.entry 16 8) (swSrcLen k.entry d) = (.ok src, t) →
              let mine := t.updMeadow m fun x =>
                { x with swTaken := { k with own := some (swShare k.entry d src) } :: x.swTaken.drop 1 }
              let sent := (swPeers k.entry d).foldl (fun t p =>
                t.swSendTo key p (swShare k.entry p src)) mine
              runs (.collectiveComplete m l) (sent.collectiveEnd m))
            ∧ (k.own.isSome = true → runs (.collectiveComplete m l) (s.collectiveEnd m)))))
      ∧ (∀ own parts, k.own = some own → parts.length = fieldNat k.entry 10 2 →
        (∀ i, i < parts.length → let p := fieldNat k.entry 8 2 + i
          some (parts.getD i []) = if p = d then some own else if p ∈ swPeers k.entry d then x.swPart key k.entry p else some []) →
        ∀ fr, s.mwriteAll 2 m (fieldNat k.entry 24 8) (swResult k.entry parts) = (.ok fr, w) →
          s.collectiveEnd m = (w.collectiveDone m Code.ok).swNext m)
      ∧ ((s.collectiveDone m c).meadow m).swTaken = r
      ∧ ((s.collectiveDone m c).meadow m).swDone = BitVec.ofNat 48 (fieldNat k.entry 0 4 + c.toNat * 2 ^ 32))

/-- MMP sessions (R409 to R412). What a message outside a session does is log entry 29. -/
def Obligations.TransportSessionsBeginAndEnd : Prop :=
  ∀ (l : LaneIx) (h : MmpHdr) (b : List Byte) (code : Half) (ff fl : Word) (r : MmpReq) (i : Nat) (mode : TrnMode) (c : Half)
    (s : State),
    let drop : Out := .next (s.updTrn fun x => { x with rxDrops := satInc x.rxDrops })
    let heard := s.updTrn fun x => { x with reqs := x.reqs.filter fun r => !(r.isRefuse && r.seq ≤ h.ack.toNat) }
    let refused (c : Half) : Out :=
      .next ((heard.mmpSend 3 0 h.seq.toNat (natToBytes 2 c.toNat)).updTrn fun x => { x with code := c })
    let reg := s.updTrn fun x => { x with
      rxSeq := max x.rxSeq h.seq.toNat, reqs := x.reqs.filter fun r => r.isRefuse || h.ack.toNat < r.seq }
    let runs (i : Instr) (t : State) : Prop := s.undelayed t → exec i s = .next (s.completed t)
    let ends (c : Half) (i : Instr) (u : State) : Prop := let t := u.endSession c
      runs i t ∧ t.trn.st = .ended ∧ t.trn.code = c ∧ t.trn.sending = false ∧ t.trn.session = s.trn.session
    let live := s.trn.st ≠ .idle ∧ s.trn.st ≠ .ended
    (s.sxt.bootStep ≠ 11 → exec (.hello l h b) s = .next s)
    ∧ (s.laneUp l = true → s.sxt.bootStep = 11 →
      (h.session ≠ 0 ∨ helloOk b = false → exec (.hello l h b) s = drop)
      ∧ (h.session = 0 → helloOk b = true →
        (live → exec (.hello l h b) s = refused Code.trnBusy)
        ∧ (¬ live → heard.chooseMode b = .error c → exec (.hello l h b) s = refused c)
        ∧ (¬ live → heard.chooseMode b = .ok (i, mode) → let t := heard.acceptHello h b i mode
          runs (.hello l h b) t ∧ t.trn.st = .accepted
          ∧ t.trn.session ≠ 0 ∧ t.trn.mode = mode ∧ t.trn.modeIx = i ∧ t.trn.filmOut = (fieldNat b 0 1 == 1)
          ∧ t.trn.slots = s.slotsFor mode ∧ t.trn.portCount = 0 ∧ t.trn.nextCount = 0 ∧ t.trn.code = Code.ok
          ∧ .mmp (mmpBytes 2 t.trn.session t.trn.txSeq h.seq.toNat (natToBytes 1 i ++ natToBytes 2 t.trn.slots)) ∈ t.out)))
    ∧ (s.laneUp l = true → s.trn.st = .idle ∨ h.session.toNat ≠ s.trn.session → exec (.ready l h) s = drop
      ∧ exec (.stopped l h ff fl) s = drop ∧ exec (.alive l h) s = drop ∧ exec (.bye l h code) s = drop)
    ∧ (s.laneUp l = true → live → h.session.toNat = s.trn.session →
      exec (.alive l h) s = .next reg ∧ ends code (.bye l h code) reg
      ∧ (s.trn.filmOut = true → s.trn.st = .running ∨ s.trn.st = .pausing →
        exec (.ready l h) s = .next (reg.updTrn fun x => { x with sending := true })
        ∧ exec (.stopped l h ff fl) s = .next (reg.updTrn fun x =>
          { x with st := .paused, sending := false, discarded := [], outBuf := [], announced := 0 }))
      ∧ (s.trn.filmOut = false → exec (.ready l h) s = .next reg)
      ∧ (s.trn.filmOut = false → s.trn.st = .running ∨ s.trn.st = .pausing → runs (.stopped l h ff fl)
        (reg.finishAll.updTrn fun x =>
          { x with st := .paused, sending := false, discarded := [], outBuf := [], announced := 0 })))
    ∧ (∀ q : Word, (s.trn.reqs.find? fun r => r.seq = q.toNat) = some r →
      (r.sends < 8 → exec (.mmpResend q) s = .next ((s.emit (.mmp r.msg)).updTrn fun x =>
        { x with reqs := x.reqs.map fun q => if q.seq = r.seq then { q with sends := q.sends + 1 } else q }))
      ∧ (8 ≤ r.sends → r.isRefuse = false → live → ends Code.trnPartnerLost (.mmpResend q) (s.updTrn fun x =>
        { x with reqs := x.reqs.filter fun q => q.seq ≠ r.seq })))
    ∧ (live → exec .mmpIdleTimer s
        = .next ((s.emit (.mmp (mmpBytes 0xA s.trn.session (s.trn.txSeq + 1) s.trn.rxSeq []))).updTrn fun x =>
            { x with txSeq := x.txSeq + 1 }) ∧ ends Code.trnPartnerLost .partnerLost s)
    ∧ (¬ live → exec .mmpIdleTimer s = .next s ∧ exec .partnerLost s = .next s)

/-- Lanes and ingest (R403 to R418). DEDUCED points of the frame rules are log entry 30. -/
def Obligations.TransportFramesArrive : Prop :=
  ∀ (l : LaneIx) (up cr1 : Bool) (ip : Word) (block : Dword) (pixel w hh id : Word) (b : List Byte) (f : TrnFrame) (s : State),
    let m := s.trn.mode
    let drop : Out := .next (s.updTrn fun x => { x with rxDrops := satInc x.rxDrops })
    let late : Out := .next (s.updTrn fun x => { x with late := satInc x.late })
    let line := m.lastLine block.toNat id.toNat
    let runs (i : Instr) (t : State) : Prop := s.undelayed t → exec i s = .next (s.completed t)
    let fits := id ≠ 0 ∧ id.toNat ≤ m.packets ∧ b.length = min m.packet (m.frame - (id.toNat - 1) * m.packet)
    (Sparse.get 0 s.trn.lanes l = 0 → exec (.laneStateChange l up cr1) s = .next s)
    ∧ (Sparse.get 0 s.trn.lanes l ≠ 0 → exec (.laneStateChange l false cr1) s
        = .next ((s.updTrn fun x => { x with lanes := Sparse.put 0 x.lanes l 3 }).toStep8)
      ∧ exec (.laneStateChange l true cr1) s = .next ((s.updTrn fun x => { x with
        lanes := Sparse.put 0 x.lanes l 2, media := Sparse.put false x.media l
          (if s.heath.trn.media = 0 then false else if s.heath.trn.media = 1 then true else cr1) }).toStep8))
    ∧ (s.laneUp l = true → ip.toNat = s.heath.trn.ipv4 → exec (.arpRequest l ip) s
      = .next (s.emit (.arp l ip.toNat (s.sxt.macBase + l))))
    ∧ (s.laneUp l = false ∨ ip.toNat ≠ s.heath.trn.ipv4 → exec (.arpRequest l ip) s = .next s)
    ∧ (s.laneUp l = true → exec (.unacceptedFrame l) s = drop)
    ∧ (s.laneUp l = true → s.trn.ingesting = false → exec (.gvspPacket l (.trailer block id)) s = drop
      ∧ exec (.gvspPacket l (.payload block id b)) s = drop ∧ exec (.gvspPacket l (.leader block true pixel w hh)) s = drop)
    ∧ (s.laneUp l = true → s.trn.ingesting = true →
      (pixel.toNat ≠ m.pixel ∨ w.toNat ≠ m.width ∨ hh.toNat ≠ m.height →
        exec (.gvspPacket l (.leader block true pixel w hh)) s = drop)
      ∧ (¬ fits → exec (.gvspPacket l (.payload block id b)) s = drop)
      ∧ (s.trn.frames = [] → block.toNat ∉ s.trn.finished → block.toNat ∉ s.trn.discarded →
        pixel.toNat = m.pixel → w.toNat = m.width → hh.toNat = m.height →
        let room := s.readHostCount.trn.hostCount + s.trn.slots - s.trn.nextCount
        let t := s.gvspIn (.leader block true pixel w hh)
        runs (.gvspPacket l (.leader block true pixel w hh)) t
          ∧ (room = 0 → t.trn.overrun = satInc s.trn.overrun ∧ t.trn.frames = []
            ∧ t.trn.discarded = block.toNat :: s.trn.discarded)
          ∧ (room ≠ 0 → t.trn.nextCount = s.trn.nextCount + 1
            ∧ t.trn.frames = [⟨block.toNat, s.trn.nextCount, s.trn.nextCount % s.trn.slots, [], [], 1⟩]))
      ∧ (s.trn.frames = [f] → f.block = block.toNat → fits →
        (∀ h, s.trn.hiLine = some h → h < line + 256) → f.next = id.toNat → id.toNat ∉ f.got →
        max (s.trn.hiLine.getD 0) line < block.toNat * m.height + m.height - 1 + 256 →
        let t := s.gvspIn (.payload block id b)
        runs (.gvspPacket l (.payload block id b)) t ∧ ∃ g, t.trn.frames = [g] ∧ g.block = f.block ∧ g.slot = f.slot
          ∧ g.got = f.got ++ [id.toNat] ∧ g.next = id.toNat + 1 ∧ t.trn.hiLine = some (max (s.trn.hiLine.getD 0) line))
      ∧ (∀ h, s.trn.frames = [f] → f.block = block.toNat → fits → s.trn.hiLine = some h → line + 256 ≤ h →
        h < block.toNat * m.height + m.height - 1 + 256 → block.toNat ∉ s.trn.discarded →
        exec (.gvspPacket l (.payload block id b)) s = late)
      ∧ (s.trn.frames = [] → block.toNat ∈ s.trn.finished → block.toNat ∉ s.trn.discarded →
        exec (.gvspPacket l (.trailer block id)) s = late)
      ∧ (s.trn.frames = [f] → block.toNat < f.block → exec (.gvspPacket l (.trailer block id)) s = drop)
      ∧ ((∀ g ∈ s.trn.frames, g.block ≠ block.toNat) → (s.trn.frames = [] ∨ ∃ g ∈ s.trn.frames, g.block < block.toNat) →
        block.toNat ∈ s.trn.discarded → exec (.gvspPacket l (.trailer block id)) s = .next s)
      ∧ (s.trn.frames = [f] → f.block = block.toNat → let t := s.gvspIn (.trailer block id)
        runs (.gvspPacket l (.trailer block id)) t ∧ t.trn.frames = [] ∧ t.trn.portCount = s.trn.portCount + 1))
    ∧ (s.trn.st = .idle ∨ s.trn.st = .ended → exec .hostCountPoll s = .next s)
    ∧ (s.trn.st ≠ .idle → s.trn.st ≠ .ended →
      (s.trn.runDue = false → runs .hostCountPoll s.readHostCount)
      ∧ (s.trn.runDue = true → s.trn.portCount < s.readHostCount.trn.hostCount → let t := s.readHostCount.sendRun
        runs .hostCountPoll t ∧ t.trn.st = .running ∧ t.trn.runDue = false))

/-- Control (R424) and film-out (R420 to R423). -/
def Obligations.TransportRunsPausesAndSends : Prop :=
  ∀ (p : PortIx) (absent : Half) (s : State),
    let x := s.trn
    let runs (i : Instr) (t : State) : Prop := s.undelayed t → exec i s = .next (s.completed t)
    let refused (c : Half) : Out := .next ((s.updTrn fun x => { x with code := c }).refuseWrite p 0 c 0x140048)
    let sent (type : Nat) (pay : List Byte) (t : State) : Prop :=
      .mmp (mmpBytes type x.session (x.txSeq + 1) x.rxSeq pay) ∈ t.out ∧ t.trn.txSeq = x.txSeq + 1
    (s.trnPort p = false → exec (.trnRun p) s = refused Code.trnNotPermitted ∧ exec (.trnPause p) s = refused Code.trnNotPermitted
      ∧ exec (.trnEnd p) s = refused Code.trnNotPermitted)
    ∧ (s.trnPort p = true →
      (x.st ≠ .accepted → x.st ≠ .paused → exec (.trnRun p) s = refused Code.trnState)
      ∧ (x.st = .accepted ∨ x.st = .paused → x.filmOut = false → ∃ t, exec (.trnRun p) s = .next t ∧ t.trn.st = .running
        ∧ sent 4 (natToBytes 4 x.startFrame.toNat) t)
      ∧ (x.st = .accepted ∨ x.st = .paused → x.filmOut = true → s.readHostCount.trn.hostCount ≤ x.portCount →
        runs (.trnRun p) (s.readHostCount.updTrn fun x => { x with runDue := true }))
      ∧ (x.st = .accepted ∨ x.st = .paused → x.filmOut = true → x.portCount < s.readHostCount.trn.hostCount →
        let t := s.readHostCount.sendRun
        runs (.trnRun p) t ∧ t.trn.st = .running ∧ t.trn.outFrame = x.startFrame.toNat ∧ t.trn.outLine = 0)
      ∧ (x.st ≠ .running → exec (.trnPause p) s = refused Code.trnState)
      ∧ (x.st = .running → ∃ t, exec (.trnPause p) s = .next t ∧ t.trn.st = .pausing ∧ t.trn.pauseOut = true ∧ sent 6 [] t)
      ∧ (x.st = .idle ∨ x.st = .ended → exec (.trnEnd p) s = .next s)
      ∧ (x.st ≠ .idle → x.st ≠ .ended → let t := s.trnEnd p
        runs (.trnEnd p) t ∧ t.trn.st = .ended ∧ t.trn.code = Code.ok
        ∧ sent 0xB [0, 0] t))
    ∧ (x.sending = false ∨ x.filmOut = false → exec (.lineSend absent) s = .next s)
    ∧ (x.sending = true → x.filmOut = true → let t := s.sendLine absent.toNat
      runs (.lineSend absent) t ∧ (x.outLine + 1 ≠ x.mode.height → t.trn.outLine = x.outLine + 1
        ∧ t.trn.outFrame = x.outFrame ∧ t.trn.portCount = x.portCount
        ∧ (x.outLine = 0 → .gvspLeader x.outFrame x.mode.pixel x.mode.width x.mode.height ∈ t.out))
      ∧ (x.outLine ≠ 0 → x.outLine + 1 = x.mode.height → t.trn.outLine = 0
        ∧ t.trn.outFrame = (x.outFrame + 1) % 2 ^ 32 ∧ t.trn.portCount = (if x.outGap then x.portCount else x.portCount + 1)
        ∧ .gvspTrailer x.outFrame (x.mode.packets + 1) ∈ t.out))

/-- Cicada (R425, R432 to R443). What is left to the coder is a free function of its input: log entry 15; how the simulated buffer is
held, and the reads of a poll, are log entry 31. -/
def Obligations.CicadaJobsAreTakenAndEnd : Prop :=
  ∀ (n : PipeIx) (m : MeadowIx) (v : Dword) (e : List Byte) (bad bad' : Bool) (b : List Byte) (pool : List Frame)
    (i : EncInput) (j : CicJob) (o : EncOutcome) (d : DecOutcome) (code : Half) (s t w : State),
    let runs (i : Instr) (t : State) : Prop := s.undelayed t → exec i s = .next (s.completed t)
    let x := s.pipe n
    let r := (s.meadow m).cicReg n
    let addr := bitsOf r 47 0 + 64 * x.idx
    let new := v.toNat % 2 ^ 53
    let refused (c : Half) : Out := .next (s.refuseWrite (s.meadow m).port (s.meadow m).fn c (0x20200 + 0x10 * n.val))
    let ends (u : State) : Prop := (u.pipe n).job = none ∧ (u.pipe n).jobs = satInc (t.pipe n).jobs
    let step := if ctxAv1 j.ctx then 16 else 4
    let top := fieldNat j.ctx 14 1
    (x.owner = none ∨ x.job.isSome = true → exec (.cicadaPoll n) s = .next s)
    ∧ (x.owner = some m.val → x.job = none →
      ((s.meadow m).state = .absent ∨ bitOf r 52 = false ∨ Sparse.get false s.power.throttled 262 = true →
        exec (.cicadaPoll n) s = .next s)
      ∧ ((s.meadow m).state ≠ .absent → bitOf r 52 = true → Sparse.get false s.power.throttled 262 = false →
        (s.updPipe n fun x => { x with leaves := [] }).cicRead true n m 2 addr 64 = (.ok (bad, e), t) →
        (fieldNat e 0 4 ≠ x.seq.toNat → runs (.cicadaPoll n) t)
        ∧ (fieldNat e 0 4 = x.seq.toNat → runs (.cicadaPoll n) ((t.updPipe n fun x =>
            { x with idx := (x.idx + 1) % 2 ^ bitsOf r 51 48, seq := x.seq + 1 }).cicTake n m e addr bad))))
    ∧ (n.val < 2 → x.job = some j → s.encReads n j = (.ok i, t) →
      let q := attemptQp i j.attempts
      let fits := pictureFits j.entry j.ctx (bufferFull j.ctx) (encodeAt i q).bits.length
      (j.fallback = true → runs (.encodeComplete n) (t.encEmit n j (encodeFallback i)))
      ∧ (j.fallback = false → runs (.encodeComplete n) (if fits = true then t.encEmit n j (encodeAt i q)
          else t.updPipe n fun x => { x with
            job := some { j with attempts := j.attempts + 1, fallback := decide (top ≤ q) } })))
    ∧ (n.val < 2 → x.job = some j → s.encReads n j = (.error code, t) →
      runs (.encodeComplete n) (if code = Code.uncorrectable then t.cicLost n j else t.cicFail n j code))
    ∧ (∀ k, attemptQp i 0 = plannedQp i
      ∧ (i.ctx = j.ctx → plannedQp i ≤ top → attemptQp i (k + 1) = min top (plannedQp i + step * (k + 1))))
    ∧ (2 ≤ n.val → x.job = some j →
      (s.cicGet n j.meadow (fieldNat j.entry 16 8) (fieldNat j.entry 24 4) = (.ok (bad, b), t) →
        t.decReads n j (upFrom 0 16) = (.ok (bad', pool), w) →
        runs (.decodeComplete n) (w.fresh.2.decEmit n { j with memErr := j.memErr || bad || bad' } pool
          (Config.decoded ⟨j.ctx, b, pool⟩ (if j.bound then some w.fresh.1 else none))))
      ∧ exec (.decodeWorkBound n) s = .next (s.updPipe n fun x => { x with job := some { j with bound := true } }))
    ∧ ends (t.encEmit n j o) ∧ ends (t.cicFail n j code) ∧ ends (t.decEmit n j pool d)
    ∧ (d.limit = true → t.decEmit n j pool d = t.cicFail n j Code.cicStreamLimit)
    ∧ (d.limit = false → placePictures j.ctx pool d.pictures = none → t.decEmit n j pool d = t.cicFail n j Code.cicPool)
    ∧ (¬ s.hostMay m → exec (.cicRingWrite m n v) s = .next (s.hostDenied m (0x200 + 0x10 * n.val)))
    ∧ (s.hostMay m → (s.meadow m).state ≠ .absent →
      (x.owner ≠ some m.val → exec (.cicRingWrite m n v) s = refused Code.cicNotOwner)
      ∧ (x.owner = some m.val → bitOf r 52 = true → r % 2 ^ 52 ≠ new % 2 ^ 52 →
        exec (.cicRingWrite m n v) s = refused Code.cicBusy)
      ∧ (x.owner = some m.val → bitOf r 52 = false → 4 ≤ bitsOf new 51 48 → bitsOf new 51 48 ≤ 10 → new % 4096 = 0 →
        let u := s.updMeadow m fun x => x.setCic n new
        exec (.cicRingWrite m n v) s = .next (if bitOf new 52 then u.updPipe n fun x => { x with seq := 1, idx := 0 } else u)))

/-- Power, clocks and temperature (R508 to R526). That a breach of R514 stops the model is log entry 55; the regulator transactions of
a sample, and when a set point is written, are log entry 71; a lockstep disagreement is log entry 56. -/
def Obligations.PowerAndTemperatureAreHeld : Prop :=
  ∀ (l : List RailReading) (p : PortIx) (v : Word) (k : Fin 10) (b : BaseIx) (x : BitVec 16) (z : IslandIx)
    (part : Fin 21) (slice : Fin 263) (pins load : BitVec 17) (w : Option Dword) (s : State),
    let rail (i : Nat) : RailReading := l.getD i ⟨0, 0, 3, false⟩
    let breach := ∃ i, i < 10 ∧ railBreaks i (rail i) = true
    let read := (upFrom 0 10).foldl (fun t i => t.sampleRail i (rail i)) s
    let watts := bitsOf v.toNat 15 0
    let alerted := (s.updPower fun y => { y with alert := true }).emit (.pmbus (0x10 + 12 * s.power.strap + k) .statusWord)
    let isl (w : Bool) (n : Word) : State :=
      s.updPower fun y => { y with stretched := Sparse.put false y.stretched z w, stretch := n }
    let trip := s.updPower fun y => { y with thermtrip := true }
    (s.sxt.power = true → l.length = 10 →
      (breach → exec (.powerSample l) s = .fault .railBreach)
      ∧ (¬ breach → s.sxt.fwRunning = false → exec (.powerSample l) s = .next s)
      ∧ (¬ breach → s.sxt.fwRunning = true → exec (.powerSample l) s = .next (read.updPower fun y =>
          { y.enforce read.packagePower with alert := y.alert && l.any (·.fault) }).setRails
        ∧ ∀ i, i < 10 → read.rail i = (if (s.rail i).fault = true ∨ (rail i).misses.val = 3 ∨ (rail i).fault = true
          then ⟨(s.rail i).mv, 0, 0, false, true, Code.pwrRail⟩
          else ⟨(s.rail i).mv, (rail i).volts.toNat, (rail i).amps.toNat, true, false, Code.ok⟩)))
    ∧ (∀ t : State, (∀ i, i < 4 ∨ i = 6 → (t.rail i).controlled = true → (t.setRails.rail i).mv = t.setPoint i)
      ∧ (∀ i, (i < 4 → 650 ≤ t.setPoint i) ∧ (i = 6 → 700 ≤ t.setPoint i) ∧ t.setPoint i ≤ 900)
      ∧ t.setRails = { t with power := { t.power with rails := t.setRails.power.rails }, out := t.setRails.out })
    ∧ (s.sxt.power = false → exec (.powerSample l) s = .next s)
    ∧ (400 ≤ watts → watts ≤ s.part.watts → exec (.pwrCapWrite p v) s = .next (s.updPower fun y => { y with cap := watts }))
    ∧ (watts < 400 ∨ s.part.watts < watts → exec (.pwrCapWrite p v) s = .next (s.refuseWrite p 0 Code.pwrCapRange 0x160088))
    ∧ (s.sxt.fwRunning = true → exec (.smbalert k false) s = .next alerted
      ∧ exec (.smbalert k true) s = .next (alerted.updRail k fun y => ⟨y.mv, 0, 0, false, true, Code.pwrRail⟩))
    ∧ (∀ m, s.sxt.lockstep = false → s.gateOk b = true → s.meadowOfBase b = some m → exec (.gate b) s
      = .next ((((s.updCores (coresOfBase b) Core.erase).updBase b fun y => { y.clear with gated := true }).updBase b fun y =>
          { y with idleGate := true }).updMeadow m fun y => { y with storeLoss := y.storeLoss + 16 }))
    ∧ (s.gateOk b = false → exec (.gate b) s = .next s)
    ∧ (s.sxt.lockstep = false → (s.base b).gated = true → (s.base b).idleGate = true → exec (.gateReturn b) s
      = .next (((s.updCores (coresOfBase b) fun c => c.empty s.tick).updBase b fun y =>
          { y.clear with gated := false, idleGate := false }).issueAdmits (coresOfBase b) .sexton))
    ∧ (s.sxt.fwRunning = true → ∃ t, exec (.thermalSample ⟨b, by omega⟩ x) s = .next t
      ∧ Sparse.get 0 t.power.temps b = x.toInt
      ∧ (t.base b).thermal = (if 1520 ≤ x.toInt then max 200 ((s.base b).thermal - 25)
          else if x.toInt ≤ 1472 then min 650 ((s.base b).thermal + 25) else (s.base b).thermal)
      ∧ (1760 ≤ x.toInt → t.power.thermtrip = true) ∧ (x.toInt < 1760 → t.power.thermtrip = s.power.thermtrip))
    ∧ (s.sxt.power = true → exec (.oscTrim z) s
      = .next (s.updPower fun y => { y with trimmed := Sparse.put none y.trimmed z (some s.tick) }))
    ∧ (Sparse.get false s.power.stretched z = false → exec (.supplyDroop z) s = .next (isl true (satInc s.power.stretch)))
    ∧ (Sparse.get false s.power.stretched z = true → exec (.supplyDroop z) s = .next s)
    ∧ exec (.supplyRecovery z) s = .next (isl false s.power.stretch)
    ∧ (s.sxt.power = true → jtagHolds s.jtag = false → exec .comparatorThermtrip s
      = .next (trip.emit (.pin .thermtripL false)))
    ∧ (s.sxt.power = true → jtagHolds s.jtag = true → exec .comparatorThermtrip s = .next trip)
    ∧ (jtagHolds s.jtag = false →
      exec (.jtagInstruction .idcode) s = .next ({ s with jtag := .idcode }.emit (.tdo s.idcode))
      ∧ exec (.jtagInstruction .bypass) s = .next ({ s with jtag := .bypass }.emit (.tdo 0))
      ∧ exec (.jtagInstruction (.sample pins load)) s
        = .next { s with jtag := .sample pins load, bscan := load, out := s.out ++ [.tdo pins.toNat] }
      ∧ (let set (y : BitVec 17) : List Output := [.pin .thermtripL (y.getLsbD 4), .pin .pmbScl (y.getLsbD 5),
          .pin .pmbSda (y.getLsbD 6), .pin .avs0Clk (y.getLsbD 8), .pin .avs0Data (y.getLsbD 9), .pin .avs1Clk (y.getLsbD 11),
          .pin .avs1Data (y.getLsbD 12)]
        exec (.jtagInstruction (.extest pins load)) s = .next { s with
          jtag := .extest pins load, bscan := load, out := s.out ++ set s.bscan ++ [.tdo pins.toNat] ++ set load })
      ∧ (∀ r, s.life ≠ .vendorTest →
        exec (.jtagInstruction (.scan r w)) s = .next ({ s with jtag := .bypass }.emit (.tdo 0)))
      ∧ (s.life = .vendorTest →
        (let key := 32 * slice.val + part.val
          let old := Sparse.get ⟨false, false, false, 0⟩ s.bist.parts key
          let t := { s with jtag := .scan (.misr slice part) w }.emit (.tdo old.signature.toNat)
          exec (.jtagInstruction (.scan (.misr slice part) w)) s = .next (match w with
            | none => t
            | some y =>
              { t with bist := { t.bist with
                parts := Sparse.put ⟨false, false, false, 0⟩ t.bist.parts key { old with signature := y } } }))
        ∧ (let t := { s with jtag := .scan (.prpg slice) w }.emit (.tdo (Sparse.get 0 s.bist.prpg slice).toNat)
          exec (.jtagInstruction (.scan (.prpg slice) w)) s = .next (match w with
            | none => t
            | some y => { t with bist := { t.bist with prpg := Sparse.put 0 t.bist.prpg slice y } }))))
    ∧ (jtagHolds s.jtag = true → exec (.jtagInstruction .bypass) s
      = .next (({ s with jtag := .bypass }.emit (.pin .thermtripL (!s.power.thermtrip))).emit (.tdo 0)))

/-- Register accesses (R384, R386, R528 to R531). -/
def Obligations.RegistersReadAndWrite : Prop :=
  ∀ (p : PortIx) (f : FnIx) (off : BitVec 24) (n : Fin 4097) (k : Fin 513) (ide : Bool) (v : Dword) (m : Nat) (j : JobIx)
    (s : State),
    let o := off.toNat
    let got (t : State) (x : Nat) (k : Nat) (f : FnIx) : Out := .next (t.emit (.hostData p f (natToBytes k x)))
    let last (wr : Bool) : State := (s.updPort p fun q => { q with
      denied := satInc q.denied,
      deniedLast := BitVec.ofNat 57 (o + f * 2 ^ 48 + wr.toNat * 2 ^ 55 + 2 ^ 56) }).raise p f 10
    (¬ ((n.val = 4 ∨ n.val = 8) ∧ o % n.val = 0) →
      exec (.readClear p f off n ide) s = .next (s.emit (.hostData p f (List.replicate n 0))))
    ∧ (¬ ((k.val = 4 ∨ k.val = 8) ∧ o % k.val = 0) → exec (.registerWrite p f off k v ide) s = .next s)
    ∧ (n.val = 4 ∨ n.val = 8 → o % n.val = 0 → 0x20000 ≤ o → o < 0x30000 → s.untrusted p f ide = true →
      exec (.readClear p f off n ide) s = .next ((last false).emit (.hostData p f (List.replicate n 0xFF))))
    ∧ (k.val = 4 ∨ k.val = 8 → o % k.val = 0 → 0x20000 ≤ o → o < 0x30000 → s.untrusted p f ide = true →
      exec (.registerWrite p f off k v ide) s = .next (last true))
    ∧ (o % 8 = 4 → s.bar0Untrusted p f o ide = false → exec (.readClear p f off 4 ide) s
      = got s ((s.slotRead p f (o - 4)).1 / 2 ^ 32) 4 f)
    ∧ (n.val = 4 ∨ n.val = 8 → o % 8 = 0 → s.bar0Untrusted p f o ide = false → exec (.readClear p f off n ide) s
      = got (s.slotRead p f o).2 (s.slotRead p f o).1 n f)
    ∧ exec (.readClear p 0 0x100000 8 ide) s
      = got (s.updHub fun h => { h with dropIsolated := 0 }) s.hub.dropIsolated.toNat 8 0
    ∧ exec (.readClear p 0 0x100004 4 ide) s = got s 0 4 0
    ∧ exec (.registerWrite p 0 0x160098 8 v ide) s = .next (s.updPower fun x => { x with tempSel := v.toNat % 512 })
    ∧ exec (.registerWrite p 0 0x001000 8 v ide) s = .next s
    ∧ (s.fnMeadow p f = some m → s.untrusted p f ide = false →
      exec (.readClear p f 0x020100 8 ide) s
        = got (s.updMeadow m fun x => { x with bounces := 0 }) (s.meadow m).bounces.toNat 8 f
      ∧ exec (.registerWrite p f (BitVec.ofNat 24 (0x21018 + 0x80 * j.val)) 8 v ide) s
        = .next (s.updMeadow m (·.updSeq j fun q => { q with limit := BitVec.ofNat 32 v.toNat })))
    ∧ (f.val ≠ 0 → s.fnMeadow p f = none → o % 8 = 0 → exec (.readClear p f off 8 ide) s = got s 0 8 f
      ∧ exec (.registerWrite p f off 8 v ide) s = .next s)

/-- No command is refused, and only R514's breach stops the model (log entry 55). -/
def Obligations.OnlyARailBreachStopsTheBlock : Prop :=
  ∀ s : State, (∀ r, step s ≠ .refused r)
    ∧ ∀ e, step s = .fault e → e = .railBreach ∧ ∃ l q, s.pending = .powerSample l :: q ∧ s.sxt.power = true ∧ l.length = 10
      ∧ ∃ i r, l[i]? = some r ∧ railBreaks i r = true

/-- What every step keeps: the canonical form of memory, the fused state (R450, R453, R455, R457), the queue and the clock. -/
def Obligations.MemoryFusesAndQueueAreKept : Prop :=
  ∀ s t : State, step s = .next t →
    (s.memoryWf → t.memoryWf)
    ∧ (∀ i, s.sxt.lcBits.getLsbD i = true → t.sxt.lcBits.getLsbD i = true)
    ∧ s.sxt.leaves ≤ t.sxt.leaves ∧ s.sxt.svn ≤ t.sxt.svn ∧ s.sxt.journal <+: t.sxt.journal
    ∧ t.part = s.part ∧ t.pending = (if s.pending = [] then s.held else s.pending.drop 1)
    ∧ t.tick = s.tick + (if s.pending = [] then 1 else 0)

/-- The state right after reset. Values that no rule gives are the model's, log entries 4 to 16. -/
def Obligations.ResetLeavesWhatTheRulesSay : Prop :=
  let s := State.reset
  s.memoryWf ∧ s.pending = [] ∧ s.held = [] ∧ s.out = [] ∧ s.meadowIds = []
    ∧ s.hub = Hub.zero ∧ s.sxt.bootStep = 3 ∧ s.sxt.benched = false
    ∧ s.trn.st = .idle ∧ s.bist.busy = false ∧ s.qorf.anyAccepted = false
    ∧ ∀ n : Nat, (s.core n).ctl = .idle ∧ (∀ r, (s.core n).gr r = 0 ∧ (s.core n).dr r = 0 ∧ (s.core n).vr r = 0)
      ∧ (∀ t, (s.core n).token t = .free ∧ (s.core n).engq t = [] ∧ (s.core n).ring t = ⟨0, 0⟩ ∧ (s.core n).cell t = Cell.zero)
      ∧ (s.meadow n).state = .absent ∧ (s.meadow n).auto = true ∧ (s.meadow n).limit = 4 ∧ (s.meadow n).attempts = 0
      ∧ (∀ j, ((s.meadow n).seq j).state = .idle) ∧ (s.stack n).st = .inService ∧ (s.stack n).corrected = 0
      ∧ (s.sw n).st = .disabled ∧ (s.pipe n).job = none ∧ (s.mbox n).job = none ∧ (s.port n).ctlQueue = []
      ∧ ∀ f, (s.fn n f).writeCode = 0 ∧ (s.fn n f).pend = [] ∧ (s.fn n f).tdi = .unlocked
end

