-- ==== Sys2Proof/Laws/Sparse.lean ====
section
/-!
SUPPORT. Sparse maps and byte stores: reading after writing, and the canonical form that every write keeps.
-/

namespace Sys2Proof

variable {α : Type}

/-! Reading after writing. -/

theorem Sparse.get_drop_same (d : α) (m : Sparse α) (i : Nat) : Sparse.get d (Sparse.drop m i) i = d := by
  induction m with
  | nil => rfl
  | cons e r ih => unfold Sparse.drop; split <;> simp_all [Sparse.get]

theorem Sparse.get_drop_ne (d : α) (m : Sparse α) {i j : Nat} (h : i ≠ j) :
    Sparse.get d (Sparse.drop m i) j = Sparse.get d m j := by
  induction m with
  | nil => rfl
  | cons e r ih => unfold Sparse.drop; split <;> simp_all [Sparse.get]

theorem Sparse.get_insert_same (d : α) (m : Sparse α) (i : Nat) (v : α) (h : Sparse.get d m i = d)
    (hn : ∀ e ∈ m, e.1 ≠ i) : Sparse.get d (Sparse.insert m i v) i = v := by
  induction m with
  | nil => simp [Sparse.insert, Sparse.get]
  | cons e r ih =>
    have := hn e (by simp)
    have hr : ∀ e ∈ r, e.1 ≠ i := fun x hx => hn x (by simp [hx])
    unfold Sparse.insert; split <;> simp_all [Sparse.get]

theorem Sparse.get_insert_ne (d : α) (m : Sparse α) {i j : Nat} (v : α) (h : i ≠ j) :
    Sparse.get d (Sparse.insert m i v) j = Sparse.get d m j := by
  induction m with
  | nil => simp [Sparse.insert, Sparse.get, h]
  | cons e r ih => unfold Sparse.insert; split <;> simp_all [Sparse.get]

theorem Sparse.drop_mem (m : Sparse α) (i : Nat) : ∀ e ∈ Sparse.drop m i, e.1 ≠ i := by
  induction m with
  | nil => simp [Sparse.drop]
  | cons e r ih => unfold Sparse.drop; split <;> simp_all <;> exact ih

variable [DecidableEq α]

/-- A write is read back. -/
@[simp] theorem Sparse.get_put_same (d : α) (m : Sparse α) (i : Nat) (v : α) : Sparse.get d (Sparse.put d m i v) i = v := by
  unfold Sparse.put
  split
  · simp [Sparse.get_drop_same, *]
  · exact Sparse.get_insert_same d _ i v (Sparse.get_drop_same d m i) (Sparse.drop_mem m i)

/-- A write leaves every other key alone. -/
theorem Sparse.get_put_ne (d : α) (m : Sparse α) {i j : Nat} (v : α) (h : i ≠ j) :
    Sparse.get d (Sparse.put d m i v) j = Sparse.get d m j := by
  unfold Sparse.put
  split
  · exact Sparse.get_drop_ne d m h
  · rw [Sparse.get_insert_ne d _ v h, Sparse.get_drop_ne d m h]

/-- What any key reads after a write. -/
theorem Sparse.get_put (d : α) (m : Sparse α) (i j : Nat) (v : α) :
    Sparse.get d (Sparse.put d m i v) j = if i = j then v else Sparse.get d m j := by
  split
  · subst_vars; simp
  · exact Sparse.get_put_ne d m v ‹_›

/-! The canonical form. -/

theorem Sparse.wfFrom_mono (d : α) (m : Sparse α) {a : Option Nat} {b : Nat} (h : Sparse.wfFrom d (some b) m = true)
    (hab : ∀ x, a = some x → x ≤ b) : Sparse.wfFrom d a m = true := by
  cases m with
  | nil => rfl
  | cons e r =>
    simp only [Sparse.wfFrom, Bool.and_eq_true, decide_eq_true_eq] at h ⊢
    refine ⟨⟨?_, h.1.2⟩, h.2⟩
    cases a with
    | none => rfl
    | some x => have := hab x rfl; simp; omega

theorem Sparse.wfFrom_drop (d : α) (m : Sparse α) (i : Nat) {b : Option Nat} (h : Sparse.wfFrom d b m = true) :
    Sparse.wfFrom d b (Sparse.drop m i) = true := by
  induction m generalizing b with
  | nil => rfl
  | cons e r ih =>
    unfold Sparse.drop
    have h' := h
    simp only [Sparse.wfFrom, Bool.and_eq_true, decide_eq_true_eq] at h
    split
    · refine Sparse.wfFrom_mono d _ (ih h.2) fun x hx => ?_
      subst hx; have := h.1.1; simp at this; omega
    · simp only [Sparse.wfFrom, Bool.and_eq_true, decide_eq_true_eq]
      exact ⟨h.1, ih h.2⟩

theorem Sparse.wfFrom_insert (d : α) (m : Sparse α) (i : Nat) (v : α) (hv : v ≠ d) {b : Option Nat}
    (h : Sparse.wfFrom d b m = true) (hb : ∀ x, b = some x → x < i) (hn : ∀ e ∈ m, e.1 ≠ i) :
    Sparse.wfFrom d b (Sparse.insert m i v) = true := by
  induction m generalizing b with
  | nil =>
    cases b with
    | none => simp [Sparse.insert, Sparse.wfFrom, hv]
    | some x => simp [Sparse.insert, Sparse.wfFrom, hv, hb x rfl]
  | cons e r ih =>
    have hne := hn e (by simp)
    have hr : ∀ e ∈ r, e.1 ≠ i := fun x hx => hn x (by simp [hx])
    simp only [Sparse.wfFrom, Bool.and_eq_true, decide_eq_true_eq] at h
    unfold Sparse.insert
    split
    · simp only [Sparse.wfFrom, Bool.and_eq_true, decide_eq_true_eq]
      refine ⟨⟨?_, hv⟩, ⟨by simpa, h.1.2⟩, h.2⟩
      cases b with
      | none => rfl
      | some x => simpa using hb x rfl
    · simp only [Sparse.wfFrom, Bool.and_eq_true, decide_eq_true_eq]
      refine ⟨h.1, ih h.2 (fun x hx => ?_) hr⟩
      simp at hx; omega

/-- A write keeps the canonical form. -/
theorem Sparse.wf_put (d : α) (m : Sparse α) (i : Nat) (v : α) (h : Sparse.wf d m = true) :
    Sparse.wf d (Sparse.put d m i v) = true := by
  unfold Sparse.put
  split
  · exact Sparse.wfFrom_drop d m i h
  · exact Sparse.wfFrom_insert d _ i v ‹_› (Sparse.wfFrom_drop d m i h) (by simp) (Sparse.drop_mem m i)

/-! Byte stores. -/

/-- One byte written keeps the canonical form. -/
theorem Memory.wf_setByte (m : Mem) (a : Nat) (b : Byte) (h : Memory.wf m = true) : Memory.wf (Mem.setByte m a b) = true :=
  Sparse.wf_put 0 m a b h

/-- Bytes written keep the canonical form. -/
theorem Memory.wf_write (m : Mem) (a : Nat) (l : List Byte) (h : Memory.wf m = true) : Memory.wf (Mem.write m a l) = true := by
  induction l generalizing m a with
  | nil => exact h
  | cons b r ih => exact ih _ _ (Memory.wf_setByte m a b h)

/-- The empty memory is canonical. -/
@[simp] theorem Memory.wf_nil : Memory.wf [] = true := rfl

/-- A byte after one byte is written. -/
theorem Mem.byte_setByte (m : Mem) (a x : Nat) (b : Byte) :
    Mem.byte (Mem.setByte m a b) x = if a = x then b else Mem.byte m x := Sparse.get_put 0 m a x b

/-- A byte outside the bytes written reads as before. -/
theorem Mem.byte_write_out (m : Mem) (a x : Nat) (l : List Byte) (h : x < a ∨ a + l.length ≤ x) :
    Mem.byte (Mem.write m a l) x = Mem.byte m x := by
  induction l generalizing m a with
  | nil => rfl
  | cons b r ih =>
    simp only [List.length_cons] at h
    rw [Mem.write, ih _ _ (by omega), Mem.byte_setByte, if_neg (by omega)]

/-- A byte within the bytes written reads as written. -/
theorem Mem.byte_write_in (m : Mem) (a i : Nat) (l : List Byte) (h : i < l.length) :
    Mem.byte (Mem.write m a l) (a + i) = l[i] := by
  induction l generalizing m a i with
  | nil => simp at h
  | cons b r ih =>
    cases i with
    | zero => rw [Mem.write, Mem.byte_write_out _ _ _ _ (by omega), Mem.byte_setByte]; simp
    | succ k =>
      have := ih (Mem.setByte m a b) (a + 1) k (by simpa using h)
      rw [Mem.write, show a + (k + 1) = a + 1 + k by omega, this]; simp

/-- Bytes written are read back. -/
theorem Mem.read_write (m : Mem) (a : Nat) (l : List Byte) : Mem.read (Mem.write m a l) a l.length = l := by
  induction l generalizing m a with
  | nil => rfl
  | cons b r ih =>
    simp only [List.length_cons, Mem.read, Mem.write]
    rw [ih, Mem.byte_write_out _ _ _ _ (by omega), Mem.byte_setByte, if_pos rfl]

@[simp] theorem Mem.read_length (m : Mem) (a n : Nat) : (Mem.read m a n).length = n := by
  induction n generalizing a with
  | zero => rfl
  | succ k ih => simp [Mem.read, ih]

@[simp] theorem natToBytes_length (k n : Nat) : (natToBytes k n).length = k := by
  induction k generalizing n with
  | zero => rfl
  | succ k ih => simp [natToBytes, ih]

/-- A number of `k` bytes is read back from its bytes. -/
theorem bytesToNat_natToBytes (k n : Nat) : bytesToNat (natToBytes k n) = n % 256 ^ k := by
  induction k generalizing n with
  | zero => simp [natToBytes, bytesToNat, Nat.mod_one]
  | succ k ih =>
    simp only [natToBytes, bytesToNat, ih, BitVec.toNat_ofNat, show (2 : Nat) ^ 8 = 256 from rfl]
    rw [Nat.pow_succ, Nat.mul_comm (256 ^ k) 256, Nat.mod_mul]

@[simp] theorem upFrom_length (a n : Nat) : (upFrom a n).length = n := by
  induction n generalizing a with
  | zero => rfl
  | succ k ih => simp [upFrom, ih]

theorem mem_upFrom (a n x : Nat) : x ∈ upFrom a n ↔ a ≤ x ∧ x < a + n := by
  induction n generalizing a with
  | zero => simp [upFrom]
  | succ k ih => simp [upFrom, ih]; omega

/-- A saturating count never falls, and rises by its step until it saturates. -/
theorem satInc_toNat (n : Word) (k : Nat) : (satInc n k).toNat = min (n.toNat + k) (2 ^ 32 - 1) := by
  unfold satInc
  have := n.isLt
  split <;> simp <;> omega

end Sys2Proof
end

