-- ==== Sys2Proof/Laws/State.lean ====
section
/-!
SUPPORT. What each named update changes and what it leaves: one lemma for each field and each update.
-/

namespace Sys2Proof.Machine

open Sys2Proof

/-! `setCore`. -/

@[simp] theorem State.setCore_pending (s : State) (n : Nat) (c : Core) : (s.setCore n c).pending = s.pending := rfl
@[simp] theorem State.setCore_held (s : State) (n : Nat) (c : Core) : (s.setCore n c).held = s.held := rfl
@[simp] theorem State.setCore_free (s : State) (n : Nat) (c : Core) : (s.setCore n c).free = s.free := rfl
@[simp] theorem State.setCore_tick (s : State) (n : Nat) (c : Core) : (s.setCore n c).tick = s.tick := rfl
@[simp] theorem State.setCore_part (s : State) (n : Nat) (c : Core) : (s.setCore n c).part = s.part := rfl
@[simp] theorem State.setCore_bases (s : State) (n : Nat) (c : Core) : (s.setCore n c).bases = s.bases := rfl
@[simp] theorem State.setCore_meadows (s : State) (n : Nat) (c : Core) : (s.setCore n c).meadows = s.meadows := rfl
@[simp] theorem State.setCore_heath (s : State) (n : Nat) (c : Core) : (s.setCore n c).heath = s.heath := rfl
@[simp] theorem State.setCore_pkg (s : State) (n : Nat) (c : Core) : (s.setCore n c).pkg = s.pkg := rfl
@[simp] theorem State.setCore_hub (s : State) (n : Nat) (c : Core) : (s.setCore n c).hub = s.hub := rfl
@[simp] theorem State.setCore_sxt (s : State) (n : Nat) (c : Core) : (s.setCore n c).sxt = s.sxt := rfl
@[simp] theorem State.setCore_qorf (s : State) (n : Nat) (c : Core) : (s.setCore n c).qorf = s.qorf := rfl
@[simp] theorem State.setCore_swarm (s : State) (n : Nat) (c : Core) : (s.setCore n c).swarm = s.swarm := rfl
@[simp] theorem State.setCore_trn (s : State) (n : Nat) (c : Core) : (s.setCore n c).trn = s.trn := rfl
@[simp] theorem State.setCore_pipes (s : State) (n : Nat) (c : Core) : (s.setCore n c).pipes = s.pipes := rfl
@[simp] theorem State.setCore_power (s : State) (n : Nat) (c : Core) : (s.setCore n c).power = s.power := rfl
@[simp] theorem State.setCore_bist (s : State) (n : Nat) (c : Core) : (s.setCore n c).bist = s.bist := rfl
@[simp] theorem State.setCore_jtag (s : State) (n : Nat) (c : Core) : (s.setCore n c).jtag = s.jtag := rfl
@[simp] theorem State.setCore_bscan (s : State) (n : Nat) (c : Core) : (s.setCore n c).bscan = s.bscan := rfl
@[simp] theorem State.setCore_ports (s : State) (n : Nat) (c : Core) : (s.setCore n c).ports = s.ports := rfl
@[simp] theorem State.setCore_fns (s : State) (n : Nat) (c : Core) : (s.setCore n c).fns = s.fns := rfl
@[simp] theorem State.setCore_out (s : State) (n : Nat) (c : Core) : (s.setCore n c).out = s.out := rfl
@[simp] theorem State.setCore_base (s : State) (n : Nat) (c : Core) (i : Nat) : (s.setCore n c).base i = s.base i := rfl
@[simp] theorem State.setCore_meadow (s : State) (n : Nat) (c : Core) (i : Nat) : (s.setCore n c).meadow i = s.meadow i := rfl
@[simp] theorem State.setCore_port (s : State) (n : Nat) (c : Core) (i : Nat) : (s.setCore n c).port i = s.port i := rfl
@[simp] theorem State.setCore_fn (s : State) (n : Nat) (c : Core) (i j : Nat) : (s.setCore n c).fn i j = s.fn i j := rfl
@[simp] theorem State.setCore_stack (s : State) (n : Nat) (c : Core) (i : Nat) : (s.setCore n c).stack i = s.stack i := rfl
@[simp] theorem State.setCore_sw (s : State) (n : Nat) (c : Core) (i : Nat) : (s.setCore n c).sw i = s.sw i := rfl
@[simp] theorem State.setCore_pipe (s : State) (n : Nat) (c : Core) (i : Nat) : (s.setCore n c).pipe i = s.pipe i := rfl
@[simp] theorem State.setCore_rail (s : State) (n : Nat) (c : Core) (i : Nat) : (s.setCore n c).rail i = s.rail i := rfl
@[simp] theorem State.setCore_mbox (s : State) (n : Nat) (c : Core) (i : Nat) : (s.setCore n c).mbox i = s.mbox i := rfl
@[simp] theorem State.setCore_meadowOf (s : State) (n : Nat) (c : Core) (i : Nat) : (s.setCore n c).meadowOf i = s.meadowOf i := rfl
@[simp] theorem State.setCore_meadowCores (s : State) (n : Nat) (c : Core) (i : Nat) : (s.setCore n c).meadowCores i = s.meadowCores i := rfl
@[simp] theorem State.setCore_coresOf (s : State) (n : Nat) (c : Core) (i : Nat) : (s.setCore n c).coresOf i = s.coresOf i := rfl
@[simp] theorem State.setCore_inMeadow (s : State) (n : Nat) (c : Core) (i j : Nat) : (s.setCore n c).inMeadow i j = s.inMeadow i j := rfl
@[simp] theorem State.setCore_anchor (s : State) (n : Nat) (c : Core) (i : Nat) : (s.setCore n c).anchor i = s.anchor i := rfl
@[simp] theorem State.setCore_queueDepth (s : State) (n : Nat) (c : Core) (i : Nat) : (s.setCore n c).queueDepth i = s.queueDepth i := rfl
@[simp] theorem State.setCore_queueRing (s : State) (n : Nat) (c : Core) (i : Nat) : (s.setCore n c).queueRing i = s.queueRing i := rfl
@[simp] theorem State.setCore_basesOf (s : State) (n : Nat) (c : Core) (i : Nat) : (s.setCore n c).basesOf i = s.basesOf i := rfl
@[simp] theorem State.setCore_meadowBases (s : State) (n : Nat) (c : Core) (i : Nat) : (s.setCore n c).meadowBases i = s.meadowBases i := rfl
@[simp] theorem State.setCore_siteOf (s : State) (n : Nat) (c : Core) (i : Nat) : (s.setCore n c).siteOf i = s.siteOf i := rfl
@[simp] theorem State.setCore_fnMeadow (s : State) (n : Nat) (c : Core) (i j : Nat) : (s.setCore n c).fnMeadow i j = s.fnMeadow i j := rfl

/-! `updCore`. -/

@[simp] theorem State.updCore_pending (s : State) (n : Nat) (f : Core → Core) : (s.updCore n f).pending = s.pending := rfl
@[simp] theorem State.updCore_held (s : State) (n : Nat) (f : Core → Core) : (s.updCore n f).held = s.held := rfl
@[simp] theorem State.updCore_free (s : State) (n : Nat) (f : Core → Core) : (s.updCore n f).free = s.free := rfl
@[simp] theorem State.updCore_tick (s : State) (n : Nat) (f : Core → Core) : (s.updCore n f).tick = s.tick := rfl
@[simp] theorem State.updCore_part (s : State) (n : Nat) (f : Core → Core) : (s.updCore n f).part = s.part := rfl
@[simp] theorem State.updCore_bases (s : State) (n : Nat) (f : Core → Core) : (s.updCore n f).bases = s.bases := rfl
@[simp] theorem State.updCore_meadows (s : State) (n : Nat) (f : Core → Core) : (s.updCore n f).meadows = s.meadows := rfl
@[simp] theorem State.updCore_heath (s : State) (n : Nat) (f : Core → Core) : (s.updCore n f).heath = s.heath := rfl
@[simp] theorem State.updCore_pkg (s : State) (n : Nat) (f : Core → Core) : (s.updCore n f).pkg = s.pkg := rfl
@[simp] theorem State.updCore_hub (s : State) (n : Nat) (f : Core → Core) : (s.updCore n f).hub = s.hub := rfl
@[simp] theorem State.updCore_sxt (s : State) (n : Nat) (f : Core → Core) : (s.updCore n f).sxt = s.sxt := rfl
@[simp] theorem State.updCore_qorf (s : State) (n : Nat) (f : Core → Core) : (s.updCore n f).qorf = s.qorf := rfl
@[simp] theorem State.updCore_swarm (s : State) (n : Nat) (f : Core → Core) : (s.updCore n f).swarm = s.swarm := rfl
@[simp] theorem State.updCore_trn (s : State) (n : Nat) (f : Core → Core) : (s.updCore n f).trn = s.trn := rfl
@[simp] theorem State.updCore_pipes (s : State) (n : Nat) (f : Core → Core) : (s.updCore n f).pipes = s.pipes := rfl
@[simp] theorem State.updCore_power (s : State) (n : Nat) (f : Core → Core) : (s.updCore n f).power = s.power := rfl
@[simp] theorem State.updCore_bist (s : State) (n : Nat) (f : Core → Core) : (s.updCore n f).bist = s.bist := rfl
@[simp] theorem State.updCore_jtag (s : State) (n : Nat) (f : Core → Core) : (s.updCore n f).jtag = s.jtag := rfl
@[simp] theorem State.updCore_bscan (s : State) (n : Nat) (f : Core → Core) : (s.updCore n f).bscan = s.bscan := rfl
@[simp] theorem State.updCore_ports (s : State) (n : Nat) (f : Core → Core) : (s.updCore n f).ports = s.ports := rfl
@[simp] theorem State.updCore_fns (s : State) (n : Nat) (f : Core → Core) : (s.updCore n f).fns = s.fns := rfl
@[simp] theorem State.updCore_out (s : State) (n : Nat) (f : Core → Core) : (s.updCore n f).out = s.out := rfl
@[simp] theorem State.updCore_base (s : State) (n : Nat) (f : Core → Core) (i : Nat) : (s.updCore n f).base i = s.base i := rfl
@[simp] theorem State.updCore_meadow (s : State) (n : Nat) (f : Core → Core) (i : Nat) : (s.updCore n f).meadow i = s.meadow i := rfl
@[simp] theorem State.updCore_port (s : State) (n : Nat) (f : Core → Core) (i : Nat) : (s.updCore n f).port i = s.port i := rfl
@[simp] theorem State.updCore_fn (s : State) (n : Nat) (f : Core → Core) (i j : Nat) : (s.updCore n f).fn i j = s.fn i j := rfl
@[simp] theorem State.updCore_stack (s : State) (n : Nat) (f : Core → Core) (i : Nat) : (s.updCore n f).stack i = s.stack i := rfl
@[simp] theorem State.updCore_sw (s : State) (n : Nat) (f : Core → Core) (i : Nat) : (s.updCore n f).sw i = s.sw i := rfl
@[simp] theorem State.updCore_pipe (s : State) (n : Nat) (f : Core → Core) (i : Nat) : (s.updCore n f).pipe i = s.pipe i := rfl
@[simp] theorem State.updCore_rail (s : State) (n : Nat) (f : Core → Core) (i : Nat) : (s.updCore n f).rail i = s.rail i := rfl
@[simp] theorem State.updCore_mbox (s : State) (n : Nat) (f : Core → Core) (i : Nat) : (s.updCore n f).mbox i = s.mbox i := rfl
@[simp] theorem State.updCore_meadowOf (s : State) (n : Nat) (f : Core → Core) (i : Nat) : (s.updCore n f).meadowOf i = s.meadowOf i := rfl
@[simp] theorem State.updCore_meadowCores (s : State) (n : Nat) (f : Core → Core) (i : Nat) : (s.updCore n f).meadowCores i = s.meadowCores i := rfl
@[simp] theorem State.updCore_coresOf (s : State) (n : Nat) (f : Core → Core) (i : Nat) : (s.updCore n f).coresOf i = s.coresOf i := rfl
@[simp] theorem State.updCore_inMeadow (s : State) (n : Nat) (f : Core → Core) (i j : Nat) : (s.updCore n f).inMeadow i j = s.inMeadow i j := rfl
@[simp] theorem State.updCore_anchor (s : State) (n : Nat) (f : Core → Core) (i : Nat) : (s.updCore n f).anchor i = s.anchor i := rfl
@[simp] theorem State.updCore_queueDepth (s : State) (n : Nat) (f : Core → Core) (i : Nat) : (s.updCore n f).queueDepth i = s.queueDepth i := rfl
@[simp] theorem State.updCore_queueRing (s : State) (n : Nat) (f : Core → Core) (i : Nat) : (s.updCore n f).queueRing i = s.queueRing i := rfl
@[simp] theorem State.updCore_basesOf (s : State) (n : Nat) (f : Core → Core) (i : Nat) : (s.updCore n f).basesOf i = s.basesOf i := rfl
@[simp] theorem State.updCore_meadowBases (s : State) (n : Nat) (f : Core → Core) (i : Nat) : (s.updCore n f).meadowBases i = s.meadowBases i := rfl
@[simp] theorem State.updCore_siteOf (s : State) (n : Nat) (f : Core → Core) (i : Nat) : (s.updCore n f).siteOf i = s.siteOf i := rfl
@[simp] theorem State.updCore_fnMeadow (s : State) (n : Nat) (f : Core → Core) (i j : Nat) : (s.updCore n f).fnMeadow i j = s.fnMeadow i j := rfl

/-! `updBase`. -/

@[simp] theorem State.updBase_pending (s : State) (b : Nat) (f : Base → Base) : (s.updBase b f).pending = s.pending := rfl
@[simp] theorem State.updBase_held (s : State) (b : Nat) (f : Base → Base) : (s.updBase b f).held = s.held := rfl
@[simp] theorem State.updBase_free (s : State) (b : Nat) (f : Base → Base) : (s.updBase b f).free = s.free := rfl
@[simp] theorem State.updBase_tick (s : State) (b : Nat) (f : Base → Base) : (s.updBase b f).tick = s.tick := rfl
@[simp] theorem State.updBase_part (s : State) (b : Nat) (f : Base → Base) : (s.updBase b f).part = s.part := rfl
@[simp] theorem State.updBase_cores (s : State) (b : Nat) (f : Base → Base) : (s.updBase b f).cores = s.cores := rfl
@[simp] theorem State.updBase_meadows (s : State) (b : Nat) (f : Base → Base) : (s.updBase b f).meadows = s.meadows := rfl
@[simp] theorem State.updBase_heath (s : State) (b : Nat) (f : Base → Base) : (s.updBase b f).heath = s.heath := rfl
@[simp] theorem State.updBase_pkg (s : State) (b : Nat) (f : Base → Base) : (s.updBase b f).pkg = s.pkg := rfl
@[simp] theorem State.updBase_hub (s : State) (b : Nat) (f : Base → Base) : (s.updBase b f).hub = s.hub := rfl
@[simp] theorem State.updBase_sxt (s : State) (b : Nat) (f : Base → Base) : (s.updBase b f).sxt = s.sxt := rfl
@[simp] theorem State.updBase_qorf (s : State) (b : Nat) (f : Base → Base) : (s.updBase b f).qorf = s.qorf := rfl
@[simp] theorem State.updBase_swarm (s : State) (b : Nat) (f : Base → Base) : (s.updBase b f).swarm = s.swarm := rfl
@[simp] theorem State.updBase_trn (s : State) (b : Nat) (f : Base → Base) : (s.updBase b f).trn = s.trn := rfl
@[simp] theorem State.updBase_pipes (s : State) (b : Nat) (f : Base → Base) : (s.updBase b f).pipes = s.pipes := rfl
@[simp] theorem State.updBase_power (s : State) (b : Nat) (f : Base → Base) : (s.updBase b f).power = s.power := rfl
@[simp] theorem State.updBase_bist (s : State) (b : Nat) (f : Base → Base) : (s.updBase b f).bist = s.bist := rfl
@[simp] theorem State.updBase_jtag (s : State) (b : Nat) (f : Base → Base) : (s.updBase b f).jtag = s.jtag := rfl
@[simp] theorem State.updBase_bscan (s : State) (b : Nat) (f : Base → Base) : (s.updBase b f).bscan = s.bscan := rfl
@[simp] theorem State.updBase_ports (s : State) (b : Nat) (f : Base → Base) : (s.updBase b f).ports = s.ports := rfl
@[simp] theorem State.updBase_fns (s : State) (b : Nat) (f : Base → Base) : (s.updBase b f).fns = s.fns := rfl
@[simp] theorem State.updBase_out (s : State) (b : Nat) (f : Base → Base) : (s.updBase b f).out = s.out := rfl
@[simp] theorem State.updBase_core (s : State) (b : Nat) (f : Base → Base) (i : Nat) : (s.updBase b f).core i = s.core i := rfl
@[simp] theorem State.updBase_meadow (s : State) (b : Nat) (f : Base → Base) (i : Nat) : (s.updBase b f).meadow i = s.meadow i := rfl
@[simp] theorem State.updBase_port (s : State) (b : Nat) (f : Base → Base) (i : Nat) : (s.updBase b f).port i = s.port i := rfl
@[simp] theorem State.updBase_fn (s : State) (b : Nat) (f : Base → Base) (i j : Nat) : (s.updBase b f).fn i j = s.fn i j := rfl
@[simp] theorem State.updBase_stack (s : State) (b : Nat) (f : Base → Base) (i : Nat) : (s.updBase b f).stack i = s.stack i := rfl
@[simp] theorem State.updBase_sw (s : State) (b : Nat) (f : Base → Base) (i : Nat) : (s.updBase b f).sw i = s.sw i := rfl
@[simp] theorem State.updBase_pipe (s : State) (b : Nat) (f : Base → Base) (i : Nat) : (s.updBase b f).pipe i = s.pipe i := rfl
@[simp] theorem State.updBase_rail (s : State) (b : Nat) (f : Base → Base) (i : Nat) : (s.updBase b f).rail i = s.rail i := rfl
@[simp] theorem State.updBase_mbox (s : State) (b : Nat) (f : Base → Base) (i : Nat) : (s.updBase b f).mbox i = s.mbox i := rfl
@[simp] theorem State.updBase_meadowOf (s : State) (b : Nat) (f : Base → Base) (i : Nat) : (s.updBase b f).meadowOf i = s.meadowOf i := rfl
@[simp] theorem State.updBase_meadowCores (s : State) (b : Nat) (f : Base → Base) (i : Nat) : (s.updBase b f).meadowCores i = s.meadowCores i := rfl
@[simp] theorem State.updBase_coresOf (s : State) (b : Nat) (f : Base → Base) (i : Nat) : (s.updBase b f).coresOf i = s.coresOf i := rfl
@[simp] theorem State.updBase_inMeadow (s : State) (b : Nat) (f : Base → Base) (i j : Nat) : (s.updBase b f).inMeadow i j = s.inMeadow i j := rfl
@[simp] theorem State.updBase_anchor (s : State) (b : Nat) (f : Base → Base) (i : Nat) : (s.updBase b f).anchor i = s.anchor i := rfl
@[simp] theorem State.updBase_queueDepth (s : State) (b : Nat) (f : Base → Base) (i : Nat) : (s.updBase b f).queueDepth i = s.queueDepth i := rfl
@[simp] theorem State.updBase_queueRing (s : State) (b : Nat) (f : Base → Base) (i : Nat) : (s.updBase b f).queueRing i = s.queueRing i := rfl
@[simp] theorem State.updBase_basesOf (s : State) (b : Nat) (f : Base → Base) (i : Nat) : (s.updBase b f).basesOf i = s.basesOf i := rfl
@[simp] theorem State.updBase_meadowBases (s : State) (b : Nat) (f : Base → Base) (i : Nat) : (s.updBase b f).meadowBases i = s.meadowBases i := rfl
@[simp] theorem State.updBase_siteOf (s : State) (b : Nat) (f : Base → Base) (i : Nat) : (s.updBase b f).siteOf i = s.siteOf i := rfl
@[simp] theorem State.updBase_fnMeadow (s : State) (b : Nat) (f : Base → Base) (i j : Nat) : (s.updBase b f).fnMeadow i j = s.fnMeadow i j := rfl

/-! `updMeadow`. -/

@[simp] theorem State.updMeadow_pending (s : State) (m : Nat) (f : Meadow → Meadow) : (s.updMeadow m f).pending = s.pending := rfl
@[simp] theorem State.updMeadow_held (s : State) (m : Nat) (f : Meadow → Meadow) : (s.updMeadow m f).held = s.held := rfl
@[simp] theorem State.updMeadow_free (s : State) (m : Nat) (f : Meadow → Meadow) : (s.updMeadow m f).free = s.free := rfl
@[simp] theorem State.updMeadow_tick (s : State) (m : Nat) (f : Meadow → Meadow) : (s.updMeadow m f).tick = s.tick := rfl
@[simp] theorem State.updMeadow_part (s : State) (m : Nat) (f : Meadow → Meadow) : (s.updMeadow m f).part = s.part := rfl
@[simp] theorem State.updMeadow_cores (s : State) (m : Nat) (f : Meadow → Meadow) : (s.updMeadow m f).cores = s.cores := rfl
@[simp] theorem State.updMeadow_bases (s : State) (m : Nat) (f : Meadow → Meadow) : (s.updMeadow m f).bases = s.bases := rfl
@[simp] theorem State.updMeadow_heath (s : State) (m : Nat) (f : Meadow → Meadow) : (s.updMeadow m f).heath = s.heath := rfl
@[simp] theorem State.updMeadow_pkg (s : State) (m : Nat) (f : Meadow → Meadow) : (s.updMeadow m f).pkg = s.pkg := rfl
@[simp] theorem State.updMeadow_hub (s : State) (m : Nat) (f : Meadow → Meadow) : (s.updMeadow m f).hub = s.hub := rfl
@[simp] theorem State.updMeadow_sxt (s : State) (m : Nat) (f : Meadow → Meadow) : (s.updMeadow m f).sxt = s.sxt := rfl
@[simp] theorem State.updMeadow_qorf (s : State) (m : Nat) (f : Meadow → Meadow) : (s.updMeadow m f).qorf = s.qorf := rfl
@[simp] theorem State.updMeadow_swarm (s : State) (m : Nat) (f : Meadow → Meadow) : (s.updMeadow m f).swarm = s.swarm := rfl
@[simp] theorem State.updMeadow_trn (s : State) (m : Nat) (f : Meadow → Meadow) : (s.updMeadow m f).trn = s.trn := rfl
@[simp] theorem State.updMeadow_pipes (s : State) (m : Nat) (f : Meadow → Meadow) : (s.updMeadow m f).pipes = s.pipes := rfl
@[simp] theorem State.updMeadow_power (s : State) (m : Nat) (f : Meadow → Meadow) : (s.updMeadow m f).power = s.power := rfl
@[simp] theorem State.updMeadow_bist (s : State) (m : Nat) (f : Meadow → Meadow) : (s.updMeadow m f).bist = s.bist := rfl
@[simp] theorem State.updMeadow_jtag (s : State) (m : Nat) (f : Meadow → Meadow) : (s.updMeadow m f).jtag = s.jtag := rfl
@[simp] theorem State.updMeadow_bscan (s : State) (m : Nat) (f : Meadow → Meadow) : (s.updMeadow m f).bscan = s.bscan := rfl
@[simp] theorem State.updMeadow_ports (s : State) (m : Nat) (f : Meadow → Meadow) : (s.updMeadow m f).ports = s.ports := rfl
@[simp] theorem State.updMeadow_fns (s : State) (m : Nat) (f : Meadow → Meadow) : (s.updMeadow m f).fns = s.fns := rfl
@[simp] theorem State.updMeadow_out (s : State) (m : Nat) (f : Meadow → Meadow) : (s.updMeadow m f).out = s.out := rfl
@[simp] theorem State.updMeadow_core (s : State) (m : Nat) (f : Meadow → Meadow) (i : Nat) : (s.updMeadow m f).core i = s.core i := rfl
@[simp] theorem State.updMeadow_base (s : State) (m : Nat) (f : Meadow → Meadow) (i : Nat) : (s.updMeadow m f).base i = s.base i := rfl
@[simp] theorem State.updMeadow_port (s : State) (m : Nat) (f : Meadow → Meadow) (i : Nat) : (s.updMeadow m f).port i = s.port i := rfl
@[simp] theorem State.updMeadow_fn (s : State) (m : Nat) (f : Meadow → Meadow) (i j : Nat) : (s.updMeadow m f).fn i j = s.fn i j := rfl
@[simp] theorem State.updMeadow_stack (s : State) (m : Nat) (f : Meadow → Meadow) (i : Nat) : (s.updMeadow m f).stack i = s.stack i := rfl
@[simp] theorem State.updMeadow_sw (s : State) (m : Nat) (f : Meadow → Meadow) (i : Nat) : (s.updMeadow m f).sw i = s.sw i := rfl
@[simp] theorem State.updMeadow_pipe (s : State) (m : Nat) (f : Meadow → Meadow) (i : Nat) : (s.updMeadow m f).pipe i = s.pipe i := rfl
@[simp] theorem State.updMeadow_rail (s : State) (m : Nat) (f : Meadow → Meadow) (i : Nat) : (s.updMeadow m f).rail i = s.rail i := rfl
@[simp] theorem State.updMeadow_mbox (s : State) (m : Nat) (f : Meadow → Meadow) (i : Nat) : (s.updMeadow m f).mbox i = s.mbox i := rfl
@[simp] theorem State.updMeadow_coresOf (s : State) (m : Nat) (f : Meadow → Meadow) (i : Nat) : (s.updMeadow m f).coresOf i = s.coresOf i := rfl
@[simp] theorem State.updMeadow_anchor (s : State) (m : Nat) (f : Meadow → Meadow) (i : Nat) : (s.updMeadow m f).anchor i = s.anchor i := rfl
@[simp] theorem State.updMeadow_queueDepth (s : State) (m : Nat) (f : Meadow → Meadow) (i : Nat) : (s.updMeadow m f).queueDepth i = s.queueDepth i := rfl
@[simp] theorem State.updMeadow_queueRing (s : State) (m : Nat) (f : Meadow → Meadow) (i : Nat) : (s.updMeadow m f).queueRing i = s.queueRing i := rfl
@[simp] theorem State.updMeadow_basesOf (s : State) (m : Nat) (f : Meadow → Meadow) (i : Nat) : (s.updMeadow m f).basesOf i = s.basesOf i := rfl
@[simp] theorem State.updMeadow_siteOf (s : State) (m : Nat) (f : Meadow → Meadow) (i : Nat) : (s.updMeadow m f).siteOf i = s.siteOf i := rfl

/-! `updHub`. -/

@[simp] theorem State.updHub_pending (s : State) (f : Hub → Hub) : (s.updHub f).pending = s.pending := rfl
@[simp] theorem State.updHub_held (s : State) (f : Hub → Hub) : (s.updHub f).held = s.held := rfl
@[simp] theorem State.updHub_free (s : State) (f : Hub → Hub) : (s.updHub f).free = s.free := rfl
@[simp] theorem State.updHub_tick (s : State) (f : Hub → Hub) : (s.updHub f).tick = s.tick := rfl
@[simp] theorem State.updHub_part (s : State) (f : Hub → Hub) : (s.updHub f).part = s.part := rfl
@[simp] theorem State.updHub_cores (s : State) (f : Hub → Hub) : (s.updHub f).cores = s.cores := rfl
@[simp] theorem State.updHub_bases (s : State) (f : Hub → Hub) : (s.updHub f).bases = s.bases := rfl
@[simp] theorem State.updHub_meadows (s : State) (f : Hub → Hub) : (s.updHub f).meadows = s.meadows := rfl
@[simp] theorem State.updHub_heath (s : State) (f : Hub → Hub) : (s.updHub f).heath = s.heath := rfl
@[simp] theorem State.updHub_pkg (s : State) (f : Hub → Hub) : (s.updHub f).pkg = s.pkg := rfl
@[simp] theorem State.updHub_sxt (s : State) (f : Hub → Hub) : (s.updHub f).sxt = s.sxt := rfl
@[simp] theorem State.updHub_qorf (s : State) (f : Hub → Hub) : (s.updHub f).qorf = s.qorf := rfl
@[simp] theorem State.updHub_swarm (s : State) (f : Hub → Hub) : (s.updHub f).swarm = s.swarm := rfl
@[simp] theorem State.updHub_trn (s : State) (f : Hub → Hub) : (s.updHub f).trn = s.trn := rfl
@[simp] theorem State.updHub_pipes (s : State) (f : Hub → Hub) : (s.updHub f).pipes = s.pipes := rfl
@[simp] theorem State.updHub_power (s : State) (f : Hub → Hub) : (s.updHub f).power = s.power := rfl
@[simp] theorem State.updHub_bist (s : State) (f : Hub → Hub) : (s.updHub f).bist = s.bist := rfl
@[simp] theorem State.updHub_jtag (s : State) (f : Hub → Hub) : (s.updHub f).jtag = s.jtag := rfl
@[simp] theorem State.updHub_bscan (s : State) (f : Hub → Hub) : (s.updHub f).bscan = s.bscan := rfl
@[simp] theorem State.updHub_ports (s : State) (f : Hub → Hub) : (s.updHub f).ports = s.ports := rfl
@[simp] theorem State.updHub_fns (s : State) (f : Hub → Hub) : (s.updHub f).fns = s.fns := rfl
@[simp] theorem State.updHub_out (s : State) (f : Hub → Hub) : (s.updHub f).out = s.out := rfl
@[simp] theorem State.updHub_core (s : State) (f : Hub → Hub) (i : Nat) : (s.updHub f).core i = s.core i := rfl
@[simp] theorem State.updHub_base (s : State) (f : Hub → Hub) (i : Nat) : (s.updHub f).base i = s.base i := rfl
@[simp] theorem State.updHub_meadow (s : State) (f : Hub → Hub) (i : Nat) : (s.updHub f).meadow i = s.meadow i := rfl
@[simp] theorem State.updHub_port (s : State) (f : Hub → Hub) (i : Nat) : (s.updHub f).port i = s.port i := rfl
@[simp] theorem State.updHub_fn (s : State) (f : Hub → Hub) (i j : Nat) : (s.updHub f).fn i j = s.fn i j := rfl
@[simp] theorem State.updHub_stack (s : State) (f : Hub → Hub) (i : Nat) : (s.updHub f).stack i = s.stack i := rfl
@[simp] theorem State.updHub_sw (s : State) (f : Hub → Hub) (i : Nat) : (s.updHub f).sw i = s.sw i := rfl
@[simp] theorem State.updHub_pipe (s : State) (f : Hub → Hub) (i : Nat) : (s.updHub f).pipe i = s.pipe i := rfl
@[simp] theorem State.updHub_rail (s : State) (f : Hub → Hub) (i : Nat) : (s.updHub f).rail i = s.rail i := rfl
@[simp] theorem State.updHub_mbox (s : State) (f : Hub → Hub) (i : Nat) : (s.updHub f).mbox i = s.mbox i := rfl
@[simp] theorem State.updHub_meadowOf (s : State) (f : Hub → Hub) (i : Nat) : (s.updHub f).meadowOf i = s.meadowOf i := rfl
@[simp] theorem State.updHub_meadowCores (s : State) (f : Hub → Hub) (i : Nat) : (s.updHub f).meadowCores i = s.meadowCores i := rfl
@[simp] theorem State.updHub_coresOf (s : State) (f : Hub → Hub) (i : Nat) : (s.updHub f).coresOf i = s.coresOf i := rfl
@[simp] theorem State.updHub_inMeadow (s : State) (f : Hub → Hub) (i j : Nat) : (s.updHub f).inMeadow i j = s.inMeadow i j := rfl
@[simp] theorem State.updHub_anchor (s : State) (f : Hub → Hub) (i : Nat) : (s.updHub f).anchor i = s.anchor i := rfl
@[simp] theorem State.updHub_queueDepth (s : State) (f : Hub → Hub) (i : Nat) : (s.updHub f).queueDepth i = s.queueDepth i := rfl
@[simp] theorem State.updHub_queueRing (s : State) (f : Hub → Hub) (i : Nat) : (s.updHub f).queueRing i = s.queueRing i := rfl
@[simp] theorem State.updHub_basesOf (s : State) (f : Hub → Hub) (i : Nat) : (s.updHub f).basesOf i = s.basesOf i := rfl
@[simp] theorem State.updHub_meadowBases (s : State) (f : Hub → Hub) (i : Nat) : (s.updHub f).meadowBases i = s.meadowBases i := rfl
@[simp] theorem State.updHub_siteOf (s : State) (f : Hub → Hub) (i : Nat) : (s.updHub f).siteOf i = s.siteOf i := rfl
@[simp] theorem State.updHub_fnMeadow (s : State) (f : Hub → Hub) (i j : Nat) : (s.updHub f).fnMeadow i j = s.fnMeadow i j := rfl

/-! `updPkg`. -/

@[simp] theorem State.updPkg_pending (s : State) (f : Pkg → Pkg) : (s.updPkg f).pending = s.pending := rfl
@[simp] theorem State.updPkg_held (s : State) (f : Pkg → Pkg) : (s.updPkg f).held = s.held := rfl
@[simp] theorem State.updPkg_free (s : State) (f : Pkg → Pkg) : (s.updPkg f).free = s.free := rfl
@[simp] theorem State.updPkg_tick (s : State) (f : Pkg → Pkg) : (s.updPkg f).tick = s.tick := rfl
@[simp] theorem State.updPkg_part (s : State) (f : Pkg → Pkg) : (s.updPkg f).part = s.part := rfl
@[simp] theorem State.updPkg_cores (s : State) (f : Pkg → Pkg) : (s.updPkg f).cores = s.cores := rfl
@[simp] theorem State.updPkg_bases (s : State) (f : Pkg → Pkg) : (s.updPkg f).bases = s.bases := rfl
@[simp] theorem State.updPkg_meadows (s : State) (f : Pkg → Pkg) : (s.updPkg f).meadows = s.meadows := rfl
@[simp] theorem State.updPkg_heath (s : State) (f : Pkg → Pkg) : (s.updPkg f).heath = s.heath := rfl
@[simp] theorem State.updPkg_hub (s : State) (f : Pkg → Pkg) : (s.updPkg f).hub = s.hub := rfl
@[simp] theorem State.updPkg_sxt (s : State) (f : Pkg → Pkg) : (s.updPkg f).sxt = s.sxt := rfl
@[simp] theorem State.updPkg_qorf (s : State) (f : Pkg → Pkg) : (s.updPkg f).qorf = s.qorf := rfl
@[simp] theorem State.updPkg_swarm (s : State) (f : Pkg → Pkg) : (s.updPkg f).swarm = s.swarm := rfl
@[simp] theorem State.updPkg_trn (s : State) (f : Pkg → Pkg) : (s.updPkg f).trn = s.trn := rfl
@[simp] theorem State.updPkg_pipes (s : State) (f : Pkg → Pkg) : (s.updPkg f).pipes = s.pipes := rfl
@[simp] theorem State.updPkg_power (s : State) (f : Pkg → Pkg) : (s.updPkg f).power = s.power := rfl
@[simp] theorem State.updPkg_bist (s : State) (f : Pkg → Pkg) : (s.updPkg f).bist = s.bist := rfl
@[simp] theorem State.updPkg_jtag (s : State) (f : Pkg → Pkg) : (s.updPkg f).jtag = s.jtag := rfl
@[simp] theorem State.updPkg_bscan (s : State) (f : Pkg → Pkg) : (s.updPkg f).bscan = s.bscan := rfl
@[simp] theorem State.updPkg_ports (s : State) (f : Pkg → Pkg) : (s.updPkg f).ports = s.ports := rfl
@[simp] theorem State.updPkg_fns (s : State) (f : Pkg → Pkg) : (s.updPkg f).fns = s.fns := rfl
@[simp] theorem State.updPkg_out (s : State) (f : Pkg → Pkg) : (s.updPkg f).out = s.out := rfl
@[simp] theorem State.updPkg_core (s : State) (f : Pkg → Pkg) (i : Nat) : (s.updPkg f).core i = s.core i := rfl
@[simp] theorem State.updPkg_base (s : State) (f : Pkg → Pkg) (i : Nat) : (s.updPkg f).base i = s.base i := rfl
@[simp] theorem State.updPkg_meadow (s : State) (f : Pkg → Pkg) (i : Nat) : (s.updPkg f).meadow i = s.meadow i := rfl
@[simp] theorem State.updPkg_port (s : State) (f : Pkg → Pkg) (i : Nat) : (s.updPkg f).port i = s.port i := rfl
@[simp] theorem State.updPkg_fn (s : State) (f : Pkg → Pkg) (i j : Nat) : (s.updPkg f).fn i j = s.fn i j := rfl
@[simp] theorem State.updPkg_sw (s : State) (f : Pkg → Pkg) (i : Nat) : (s.updPkg f).sw i = s.sw i := rfl
@[simp] theorem State.updPkg_pipe (s : State) (f : Pkg → Pkg) (i : Nat) : (s.updPkg f).pipe i = s.pipe i := rfl
@[simp] theorem State.updPkg_rail (s : State) (f : Pkg → Pkg) (i : Nat) : (s.updPkg f).rail i = s.rail i := rfl
@[simp] theorem State.updPkg_mbox (s : State) (f : Pkg → Pkg) (i : Nat) : (s.updPkg f).mbox i = s.mbox i := rfl
@[simp] theorem State.updPkg_meadowOf (s : State) (f : Pkg → Pkg) (i : Nat) : (s.updPkg f).meadowOf i = s.meadowOf i := rfl
@[simp] theorem State.updPkg_meadowCores (s : State) (f : Pkg → Pkg) (i : Nat) : (s.updPkg f).meadowCores i = s.meadowCores i := rfl
@[simp] theorem State.updPkg_coresOf (s : State) (f : Pkg → Pkg) (i : Nat) : (s.updPkg f).coresOf i = s.coresOf i := rfl
@[simp] theorem State.updPkg_inMeadow (s : State) (f : Pkg → Pkg) (i j : Nat) : (s.updPkg f).inMeadow i j = s.inMeadow i j := rfl
@[simp] theorem State.updPkg_anchor (s : State) (f : Pkg → Pkg) (i : Nat) : (s.updPkg f).anchor i = s.anchor i := rfl
@[simp] theorem State.updPkg_queueDepth (s : State) (f : Pkg → Pkg) (i : Nat) : (s.updPkg f).queueDepth i = s.queueDepth i := rfl
@[simp] theorem State.updPkg_queueRing (s : State) (f : Pkg → Pkg) (i : Nat) : (s.updPkg f).queueRing i = s.queueRing i := rfl
@[simp] theorem State.updPkg_basesOf (s : State) (f : Pkg → Pkg) (i : Nat) : (s.updPkg f).basesOf i = s.basesOf i := rfl
@[simp] theorem State.updPkg_meadowBases (s : State) (f : Pkg → Pkg) (i : Nat) : (s.updPkg f).meadowBases i = s.meadowBases i := rfl
@[simp] theorem State.updPkg_siteOf (s : State) (f : Pkg → Pkg) (i : Nat) : (s.updPkg f).siteOf i = s.siteOf i := rfl
@[simp] theorem State.updPkg_fnMeadow (s : State) (f : Pkg → Pkg) (i j : Nat) : (s.updPkg f).fnMeadow i j = s.fnMeadow i j := rfl

/-! `updPort`. -/

@[simp] theorem State.updPort_pending (s : State) (p : Nat) (f : Port → Port) : (s.updPort p f).pending = s.pending := rfl
@[simp] theorem State.updPort_held (s : State) (p : Nat) (f : Port → Port) : (s.updPort p f).held = s.held := rfl
@[simp] theorem State.updPort_free (s : State) (p : Nat) (f : Port → Port) : (s.updPort p f).free = s.free := rfl
@[simp] theorem State.updPort_tick (s : State) (p : Nat) (f : Port → Port) : (s.updPort p f).tick = s.tick := rfl
@[simp] theorem State.updPort_part (s : State) (p : Nat) (f : Port → Port) : (s.updPort p f).part = s.part := rfl
@[simp] theorem State.updPort_cores (s : State) (p : Nat) (f : Port → Port) : (s.updPort p f).cores = s.cores := rfl
@[simp] theorem State.updPort_bases (s : State) (p : Nat) (f : Port → Port) : (s.updPort p f).bases = s.bases := rfl
@[simp] theorem State.updPort_meadows (s : State) (p : Nat) (f : Port → Port) : (s.updPort p f).meadows = s.meadows := rfl
@[simp] theorem State.updPort_heath (s : State) (p : Nat) (f : Port → Port) : (s.updPort p f).heath = s.heath := rfl
@[simp] theorem State.updPort_pkg (s : State) (p : Nat) (f : Port → Port) : (s.updPort p f).pkg = s.pkg := rfl
@[simp] theorem State.updPort_hub (s : State) (p : Nat) (f : Port → Port) : (s.updPort p f).hub = s.hub := rfl
@[simp] theorem State.updPort_sxt (s : State) (p : Nat) (f : Port → Port) : (s.updPort p f).sxt = s.sxt := rfl
@[simp] theorem State.updPort_qorf (s : State) (p : Nat) (f : Port → Port) : (s.updPort p f).qorf = s.qorf := rfl
@[simp] theorem State.updPort_swarm (s : State) (p : Nat) (f : Port → Port) : (s.updPort p f).swarm = s.swarm := rfl
@[simp] theorem State.updPort_trn (s : State) (p : Nat) (f : Port → Port) : (s.updPort p f).trn = s.trn := rfl
@[simp] theorem State.updPort_pipes (s : State) (p : Nat) (f : Port → Port) : (s.updPort p f).pipes = s.pipes := rfl
@[simp] theorem State.updPort_power (s : State) (p : Nat) (f : Port → Port) : (s.updPort p f).power = s.power := rfl
@[simp] theorem State.updPort_bist (s : State) (p : Nat) (f : Port → Port) : (s.updPort p f).bist = s.bist := rfl
@[simp] theorem State.updPort_jtag (s : State) (p : Nat) (f : Port → Port) : (s.updPort p f).jtag = s.jtag := rfl
@[simp] theorem State.updPort_bscan (s : State) (p : Nat) (f : Port → Port) : (s.updPort p f).bscan = s.bscan := rfl
@[simp] theorem State.updPort_fns (s : State) (p : Nat) (f : Port → Port) : (s.updPort p f).fns = s.fns := rfl
@[simp] theorem State.updPort_out (s : State) (p : Nat) (f : Port → Port) : (s.updPort p f).out = s.out := rfl
@[simp] theorem State.updPort_core (s : State) (p : Nat) (f : Port → Port) (i : Nat) : (s.updPort p f).core i = s.core i := rfl
@[simp] theorem State.updPort_base (s : State) (p : Nat) (f : Port → Port) (i : Nat) : (s.updPort p f).base i = s.base i := rfl
@[simp] theorem State.updPort_meadow (s : State) (p : Nat) (f : Port → Port) (i : Nat) : (s.updPort p f).meadow i = s.meadow i := rfl
@[simp] theorem State.updPort_fn (s : State) (p : Nat) (f : Port → Port) (i j : Nat) : (s.updPort p f).fn i j = s.fn i j := rfl
@[simp] theorem State.updPort_stack (s : State) (p : Nat) (f : Port → Port) (i : Nat) : (s.updPort p f).stack i = s.stack i := rfl
@[simp] theorem State.updPort_sw (s : State) (p : Nat) (f : Port → Port) (i : Nat) : (s.updPort p f).sw i = s.sw i := rfl
@[simp] theorem State.updPort_pipe (s : State) (p : Nat) (f : Port → Port) (i : Nat) : (s.updPort p f).pipe i = s.pipe i := rfl
@[simp] theorem State.updPort_rail (s : State) (p : Nat) (f : Port → Port) (i : Nat) : (s.updPort p f).rail i = s.rail i := rfl
@[simp] theorem State.updPort_mbox (s : State) (p : Nat) (f : Port → Port) (i : Nat) : (s.updPort p f).mbox i = s.mbox i := rfl
@[simp] theorem State.updPort_meadowOf (s : State) (p : Nat) (f : Port → Port) (i : Nat) : (s.updPort p f).meadowOf i = s.meadowOf i := rfl
@[simp] theorem State.updPort_meadowCores (s : State) (p : Nat) (f : Port → Port) (i : Nat) : (s.updPort p f).meadowCores i = s.meadowCores i := rfl
@[simp] theorem State.updPort_coresOf (s : State) (p : Nat) (f : Port → Port) (i : Nat) : (s.updPort p f).coresOf i = s.coresOf i := rfl
@[simp] theorem State.updPort_inMeadow (s : State) (p : Nat) (f : Port → Port) (i j : Nat) : (s.updPort p f).inMeadow i j = s.inMeadow i j := rfl
@[simp] theorem State.updPort_anchor (s : State) (p : Nat) (f : Port → Port) (i : Nat) : (s.updPort p f).anchor i = s.anchor i := rfl
@[simp] theorem State.updPort_queueDepth (s : State) (p : Nat) (f : Port → Port) (i : Nat) : (s.updPort p f).queueDepth i = s.queueDepth i := rfl
@[simp] theorem State.updPort_queueRing (s : State) (p : Nat) (f : Port → Port) (i : Nat) : (s.updPort p f).queueRing i = s.queueRing i := rfl
@[simp] theorem State.updPort_basesOf (s : State) (p : Nat) (f : Port → Port) (i : Nat) : (s.updPort p f).basesOf i = s.basesOf i := rfl
@[simp] theorem State.updPort_meadowBases (s : State) (p : Nat) (f : Port → Port) (i : Nat) : (s.updPort p f).meadowBases i = s.meadowBases i := rfl
@[simp] theorem State.updPort_siteOf (s : State) (p : Nat) (f : Port → Port) (i : Nat) : (s.updPort p f).siteOf i = s.siteOf i := rfl
@[simp] theorem State.updPort_fnMeadow (s : State) (p : Nat) (f : Port → Port) (i j : Nat) : (s.updPort p f).fnMeadow i j = s.fnMeadow i j := rfl

/-! `updFn`. -/

@[simp] theorem State.updFn_pending (s : State) (p k : Nat) (f : HostFn → HostFn) : (s.updFn p k f).pending = s.pending := rfl
@[simp] theorem State.updFn_held (s : State) (p k : Nat) (f : HostFn → HostFn) : (s.updFn p k f).held = s.held := rfl
@[simp] theorem State.updFn_free (s : State) (p k : Nat) (f : HostFn → HostFn) : (s.updFn p k f).free = s.free := rfl
@[simp] theorem State.updFn_tick (s : State) (p k : Nat) (f : HostFn → HostFn) : (s.updFn p k f).tick = s.tick := rfl
@[simp] theorem State.updFn_part (s : State) (p k : Nat) (f : HostFn → HostFn) : (s.updFn p k f).part = s.part := rfl
@[simp] theorem State.updFn_cores (s : State) (p k : Nat) (f : HostFn → HostFn) : (s.updFn p k f).cores = s.cores := rfl
@[simp] theorem State.updFn_bases (s : State) (p k : Nat) (f : HostFn → HostFn) : (s.updFn p k f).bases = s.bases := rfl
@[simp] theorem State.updFn_meadows (s : State) (p k : Nat) (f : HostFn → HostFn) : (s.updFn p k f).meadows = s.meadows := rfl
@[simp] theorem State.updFn_heath (s : State) (p k : Nat) (f : HostFn → HostFn) : (s.updFn p k f).heath = s.heath := rfl
@[simp] theorem State.updFn_pkg (s : State) (p k : Nat) (f : HostFn → HostFn) : (s.updFn p k f).pkg = s.pkg := rfl
@[simp] theorem State.updFn_hub (s : State) (p k : Nat) (f : HostFn → HostFn) : (s.updFn p k f).hub = s.hub := rfl
@[simp] theorem State.updFn_sxt (s : State) (p k : Nat) (f : HostFn → HostFn) : (s.updFn p k f).sxt = s.sxt := rfl
@[simp] theorem State.updFn_qorf (s : State) (p k : Nat) (f : HostFn → HostFn) : (s.updFn p k f).qorf = s.qorf := rfl
@[simp] theorem State.updFn_swarm (s : State) (p k : Nat) (f : HostFn → HostFn) : (s.updFn p k f).swarm = s.swarm := rfl
@[simp] theorem State.updFn_trn (s : State) (p k : Nat) (f : HostFn → HostFn) : (s.updFn p k f).trn = s.trn := rfl
@[simp] theorem State.updFn_pipes (s : State) (p k : Nat) (f : HostFn → HostFn) : (s.updFn p k f).pipes = s.pipes := rfl
@[simp] theorem State.updFn_power (s : State) (p k : Nat) (f : HostFn → HostFn) : (s.updFn p k f).power = s.power := rfl
@[simp] theorem State.updFn_bist (s : State) (p k : Nat) (f : HostFn → HostFn) : (s.updFn p k f).bist = s.bist := rfl
@[simp] theorem State.updFn_jtag (s : State) (p k : Nat) (f : HostFn → HostFn) : (s.updFn p k f).jtag = s.jtag := rfl
@[simp] theorem State.updFn_bscan (s : State) (p k : Nat) (f : HostFn → HostFn) : (s.updFn p k f).bscan = s.bscan := rfl
@[simp] theorem State.updFn_ports (s : State) (p k : Nat) (f : HostFn → HostFn) : (s.updFn p k f).ports = s.ports := rfl
@[simp] theorem State.updFn_out (s : State) (p k : Nat) (f : HostFn → HostFn) : (s.updFn p k f).out = s.out := rfl
@[simp] theorem State.updFn_core (s : State) (p k : Nat) (f : HostFn → HostFn) (i : Nat) : (s.updFn p k f).core i = s.core i := rfl
@[simp] theorem State.updFn_base (s : State) (p k : Nat) (f : HostFn → HostFn) (i : Nat) : (s.updFn p k f).base i = s.base i := rfl
@[simp] theorem State.updFn_meadow (s : State) (p k : Nat) (f : HostFn → HostFn) (i : Nat) : (s.updFn p k f).meadow i = s.meadow i := rfl
@[simp] theorem State.updFn_port (s : State) (p k : Nat) (f : HostFn → HostFn) (i : Nat) : (s.updFn p k f).port i = s.port i := rfl
@[simp] theorem State.updFn_stack (s : State) (p k : Nat) (f : HostFn → HostFn) (i : Nat) : (s.updFn p k f).stack i = s.stack i := rfl
@[simp] theorem State.updFn_sw (s : State) (p k : Nat) (f : HostFn → HostFn) (i : Nat) : (s.updFn p k f).sw i = s.sw i := rfl
@[simp] theorem State.updFn_pipe (s : State) (p k : Nat) (f : HostFn → HostFn) (i : Nat) : (s.updFn p k f).pipe i = s.pipe i := rfl
@[simp] theorem State.updFn_rail (s : State) (p k : Nat) (f : HostFn → HostFn) (i : Nat) : (s.updFn p k f).rail i = s.rail i := rfl
@[simp] theorem State.updFn_mbox (s : State) (p k : Nat) (f : HostFn → HostFn) (i : Nat) : (s.updFn p k f).mbox i = s.mbox i := rfl
@[simp] theorem State.updFn_meadowOf (s : State) (p k : Nat) (f : HostFn → HostFn) (i : Nat) : (s.updFn p k f).meadowOf i = s.meadowOf i := rfl
@[simp] theorem State.updFn_meadowCores (s : State) (p k : Nat) (f : HostFn → HostFn) (i : Nat) : (s.updFn p k f).meadowCores i = s.meadowCores i := rfl
@[simp] theorem State.updFn_coresOf (s : State) (p k : Nat) (f : HostFn → HostFn) (i : Nat) : (s.updFn p k f).coresOf i = s.coresOf i := rfl
@[simp] theorem State.updFn_inMeadow (s : State) (p k : Nat) (f : HostFn → HostFn) (i j : Nat) : (s.updFn p k f).inMeadow i j = s.inMeadow i j := rfl
@[simp] theorem State.updFn_anchor (s : State) (p k : Nat) (f : HostFn → HostFn) (i : Nat) : (s.updFn p k f).anchor i = s.anchor i := rfl
@[simp] theorem State.updFn_queueDepth (s : State) (p k : Nat) (f : HostFn → HostFn) (i : Nat) : (s.updFn p k f).queueDepth i = s.queueDepth i := rfl
@[simp] theorem State.updFn_queueRing (s : State) (p k : Nat) (f : HostFn → HostFn) (i : Nat) : (s.updFn p k f).queueRing i = s.queueRing i := rfl
@[simp] theorem State.updFn_basesOf (s : State) (p k : Nat) (f : HostFn → HostFn) (i : Nat) : (s.updFn p k f).basesOf i = s.basesOf i := rfl
@[simp] theorem State.updFn_meadowBases (s : State) (p k : Nat) (f : HostFn → HostFn) (i : Nat) : (s.updFn p k f).meadowBases i = s.meadowBases i := rfl
@[simp] theorem State.updFn_siteOf (s : State) (p k : Nat) (f : HostFn → HostFn) (i : Nat) : (s.updFn p k f).siteOf i = s.siteOf i := rfl
@[simp] theorem State.updFn_fnMeadow (s : State) (p k : Nat) (f : HostFn → HostFn) (i j : Nat) : (s.updFn p k f).fnMeadow i j = s.fnMeadow i j := rfl

/-! `updSxt`. -/

@[simp] theorem State.updSxt_pending (s : State) (f : Sexton → Sexton) : (s.updSxt f).pending = s.pending := rfl
@[simp] theorem State.updSxt_held (s : State) (f : Sexton → Sexton) : (s.updSxt f).held = s.held := rfl
@[simp] theorem State.updSxt_free (s : State) (f : Sexton → Sexton) : (s.updSxt f).free = s.free := rfl
@[simp] theorem State.updSxt_tick (s : State) (f : Sexton → Sexton) : (s.updSxt f).tick = s.tick := rfl
@[simp] theorem State.updSxt_part (s : State) (f : Sexton → Sexton) : (s.updSxt f).part = s.part := rfl
@[simp] theorem State.updSxt_cores (s : State) (f : Sexton → Sexton) : (s.updSxt f).cores = s.cores := rfl
@[simp] theorem State.updSxt_bases (s : State) (f : Sexton → Sexton) : (s.updSxt f).bases = s.bases := rfl
@[simp] theorem State.updSxt_meadows (s : State) (f : Sexton → Sexton) : (s.updSxt f).meadows = s.meadows := rfl
@[simp] theorem State.updSxt_heath (s : State) (f : Sexton → Sexton) : (s.updSxt f).heath = s.heath := rfl
@[simp] theorem State.updSxt_pkg (s : State) (f : Sexton → Sexton) : (s.updSxt f).pkg = s.pkg := rfl
@[simp] theorem State.updSxt_hub (s : State) (f : Sexton → Sexton) : (s.updSxt f).hub = s.hub := rfl
@[simp] theorem State.updSxt_qorf (s : State) (f : Sexton → Sexton) : (s.updSxt f).qorf = s.qorf := rfl
@[simp] theorem State.updSxt_swarm (s : State) (f : Sexton → Sexton) : (s.updSxt f).swarm = s.swarm := rfl
@[simp] theorem State.updSxt_trn (s : State) (f : Sexton → Sexton) : (s.updSxt f).trn = s.trn := rfl
@[simp] theorem State.updSxt_pipes (s : State) (f : Sexton → Sexton) : (s.updSxt f).pipes = s.pipes := rfl
@[simp] theorem State.updSxt_power (s : State) (f : Sexton → Sexton) : (s.updSxt f).power = s.power := rfl
@[simp] theorem State.updSxt_bist (s : State) (f : Sexton → Sexton) : (s.updSxt f).bist = s.bist := rfl
@[simp] theorem State.updSxt_jtag (s : State) (f : Sexton → Sexton) : (s.updSxt f).jtag = s.jtag := rfl
@[simp] theorem State.updSxt_bscan (s : State) (f : Sexton → Sexton) : (s.updSxt f).bscan = s.bscan := rfl
@[simp] theorem State.updSxt_ports (s : State) (f : Sexton → Sexton) : (s.updSxt f).ports = s.ports := rfl
@[simp] theorem State.updSxt_fns (s : State) (f : Sexton → Sexton) : (s.updSxt f).fns = s.fns := rfl
@[simp] theorem State.updSxt_out (s : State) (f : Sexton → Sexton) : (s.updSxt f).out = s.out := rfl
@[simp] theorem State.updSxt_core (s : State) (f : Sexton → Sexton) (i : Nat) : (s.updSxt f).core i = s.core i := rfl
@[simp] theorem State.updSxt_base (s : State) (f : Sexton → Sexton) (i : Nat) : (s.updSxt f).base i = s.base i := rfl
@[simp] theorem State.updSxt_meadow (s : State) (f : Sexton → Sexton) (i : Nat) : (s.updSxt f).meadow i = s.meadow i := rfl
@[simp] theorem State.updSxt_port (s : State) (f : Sexton → Sexton) (i : Nat) : (s.updSxt f).port i = s.port i := rfl
@[simp] theorem State.updSxt_fn (s : State) (f : Sexton → Sexton) (i j : Nat) : (s.updSxt f).fn i j = s.fn i j := rfl
@[simp] theorem State.updSxt_stack (s : State) (f : Sexton → Sexton) (i : Nat) : (s.updSxt f).stack i = s.stack i := rfl
@[simp] theorem State.updSxt_sw (s : State) (f : Sexton → Sexton) (i : Nat) : (s.updSxt f).sw i = s.sw i := rfl
@[simp] theorem State.updSxt_pipe (s : State) (f : Sexton → Sexton) (i : Nat) : (s.updSxt f).pipe i = s.pipe i := rfl
@[simp] theorem State.updSxt_rail (s : State) (f : Sexton → Sexton) (i : Nat) : (s.updSxt f).rail i = s.rail i := rfl
@[simp] theorem State.updSxt_meadowOf (s : State) (f : Sexton → Sexton) (i : Nat) : (s.updSxt f).meadowOf i = s.meadowOf i := rfl
@[simp] theorem State.updSxt_meadowCores (s : State) (f : Sexton → Sexton) (i : Nat) : (s.updSxt f).meadowCores i = s.meadowCores i := rfl
@[simp] theorem State.updSxt_coresOf (s : State) (f : Sexton → Sexton) (i : Nat) : (s.updSxt f).coresOf i = s.coresOf i := rfl
@[simp] theorem State.updSxt_inMeadow (s : State) (f : Sexton → Sexton) (i j : Nat) : (s.updSxt f).inMeadow i j = s.inMeadow i j := rfl
@[simp] theorem State.updSxt_anchor (s : State) (f : Sexton → Sexton) (i : Nat) : (s.updSxt f).anchor i = s.anchor i := rfl
@[simp] theorem State.updSxt_queueDepth (s : State) (f : Sexton → Sexton) (i : Nat) : (s.updSxt f).queueDepth i = s.queueDepth i := rfl
@[simp] theorem State.updSxt_queueRing (s : State) (f : Sexton → Sexton) (i : Nat) : (s.updSxt f).queueRing i = s.queueRing i := rfl
@[simp] theorem State.updSxt_basesOf (s : State) (f : Sexton → Sexton) (i : Nat) : (s.updSxt f).basesOf i = s.basesOf i := rfl
@[simp] theorem State.updSxt_meadowBases (s : State) (f : Sexton → Sexton) (i : Nat) : (s.updSxt f).meadowBases i = s.meadowBases i := rfl
@[simp] theorem State.updSxt_siteOf (s : State) (f : Sexton → Sexton) (i : Nat) : (s.updSxt f).siteOf i = s.siteOf i := rfl
@[simp] theorem State.updSxt_fnMeadow (s : State) (f : Sexton → Sexton) (i j : Nat) : (s.updSxt f).fnMeadow i j = s.fnMeadow i j := rfl

/-! `emit`. -/

@[simp] theorem State.emit_pending (s : State) (o : Output) : (s.emit o).pending = s.pending := rfl
@[simp] theorem State.emit_held (s : State) (o : Output) : (s.emit o).held = s.held := rfl
@[simp] theorem State.emit_free (s : State) (o : Output) : (s.emit o).free = s.free := rfl
@[simp] theorem State.emit_tick (s : State) (o : Output) : (s.emit o).tick = s.tick := rfl
@[simp] theorem State.emit_part (s : State) (o : Output) : (s.emit o).part = s.part := rfl
@[simp] theorem State.emit_cores (s : State) (o : Output) : (s.emit o).cores = s.cores := rfl
@[simp] theorem State.emit_bases (s : State) (o : Output) : (s.emit o).bases = s.bases := rfl
@[simp] theorem State.emit_meadows (s : State) (o : Output) : (s.emit o).meadows = s.meadows := rfl
@[simp] theorem State.emit_heath (s : State) (o : Output) : (s.emit o).heath = s.heath := rfl
@[simp] theorem State.emit_pkg (s : State) (o : Output) : (s.emit o).pkg = s.pkg := rfl
@[simp] theorem State.emit_hub (s : State) (o : Output) : (s.emit o).hub = s.hub := rfl
@[simp] theorem State.emit_sxt (s : State) (o : Output) : (s.emit o).sxt = s.sxt := rfl
@[simp] theorem State.emit_qorf (s : State) (o : Output) : (s.emit o).qorf = s.qorf := rfl
@[simp] theorem State.emit_swarm (s : State) (o : Output) : (s.emit o).swarm = s.swarm := rfl
@[simp] theorem State.emit_trn (s : State) (o : Output) : (s.emit o).trn = s.trn := rfl
@[simp] theorem State.emit_pipes (s : State) (o : Output) : (s.emit o).pipes = s.pipes := rfl
@[simp] theorem State.emit_power (s : State) (o : Output) : (s.emit o).power = s.power := rfl
@[simp] theorem State.emit_bist (s : State) (o : Output) : (s.emit o).bist = s.bist := rfl
@[simp] theorem State.emit_jtag (s : State) (o : Output) : (s.emit o).jtag = s.jtag := rfl
@[simp] theorem State.emit_bscan (s : State) (o : Output) : (s.emit o).bscan = s.bscan := rfl
@[simp] theorem State.emit_ports (s : State) (o : Output) : (s.emit o).ports = s.ports := rfl
@[simp] theorem State.emit_fns (s : State) (o : Output) : (s.emit o).fns = s.fns := rfl
@[simp] theorem State.emit_core (s : State) (o : Output) (i : Nat) : (s.emit o).core i = s.core i := rfl
@[simp] theorem State.emit_base (s : State) (o : Output) (i : Nat) : (s.emit o).base i = s.base i := rfl
@[simp] theorem State.emit_meadow (s : State) (o : Output) (i : Nat) : (s.emit o).meadow i = s.meadow i := rfl
@[simp] theorem State.emit_port (s : State) (o : Output) (i : Nat) : (s.emit o).port i = s.port i := rfl
@[simp] theorem State.emit_fn (s : State) (o : Output) (i j : Nat) : (s.emit o).fn i j = s.fn i j := rfl
@[simp] theorem State.emit_stack (s : State) (o : Output) (i : Nat) : (s.emit o).stack i = s.stack i := rfl
@[simp] theorem State.emit_sw (s : State) (o : Output) (i : Nat) : (s.emit o).sw i = s.sw i := rfl
@[simp] theorem State.emit_pipe (s : State) (o : Output) (i : Nat) : (s.emit o).pipe i = s.pipe i := rfl
@[simp] theorem State.emit_rail (s : State) (o : Output) (i : Nat) : (s.emit o).rail i = s.rail i := rfl
@[simp] theorem State.emit_mbox (s : State) (o : Output) (i : Nat) : (s.emit o).mbox i = s.mbox i := rfl
@[simp] theorem State.emit_meadowOf (s : State) (o : Output) (i : Nat) : (s.emit o).meadowOf i = s.meadowOf i := rfl
@[simp] theorem State.emit_meadowCores (s : State) (o : Output) (i : Nat) : (s.emit o).meadowCores i = s.meadowCores i := rfl
@[simp] theorem State.emit_coresOf (s : State) (o : Output) (i : Nat) : (s.emit o).coresOf i = s.coresOf i := rfl
@[simp] theorem State.emit_inMeadow (s : State) (o : Output) (i j : Nat) : (s.emit o).inMeadow i j = s.inMeadow i j := rfl
@[simp] theorem State.emit_anchor (s : State) (o : Output) (i : Nat) : (s.emit o).anchor i = s.anchor i := rfl
@[simp] theorem State.emit_queueDepth (s : State) (o : Output) (i : Nat) : (s.emit o).queueDepth i = s.queueDepth i := rfl
@[simp] theorem State.emit_queueRing (s : State) (o : Output) (i : Nat) : (s.emit o).queueRing i = s.queueRing i := rfl
@[simp] theorem State.emit_basesOf (s : State) (o : Output) (i : Nat) : (s.emit o).basesOf i = s.basesOf i := rfl
@[simp] theorem State.emit_meadowBases (s : State) (o : Output) (i : Nat) : (s.emit o).meadowBases i = s.meadowBases i := rfl
@[simp] theorem State.emit_siteOf (s : State) (o : Output) (i : Nat) : (s.emit o).siteOf i = s.siteOf i := rfl
@[simp] theorem State.emit_fnMeadow (s : State) (o : Output) (i j : Nat) : (s.emit o).fnMeadow i j = s.fnMeadow i j := rfl

/-! `updStack`. -/

@[simp] theorem State.updStack_pending (s : State) (k : Nat) (f : Stack → Stack) : (s.updStack k f).pending = s.pending := rfl
@[simp] theorem State.updStack_held (s : State) (k : Nat) (f : Stack → Stack) : (s.updStack k f).held = s.held := rfl
@[simp] theorem State.updStack_free (s : State) (k : Nat) (f : Stack → Stack) : (s.updStack k f).free = s.free := rfl
@[simp] theorem State.updStack_tick (s : State) (k : Nat) (f : Stack → Stack) : (s.updStack k f).tick = s.tick := rfl
@[simp] theorem State.updStack_part (s : State) (k : Nat) (f : Stack → Stack) : (s.updStack k f).part = s.part := rfl
@[simp] theorem State.updStack_cores (s : State) (k : Nat) (f : Stack → Stack) : (s.updStack k f).cores = s.cores := rfl
@[simp] theorem State.updStack_bases (s : State) (k : Nat) (f : Stack → Stack) : (s.updStack k f).bases = s.bases := rfl
@[simp] theorem State.updStack_meadows (s : State) (k : Nat) (f : Stack → Stack) : (s.updStack k f).meadows = s.meadows := rfl
@[simp] theorem State.updStack_heath (s : State) (k : Nat) (f : Stack → Stack) : (s.updStack k f).heath = s.heath := rfl
@[simp] theorem State.updStack_hub (s : State) (k : Nat) (f : Stack → Stack) : (s.updStack k f).hub = s.hub := rfl
@[simp] theorem State.updStack_sxt (s : State) (k : Nat) (f : Stack → Stack) : (s.updStack k f).sxt = s.sxt := rfl
@[simp] theorem State.updStack_qorf (s : State) (k : Nat) (f : Stack → Stack) : (s.updStack k f).qorf = s.qorf := rfl
@[simp] theorem State.updStack_swarm (s : State) (k : Nat) (f : Stack → Stack) : (s.updStack k f).swarm = s.swarm := rfl
@[simp] theorem State.updStack_trn (s : State) (k : Nat) (f : Stack → Stack) : (s.updStack k f).trn = s.trn := rfl
@[simp] theorem State.updStack_pipes (s : State) (k : Nat) (f : Stack → Stack) : (s.updStack k f).pipes = s.pipes := rfl
@[simp] theorem State.updStack_power (s : State) (k : Nat) (f : Stack → Stack) : (s.updStack k f).power = s.power := rfl
@[simp] theorem State.updStack_bist (s : State) (k : Nat) (f : Stack → Stack) : (s.updStack k f).bist = s.bist := rfl
@[simp] theorem State.updStack_jtag (s : State) (k : Nat) (f : Stack → Stack) : (s.updStack k f).jtag = s.jtag := rfl
@[simp] theorem State.updStack_bscan (s : State) (k : Nat) (f : Stack → Stack) : (s.updStack k f).bscan = s.bscan := rfl
@[simp] theorem State.updStack_ports (s : State) (k : Nat) (f : Stack → Stack) : (s.updStack k f).ports = s.ports := rfl
@[simp] theorem State.updStack_fns (s : State) (k : Nat) (f : Stack → Stack) : (s.updStack k f).fns = s.fns := rfl
@[simp] theorem State.updStack_out (s : State) (k : Nat) (f : Stack → Stack) : (s.updStack k f).out = s.out := rfl
@[simp] theorem State.updStack_core (s : State) (k : Nat) (f : Stack → Stack) (i : Nat) : (s.updStack k f).core i = s.core i := rfl
@[simp] theorem State.updStack_base (s : State) (k : Nat) (f : Stack → Stack) (i : Nat) : (s.updStack k f).base i = s.base i := rfl
@[simp] theorem State.updStack_meadow (s : State) (k : Nat) (f : Stack → Stack) (i : Nat) : (s.updStack k f).meadow i = s.meadow i := rfl
@[simp] theorem State.updStack_port (s : State) (k : Nat) (f : Stack → Stack) (i : Nat) : (s.updStack k f).port i = s.port i := rfl
@[simp] theorem State.updStack_fn (s : State) (k : Nat) (f : Stack → Stack) (i j : Nat) : (s.updStack k f).fn i j = s.fn i j := rfl
@[simp] theorem State.updStack_sw (s : State) (k : Nat) (f : Stack → Stack) (i : Nat) : (s.updStack k f).sw i = s.sw i := rfl
@[simp] theorem State.updStack_pipe (s : State) (k : Nat) (f : Stack → Stack) (i : Nat) : (s.updStack k f).pipe i = s.pipe i := rfl
@[simp] theorem State.updStack_rail (s : State) (k : Nat) (f : Stack → Stack) (i : Nat) : (s.updStack k f).rail i = s.rail i := rfl
@[simp] theorem State.updStack_mbox (s : State) (k : Nat) (f : Stack → Stack) (i : Nat) : (s.updStack k f).mbox i = s.mbox i := rfl
@[simp] theorem State.updStack_meadowOf (s : State) (k : Nat) (f : Stack → Stack) (i : Nat) : (s.updStack k f).meadowOf i = s.meadowOf i := rfl
@[simp] theorem State.updStack_meadowCores (s : State) (k : Nat) (f : Stack → Stack) (i : Nat) : (s.updStack k f).meadowCores i = s.meadowCores i := rfl
@[simp] theorem State.updStack_coresOf (s : State) (k : Nat) (f : Stack → Stack) (i : Nat) : (s.updStack k f).coresOf i = s.coresOf i := rfl
@[simp] theorem State.updStack_inMeadow (s : State) (k : Nat) (f : Stack → Stack) (i j : Nat) : (s.updStack k f).inMeadow i j = s.inMeadow i j := rfl
@[simp] theorem State.updStack_anchor (s : State) (k : Nat) (f : Stack → Stack) (i : Nat) : (s.updStack k f).anchor i = s.anchor i := rfl
@[simp] theorem State.updStack_queueDepth (s : State) (k : Nat) (f : Stack → Stack) (i : Nat) : (s.updStack k f).queueDepth i = s.queueDepth i := rfl
@[simp] theorem State.updStack_queueRing (s : State) (k : Nat) (f : Stack → Stack) (i : Nat) : (s.updStack k f).queueRing i = s.queueRing i := rfl
@[simp] theorem State.updStack_basesOf (s : State) (k : Nat) (f : Stack → Stack) (i : Nat) : (s.updStack k f).basesOf i = s.basesOf i := rfl
@[simp] theorem State.updStack_meadowBases (s : State) (k : Nat) (f : Stack → Stack) (i : Nat) : (s.updStack k f).meadowBases i = s.meadowBases i := rfl
@[simp] theorem State.updStack_siteOf (s : State) (k : Nat) (f : Stack → Stack) (i : Nat) : (s.updStack k f).siteOf i = s.siteOf i := rfl
@[simp] theorem State.updStack_fnMeadow (s : State) (k : Nat) (f : Stack → Stack) (i j : Nat) : (s.updStack k f).fnMeadow i j = s.fnMeadow i j := rfl

/-! `updSw`. -/

@[simp] theorem State.updSw_pending (s : State) (n : Nat) (f : SwLink → SwLink) : (s.updSw n f).pending = s.pending := rfl
@[simp] theorem State.updSw_held (s : State) (n : Nat) (f : SwLink → SwLink) : (s.updSw n f).held = s.held := rfl
@[simp] theorem State.updSw_free (s : State) (n : Nat) (f : SwLink → SwLink) : (s.updSw n f).free = s.free := rfl
@[simp] theorem State.updSw_tick (s : State) (n : Nat) (f : SwLink → SwLink) : (s.updSw n f).tick = s.tick := rfl
@[simp] theorem State.updSw_part (s : State) (n : Nat) (f : SwLink → SwLink) : (s.updSw n f).part = s.part := rfl
@[simp] theorem State.updSw_cores (s : State) (n : Nat) (f : SwLink → SwLink) : (s.updSw n f).cores = s.cores := rfl
@[simp] theorem State.updSw_bases (s : State) (n : Nat) (f : SwLink → SwLink) : (s.updSw n f).bases = s.bases := rfl
@[simp] theorem State.updSw_meadows (s : State) (n : Nat) (f : SwLink → SwLink) : (s.updSw n f).meadows = s.meadows := rfl
@[simp] theorem State.updSw_heath (s : State) (n : Nat) (f : SwLink → SwLink) : (s.updSw n f).heath = s.heath := rfl
@[simp] theorem State.updSw_pkg (s : State) (n : Nat) (f : SwLink → SwLink) : (s.updSw n f).pkg = s.pkg := rfl
@[simp] theorem State.updSw_hub (s : State) (n : Nat) (f : SwLink → SwLink) : (s.updSw n f).hub = s.hub := rfl
@[simp] theorem State.updSw_sxt (s : State) (n : Nat) (f : SwLink → SwLink) : (s.updSw n f).sxt = s.sxt := rfl
@[simp] theorem State.updSw_qorf (s : State) (n : Nat) (f : SwLink → SwLink) : (s.updSw n f).qorf = s.qorf := rfl
@[simp] theorem State.updSw_trn (s : State) (n : Nat) (f : SwLink → SwLink) : (s.updSw n f).trn = s.trn := rfl
@[simp] theorem State.updSw_pipes (s : State) (n : Nat) (f : SwLink → SwLink) : (s.updSw n f).pipes = s.pipes := rfl
@[simp] theorem State.updSw_power (s : State) (n : Nat) (f : SwLink → SwLink) : (s.updSw n f).power = s.power := rfl
@[simp] theorem State.updSw_bist (s : State) (n : Nat) (f : SwLink → SwLink) : (s.updSw n f).bist = s.bist := rfl
@[simp] theorem State.updSw_jtag (s : State) (n : Nat) (f : SwLink → SwLink) : (s.updSw n f).jtag = s.jtag := rfl
@[simp] theorem State.updSw_bscan (s : State) (n : Nat) (f : SwLink → SwLink) : (s.updSw n f).bscan = s.bscan := rfl
@[simp] theorem State.updSw_ports (s : State) (n : Nat) (f : SwLink → SwLink) : (s.updSw n f).ports = s.ports := rfl
@[simp] theorem State.updSw_fns (s : State) (n : Nat) (f : SwLink → SwLink) : (s.updSw n f).fns = s.fns := rfl
@[simp] theorem State.updSw_out (s : State) (n : Nat) (f : SwLink → SwLink) : (s.updSw n f).out = s.out := rfl
@[simp] theorem State.updSw_core (s : State) (n : Nat) (f : SwLink → SwLink) (i : Nat) : (s.updSw n f).core i = s.core i := rfl
@[simp] theorem State.updSw_base (s : State) (n : Nat) (f : SwLink → SwLink) (i : Nat) : (s.updSw n f).base i = s.base i := rfl
@[simp] theorem State.updSw_meadow (s : State) (n : Nat) (f : SwLink → SwLink) (i : Nat) : (s.updSw n f).meadow i = s.meadow i := rfl
@[simp] theorem State.updSw_port (s : State) (n : Nat) (f : SwLink → SwLink) (i : Nat) : (s.updSw n f).port i = s.port i := rfl
@[simp] theorem State.updSw_fn (s : State) (n : Nat) (f : SwLink → SwLink) (i j : Nat) : (s.updSw n f).fn i j = s.fn i j := rfl
@[simp] theorem State.updSw_stack (s : State) (n : Nat) (f : SwLink → SwLink) (i : Nat) : (s.updSw n f).stack i = s.stack i := rfl
@[simp] theorem State.updSw_pipe (s : State) (n : Nat) (f : SwLink → SwLink) (i : Nat) : (s.updSw n f).pipe i = s.pipe i := rfl
@[simp] theorem State.updSw_rail (s : State) (n : Nat) (f : SwLink → SwLink) (i : Nat) : (s.updSw n f).rail i = s.rail i := rfl
@[simp] theorem State.updSw_mbox (s : State) (n : Nat) (f : SwLink → SwLink) (i : Nat) : (s.updSw n f).mbox i = s.mbox i := rfl
@[simp] theorem State.updSw_meadowOf (s : State) (n : Nat) (f : SwLink → SwLink) (i : Nat) : (s.updSw n f).meadowOf i = s.meadowOf i := rfl
@[simp] theorem State.updSw_meadowCores (s : State) (n : Nat) (f : SwLink → SwLink) (i : Nat) : (s.updSw n f).meadowCores i = s.meadowCores i := rfl
@[simp] theorem State.updSw_coresOf (s : State) (n : Nat) (f : SwLink → SwLink) (i : Nat) : (s.updSw n f).coresOf i = s.coresOf i := rfl
@[simp] theorem State.updSw_inMeadow (s : State) (n : Nat) (f : SwLink → SwLink) (i j : Nat) : (s.updSw n f).inMeadow i j = s.inMeadow i j := rfl
@[simp] theorem State.updSw_anchor (s : State) (n : Nat) (f : SwLink → SwLink) (i : Nat) : (s.updSw n f).anchor i = s.anchor i := rfl
@[simp] theorem State.updSw_queueDepth (s : State) (n : Nat) (f : SwLink → SwLink) (i : Nat) : (s.updSw n f).queueDepth i = s.queueDepth i := rfl
@[simp] theorem State.updSw_queueRing (s : State) (n : Nat) (f : SwLink → SwLink) (i : Nat) : (s.updSw n f).queueRing i = s.queueRing i := rfl
@[simp] theorem State.updSw_basesOf (s : State) (n : Nat) (f : SwLink → SwLink) (i : Nat) : (s.updSw n f).basesOf i = s.basesOf i := rfl
@[simp] theorem State.updSw_meadowBases (s : State) (n : Nat) (f : SwLink → SwLink) (i : Nat) : (s.updSw n f).meadowBases i = s.meadowBases i := rfl
@[simp] theorem State.updSw_siteOf (s : State) (n : Nat) (f : SwLink → SwLink) (i : Nat) : (s.updSw n f).siteOf i = s.siteOf i := rfl
@[simp] theorem State.updSw_fnMeadow (s : State) (n : Nat) (f : SwLink → SwLink) (i j : Nat) : (s.updSw n f).fnMeadow i j = s.fnMeadow i j := rfl

/-! `updTrn`. -/

@[simp] theorem State.updTrn_pending (s : State) (f : Trn → Trn) : (s.updTrn f).pending = s.pending := rfl
@[simp] theorem State.updTrn_held (s : State) (f : Trn → Trn) : (s.updTrn f).held = s.held := rfl
@[simp] theorem State.updTrn_free (s : State) (f : Trn → Trn) : (s.updTrn f).free = s.free := rfl
@[simp] theorem State.updTrn_tick (s : State) (f : Trn → Trn) : (s.updTrn f).tick = s.tick := rfl
@[simp] theorem State.updTrn_part (s : State) (f : Trn → Trn) : (s.updTrn f).part = s.part := rfl
@[simp] theorem State.updTrn_cores (s : State) (f : Trn → Trn) : (s.updTrn f).cores = s.cores := rfl
@[simp] theorem State.updTrn_bases (s : State) (f : Trn → Trn) : (s.updTrn f).bases = s.bases := rfl
@[simp] theorem State.updTrn_meadows (s : State) (f : Trn → Trn) : (s.updTrn f).meadows = s.meadows := rfl
@[simp] theorem State.updTrn_heath (s : State) (f : Trn → Trn) : (s.updTrn f).heath = s.heath := rfl
@[simp] theorem State.updTrn_pkg (s : State) (f : Trn → Trn) : (s.updTrn f).pkg = s.pkg := rfl
@[simp] theorem State.updTrn_hub (s : State) (f : Trn → Trn) : (s.updTrn f).hub = s.hub := rfl
@[simp] theorem State.updTrn_sxt (s : State) (f : Trn → Trn) : (s.updTrn f).sxt = s.sxt := rfl
@[simp] theorem State.updTrn_qorf (s : State) (f : Trn → Trn) : (s.updTrn f).qorf = s.qorf := rfl
@[simp] theorem State.updTrn_swarm (s : State) (f : Trn → Trn) : (s.updTrn f).swarm = s.swarm := rfl
@[simp] theorem State.updTrn_pipes (s : State) (f : Trn → Trn) : (s.updTrn f).pipes = s.pipes := rfl
@[simp] theorem State.updTrn_power (s : State) (f : Trn → Trn) : (s.updTrn f).power = s.power := rfl
@[simp] theorem State.updTrn_bist (s : State) (f : Trn → Trn) : (s.updTrn f).bist = s.bist := rfl
@[simp] theorem State.updTrn_jtag (s : State) (f : Trn → Trn) : (s.updTrn f).jtag = s.jtag := rfl
@[simp] theorem State.updTrn_bscan (s : State) (f : Trn → Trn) : (s.updTrn f).bscan = s.bscan := rfl
@[simp] theorem State.updTrn_ports (s : State) (f : Trn → Trn) : (s.updTrn f).ports = s.ports := rfl
@[simp] theorem State.updTrn_fns (s : State) (f : Trn → Trn) : (s.updTrn f).fns = s.fns := rfl
@[simp] theorem State.updTrn_out (s : State) (f : Trn → Trn) : (s.updTrn f).out = s.out := rfl
@[simp] theorem State.updTrn_core (s : State) (f : Trn → Trn) (i : Nat) : (s.updTrn f).core i = s.core i := rfl
@[simp] theorem State.updTrn_base (s : State) (f : Trn → Trn) (i : Nat) : (s.updTrn f).base i = s.base i := rfl
@[simp] theorem State.updTrn_meadow (s : State) (f : Trn → Trn) (i : Nat) : (s.updTrn f).meadow i = s.meadow i := rfl
@[simp] theorem State.updTrn_port (s : State) (f : Trn → Trn) (i : Nat) : (s.updTrn f).port i = s.port i := rfl
@[simp] theorem State.updTrn_fn (s : State) (f : Trn → Trn) (i j : Nat) : (s.updTrn f).fn i j = s.fn i j := rfl
@[simp] theorem State.updTrn_stack (s : State) (f : Trn → Trn) (i : Nat) : (s.updTrn f).stack i = s.stack i := rfl
@[simp] theorem State.updTrn_sw (s : State) (f : Trn → Trn) (i : Nat) : (s.updTrn f).sw i = s.sw i := rfl
@[simp] theorem State.updTrn_pipe (s : State) (f : Trn → Trn) (i : Nat) : (s.updTrn f).pipe i = s.pipe i := rfl
@[simp] theorem State.updTrn_rail (s : State) (f : Trn → Trn) (i : Nat) : (s.updTrn f).rail i = s.rail i := rfl
@[simp] theorem State.updTrn_mbox (s : State) (f : Trn → Trn) (i : Nat) : (s.updTrn f).mbox i = s.mbox i := rfl
@[simp] theorem State.updTrn_meadowOf (s : State) (f : Trn → Trn) (i : Nat) : (s.updTrn f).meadowOf i = s.meadowOf i := rfl
@[simp] theorem State.updTrn_meadowCores (s : State) (f : Trn → Trn) (i : Nat) : (s.updTrn f).meadowCores i = s.meadowCores i := rfl
@[simp] theorem State.updTrn_coresOf (s : State) (f : Trn → Trn) (i : Nat) : (s.updTrn f).coresOf i = s.coresOf i := rfl
@[simp] theorem State.updTrn_inMeadow (s : State) (f : Trn → Trn) (i j : Nat) : (s.updTrn f).inMeadow i j = s.inMeadow i j := rfl
@[simp] theorem State.updTrn_anchor (s : State) (f : Trn → Trn) (i : Nat) : (s.updTrn f).anchor i = s.anchor i := rfl
@[simp] theorem State.updTrn_queueDepth (s : State) (f : Trn → Trn) (i : Nat) : (s.updTrn f).queueDepth i = s.queueDepth i := rfl
@[simp] theorem State.updTrn_queueRing (s : State) (f : Trn → Trn) (i : Nat) : (s.updTrn f).queueRing i = s.queueRing i := rfl
@[simp] theorem State.updTrn_basesOf (s : State) (f : Trn → Trn) (i : Nat) : (s.updTrn f).basesOf i = s.basesOf i := rfl
@[simp] theorem State.updTrn_meadowBases (s : State) (f : Trn → Trn) (i : Nat) : (s.updTrn f).meadowBases i = s.meadowBases i := rfl
@[simp] theorem State.updTrn_siteOf (s : State) (f : Trn → Trn) (i : Nat) : (s.updTrn f).siteOf i = s.siteOf i := rfl
@[simp] theorem State.updTrn_fnMeadow (s : State) (f : Trn → Trn) (i j : Nat) : (s.updTrn f).fnMeadow i j = s.fnMeadow i j := rfl

/-! `updPipe`. -/

@[simp] theorem State.updPipe_pending (s : State) (n : Nat) (f : Pipe → Pipe) : (s.updPipe n f).pending = s.pending := rfl
@[simp] theorem State.updPipe_held (s : State) (n : Nat) (f : Pipe → Pipe) : (s.updPipe n f).held = s.held := rfl
@[simp] theorem State.updPipe_free (s : State) (n : Nat) (f : Pipe → Pipe) : (s.updPipe n f).free = s.free := rfl
@[simp] theorem State.updPipe_tick (s : State) (n : Nat) (f : Pipe → Pipe) : (s.updPipe n f).tick = s.tick := rfl
@[simp] theorem State.updPipe_part (s : State) (n : Nat) (f : Pipe → Pipe) : (s.updPipe n f).part = s.part := rfl
@[simp] theorem State.updPipe_cores (s : State) (n : Nat) (f : Pipe → Pipe) : (s.updPipe n f).cores = s.cores := rfl
@[simp] theorem State.updPipe_bases (s : State) (n : Nat) (f : Pipe → Pipe) : (s.updPipe n f).bases = s.bases := rfl
@[simp] theorem State.updPipe_meadows (s : State) (n : Nat) (f : Pipe → Pipe) : (s.updPipe n f).meadows = s.meadows := rfl
@[simp] theorem State.updPipe_heath (s : State) (n : Nat) (f : Pipe → Pipe) : (s.updPipe n f).heath = s.heath := rfl
@[simp] theorem State.updPipe_pkg (s : State) (n : Nat) (f : Pipe → Pipe) : (s.updPipe n f).pkg = s.pkg := rfl
@[simp] theorem State.updPipe_hub (s : State) (n : Nat) (f : Pipe → Pipe) : (s.updPipe n f).hub = s.hub := rfl
@[simp] theorem State.updPipe_sxt (s : State) (n : Nat) (f : Pipe → Pipe) : (s.updPipe n f).sxt = s.sxt := rfl
@[simp] theorem State.updPipe_qorf (s : State) (n : Nat) (f : Pipe → Pipe) : (s.updPipe n f).qorf = s.qorf := rfl
@[simp] theorem State.updPipe_swarm (s : State) (n : Nat) (f : Pipe → Pipe) : (s.updPipe n f).swarm = s.swarm := rfl
@[simp] theorem State.updPipe_trn (s : State) (n : Nat) (f : Pipe → Pipe) : (s.updPipe n f).trn = s.trn := rfl
@[simp] theorem State.updPipe_power (s : State) (n : Nat) (f : Pipe → Pipe) : (s.updPipe n f).power = s.power := rfl
@[simp] theorem State.updPipe_bist (s : State) (n : Nat) (f : Pipe → Pipe) : (s.updPipe n f).bist = s.bist := rfl
@[simp] theorem State.updPipe_jtag (s : State) (n : Nat) (f : Pipe → Pipe) : (s.updPipe n f).jtag = s.jtag := rfl
@[simp] theorem State.updPipe_bscan (s : State) (n : Nat) (f : Pipe → Pipe) : (s.updPipe n f).bscan = s.bscan := rfl
@[simp] theorem State.updPipe_ports (s : State) (n : Nat) (f : Pipe → Pipe) : (s.updPipe n f).ports = s.ports := rfl
@[simp] theorem State.updPipe_fns (s : State) (n : Nat) (f : Pipe → Pipe) : (s.updPipe n f).fns = s.fns := rfl
@[simp] theorem State.updPipe_out (s : State) (n : Nat) (f : Pipe → Pipe) : (s.updPipe n f).out = s.out := rfl
@[simp] theorem State.updPipe_core (s : State) (n : Nat) (f : Pipe → Pipe) (i : Nat) : (s.updPipe n f).core i = s.core i := rfl
@[simp] theorem State.updPipe_base (s : State) (n : Nat) (f : Pipe → Pipe) (i : Nat) : (s.updPipe n f).base i = s.base i := rfl
@[simp] theorem State.updPipe_meadow (s : State) (n : Nat) (f : Pipe → Pipe) (i : Nat) : (s.updPipe n f).meadow i = s.meadow i := rfl
@[simp] theorem State.updPipe_port (s : State) (n : Nat) (f : Pipe → Pipe) (i : Nat) : (s.updPipe n f).port i = s.port i := rfl
@[simp] theorem State.updPipe_fn (s : State) (n : Nat) (f : Pipe → Pipe) (i j : Nat) : (s.updPipe n f).fn i j = s.fn i j := rfl
@[simp] theorem State.updPipe_stack (s : State) (n : Nat) (f : Pipe → Pipe) (i : Nat) : (s.updPipe n f).stack i = s.stack i := rfl
@[simp] theorem State.updPipe_sw (s : State) (n : Nat) (f : Pipe → Pipe) (i : Nat) : (s.updPipe n f).sw i = s.sw i := rfl
@[simp] theorem State.updPipe_rail (s : State) (n : Nat) (f : Pipe → Pipe) (i : Nat) : (s.updPipe n f).rail i = s.rail i := rfl
@[simp] theorem State.updPipe_mbox (s : State) (n : Nat) (f : Pipe → Pipe) (i : Nat) : (s.updPipe n f).mbox i = s.mbox i := rfl
@[simp] theorem State.updPipe_meadowOf (s : State) (n : Nat) (f : Pipe → Pipe) (i : Nat) : (s.updPipe n f).meadowOf i = s.meadowOf i := rfl
@[simp] theorem State.updPipe_meadowCores (s : State) (n : Nat) (f : Pipe → Pipe) (i : Nat) : (s.updPipe n f).meadowCores i = s.meadowCores i := rfl
@[simp] theorem State.updPipe_coresOf (s : State) (n : Nat) (f : Pipe → Pipe) (i : Nat) : (s.updPipe n f).coresOf i = s.coresOf i := rfl
@[simp] theorem State.updPipe_inMeadow (s : State) (n : Nat) (f : Pipe → Pipe) (i j : Nat) : (s.updPipe n f).inMeadow i j = s.inMeadow i j := rfl
@[simp] theorem State.updPipe_anchor (s : State) (n : Nat) (f : Pipe → Pipe) (i : Nat) : (s.updPipe n f).anchor i = s.anchor i := rfl
@[simp] theorem State.updPipe_queueDepth (s : State) (n : Nat) (f : Pipe → Pipe) (i : Nat) : (s.updPipe n f).queueDepth i = s.queueDepth i := rfl
@[simp] theorem State.updPipe_queueRing (s : State) (n : Nat) (f : Pipe → Pipe) (i : Nat) : (s.updPipe n f).queueRing i = s.queueRing i := rfl
@[simp] theorem State.updPipe_basesOf (s : State) (n : Nat) (f : Pipe → Pipe) (i : Nat) : (s.updPipe n f).basesOf i = s.basesOf i := rfl
@[simp] theorem State.updPipe_meadowBases (s : State) (n : Nat) (f : Pipe → Pipe) (i : Nat) : (s.updPipe n f).meadowBases i = s.meadowBases i := rfl
@[simp] theorem State.updPipe_siteOf (s : State) (n : Nat) (f : Pipe → Pipe) (i : Nat) : (s.updPipe n f).siteOf i = s.siteOf i := rfl
@[simp] theorem State.updPipe_fnMeadow (s : State) (n : Nat) (f : Pipe → Pipe) (i j : Nat) : (s.updPipe n f).fnMeadow i j = s.fnMeadow i j := rfl

/-! `updPower`. -/

@[simp] theorem State.updPower_pending (s : State) (f : Power → Power) : (s.updPower f).pending = s.pending := rfl
@[simp] theorem State.updPower_held (s : State) (f : Power → Power) : (s.updPower f).held = s.held := rfl
@[simp] theorem State.updPower_free (s : State) (f : Power → Power) : (s.updPower f).free = s.free := rfl
@[simp] theorem State.updPower_tick (s : State) (f : Power → Power) : (s.updPower f).tick = s.tick := rfl
@[simp] theorem State.updPower_part (s : State) (f : Power → Power) : (s.updPower f).part = s.part := rfl
@[simp] theorem State.updPower_cores (s : State) (f : Power → Power) : (s.updPower f).cores = s.cores := rfl
@[simp] theorem State.updPower_bases (s : State) (f : Power → Power) : (s.updPower f).bases = s.bases := rfl
@[simp] theorem State.updPower_meadows (s : State) (f : Power → Power) : (s.updPower f).meadows = s.meadows := rfl
@[simp] theorem State.updPower_heath (s : State) (f : Power → Power) : (s.updPower f).heath = s.heath := rfl
@[simp] theorem State.updPower_pkg (s : State) (f : Power → Power) : (s.updPower f).pkg = s.pkg := rfl
@[simp] theorem State.updPower_hub (s : State) (f : Power → Power) : (s.updPower f).hub = s.hub := rfl
@[simp] theorem State.updPower_sxt (s : State) (f : Power → Power) : (s.updPower f).sxt = s.sxt := rfl
@[simp] theorem State.updPower_qorf (s : State) (f : Power → Power) : (s.updPower f).qorf = s.qorf := rfl
@[simp] theorem State.updPower_swarm (s : State) (f : Power → Power) : (s.updPower f).swarm = s.swarm := rfl
@[simp] theorem State.updPower_trn (s : State) (f : Power → Power) : (s.updPower f).trn = s.trn := rfl
@[simp] theorem State.updPower_pipes (s : State) (f : Power → Power) : (s.updPower f).pipes = s.pipes := rfl
@[simp] theorem State.updPower_bist (s : State) (f : Power → Power) : (s.updPower f).bist = s.bist := rfl
@[simp] theorem State.updPower_jtag (s : State) (f : Power → Power) : (s.updPower f).jtag = s.jtag := rfl
@[simp] theorem State.updPower_bscan (s : State) (f : Power → Power) : (s.updPower f).bscan = s.bscan := rfl
@[simp] theorem State.updPower_ports (s : State) (f : Power → Power) : (s.updPower f).ports = s.ports := rfl
@[simp] theorem State.updPower_fns (s : State) (f : Power → Power) : (s.updPower f).fns = s.fns := rfl
@[simp] theorem State.updPower_out (s : State) (f : Power → Power) : (s.updPower f).out = s.out := rfl
@[simp] theorem State.updPower_core (s : State) (f : Power → Power) (i : Nat) : (s.updPower f).core i = s.core i := rfl
@[simp] theorem State.updPower_base (s : State) (f : Power → Power) (i : Nat) : (s.updPower f).base i = s.base i := rfl
@[simp] theorem State.updPower_meadow (s : State) (f : Power → Power) (i : Nat) : (s.updPower f).meadow i = s.meadow i := rfl
@[simp] theorem State.updPower_port (s : State) (f : Power → Power) (i : Nat) : (s.updPower f).port i = s.port i := rfl
@[simp] theorem State.updPower_fn (s : State) (f : Power → Power) (i j : Nat) : (s.updPower f).fn i j = s.fn i j := rfl
@[simp] theorem State.updPower_stack (s : State) (f : Power → Power) (i : Nat) : (s.updPower f).stack i = s.stack i := rfl
@[simp] theorem State.updPower_sw (s : State) (f : Power → Power) (i : Nat) : (s.updPower f).sw i = s.sw i := rfl
@[simp] theorem State.updPower_pipe (s : State) (f : Power → Power) (i : Nat) : (s.updPower f).pipe i = s.pipe i := rfl
@[simp] theorem State.updPower_mbox (s : State) (f : Power → Power) (i : Nat) : (s.updPower f).mbox i = s.mbox i := rfl
@[simp] theorem State.updPower_meadowOf (s : State) (f : Power → Power) (i : Nat) : (s.updPower f).meadowOf i = s.meadowOf i := rfl
@[simp] theorem State.updPower_meadowCores (s : State) (f : Power → Power) (i : Nat) : (s.updPower f).meadowCores i = s.meadowCores i := rfl
@[simp] theorem State.updPower_coresOf (s : State) (f : Power → Power) (i : Nat) : (s.updPower f).coresOf i = s.coresOf i := rfl
@[simp] theorem State.updPower_inMeadow (s : State) (f : Power → Power) (i j : Nat) : (s.updPower f).inMeadow i j = s.inMeadow i j := rfl
@[simp] theorem State.updPower_anchor (s : State) (f : Power → Power) (i : Nat) : (s.updPower f).anchor i = s.anchor i := rfl
@[simp] theorem State.updPower_queueDepth (s : State) (f : Power → Power) (i : Nat) : (s.updPower f).queueDepth i = s.queueDepth i := rfl
@[simp] theorem State.updPower_queueRing (s : State) (f : Power → Power) (i : Nat) : (s.updPower f).queueRing i = s.queueRing i := rfl
@[simp] theorem State.updPower_basesOf (s : State) (f : Power → Power) (i : Nat) : (s.updPower f).basesOf i = s.basesOf i := rfl
@[simp] theorem State.updPower_meadowBases (s : State) (f : Power → Power) (i : Nat) : (s.updPower f).meadowBases i = s.meadowBases i := rfl
@[simp] theorem State.updPower_siteOf (s : State) (f : Power → Power) (i : Nat) : (s.updPower f).siteOf i = s.siteOf i := rfl
@[simp] theorem State.updPower_fnMeadow (s : State) (f : Power → Power) (i j : Nat) : (s.updPower f).fnMeadow i j = s.fnMeadow i j := rfl

/-! `updRail`. -/

@[simp] theorem State.updRail_pending (s : State) (k : Nat) (f : Rail → Rail) : (s.updRail k f).pending = s.pending := rfl
@[simp] theorem State.updRail_held (s : State) (k : Nat) (f : Rail → Rail) : (s.updRail k f).held = s.held := rfl
@[simp] theorem State.updRail_free (s : State) (k : Nat) (f : Rail → Rail) : (s.updRail k f).free = s.free := rfl
@[simp] theorem State.updRail_tick (s : State) (k : Nat) (f : Rail → Rail) : (s.updRail k f).tick = s.tick := rfl
@[simp] theorem State.updRail_part (s : State) (k : Nat) (f : Rail → Rail) : (s.updRail k f).part = s.part := rfl
@[simp] theorem State.updRail_cores (s : State) (k : Nat) (f : Rail → Rail) : (s.updRail k f).cores = s.cores := rfl
@[simp] theorem State.updRail_bases (s : State) (k : Nat) (f : Rail → Rail) : (s.updRail k f).bases = s.bases := rfl
@[simp] theorem State.updRail_meadows (s : State) (k : Nat) (f : Rail → Rail) : (s.updRail k f).meadows = s.meadows := rfl
@[simp] theorem State.updRail_heath (s : State) (k : Nat) (f : Rail → Rail) : (s.updRail k f).heath = s.heath := rfl
@[simp] theorem State.updRail_pkg (s : State) (k : Nat) (f : Rail → Rail) : (s.updRail k f).pkg = s.pkg := rfl
@[simp] theorem State.updRail_hub (s : State) (k : Nat) (f : Rail → Rail) : (s.updRail k f).hub = s.hub := rfl
@[simp] theorem State.updRail_sxt (s : State) (k : Nat) (f : Rail → Rail) : (s.updRail k f).sxt = s.sxt := rfl
@[simp] theorem State.updRail_qorf (s : State) (k : Nat) (f : Rail → Rail) : (s.updRail k f).qorf = s.qorf := rfl
@[simp] theorem State.updRail_swarm (s : State) (k : Nat) (f : Rail → Rail) : (s.updRail k f).swarm = s.swarm := rfl
@[simp] theorem State.updRail_trn (s : State) (k : Nat) (f : Rail → Rail) : (s.updRail k f).trn = s.trn := rfl
@[simp] theorem State.updRail_pipes (s : State) (k : Nat) (f : Rail → Rail) : (s.updRail k f).pipes = s.pipes := rfl
@[simp] theorem State.updRail_bist (s : State) (k : Nat) (f : Rail → Rail) : (s.updRail k f).bist = s.bist := rfl
@[simp] theorem State.updRail_jtag (s : State) (k : Nat) (f : Rail → Rail) : (s.updRail k f).jtag = s.jtag := rfl
@[simp] theorem State.updRail_bscan (s : State) (k : Nat) (f : Rail → Rail) : (s.updRail k f).bscan = s.bscan := rfl
@[simp] theorem State.updRail_ports (s : State) (k : Nat) (f : Rail → Rail) : (s.updRail k f).ports = s.ports := rfl
@[simp] theorem State.updRail_fns (s : State) (k : Nat) (f : Rail → Rail) : (s.updRail k f).fns = s.fns := rfl
@[simp] theorem State.updRail_out (s : State) (k : Nat) (f : Rail → Rail) : (s.updRail k f).out = s.out := rfl
@[simp] theorem State.updRail_core (s : State) (k : Nat) (f : Rail → Rail) (i : Nat) : (s.updRail k f).core i = s.core i := rfl
@[simp] theorem State.updRail_base (s : State) (k : Nat) (f : Rail → Rail) (i : Nat) : (s.updRail k f).base i = s.base i := rfl
@[simp] theorem State.updRail_meadow (s : State) (k : Nat) (f : Rail → Rail) (i : Nat) : (s.updRail k f).meadow i = s.meadow i := rfl
@[simp] theorem State.updRail_port (s : State) (k : Nat) (f : Rail → Rail) (i : Nat) : (s.updRail k f).port i = s.port i := rfl
@[simp] theorem State.updRail_fn (s : State) (k : Nat) (f : Rail → Rail) (i j : Nat) : (s.updRail k f).fn i j = s.fn i j := rfl
@[simp] theorem State.updRail_stack (s : State) (k : Nat) (f : Rail → Rail) (i : Nat) : (s.updRail k f).stack i = s.stack i := rfl
@[simp] theorem State.updRail_sw (s : State) (k : Nat) (f : Rail → Rail) (i : Nat) : (s.updRail k f).sw i = s.sw i := rfl
@[simp] theorem State.updRail_pipe (s : State) (k : Nat) (f : Rail → Rail) (i : Nat) : (s.updRail k f).pipe i = s.pipe i := rfl
@[simp] theorem State.updRail_mbox (s : State) (k : Nat) (f : Rail → Rail) (i : Nat) : (s.updRail k f).mbox i = s.mbox i := rfl
@[simp] theorem State.updRail_meadowOf (s : State) (k : Nat) (f : Rail → Rail) (i : Nat) : (s.updRail k f).meadowOf i = s.meadowOf i := rfl
@[simp] theorem State.updRail_meadowCores (s : State) (k : Nat) (f : Rail → Rail) (i : Nat) : (s.updRail k f).meadowCores i = s.meadowCores i := rfl
@[simp] theorem State.updRail_coresOf (s : State) (k : Nat) (f : Rail → Rail) (i : Nat) : (s.updRail k f).coresOf i = s.coresOf i := rfl
@[simp] theorem State.updRail_inMeadow (s : State) (k : Nat) (f : Rail → Rail) (i j : Nat) : (s.updRail k f).inMeadow i j = s.inMeadow i j := rfl
@[simp] theorem State.updRail_anchor (s : State) (k : Nat) (f : Rail → Rail) (i : Nat) : (s.updRail k f).anchor i = s.anchor i := rfl
@[simp] theorem State.updRail_queueDepth (s : State) (k : Nat) (f : Rail → Rail) (i : Nat) : (s.updRail k f).queueDepth i = s.queueDepth i := rfl
@[simp] theorem State.updRail_queueRing (s : State) (k : Nat) (f : Rail → Rail) (i : Nat) : (s.updRail k f).queueRing i = s.queueRing i := rfl
@[simp] theorem State.updRail_basesOf (s : State) (k : Nat) (f : Rail → Rail) (i : Nat) : (s.updRail k f).basesOf i = s.basesOf i := rfl
@[simp] theorem State.updRail_meadowBases (s : State) (k : Nat) (f : Rail → Rail) (i : Nat) : (s.updRail k f).meadowBases i = s.meadowBases i := rfl
@[simp] theorem State.updRail_siteOf (s : State) (k : Nat) (f : Rail → Rail) (i : Nat) : (s.updRail k f).siteOf i = s.siteOf i := rfl
@[simp] theorem State.updRail_fnMeadow (s : State) (k : Nat) (f : Rail → Rail) (i j : Nat) : (s.updRail k f).fnMeadow i j = s.fnMeadow i j := rfl

/-! `updMbox`. -/

@[simp] theorem State.updMbox_pending (s : State) (p : Nat) (f : Mailbox → Mailbox) : (s.updMbox p f).pending = s.pending := rfl
@[simp] theorem State.updMbox_held (s : State) (p : Nat) (f : Mailbox → Mailbox) : (s.updMbox p f).held = s.held := rfl
@[simp] theorem State.updMbox_free (s : State) (p : Nat) (f : Mailbox → Mailbox) : (s.updMbox p f).free = s.free := rfl
@[simp] theorem State.updMbox_tick (s : State) (p : Nat) (f : Mailbox → Mailbox) : (s.updMbox p f).tick = s.tick := rfl
@[simp] theorem State.updMbox_part (s : State) (p : Nat) (f : Mailbox → Mailbox) : (s.updMbox p f).part = s.part := rfl
@[simp] theorem State.updMbox_cores (s : State) (p : Nat) (f : Mailbox → Mailbox) : (s.updMbox p f).cores = s.cores := rfl
@[simp] theorem State.updMbox_bases (s : State) (p : Nat) (f : Mailbox → Mailbox) : (s.updMbox p f).bases = s.bases := rfl
@[simp] theorem State.updMbox_meadows (s : State) (p : Nat) (f : Mailbox → Mailbox) : (s.updMbox p f).meadows = s.meadows := rfl
@[simp] theorem State.updMbox_heath (s : State) (p : Nat) (f : Mailbox → Mailbox) : (s.updMbox p f).heath = s.heath := rfl
@[simp] theorem State.updMbox_pkg (s : State) (p : Nat) (f : Mailbox → Mailbox) : (s.updMbox p f).pkg = s.pkg := rfl
@[simp] theorem State.updMbox_hub (s : State) (p : Nat) (f : Mailbox → Mailbox) : (s.updMbox p f).hub = s.hub := rfl
@[simp] theorem State.updMbox_qorf (s : State) (p : Nat) (f : Mailbox → Mailbox) : (s.updMbox p f).qorf = s.qorf := rfl
@[simp] theorem State.updMbox_swarm (s : State) (p : Nat) (f : Mailbox → Mailbox) : (s.updMbox p f).swarm = s.swarm := rfl
@[simp] theorem State.updMbox_trn (s : State) (p : Nat) (f : Mailbox → Mailbox) : (s.updMbox p f).trn = s.trn := rfl
@[simp] theorem State.updMbox_pipes (s : State) (p : Nat) (f : Mailbox → Mailbox) : (s.updMbox p f).pipes = s.pipes := rfl
@[simp] theorem State.updMbox_power (s : State) (p : Nat) (f : Mailbox → Mailbox) : (s.updMbox p f).power = s.power := rfl
@[simp] theorem State.updMbox_bist (s : State) (p : Nat) (f : Mailbox → Mailbox) : (s.updMbox p f).bist = s.bist := rfl
@[simp] theorem State.updMbox_jtag (s : State) (p : Nat) (f : Mailbox → Mailbox) : (s.updMbox p f).jtag = s.jtag := rfl
@[simp] theorem State.updMbox_bscan (s : State) (p : Nat) (f : Mailbox → Mailbox) : (s.updMbox p f).bscan = s.bscan := rfl
@[simp] theorem State.updMbox_ports (s : State) (p : Nat) (f : Mailbox → Mailbox) : (s.updMbox p f).ports = s.ports := rfl
@[simp] theorem State.updMbox_fns (s : State) (p : Nat) (f : Mailbox → Mailbox) : (s.updMbox p f).fns = s.fns := rfl
@[simp] theorem State.updMbox_out (s : State) (p : Nat) (f : Mailbox → Mailbox) : (s.updMbox p f).out = s.out := rfl
@[simp] theorem State.updMbox_core (s : State) (p : Nat) (f : Mailbox → Mailbox) (i : Nat) : (s.updMbox p f).core i = s.core i := rfl
@[simp] theorem State.updMbox_base (s : State) (p : Nat) (f : Mailbox → Mailbox) (i : Nat) : (s.updMbox p f).base i = s.base i := rfl
@[simp] theorem State.updMbox_meadow (s : State) (p : Nat) (f : Mailbox → Mailbox) (i : Nat) : (s.updMbox p f).meadow i = s.meadow i := rfl
@[simp] theorem State.updMbox_port (s : State) (p : Nat) (f : Mailbox → Mailbox) (i : Nat) : (s.updMbox p f).port i = s.port i := rfl
@[simp] theorem State.updMbox_fn (s : State) (p : Nat) (f : Mailbox → Mailbox) (i j : Nat) : (s.updMbox p f).fn i j = s.fn i j := rfl
@[simp] theorem State.updMbox_stack (s : State) (p : Nat) (f : Mailbox → Mailbox) (i : Nat) : (s.updMbox p f).stack i = s.stack i := rfl
@[simp] theorem State.updMbox_sw (s : State) (p : Nat) (f : Mailbox → Mailbox) (i : Nat) : (s.updMbox p f).sw i = s.sw i := rfl
@[simp] theorem State.updMbox_pipe (s : State) (p : Nat) (f : Mailbox → Mailbox) (i : Nat) : (s.updMbox p f).pipe i = s.pipe i := rfl
@[simp] theorem State.updMbox_rail (s : State) (p : Nat) (f : Mailbox → Mailbox) (i : Nat) : (s.updMbox p f).rail i = s.rail i := rfl
@[simp] theorem State.updMbox_meadowOf (s : State) (p : Nat) (f : Mailbox → Mailbox) (i : Nat) : (s.updMbox p f).meadowOf i = s.meadowOf i := rfl
@[simp] theorem State.updMbox_meadowCores (s : State) (p : Nat) (f : Mailbox → Mailbox) (i : Nat) : (s.updMbox p f).meadowCores i = s.meadowCores i := rfl
@[simp] theorem State.updMbox_coresOf (s : State) (p : Nat) (f : Mailbox → Mailbox) (i : Nat) : (s.updMbox p f).coresOf i = s.coresOf i := rfl
@[simp] theorem State.updMbox_inMeadow (s : State) (p : Nat) (f : Mailbox → Mailbox) (i j : Nat) : (s.updMbox p f).inMeadow i j = s.inMeadow i j := rfl
@[simp] theorem State.updMbox_anchor (s : State) (p : Nat) (f : Mailbox → Mailbox) (i : Nat) : (s.updMbox p f).anchor i = s.anchor i := rfl
@[simp] theorem State.updMbox_queueDepth (s : State) (p : Nat) (f : Mailbox → Mailbox) (i : Nat) : (s.updMbox p f).queueDepth i = s.queueDepth i := rfl
@[simp] theorem State.updMbox_queueRing (s : State) (p : Nat) (f : Mailbox → Mailbox) (i : Nat) : (s.updMbox p f).queueRing i = s.queueRing i := rfl
@[simp] theorem State.updMbox_basesOf (s : State) (p : Nat) (f : Mailbox → Mailbox) (i : Nat) : (s.updMbox p f).basesOf i = s.basesOf i := rfl
@[simp] theorem State.updMbox_meadowBases (s : State) (p : Nat) (f : Mailbox → Mailbox) (i : Nat) : (s.updMbox p f).meadowBases i = s.meadowBases i := rfl
@[simp] theorem State.updMbox_siteOf (s : State) (p : Nat) (f : Mailbox → Mailbox) (i : Nat) : (s.updMbox p f).siteOf i = s.siteOf i := rfl
@[simp] theorem State.updMbox_fnMeadow (s : State) (p : Nat) (f : Mailbox → Mailbox) (i j : Nat) : (s.updMbox p f).fnMeadow i j = s.fnMeadow i j := rfl

/-! Reading the entry that an update writes, and the others. -/

@[simp] theorem State.updHub_hub (s : State) (f : Hub → Hub) : (s.updHub f).hub = f s.hub := rfl
@[simp] theorem State.updPkg_pkg (s : State) (f : Pkg → Pkg) : (s.updPkg f).pkg = f s.pkg := rfl
@[simp] theorem State.updSxt_sxt (s : State) (f : Sexton → Sexton) : (s.updSxt f).sxt = f s.sxt := rfl
@[simp] theorem State.updTrn_trn (s : State) (f : Trn → Trn) : (s.updTrn f).trn = f s.trn := rfl
@[simp] theorem State.updPower_power (s : State) (f : Power → Power) : (s.updPower f).power = f s.power := rfl
@[simp] theorem State.emit_out (s : State) (o : Output) : (s.emit o).out = s.out ++ [o] := rfl

theorem State.updCore_core (s : State) (n i : Nat) (f : Core → Core) :
    (s.updCore n f).core i = if n = i then f (s.core n) else s.core i := Sparse.get_put _ _ _ _ _
@[simp] theorem State.updCore_core_same (s : State) (n : Nat) (f : Core → Core) : (s.updCore n f).core n = f (s.core n) :=
  Sparse.get_put_same _ _ _ _
theorem State.updCore_core_ne (s : State) {n i : Nat} (f : Core → Core) (h : n ≠ i) : (s.updCore n f).core i = s.core i :=
  Sparse.get_put_ne _ _ _ h

theorem State.updBase_base (s : State) (n i : Nat) (f : Base → Base) :
    (s.updBase n f).base i = if n = i then f (s.base n) else s.base i := Sparse.get_put _ _ _ _ _
@[simp] theorem State.updBase_base_same (s : State) (n : Nat) (f : Base → Base) : (s.updBase n f).base n = f (s.base n) :=
  Sparse.get_put_same _ _ _ _
theorem State.updBase_base_ne (s : State) {n i : Nat} (f : Base → Base) (h : n ≠ i) : (s.updBase n f).base i = s.base i :=
  Sparse.get_put_ne _ _ _ h

theorem State.updMeadow_meadow (s : State) (n i : Nat) (f : Meadow → Meadow) :
    (s.updMeadow n f).meadow i = if n = i then f (s.meadow n) else s.meadow i := Sparse.get_put _ _ _ _ _
@[simp] theorem State.updMeadow_meadow_same (s : State) (n : Nat) (f : Meadow → Meadow) : (s.updMeadow n f).meadow n = f (s.meadow n) :=
  Sparse.get_put_same _ _ _ _
theorem State.updMeadow_meadow_ne (s : State) {n i : Nat} (f : Meadow → Meadow) (h : n ≠ i) : (s.updMeadow n f).meadow i = s.meadow i :=
  Sparse.get_put_ne _ _ _ h

theorem State.updPort_port (s : State) (n i : Nat) (f : Port → Port) :
    (s.updPort n f).port i = if n = i then f (s.port n) else s.port i := Sparse.get_put _ _ _ _ _
@[simp] theorem State.updPort_port_same (s : State) (n : Nat) (f : Port → Port) : (s.updPort n f).port n = f (s.port n) :=
  Sparse.get_put_same _ _ _ _
theorem State.updPort_port_ne (s : State) {n i : Nat} (f : Port → Port) (h : n ≠ i) : (s.updPort n f).port i = s.port i :=
  Sparse.get_put_ne _ _ _ h

theorem State.updSw_sw (s : State) (n i : Nat) (f : SwLink → SwLink) :
    (s.updSw n f).sw i = if n = i then f (s.sw n) else s.sw i := Sparse.get_put _ _ _ _ _
@[simp] theorem State.updSw_sw_same (s : State) (n : Nat) (f : SwLink → SwLink) : (s.updSw n f).sw n = f (s.sw n) :=
  Sparse.get_put_same _ _ _ _
theorem State.updSw_sw_ne (s : State) {n i : Nat} (f : SwLink → SwLink) (h : n ≠ i) : (s.updSw n f).sw i = s.sw i :=
  Sparse.get_put_ne _ _ _ h

theorem State.updPipe_pipe (s : State) (n i : Nat) (f : Pipe → Pipe) :
    (s.updPipe n f).pipe i = if n = i then f (s.pipe n) else s.pipe i := Sparse.get_put _ _ _ _ _
@[simp] theorem State.updPipe_pipe_same (s : State) (n : Nat) (f : Pipe → Pipe) : (s.updPipe n f).pipe n = f (s.pipe n) :=
  Sparse.get_put_same _ _ _ _
theorem State.updPipe_pipe_ne (s : State) {n i : Nat} (f : Pipe → Pipe) (h : n ≠ i) : (s.updPipe n f).pipe i = s.pipe i :=
  Sparse.get_put_ne _ _ _ h

theorem State.updStack_stack (s : State) (n i : Nat) (f : Stack → Stack) :
    (s.updStack n f).stack i = if n = i then f (s.stack n) else s.stack i := Sparse.get_put _ _ _ _ _
@[simp] theorem State.updStack_stack_same (s : State) (n : Nat) (f : Stack → Stack) : (s.updStack n f).stack n = f (s.stack n) :=
  Sparse.get_put_same _ _ _ _
theorem State.updStack_stack_ne (s : State) {n i : Nat} (f : Stack → Stack) (h : n ≠ i) : (s.updStack n f).stack i = s.stack i :=
  Sparse.get_put_ne _ _ _ h

theorem State.updRail_rail (s : State) (n i : Nat) (f : Rail → Rail) :
    (s.updRail n f).rail i = if n = i then f (s.rail n) else s.rail i := Sparse.get_put _ _ _ _ _
@[simp] theorem State.updRail_rail_same (s : State) (n : Nat) (f : Rail → Rail) : (s.updRail n f).rail n = f (s.rail n) :=
  Sparse.get_put_same _ _ _ _
theorem State.updRail_rail_ne (s : State) {n i : Nat} (f : Rail → Rail) (h : n ≠ i) : (s.updRail n f).rail i = s.rail i :=
  Sparse.get_put_ne _ _ _ h

theorem State.updMbox_mbox (s : State) (n i : Nat) (f : Mailbox → Mailbox) :
    (s.updMbox n f).mbox i = if n = i then f (s.mbox n) else s.mbox i := Sparse.get_put _ _ _ _ _
@[simp] theorem State.updMbox_mbox_same (s : State) (n : Nat) (f : Mailbox → Mailbox) : (s.updMbox n f).mbox n = f (s.mbox n) :=
  Sparse.get_put_same _ _ _ _
theorem State.updMbox_mbox_ne (s : State) {n i : Nat} (f : Mailbox → Mailbox) (h : n ≠ i) : (s.updMbox n f).mbox i = s.mbox i :=
  Sparse.get_put_ne _ _ _ h

@[simp] theorem State.updFn_fn_same (s : State) (p k : Nat) (f : HostFn → HostFn) : (s.updFn p k f).fn p k = f (s.fn p k) :=
  Sparse.get_put_same _ _ _ _
theorem State.updFn_fn_ne (s : State) {p k i j : Nat} (f : HostFn → HostFn) (h : 32 * p + k ≠ 32 * i + j) :
    (s.updFn p k f).fn i j = s.fn i j := Sparse.get_put_ne _ _ _ h
@[simp] theorem State.setCore_core_same (s : State) (n : Nat) (c : Core) : (s.setCore n c).core n = c := Sparse.get_put_same _ _ _ _

/-! Registers of a core. -/

@[simp] theorem Core.gr_zero (c : Core) : c.gr 0 = 0 := rfl
@[simp] theorem Core.setG_zero (c : Core) (x : Dword) : c.setG 0 x = c := rfl
/-- A general register after a write: g0 still reads zero. -/
theorem Core.gr_setG (c : Core) (r q : Nat) (x : Dword) :
    (c.setG r x).gr q = if q = 0 then 0 else if r = q then x else c.gr q := by
  unfold Core.setG Core.gr
  by_cases h : q = 0
  · simp [h]
  · by_cases g : r = 0
    · simp [h, g, Ne.symm h]
    · simp only [h, g, if_false]; exact Sparse.get_put _ _ _ _ _
@[simp] theorem Core.setG_d (c : Core) (r : Nat) (x : Dword) : (c.setG r x).d = c.d := by unfold Core.setG; split <;> rfl
@[simp] theorem Core.setG_v (c : Core) (r : Nat) (x : Dword) : (c.setG r x).v = c.v := by unfold Core.setG; split <;> rfl
@[simp] theorem Core.setG_tok (c : Core) (r : Nat) (x : Dword) : (c.setG r x).tok = c.tok := by unfold Core.setG; split <;> rfl
@[simp] theorem Core.setG_prog (c : Core) (r : Nat) (x : Dword) : (c.setG r x).prog = c.prog := by unfold Core.setG; split <;> rfl
@[simp] theorem Core.setG_pc (c : Core) (r : Nat) (x : Dword) : (c.setG r x).pc = c.pc := by unfold Core.setG; split <;> rfl
@[simp] theorem Core.setG_ctl (c : Core) (r : Nat) (x : Dword) : (c.setG r x).ctl = c.ctl := by unfold Core.setG; split <;> rfl
@[simp] theorem Core.setG_uncollected (c : Core) (r : Nat) (x : Dword) : (c.setG r x).uncollected = c.uncollected := by unfold Core.setG; split <;> rfl
@[simp] theorem Core.setG_faulted (c : Core) (r : Nat) (x : Dword) : (c.setG r x).faulted = c.faulted := by unfold Core.setG; split <;> rfl
@[simp] theorem Core.setG_lastError (c : Core) (r : Nat) (x : Dword) : (c.setG r x).lastError = c.lastError := by unfold Core.setG; split <;> rfl
@[simp] theorem Core.setG_faultPc (c : Core) (r : Nat) (x : Dword) : (c.setG r x).faultPc = c.faultPc := by unfold Core.setG; split <;> rfl
@[simp] theorem Core.setG_scratch (c : Core) (r : Nat) (x : Dword) : (c.setG r x).scratch = c.scratch := by unfold Core.setG; split <;> rfl
@[simp] theorem Core.setG_job (c : Core) (r : Nat) (x : Dword) : (c.setG r x).job = c.job := by unfold Core.setG; split <;> rfl
@[simp] theorem Core.setG_gen (c : Core) (r : Nat) (x : Dword) : (c.setG r x).gen = c.gen := by unfold Core.setG; split <;> rfl
@[simp] theorem Core.setG_near (c : Core) (r : Nat) (x : Dword) : (c.setG r x).near = c.near := by unfold Core.setG; split <;> rfl
@[simp] theorem Core.setG_deep (c : Core) (r : Nat) (x : Dword) : (c.setG r x).deep = c.deep := by unfold Core.setG; split <;> rfl
@[simp] theorem Core.setG_cells (c : Core) (r : Nat) (x : Dword) : (c.setG r x).cells = c.cells := by unfold Core.setG; split <;> rfl
@[simp] theorem Core.setG_slots (c : Core) (r : Nat) (x : Dword) : (c.setG r x).slots = c.slots := by unfold Core.setG; split <;> rfl
@[simp] theorem Core.setG_eng (c : Core) (r : Nat) (x : Dword) : (c.setG r x).eng = c.eng := by unfold Core.setG; split <;> rfl
@[simp] theorem Core.setG_rings (c : Core) (r : Nat) (x : Dword) : (c.setG r x).rings = c.rings := by unfold Core.setG; split <;> rfl
@[simp] theorem Core.setG_sendq (c : Core) (r : Nat) (x : Dword) : (c.setG r x).sendq = c.sendq := by unfold Core.setG; split <;> rfl
@[simp] theorem Core.setG_rcopies (c : Core) (r : Nat) (x : Dword) : (c.setG r x).rcopies = c.rcopies := by unfold Core.setG; split <;> rfl
@[simp] theorem Core.setG_stopped (c : Core) (r : Nat) (x : Dword) : (c.setG r x).stopped = c.stopped := by unfold Core.setG; split <;> rfl
@[simp] theorem Core.setG_awaitAdmit (c : Core) (r : Nat) (x : Dword) : (c.setG r x).awaitAdmit = c.awaitAdmit := by unfold Core.setG; split <;> rfl
@[simp] theorem Core.setD_g (c : Core) (r : Nat) (x : Line) : (c.setD r x).g = c.g := rfl
@[simp] theorem Core.setD_v (c : Core) (r : Nat) (x : Line) : (c.setD r x).v = c.v := rfl
@[simp] theorem Core.setD_tok (c : Core) (r : Nat) (x : Line) : (c.setD r x).tok = c.tok := rfl
@[simp] theorem Core.setD_prog (c : Core) (r : Nat) (x : Line) : (c.setD r x).prog = c.prog := rfl
@[simp] theorem Core.setD_pc (c : Core) (r : Nat) (x : Line) : (c.setD r x).pc = c.pc := rfl
@[simp] theorem Core.setD_ctl (c : Core) (r : Nat) (x : Line) : (c.setD r x).ctl = c.ctl := rfl
@[simp] theorem Core.setD_uncollected (c : Core) (r : Nat) (x : Line) : (c.setD r x).uncollected = c.uncollected := rfl
@[simp] theorem Core.setD_faulted (c : Core) (r : Nat) (x : Line) : (c.setD r x).faulted = c.faulted := rfl
@[simp] theorem Core.setD_lastError (c : Core) (r : Nat) (x : Line) : (c.setD r x).lastError = c.lastError := rfl
@[simp] theorem Core.setD_faultPc (c : Core) (r : Nat) (x : Line) : (c.setD r x).faultPc = c.faultPc := rfl
@[simp] theorem Core.setD_scratch (c : Core) (r : Nat) (x : Line) : (c.setD r x).scratch = c.scratch := rfl
@[simp] theorem Core.setD_job (c : Core) (r : Nat) (x : Line) : (c.setD r x).job = c.job := rfl
@[simp] theorem Core.setD_gen (c : Core) (r : Nat) (x : Line) : (c.setD r x).gen = c.gen := rfl
@[simp] theorem Core.setD_near (c : Core) (r : Nat) (x : Line) : (c.setD r x).near = c.near := rfl
@[simp] theorem Core.setD_deep (c : Core) (r : Nat) (x : Line) : (c.setD r x).deep = c.deep := rfl
@[simp] theorem Core.setD_cells (c : Core) (r : Nat) (x : Line) : (c.setD r x).cells = c.cells := rfl
@[simp] theorem Core.setD_slots (c : Core) (r : Nat) (x : Line) : (c.setD r x).slots = c.slots := rfl
@[simp] theorem Core.setD_eng (c : Core) (r : Nat) (x : Line) : (c.setD r x).eng = c.eng := rfl
@[simp] theorem Core.setD_rings (c : Core) (r : Nat) (x : Line) : (c.setD r x).rings = c.rings := rfl
@[simp] theorem Core.setD_sendq (c : Core) (r : Nat) (x : Line) : (c.setD r x).sendq = c.sendq := rfl
@[simp] theorem Core.setD_rcopies (c : Core) (r : Nat) (x : Line) : (c.setD r x).rcopies = c.rcopies := rfl
@[simp] theorem Core.setD_stopped (c : Core) (r : Nat) (x : Line) : (c.setD r x).stopped = c.stopped := rfl
@[simp] theorem Core.setD_awaitAdmit (c : Core) (r : Nat) (x : Line) : (c.setD r x).awaitAdmit = c.awaitAdmit := rfl
@[simp] theorem Core.setV_g (c : Core) (r : Nat) (x : Line) : (c.setV r x).g = c.g := rfl
@[simp] theorem Core.setV_d (c : Core) (r : Nat) (x : Line) : (c.setV r x).d = c.d := rfl
@[simp] theorem Core.setV_tok (c : Core) (r : Nat) (x : Line) : (c.setV r x).tok = c.tok := rfl
@[simp] theorem Core.setV_prog (c : Core) (r : Nat) (x : Line) : (c.setV r x).prog = c.prog := rfl
@[simp] theorem Core.setV_pc (c : Core) (r : Nat) (x : Line) : (c.setV r x).pc = c.pc := rfl
@[simp] theorem Core.setV_ctl (c : Core) (r : Nat) (x : Line) : (c.setV r x).ctl = c.ctl := rfl
@[simp] theorem Core.setV_uncollected (c : Core) (r : Nat) (x : Line) : (c.setV r x).uncollected = c.uncollected := rfl
@[simp] theorem Core.setV_faulted (c : Core) (r : Nat) (x : Line) : (c.setV r x).faulted = c.faulted := rfl
@[simp] theorem Core.setV_lastError (c : Core) (r : Nat) (x : Line) : (c.setV r x).lastError = c.lastError := rfl
@[simp] theorem Core.setV_faultPc (c : Core) (r : Nat) (x : Line) : (c.setV r x).faultPc = c.faultPc := rfl
@[simp] theorem Core.setV_scratch (c : Core) (r : Nat) (x : Line) : (c.setV r x).scratch = c.scratch := rfl
@[simp] theorem Core.setV_job (c : Core) (r : Nat) (x : Line) : (c.setV r x).job = c.job := rfl
@[simp] theorem Core.setV_gen (c : Core) (r : Nat) (x : Line) : (c.setV r x).gen = c.gen := rfl
@[simp] theorem Core.setV_near (c : Core) (r : Nat) (x : Line) : (c.setV r x).near = c.near := rfl
@[simp] theorem Core.setV_deep (c : Core) (r : Nat) (x : Line) : (c.setV r x).deep = c.deep := rfl
@[simp] theorem Core.setV_cells (c : Core) (r : Nat) (x : Line) : (c.setV r x).cells = c.cells := rfl
@[simp] theorem Core.setV_slots (c : Core) (r : Nat) (x : Line) : (c.setV r x).slots = c.slots := rfl
@[simp] theorem Core.setV_eng (c : Core) (r : Nat) (x : Line) : (c.setV r x).eng = c.eng := rfl
@[simp] theorem Core.setV_rings (c : Core) (r : Nat) (x : Line) : (c.setV r x).rings = c.rings := rfl
@[simp] theorem Core.setV_sendq (c : Core) (r : Nat) (x : Line) : (c.setV r x).sendq = c.sendq := rfl
@[simp] theorem Core.setV_rcopies (c : Core) (r : Nat) (x : Line) : (c.setV r x).rcopies = c.rcopies := rfl
@[simp] theorem Core.setV_stopped (c : Core) (r : Nat) (x : Line) : (c.setV r x).stopped = c.stopped := rfl
@[simp] theorem Core.setV_awaitAdmit (c : Core) (r : Nat) (x : Line) : (c.setV r x).awaitAdmit = c.awaitAdmit := rfl
@[simp] theorem Core.setTok_g (c : Core) (r : Nat) (x : Tok) : (c.setTok r x).g = c.g := rfl
@[simp] theorem Core.setTok_d (c : Core) (r : Nat) (x : Tok) : (c.setTok r x).d = c.d := rfl
@[simp] theorem Core.setTok_v (c : Core) (r : Nat) (x : Tok) : (c.setTok r x).v = c.v := rfl
@[simp] theorem Core.setTok_prog (c : Core) (r : Nat) (x : Tok) : (c.setTok r x).prog = c.prog := rfl
@[simp] theorem Core.setTok_pc (c : Core) (r : Nat) (x : Tok) : (c.setTok r x).pc = c.pc := rfl
@[simp] theorem Core.setTok_ctl (c : Core) (r : Nat) (x : Tok) : (c.setTok r x).ctl = c.ctl := rfl
@[simp] theorem Core.setTok_uncollected (c : Core) (r : Nat) (x : Tok) : (c.setTok r x).uncollected = c.uncollected := rfl
@[simp] theorem Core.setTok_faulted (c : Core) (r : Nat) (x : Tok) : (c.setTok r x).faulted = c.faulted := rfl
@[simp] theorem Core.setTok_lastError (c : Core) (r : Nat) (x : Tok) : (c.setTok r x).lastError = c.lastError := rfl
@[simp] theorem Core.setTok_faultPc (c : Core) (r : Nat) (x : Tok) : (c.setTok r x).faultPc = c.faultPc := rfl
@[simp] theorem Core.setTok_scratch (c : Core) (r : Nat) (x : Tok) : (c.setTok r x).scratch = c.scratch := rfl
@[simp] theorem Core.setTok_job (c : Core) (r : Nat) (x : Tok) : (c.setTok r x).job = c.job := rfl
@[simp] theorem Core.setTok_gen (c : Core) (r : Nat) (x : Tok) : (c.setTok r x).gen = c.gen := rfl
@[simp] theorem Core.setTok_near (c : Core) (r : Nat) (x : Tok) : (c.setTok r x).near = c.near := rfl
@[simp] theorem Core.setTok_deep (c : Core) (r : Nat) (x : Tok) : (c.setTok r x).deep = c.deep := rfl
@[simp] theorem Core.setTok_cells (c : Core) (r : Nat) (x : Tok) : (c.setTok r x).cells = c.cells := rfl
@[simp] theorem Core.setTok_slots (c : Core) (r : Nat) (x : Tok) : (c.setTok r x).slots = c.slots := rfl
@[simp] theorem Core.setTok_eng (c : Core) (r : Nat) (x : Tok) : (c.setTok r x).eng = c.eng := rfl
@[simp] theorem Core.setTok_rings (c : Core) (r : Nat) (x : Tok) : (c.setTok r x).rings = c.rings := rfl
@[simp] theorem Core.setTok_sendq (c : Core) (r : Nat) (x : Tok) : (c.setTok r x).sendq = c.sendq := rfl
@[simp] theorem Core.setTok_rcopies (c : Core) (r : Nat) (x : Tok) : (c.setTok r x).rcopies = c.rcopies := rfl
@[simp] theorem Core.setTok_stopped (c : Core) (r : Nat) (x : Tok) : (c.setTok r x).stopped = c.stopped := rfl
@[simp] theorem Core.setTok_awaitAdmit (c : Core) (r : Nat) (x : Tok) : (c.setTok r x).awaitAdmit = c.awaitAdmit := rfl
@[simp] theorem Core.setCell_g (c : Core) (r : Nat) (x : Cell) : (c.setCell r x).g = c.g := rfl
@[simp] theorem Core.setCell_d (c : Core) (r : Nat) (x : Cell) : (c.setCell r x).d = c.d := rfl
@[simp] theorem Core.setCell_v (c : Core) (r : Nat) (x : Cell) : (c.setCell r x).v = c.v := rfl
@[simp] theorem Core.setCell_tok (c : Core) (r : Nat) (x : Cell) : (c.setCell r x).tok = c.tok := rfl
@[simp] theorem Core.setCell_prog (c : Core) (r : Nat) (x : Cell) : (c.setCell r x).prog = c.prog := rfl
@[simp] theorem Core.setCell_pc (c : Core) (r : Nat) (x : Cell) : (c.setCell r x).pc = c.pc := rfl
@[simp] theorem Core.setCell_ctl (c : Core) (r : Nat) (x : Cell) : (c.setCell r x).ctl = c.ctl := rfl
@[simp] theorem Core.setCell_uncollected (c : Core) (r : Nat) (x : Cell) : (c.setCell r x).uncollected = c.uncollected := rfl
@[simp] theorem Core.setCell_faulted (c : Core) (r : Nat) (x : Cell) : (c.setCell r x).faulted = c.faulted := rfl
@[simp] theorem Core.setCell_lastError (c : Core) (r : Nat) (x : Cell) : (c.setCell r x).lastError = c.lastError := rfl
@[simp] theorem Core.setCell_faultPc (c : Core) (r : Nat) (x : Cell) : (c.setCell r x).faultPc = c.faultPc := rfl
@[simp] theorem Core.setCell_scratch (c : Core) (r : Nat) (x : Cell) : (c.setCell r x).scratch = c.scratch := rfl
@[simp] theorem Core.setCell_job (c : Core) (r : Nat) (x : Cell) : (c.setCell r x).job = c.job := rfl
@[simp] theorem Core.setCell_gen (c : Core) (r : Nat) (x : Cell) : (c.setCell r x).gen = c.gen := rfl
@[simp] theorem Core.setCell_near (c : Core) (r : Nat) (x : Cell) : (c.setCell r x).near = c.near := rfl
@[simp] theorem Core.setCell_deep (c : Core) (r : Nat) (x : Cell) : (c.setCell r x).deep = c.deep := rfl
@[simp] theorem Core.setCell_slots (c : Core) (r : Nat) (x : Cell) : (c.setCell r x).slots = c.slots := rfl
@[simp] theorem Core.setCell_eng (c : Core) (r : Nat) (x : Cell) : (c.setCell r x).eng = c.eng := rfl
@[simp] theorem Core.setCell_rings (c : Core) (r : Nat) (x : Cell) : (c.setCell r x).rings = c.rings := rfl
@[simp] theorem Core.setCell_sendq (c : Core) (r : Nat) (x : Cell) : (c.setCell r x).sendq = c.sendq := rfl
@[simp] theorem Core.setCell_rcopies (c : Core) (r : Nat) (x : Cell) : (c.setCell r x).rcopies = c.rcopies := rfl
@[simp] theorem Core.setCell_stopped (c : Core) (r : Nat) (x : Cell) : (c.setCell r x).stopped = c.stopped := rfl
@[simp] theorem Core.setCell_awaitAdmit (c : Core) (r : Nat) (x : Cell) : (c.setCell r x).awaitAdmit = c.awaitAdmit := rfl
@[simp] theorem Core.setSlot_g (c : Core) (r : Nat) (x : Slot) : (c.setSlot r x).g = c.g := rfl
@[simp] theorem Core.setSlot_d (c : Core) (r : Nat) (x : Slot) : (c.setSlot r x).d = c.d := rfl
@[simp] theorem Core.setSlot_v (c : Core) (r : Nat) (x : Slot) : (c.setSlot r x).v = c.v := rfl
@[simp] theorem Core.setSlot_tok (c : Core) (r : Nat) (x : Slot) : (c.setSlot r x).tok = c.tok := rfl
@[simp] theorem Core.setSlot_prog (c : Core) (r : Nat) (x : Slot) : (c.setSlot r x).prog = c.prog := rfl
@[simp] theorem Core.setSlot_pc (c : Core) (r : Nat) (x : Slot) : (c.setSlot r x).pc = c.pc := rfl
@[simp] theorem Core.setSlot_ctl (c : Core) (r : Nat) (x : Slot) : (c.setSlot r x).ctl = c.ctl := rfl
@[simp] theorem Core.setSlot_uncollected (c : Core) (r : Nat) (x : Slot) : (c.setSlot r x).uncollected = c.uncollected := rfl
@[simp] theorem Core.setSlot_faulted (c : Core) (r : Nat) (x : Slot) : (c.setSlot r x).faulted = c.faulted := rfl
@[simp] theorem Core.setSlot_lastError (c : Core) (r : Nat) (x : Slot) : (c.setSlot r x).lastError = c.lastError := rfl
@[simp] theorem Core.setSlot_faultPc (c : Core) (r : Nat) (x : Slot) : (c.setSlot r x).faultPc = c.faultPc := rfl
@[simp] theorem Core.setSlot_scratch (c : Core) (r : Nat) (x : Slot) : (c.setSlot r x).scratch = c.scratch := rfl
@[simp] theorem Core.setSlot_job (c : Core) (r : Nat) (x : Slot) : (c.setSlot r x).job = c.job := rfl
@[simp] theorem Core.setSlot_gen (c : Core) (r : Nat) (x : Slot) : (c.setSlot r x).gen = c.gen := rfl
@[simp] theorem Core.setSlot_near (c : Core) (r : Nat) (x : Slot) : (c.setSlot r x).near = c.near := rfl
@[simp] theorem Core.setSlot_deep (c : Core) (r : Nat) (x : Slot) : (c.setSlot r x).deep = c.deep := rfl
@[simp] theorem Core.setSlot_cells (c : Core) (r : Nat) (x : Slot) : (c.setSlot r x).cells = c.cells := rfl
@[simp] theorem Core.setSlot_eng (c : Core) (r : Nat) (x : Slot) : (c.setSlot r x).eng = c.eng := rfl
@[simp] theorem Core.setSlot_rings (c : Core) (r : Nat) (x : Slot) : (c.setSlot r x).rings = c.rings := rfl
@[simp] theorem Core.setSlot_sendq (c : Core) (r : Nat) (x : Slot) : (c.setSlot r x).sendq = c.sendq := rfl
@[simp] theorem Core.setSlot_rcopies (c : Core) (r : Nat) (x : Slot) : (c.setSlot r x).rcopies = c.rcopies := rfl
@[simp] theorem Core.setSlot_stopped (c : Core) (r : Nat) (x : Slot) : (c.setSlot r x).stopped = c.stopped := rfl
@[simp] theorem Core.setSlot_awaitAdmit (c : Core) (r : Nat) (x : Slot) : (c.setSlot r x).awaitAdmit = c.awaitAdmit := rfl
@[simp] theorem Core.setEngq_g (c : Core) (r : Nat) (x : List EngOp) : (c.setEngq r x).g = c.g := rfl
@[simp] theorem Core.setEngq_d (c : Core) (r : Nat) (x : List EngOp) : (c.setEngq r x).d = c.d := rfl
@[simp] theorem Core.setEngq_v (c : Core) (r : Nat) (x : List EngOp) : (c.setEngq r x).v = c.v := rfl
@[simp] theorem Core.setEngq_tok (c : Core) (r : Nat) (x : List EngOp) : (c.setEngq r x).tok = c.tok := rfl
@[simp] theorem Core.setEngq_prog (c : Core) (r : Nat) (x : List EngOp) : (c.setEngq r x).prog = c.prog := rfl
@[simp] theorem Core.setEngq_pc (c : Core) (r : Nat) (x : List EngOp) : (c.setEngq r x).pc = c.pc := rfl
@[simp] theorem Core.setEngq_ctl (c : Core) (r : Nat) (x : List EngOp) : (c.setEngq r x).ctl = c.ctl := rfl
@[simp] theorem Core.setEngq_uncollected (c : Core) (r : Nat) (x : List EngOp) : (c.setEngq r x).uncollected = c.uncollected := rfl
@[simp] theorem Core.setEngq_faulted (c : Core) (r : Nat) (x : List EngOp) : (c.setEngq r x).faulted = c.faulted := rfl
@[simp] theorem Core.setEngq_lastError (c : Core) (r : Nat) (x : List EngOp) : (c.setEngq r x).lastError = c.lastError := rfl
@[simp] theorem Core.setEngq_faultPc (c : Core) (r : Nat) (x : List EngOp) : (c.setEngq r x).faultPc = c.faultPc := rfl
@[simp] theorem Core.setEngq_scratch (c : Core) (r : Nat) (x : List EngOp) : (c.setEngq r x).scratch = c.scratch := rfl
@[simp] theorem Core.setEngq_job (c : Core) (r : Nat) (x : List EngOp) : (c.setEngq r x).job = c.job := rfl
@[simp] theorem Core.setEngq_gen (c : Core) (r : Nat) (x : List EngOp) : (c.setEngq r x).gen = c.gen := rfl
@[simp] theorem Core.setEngq_near (c : Core) (r : Nat) (x : List EngOp) : (c.setEngq r x).near = c.near := rfl
@[simp] theorem Core.setEngq_deep (c : Core) (r : Nat) (x : List EngOp) : (c.setEngq r x).deep = c.deep := rfl
@[simp] theorem Core.setEngq_cells (c : Core) (r : Nat) (x : List EngOp) : (c.setEngq r x).cells = c.cells := rfl
@[simp] theorem Core.setEngq_slots (c : Core) (r : Nat) (x : List EngOp) : (c.setEngq r x).slots = c.slots := rfl
@[simp] theorem Core.setEngq_rings (c : Core) (r : Nat) (x : List EngOp) : (c.setEngq r x).rings = c.rings := rfl
@[simp] theorem Core.setEngq_sendq (c : Core) (r : Nat) (x : List EngOp) : (c.setEngq r x).sendq = c.sendq := rfl
@[simp] theorem Core.setEngq_rcopies (c : Core) (r : Nat) (x : List EngOp) : (c.setEngq r x).rcopies = c.rcopies := rfl
@[simp] theorem Core.setEngq_stopped (c : Core) (r : Nat) (x : List EngOp) : (c.setEngq r x).stopped = c.stopped := rfl
@[simp] theorem Core.setEngq_awaitAdmit (c : Core) (r : Nat) (x : List EngOp) : (c.setEngq r x).awaitAdmit = c.awaitAdmit := rfl
@[simp] theorem Core.setRing_g (c : Core) (r : Nat) (x : Ring) : (c.setRing r x).g = c.g := rfl
@[simp] theorem Core.setRing_d (c : Core) (r : Nat) (x : Ring) : (c.setRing r x).d = c.d := rfl
@[simp] theorem Core.setRing_v (c : Core) (r : Nat) (x : Ring) : (c.setRing r x).v = c.v := rfl
@[simp] theorem Core.setRing_tok (c : Core) (r : Nat) (x : Ring) : (c.setRing r x).tok = c.tok := rfl
@[simp] theorem Core.setRing_prog (c : Core) (r : Nat) (x : Ring) : (c.setRing r x).prog = c.prog := rfl
@[simp] theorem Core.setRing_pc (c : Core) (r : Nat) (x : Ring) : (c.setRing r x).pc = c.pc := rfl
@[simp] theorem Core.setRing_ctl (c : Core) (r : Nat) (x : Ring) : (c.setRing r x).ctl = c.ctl := rfl
@[simp] theorem Core.setRing_uncollected (c : Core) (r : Nat) (x : Ring) : (c.setRing r x).uncollected = c.uncollected := rfl
@[simp] theorem Core.setRing_faulted (c : Core) (r : Nat) (x : Ring) : (c.setRing r x).faulted = c.faulted := rfl
@[simp] theorem Core.setRing_lastError (c : Core) (r : Nat) (x : Ring) : (c.setRing r x).lastError = c.lastError := rfl
@[simp] theorem Core.setRing_faultPc (c : Core) (r : Nat) (x : Ring) : (c.setRing r x).faultPc = c.faultPc := rfl
@[simp] theorem Core.setRing_scratch (c : Core) (r : Nat) (x : Ring) : (c.setRing r x).scratch = c.scratch := rfl
@[simp] theorem Core.setRing_job (c : Core) (r : Nat) (x : Ring) : (c.setRing r x).job = c.job := rfl
@[simp] theorem Core.setRing_gen (c : Core) (r : Nat) (x : Ring) : (c.setRing r x).gen = c.gen := rfl
@[simp] theorem Core.setRing_near (c : Core) (r : Nat) (x : Ring) : (c.setRing r x).near = c.near := rfl
@[simp] theorem Core.setRing_deep (c : Core) (r : Nat) (x : Ring) : (c.setRing r x).deep = c.deep := rfl
@[simp] theorem Core.setRing_cells (c : Core) (r : Nat) (x : Ring) : (c.setRing r x).cells = c.cells := rfl
@[simp] theorem Core.setRing_slots (c : Core) (r : Nat) (x : Ring) : (c.setRing r x).slots = c.slots := rfl
@[simp] theorem Core.setRing_eng (c : Core) (r : Nat) (x : Ring) : (c.setRing r x).eng = c.eng := rfl
@[simp] theorem Core.setRing_sendq (c : Core) (r : Nat) (x : Ring) : (c.setRing r x).sendq = c.sendq := rfl
@[simp] theorem Core.setRing_rcopies (c : Core) (r : Nat) (x : Ring) : (c.setRing r x).rcopies = c.rcopies := rfl
@[simp] theorem Core.setRing_stopped (c : Core) (r : Nat) (x : Ring) : (c.setRing r x).stopped = c.stopped := rfl
@[simp] theorem Core.setRing_awaitAdmit (c : Core) (r : Nat) (x : Ring) : (c.setRing r x).awaitAdmit = c.awaitAdmit := rfl
@[simp] theorem Core.nearWrite_g (c : Core) (r : Nat) (x : List Byte) : (c.nearWrite r x).g = c.g := rfl
@[simp] theorem Core.nearWrite_d (c : Core) (r : Nat) (x : List Byte) : (c.nearWrite r x).d = c.d := rfl
@[simp] theorem Core.nearWrite_v (c : Core) (r : Nat) (x : List Byte) : (c.nearWrite r x).v = c.v := rfl
@[simp] theorem Core.nearWrite_tok (c : Core) (r : Nat) (x : List Byte) : (c.nearWrite r x).tok = c.tok := rfl
@[simp] theorem Core.nearWrite_prog (c : Core) (r : Nat) (x : List Byte) : (c.nearWrite r x).prog = c.prog := rfl
@[simp] theorem Core.nearWrite_pc (c : Core) (r : Nat) (x : List Byte) : (c.nearWrite r x).pc = c.pc := rfl
@[simp] theorem Core.nearWrite_ctl (c : Core) (r : Nat) (x : List Byte) : (c.nearWrite r x).ctl = c.ctl := rfl
@[simp] theorem Core.nearWrite_uncollected (c : Core) (r : Nat) (x : List Byte) : (c.nearWrite r x).uncollected = c.uncollected := rfl
@[simp] theorem Core.nearWrite_faulted (c : Core) (r : Nat) (x : List Byte) : (c.nearWrite r x).faulted = c.faulted := rfl
@[simp] theorem Core.nearWrite_lastError (c : Core) (r : Nat) (x : List Byte) : (c.nearWrite r x).lastError = c.lastError := rfl
@[simp] theorem Core.nearWrite_faultPc (c : Core) (r : Nat) (x : List Byte) : (c.nearWrite r x).faultPc = c.faultPc := rfl
@[simp] theorem Core.nearWrite_scratch (c : Core) (r : Nat) (x : List Byte) : (c.nearWrite r x).scratch = c.scratch := rfl
@[simp] theorem Core.nearWrite_job (c : Core) (r : Nat) (x : List Byte) : (c.nearWrite r x).job = c.job := rfl
@[simp] theorem Core.nearWrite_gen (c : Core) (r : Nat) (x : List Byte) : (c.nearWrite r x).gen = c.gen := rfl
@[simp] theorem Core.nearWrite_deep (c : Core) (r : Nat) (x : List Byte) : (c.nearWrite r x).deep = c.deep := rfl
@[simp] theorem Core.nearWrite_cells (c : Core) (r : Nat) (x : List Byte) : (c.nearWrite r x).cells = c.cells := rfl
@[simp] theorem Core.nearWrite_slots (c : Core) (r : Nat) (x : List Byte) : (c.nearWrite r x).slots = c.slots := rfl
@[simp] theorem Core.nearWrite_eng (c : Core) (r : Nat) (x : List Byte) : (c.nearWrite r x).eng = c.eng := rfl
@[simp] theorem Core.nearWrite_rings (c : Core) (r : Nat) (x : List Byte) : (c.nearWrite r x).rings = c.rings := rfl
@[simp] theorem Core.nearWrite_sendq (c : Core) (r : Nat) (x : List Byte) : (c.nearWrite r x).sendq = c.sendq := rfl
@[simp] theorem Core.nearWrite_rcopies (c : Core) (r : Nat) (x : List Byte) : (c.nearWrite r x).rcopies = c.rcopies := rfl
@[simp] theorem Core.nearWrite_stopped (c : Core) (r : Nat) (x : List Byte) : (c.nearWrite r x).stopped = c.stopped := rfl
@[simp] theorem Core.nearWrite_awaitAdmit (c : Core) (r : Nat) (x : List Byte) : (c.nearWrite r x).awaitAdmit = c.awaitAdmit := rfl
@[simp] theorem Core.deepWrite_g (c : Core) (r : Nat) (x : List Byte) : (c.deepWrite r x).g = c.g := rfl
@[simp] theorem Core.deepWrite_d (c : Core) (r : Nat) (x : List Byte) : (c.deepWrite r x).d = c.d := rfl
@[simp] theorem Core.deepWrite_v (c : Core) (r : Nat) (x : List Byte) : (c.deepWrite r x).v = c.v := rfl
@[simp] theorem Core.deepWrite_tok (c : Core) (r : Nat) (x : List Byte) : (c.deepWrite r x).tok = c.tok := rfl
@[simp] theorem Core.deepWrite_prog (c : Core) (r : Nat) (x : List Byte) : (c.deepWrite r x).prog = c.prog := rfl
@[simp] theorem Core.deepWrite_pc (c : Core) (r : Nat) (x : List Byte) : (c.deepWrite r x).pc = c.pc := rfl
@[simp] theorem Core.deepWrite_ctl (c : Core) (r : Nat) (x : List Byte) : (c.deepWrite r x).ctl = c.ctl := rfl
@[simp] theorem Core.deepWrite_uncollected (c : Core) (r : Nat) (x : List Byte) : (c.deepWrite r x).uncollected = c.uncollected := rfl
@[simp] theorem Core.deepWrite_faulted (c : Core) (r : Nat) (x : List Byte) : (c.deepWrite r x).faulted = c.faulted := rfl
@[simp] theorem Core.deepWrite_lastError (c : Core) (r : Nat) (x : List Byte) : (c.deepWrite r x).lastError = c.lastError := rfl
@[simp] theorem Core.deepWrite_faultPc (c : Core) (r : Nat) (x : List Byte) : (c.deepWrite r x).faultPc = c.faultPc := rfl
@[simp] theorem Core.deepWrite_scratch (c : Core) (r : Nat) (x : List Byte) : (c.deepWrite r x).scratch = c.scratch := rfl
@[simp] theorem Core.deepWrite_job (c : Core) (r : Nat) (x : List Byte) : (c.deepWrite r x).job = c.job := rfl
@[simp] theorem Core.deepWrite_gen (c : Core) (r : Nat) (x : List Byte) : (c.deepWrite r x).gen = c.gen := rfl
@[simp] theorem Core.deepWrite_near (c : Core) (r : Nat) (x : List Byte) : (c.deepWrite r x).near = c.near := rfl
@[simp] theorem Core.deepWrite_cells (c : Core) (r : Nat) (x : List Byte) : (c.deepWrite r x).cells = c.cells := rfl
@[simp] theorem Core.deepWrite_slots (c : Core) (r : Nat) (x : List Byte) : (c.deepWrite r x).slots = c.slots := rfl
@[simp] theorem Core.deepWrite_eng (c : Core) (r : Nat) (x : List Byte) : (c.deepWrite r x).eng = c.eng := rfl
@[simp] theorem Core.deepWrite_rings (c : Core) (r : Nat) (x : List Byte) : (c.deepWrite r x).rings = c.rings := rfl
@[simp] theorem Core.deepWrite_sendq (c : Core) (r : Nat) (x : List Byte) : (c.deepWrite r x).sendq = c.sendq := rfl
@[simp] theorem Core.deepWrite_rcopies (c : Core) (r : Nat) (x : List Byte) : (c.deepWrite r x).rcopies = c.rcopies := rfl
@[simp] theorem Core.deepWrite_stopped (c : Core) (r : Nat) (x : List Byte) : (c.deepWrite r x).stopped = c.stopped := rfl
@[simp] theorem Core.deepWrite_awaitAdmit (c : Core) (r : Nat) (x : List Byte) : (c.deepWrite r x).awaitAdmit = c.awaitAdmit := rfl
@[simp] theorem Core.setD_dr_same (c : Core) (r : Nat) (x : Line) : (c.setD r x).dr r = x := Sparse.get_put_same _ _ _ _
theorem Core.setD_dr_ne (c : Core) {r q : Nat} (x : Line) (h : r ≠ q) : (c.setD r x).dr q = c.dr q := Sparse.get_put_ne _ _ _ h
@[simp] theorem Core.setV_vr_same (c : Core) (r : Nat) (x : Line) : (c.setV r x).vr r = x := Sparse.get_put_same _ _ _ _
theorem Core.setV_vr_ne (c : Core) {r q : Nat} (x : Line) (h : r ≠ q) : (c.setV r x).vr q = c.vr q := Sparse.get_put_ne _ _ _ h
@[simp] theorem Core.setTok_token_same (c : Core) (r : Nat) (x : Tok) : (c.setTok r x).token r = x := Sparse.get_put_same _ _ _ _
theorem Core.setTok_token_ne (c : Core) {r q : Nat} (x : Tok) (h : r ≠ q) : (c.setTok r x).token q = c.token q := Sparse.get_put_ne _ _ _ h
@[simp] theorem Core.setCell_cell_same (c : Core) (r : Nat) (x : Cell) : (c.setCell r x).cell r = x := Sparse.get_put_same _ _ _ _
theorem Core.setCell_cell_ne (c : Core) {r q : Nat} (x : Cell) (h : r ≠ q) : (c.setCell r x).cell q = c.cell q := Sparse.get_put_ne _ _ _ h
@[simp] theorem Core.setEngq_engq_same (c : Core) (r : Nat) (x : List EngOp) : (c.setEngq r x).engq r = x := Sparse.get_put_same _ _ _ _
theorem Core.setEngq_engq_ne (c : Core) {r q : Nat} (x : List EngOp) (h : r ≠ q) : (c.setEngq r x).engq q = c.engq q := Sparse.get_put_ne _ _ _ h
@[simp] theorem Core.setRing_ring_same (c : Core) (r : Nat) (x : Ring) : (c.setRing r x).ring r = x := Sparse.get_put_same _ _ _ _
theorem Core.setRing_ring_ne (c : Core) {r q : Nat} (x : Ring) (h : r ≠ q) : (c.setRing r x).ring q = c.ring q := Sparse.get_put_ne _ _ _ h

end Sys2Proof.Machine
end

