-- ==== Sys2Proof/Laws/Cores.lean ====
section
/-!
SUPPORT. Two updates of one entry make one, and what an update of many cores leaves of each of them.
-/

namespace Sys2Proof

theorem Sparse.drop_drop {α : Type} (m : Sparse α) (i : Nat) : (m.drop i).drop i = m.drop i := by
  induction m with
  | nil => rfl
  | cons e r ih => simp only [Sparse.drop]; split <;> simp_all [Sparse.drop]

theorem Sparse.drop_insert {α : Type} (m : Sparse α) (i : Nat) (v : α) : ((m.drop i).insert i v).drop i = m.drop i := by
  induction m with
  | nil => simp [Sparse.drop, Sparse.insert]
  | cons e r ih =>
    simp only [Sparse.drop]
    split
    · exact ih
    · simp only [Sparse.insert]
      split <;> simp_all [Sparse.drop, Sparse.drop_drop]

/-- A second write at one key replaces the first. -/
theorem Sparse.put_put {α : Type} [DecidableEq α] (d : α) (m : Sparse α) (i : Nat) (v w : α) :
    Sparse.put d (Sparse.put d m i v) i w = Sparse.put d m i w := by
  unfold Sparse.put
  split <;> split <;> simp only [Sparse.drop_insert, Sparse.drop_drop]

end Sys2Proof

namespace Sys2Proof.Machine

open Sys2Proof

/-- Two updates of one core make one. -/
theorem State.updCore_updCore (s : State) (n : Nat) (f g : Core → Core) :
    (s.updCore n f).updCore n g = s.updCore n fun c => g (f c) := by
  unfold State.updCore State.setCore
  have h : ({ s with cores := Sparse.put Core.zero s.cores n (f (s.core n)) } : State).core n = f (s.core n) :=
    Sparse.get_put_same _ _ _ _
  simp only [h, Sparse.put_put]

/-- An update depends on its function only at the core it changes. -/
theorem State.updCore_congr {s : State} {n : Nat} {f g : Core → Core} (h : f (s.core n) = g (s.core n)) :
    s.updCore n f = s.updCore n g := by
  unfold State.updCore; rw [h]

/-- Two updates of one meadow make one. -/
theorem State.updMeadow_updMeadow (s : State) (n : Nat) (f g : Meadow → Meadow) :
    (s.updMeadow n f).updMeadow n g = s.updMeadow n fun c => g (f c) := by
  unfold State.updMeadow
  have h : ({ s with meadows := Sparse.put Meadow.zero s.meadows n (f (s.meadow n)) } : State).meadow n = f (s.meadow n) :=
    Sparse.get_put_same _ _ _ _
  simp only [h, Sparse.put_put]

/-- A property of a core that one update keeps, an update of several keeps. -/
theorem State.updCores_keeps (p : Core → Prop) (f : Core → Core) (n : Nat) (h : ∀ c, p c → p (f c)) (l : List Nat) :
    ∀ s : State, p (s.core n) → p ((s.updCores l f).core n) := by
  unfold State.updCores
  induction l with
  | nil => intro s hs; exact hs
  | cons a r ih =>
    intro s hs
    refine ih _ ?_
    rw [State.updCore_core]
    split
    · subst_vars; exact h _ hs
    · exact hs

/-- A core outside the list is left as it was. -/
theorem State.updCores_core_out (f : Core → Core) (n : Nat) (l : List Nat) :
    ∀ s : State, n ∉ l → (s.updCores l f).core n = s.core n := by
  unfold State.updCores
  induction l with
  | nil => intro s _; rfl
  | cons a r ih =>
    intro s hs
    simp only [List.mem_cons, not_or] at hs
    refine (ih _ hs.2).trans ?_
    rw [State.updCore_core, if_neg (Ne.symm hs.1)]

/-- An update of several cores changes nothing but cores. -/
theorem State.updCores_eq (f : Core → Core) (l : List Nat) :
    ∀ s : State, s.updCores l f = { s with cores := (s.updCores l f).cores } := by
  unfold State.updCores
  induction l with
  | nil => intro s; rfl
  | cons a r ih => intro s; exact ih (s.updCore a f)

end Sys2Proof.Machine
end

