-- ==== Sys2Proof/Laws/ControlUnit.lean ====
section
/-!
SUPPORT. What the shared operations of the control unit answer: one lemma for each, in the terms claims use.
-/

namespace Sys2Proof.Machine

open Sys2Proof

/-- A legal instruction that stands at the pc of a core that issues is its body. -/
theorem State.cu_legal {s : State} {n : Nat} {op : BitVec 8} {f : Fields} {legal : Bool} {body : State → State}
    (h : (s.core n).issuing = true) (w : s.spells n op f) (l : legal = true) :
    s.cu n op f legal body = .next (body s) := by
  unfold State.spells at w
  simp [State.cu, h, l, w]

/-- An illegal instruction that stands at the pc of a core that issues faults it. -/
theorem State.cu_illegal {s : State} {n : Nat} {op : BitVec 8} {f : Fields} {legal : Bool} {body : State → State}
    (h : (s.core n).issuing = true) (w : s.spells n op f) (l : legal = false) :
    s.cu n op f legal body = .next (s.faultHere n Code.illegal) := by
  unfold State.spells at w
  simp [State.cu, h, l, w]

/-- An instruction of a core that does not issue changes nothing. -/
theorem State.cu_off {s : State} {n : Nat} {op : BitVec 8} {f : Fields} {legal : Bool} {body : State → State}
    (h : (s.core n).issuing = false) : s.cu n op f legal body = .next s := by
  simp [State.cu, h]

/-- An instruction that does not stand at its core's pc changes nothing. -/
theorem State.cu_other {s : State} {n : Nat} {op : BitVec 8} {f : Fields} {legal : Bool} {body : State → State}
    (w : ¬ s.spells n op f) : s.cu n op f legal body = .next s := by
  unfold State.spells at w
  simp [State.cu, w]

/-- The next instruction, where there is one. -/
theorem State.adv_next {s : State} {n : Nat} (h : (s.core n).pc ≠ 4095) : s.adv n = s.nextWith n id := by
  simp [State.adv, h, State.nextWith]

/-- A core's update and the next instruction. -/
theorem State.adv_updCore {s : State} {n : Nat} {f : Core → Core} (h : (s.core n).pc ≠ 4095) (hf : ∀ c, (f c).pc = c.pc) :
    (s.updCore n f).adv n = s.nextWith n f := by
  rw [adv_next (by simpa [hf] using h)]
  simp [State.nextWith, State.updCore_updCore]

/-- A result written and the next instruction. -/
theorem State.result_next {s : State} {n : Nat} {f : Fields} {x : Dword} (h : (s.core n).pc ≠ 4095) :
    s.result n f x = s.nextWith n fun k => k.setG f.dst.toNat x := by
  unfold State.result; exact adv_updCore h (by simp)

/-- What `nextWith` does depends on its function only at the core it changes. -/
theorem State.nextWith_congr {s : State} {n : Nat} {f g : Core → Core} (h : f (s.core n) = g (s.core n)) :
    s.nextWith n f = s.nextWith n g := by
  unfold State.nextWith; exact State.updCore_congr (by rw [h])

/-- An update, then an update with the next instruction. -/
theorem State.nextWith_updCore {s : State} {n : Nat} {f g : Core → Core} :
    (s.updCore n f).nextWith n g = s.nextWith n fun k => g (f k) := by
  unfold State.nextWith; rw [State.updCore_updCore]

/-- A status written after a core's update that leaves its pc. -/
theorem State.status_updCore {s : State} {n : Nat} {fl : Fields} {f : Core → Core} {code : Half}
    (h : (s.core n).pc ≠ 4095) (hf : ∀ c, (f c).pc = c.pc) :
    (s.updCore n f).status n fl code = s.nextWith n fun k => (f k).setG fl.dst.toNat (code.setWidth 64) := by
  unfold State.status
  rw [State.result_next (by simpa [hf] using h), State.nextWith_updCore]

/-- A running control unit's release changes nothing. -/
theorem State.release_run {s : State} {n : Nat} (h : (s.core n).ctl = .run) : s.release n = s.updCore n id := by
  unfold State.release
  refine State.updCore_congr ?_
  cases hc : s.core n
  rw [hc] at h
  simp only at h
  subst h
  rfl

/-- A held control unit's release makes it issue again. -/
theorem State.release_held {s : State} {n : Nat} {op : HeldOp} {f : Fields} (h : (s.core n).ctl = .held op f) :
    s.release n = s.updCore n fun c => { c with ctl := .run } := by
  unfold State.release
  refine State.updCore_congr ?_
  rw [h]

/-- A core that issues runs. -/
theorem Core.issuing_run {c : Core} (h : c.issuing = true) : c.ctl = .run := by
  simp [Core.issuing] at h; exact h.1.1

/-- The address of an aligned access within the near store. -/
theorem nearAddr_ok {c : Core} {f : Fields} {size : Nat}
    (h : (c.gr f.sa.toNat + f.imm.signExtend 64).toNat % size = 0)
    (k : (c.gr f.sa.toNat + f.imm.signExtend 64).toNat + size ≤ 0x20000) :
    nearAddr c f size = .ok (c.gr f.sa.toNat + f.imm.signExtend 64).toNat := by
  unfold nearAddr Fields.simm
  simp only [h, ne_eq, not_true_eq_false, if_false]
  exact if_neg (by omega)

/-- A misaligned access. -/
theorem nearAddr_align {c : Core} {f : Fields} {size : Nat}
    (h : (c.gr f.sa.toNat + f.imm.signExtend 64).toNat % size ≠ 0) : nearAddr c f size = .error Code.align := by
  unfold nearAddr Fields.simm
  exact if_pos h

/-- An aligned access that leaves the near store. -/
theorem nearAddr_range {c : Core} {f : Fields} {size : Nat}
    (h : (c.gr f.sa.toNat + f.imm.signExtend 64).toNat % size = 0)
    (k : 0x20000 < (c.gr f.sa.toNat + f.imm.signExtend 64).toNat + size) : nearAddr c f size = .error Code.range := by
  unfold nearAddr Fields.simm
  simp only [h, ne_eq, not_true_eq_false, if_false]
  exact if_pos (by omega)

/-! Faults and failures. -/

/-- An epoch's failure changes of a core only whether the stem holds it. -/
theorem State.failEpoch_core (s : State) (m : Nat) (k : Half) (n : Nat) :
    (s.failEpoch m k).core n = s.core n ∨ (s.failEpoch m k).core n = { s.core n with stopped := true } := by
  have key : ∀ (l : List Nat), ((s.stopCores l).core n = s.core n
      ∨ (s.stopCores l).core n = { s.core n with stopped := true }) := by
    intro l
    refine State.updCores_keeps (fun c => c = s.core n ∨ c = { s.core n with stopped := true }) _ n ?_ l s (Or.inl rfl)
    rintro c (rfl | rfl) <;> exact Or.inr rfl
  have raise : ∀ (t : State) (m v : Nat), (t.raiseM m v).core n = t.core n := by
    intro t m v; unfold State.raiseM State.raise; split <;> rfl
  unfold State.failEpoch
  split
  · rw [raise]; exact key _
  · rw [raise]; exact key _
  · split
    · exact Or.inl rfl
    · exact Or.inl rfl
  · exact Or.inl rfl

/-- An OPEN epoch's failure: FAILED with its code. -/
theorem State.failEpoch_meadow {s : State} {m : Nat} (k : Half) (h : (s.meadow m).state = .opened) :
    ((s.failEpoch m k).meadow m).state = .failed ∧ ((s.failEpoch m k).meadow m).code = k := by
  have raise : ∀ (t : State) (m v : Nat), (t.raiseM m v).meadow m = t.meadow m := by
    intro t m v; unfold State.raiseM State.raise; split <;> rfl
  unfold State.failEpoch
  rw [h]
  simp only [raise]
  rw [State.updMeadow_meadow_same]
  exact ⟨rfl, rfl⟩

/-- A vector raised changes only its function and what is sent out. -/
theorem State.raise_eq (s : State) (p f v : Nat) :
    s.raise p f v = { s with fns := (s.raise p f v).fns, out := (s.raise p f v).out } := by
  unfold State.raise; split <;> rfl

/-- An epoch's failure changes cores, its meadow, and an interrupt only. -/
theorem State.failEpoch_eq (s : State) (m : Nat) (k : Half) :
    s.failEpoch m k = { s with
      cores := (s.failEpoch m k).cores, meadows := (s.failEpoch m k).meadows, fns := (s.failEpoch m k).fns,
      out := (s.failEpoch m k).out } := by
  unfold State.failEpoch
  split
  · rw [State.raiseM, State.raise_eq]
    unfold State.stopCores
    rw [State.updCores_eq]
    rfl
  · rw [State.raiseM, State.raise_eq]
    unfold State.stopCores
    rw [State.updCores_eq]
    rfl
  · split <;> rfl
  · rfl

/-- A core's fault, its code one other than of a double-bit error: the core, then its meadow's epoch. -/
theorem State.coreFault_eq {s : State} {n : Nat} {code : Half} (pc : Nat) (h : code ≠ Code.coreSram) :
    s.coreFault n code pc =
      let t := s.updCore n fun c => { c with ctl := .faulted, faulted := true, lastError := code, faultPc := pc }
      match s.meadowOf n with | some m => t.failEpoch m code | none => t := by
  unfold State.coreFault
  simp only [h, if_false, State.updCore_meadowOf]
  first | done | (cases s.meadowOf n <;> rfl)

/-- What a fault leaves of its core. -/
theorem State.coreFault_core {s : State} {n : Nat} {code : Half} (pc : Nat) (h : code ≠ Code.coreSram) :
    ∃ b, (s.coreFault n code pc).core n
      = { s.core n with ctl := .faulted, faulted := true, lastError := code, faultPc := pc, stopped := b } := by
  rw [coreFault_eq pc h]
  dsimp only
  split
  · rename_i m _
    rcases State.failEpoch_core (s.updCore n fun c =>
      { c with ctl := .faulted, faulted := true, lastError := code, faultPc := pc }) m code n with e | e
    · exact ⟨(s.core n).stopped, by rw [e, State.updCore_core_same]⟩
    · exact ⟨true, by rw [e, State.updCore_core_same]⟩
  · exact ⟨(s.core n).stopped, by rw [State.updCore_core_same]⟩

/-- A fault fails the OPEN epoch of its core's meadow. -/
theorem State.coreFault_meadow {s : State} {n m : Nat} {code : Half} (pc : Nat) (h : code ≠ Code.coreSram)
    (hm : s.meadowOf n = some m) (ho : (s.meadow m).state = .opened) :
    ((s.coreFault n code pc).meadow m).state = .failed ∧ ((s.coreFault n code pc).meadow m).code = code := by
  rw [coreFault_eq pc h, hm]
  exact State.failEpoch_meadow code (by simpa using ho)

/-- A fault leaves everything but cores, the meadow and an interrupt. -/
theorem State.coreFault_rest {s : State} {n : Nat} {code : Half} (pc : Nat) (h : code ≠ Code.coreSram) :
    s.coreFault n code pc = { s with
      cores := (s.coreFault n code pc).cores, meadows := (s.coreFault n code pc).meadows,
      fns := (s.coreFault n code pc).fns, out := (s.coreFault n code pc).out } := by
  rw [coreFault_eq pc h]
  dsimp only
  split
  · rw [State.failEpoch_eq]; rfl
  · rfl

/-! Leading zeros. -/

/-- The leading zeros of a word. -/
theorem clz64_spec (a : Dword) : clz64 a ≤ 64 ∧ (∀ i, 64 - clz64 a ≤ i → a.getLsbD i = false)
    ∧ (clz64 a < 64 → a.getLsbD (63 - clz64 a) = true) := by
  unfold clz64
  by_cases h : a = 0
  · subst h; simp
  · have h0 : a.toNat ≠ 0 := fun e => h (BitVec.eq_of_toNat_eq (by simpa using e))
    have h1 : Nat.log2 a.toNat < 64 := (Nat.log2_lt h0).2 a.isLt
    rw [if_neg h]
    refine ⟨by omega, ?_, ?_⟩
    · intro i hi
      rw [← BitVec.testBit_toNat]
      exact Nat.testBit_lt_two_pow ((Nat.log2_lt (k := i) h0).1 (by omega))
    · intro _
      have e : 63 - (63 - Nat.log2 a.toNat) = Nat.log2 a.toNat := by omega
      rw [e, ← BitVec.testBit_toNat]
      exact Nat.testBit_log2 h0

end Sys2Proof.Machine
end

