-- ==== Sys2Proof/Laws/KeepsCore.lean ====
section
/-!
SUPPORT. What every operation of the cores, engines, messages and epochs keeps.
-/

namespace Sys2Proof.Machine

open Sys2Proof

set_option Elab.async false

/-- What no command breaks between `s` and `t`: the canonical form of memory, the part, the queue and the clock, the serial
numbers of free values, and what one-time-programmable memory holds (R450, R453, R455, R457). -/
structure State.Keeps (s t : State) : Prop where
  wf : s.memoryWf → t.memoryWf
  part : t.part = s.part
  pending : t.pending = s.pending
  tick : t.tick = s.tick
  free : s.free ≤ t.free
  lc : ∀ i, s.sxt.lcBits.getLsbD i → t.sxt.lcBits.getLsbD i
  leaves : s.sxt.leaves ≤ t.sxt.leaves
  svn : s.sxt.svn ≤ t.sxt.svn
  journal : s.sxt.journal <+: t.sxt.journal

theorem State.Keeps.refl (s : State) : s.Keeps s :=
  ⟨id, rfl, rfl, rfl, Nat.le_refl _, fun _ h => h, Nat.le_refl _, Nat.le_refl _, List.prefix_rfl⟩

theorem keeps_foldl {β : Type} {a s : State} {l : List β} {f : State → β → State}
    (h : a.Keeps s) (hf : ∀ u x, a.Keeps u → a.Keeps (f u x)) : a.Keeps (l.foldl f s) := by
  induction l generalizing s with
  | nil => exact h
  | cons x r ih => exact ih (hf _ _ h)

theorem keeps_set_heath {a s : State} {x} (h : a.Keeps s) : a.Keeps { s with heath := x } := by
  cases h; constructor <;> assumption

theorem keeps_set_qorf {a s : State} {x} (h : a.Keeps s) : a.Keeps { s with qorf := x } := by
  cases h; constructor <;> assumption

theorem keeps_set_power {a s : State} {x} (h : a.Keeps s) : a.Keeps { s with power := x } := by
  cases h; constructor <;> assumption

theorem keeps_set_bist {a s : State} {x} (h : a.Keeps s) : a.Keeps { s with bist := x } := by
  cases h; constructor <;> assumption

theorem keeps_set_trn {a s : State} {x} (h : a.Keeps s) : a.Keeps { s with trn := x } := by
  cases h; constructor <;> assumption

theorem keeps_set_pipes {a s : State} {x} (h : a.Keeps s) : a.Keeps { s with pipes := x } := by
  cases h; constructor <;> assumption

theorem keeps_set_hub {a s : State} {x} (h : a.Keeps s) : a.Keeps { s with hub := x } := by
  cases h; constructor <;> assumption

theorem keeps_set_cores {a s : State} {x} (h : a.Keeps s) : a.Keeps { s with cores := x } := by
  cases h; constructor <;> assumption

theorem keeps_set_bases {a s : State} {x} (h : a.Keeps s) : a.Keeps { s with bases := x } := by
  cases h; constructor <;> assumption

theorem keeps_set_meadows {a s : State} {x} (h : a.Keeps s) : a.Keeps { s with meadows := x } := by
  cases h; constructor <;> assumption

theorem keeps_set_swarm {a s : State} {x} (h : a.Keeps s) : a.Keeps { s with swarm := x } := by
  cases h; constructor <;> assumption

theorem keeps_set_bscan {a s : State} {x} (h : a.Keeps s) : a.Keeps { s with bscan := x } := by
  cases h; constructor <;> assumption

theorem keeps_set_jtag {a s : State} {x} (h : a.Keeps s) : a.Keeps { s with jtag := x } := by
  cases h; constructor <;> assumption

theorem keeps_set_ports {a s : State} {x} (h : a.Keeps s) : a.Keeps { s with ports := x } := by
  cases h; constructor <;> assumption

theorem keeps_set_fns {a s : State} {x} (h : a.Keeps s) : a.Keeps { s with fns := x } := by
  cases h; constructor <;> assumption

theorem keeps_set_held {a s : State} {x} (h : a.Keeps s) : a.Keeps { s with held := x } := by
  cases h; constructor <;> assumption

theorem keeps_set_out {a s : State} {x} (h : a.Keeps s) : a.Keeps { s with out := x } := by
  cases h; constructor <;> assumption

theorem keeps_setCore {a s : State} {n c} (h : a.Keeps s) : a.Keeps (s.setCore n c) := by
  cases h; constructor <;> assumption

theorem keeps_updCore {a s : State} {n f} (h : a.Keeps s) : a.Keeps (s.updCore n f) := by
  cases h; constructor <;> assumption

theorem keeps_updBase {a s : State} {n f} (h : a.Keeps s) : a.Keeps (s.updBase n f) := by
  cases h; constructor <;> assumption

theorem keeps_updMeadow {a s : State} {n f} (h : a.Keeps s) : a.Keeps (s.updMeadow n f) := by
  cases h; constructor <;> assumption

theorem keeps_updHub {a s : State} {f} (h : a.Keeps s) : a.Keeps (s.updHub f) := by
  cases h; constructor <;> assumption

theorem keeps_updPort {a s : State} {p f} (h : a.Keeps s) : a.Keeps (s.updPort p f) := by
  cases h; constructor <;> assumption

theorem keeps_updFn {a s : State} {p f g} (h : a.Keeps s) : a.Keeps (s.updFn p f g) := by
  cases h; constructor <;> assumption

theorem keeps_emit {a s : State} {o} (h : a.Keeps s) : a.Keeps (s.emit o) := by
  cases h; constructor <;> assumption

theorem keeps_set_free {a s : State} {x} (h : a.Keeps s) (hx : s.free ≤ x) : a.Keeps { s with free := x } := by
  obtain ⟨h1, h2, h3, h4, h5, h6, h7, h8, h9⟩ := h
  exact ⟨h1, h2, h3, h4, Nat.le_trans h5 hx, h6, h7, h8, h9⟩

theorem keeps_fresh {a s : State} (h : a.Keeps s) : a.Keeps s.fresh.2 := keeps_set_free h (Nat.le_succ _)

theorem keeps_updSxt {a s : State} {f} (h : a.Keeps s) (h1 : (f s.sxt).lcBits = s.sxt.lcBits)
    (h2 : (f s.sxt).leaves = s.sxt.leaves) (h3 : (f s.sxt).svn = s.sxt.svn) (h4 : (f s.sxt).journal = s.sxt.journal) :
    a.Keeps (s.updSxt f) := by
  cases h; constructor <;> simp_all [State.updSxt] <;> assumption

theorem keeps_updPkg {a s : State} {f} (h : a.Keeps s) (h1 : (f s.pkg).bytes = s.pkg.bytes) : a.Keeps (s.updPkg f) := by
  cases h; constructor <;> simp_all [State.updPkg, State.memoryWf]

/-- Package memory's bytes written. -/
theorem keeps_updPkg_wf {a s : State} {f} (h : a.Keeps s)
    (h1 : Memory.wf s.pkg.bytes = true → Memory.wf (f s.pkg).bytes = true) : a.Keeps (s.updPkg f) := by
  obtain ⟨h0, h2, h3, h4, h5, h6, h7, h8, h9⟩ := h
  exact ⟨fun w => h1 (h0 w), h2, h3, h4, h5, h6, h7, h8, h9⟩


theorem keeps_foldl_snd {β γ : Type} {a : State} {l : List β} {f : γ × State → β → γ × State} {p : γ × State}
    (h : a.Keeps p.2) (hf : ∀ u x, a.Keeps u.2 → a.Keeps (f u x).2) : a.Keeps (l.foldl f p).2 := by
  induction l generalizing p with
  | nil => exact h
  | cons x r ih => exact ih (hf _ _ h)

/-- The settings that a stream changes. -/
theorem keeps_settings {a s : State} {x : Heath} {p : Pkg} {m b} (h : a.Keeps s) (hp : p.bytes = s.pkg.bytes) :
    a.Keeps { s with heath := x, pkg := p, meadows := m, bases := b } := by
  obtain ⟨h0, h2, h3, h4, h5, h6, h7, h8, h9⟩ := h
  exact ⟨fun w => by simpa [State.memoryWf, hp] using h0 w, h2, h3, h4, h5, h6, h7, h8, h9⟩

theorem keeps_set_hub_pipes {a s : State} {x y} (h : a.Keeps s) : a.Keeps { s with hub := x, pipes := y } := by
  cases h; constructor <;> assumption

theorem keeps_updCores {a s : State} {l : List Nat} {f : Core → Core}
    (h : a.Keeps s) : a.Keeps (State.updCores s l f) := by
  unfold State.updCores
  grind (splits := 40) (ematch := 40) (gen := 40) [keeps_foldl, keeps_foldl_snd, keeps_updCore]

theorem keeps_updBases {a s : State} {l : List Nat} {f : Base → Base}
    (h : a.Keeps s) : a.Keeps (State.updBases s l f) := by
  unfold State.updBases
  grind (splits := 40) (ematch := 40) (gen := 40) [keeps_foldl, keeps_foldl_snd, keeps_updBase]

theorem keeps_raise {a s : State} {p : Nat} {f : Nat} {v : Nat}
    (h : a.Keeps s) : a.Keeps (State.raise s p f v) := by
  unfold State.raise
  grind (splits := 40) (ematch := 40) (gen := 40) [keeps_emit, keeps_updFn]

theorem keeps_raiseM {a s : State} {m : Nat} {v : Nat}
    (h : a.Keeps s) : a.Keeps (State.raiseM s m v) := by
  unfold State.raiseM
  grind (splits := 40) (ematch := 40) (gen := 40) [keeps_raise]

theorem keeps_stopCores {a s : State} {l : List Nat}
    (h : a.Keeps s) : a.Keeps (State.stopCores s l) := by
  unfold State.stopCores
  grind (splits := 40) (ematch := 40) (gen := 40) [keeps_updCores]

theorem keeps_stopMeadow {a s : State} {m : Nat}
    (h : a.Keeps s) : a.Keeps (State.stopMeadow s m) := by
  unfold State.stopMeadow
  grind (splits := 40) (ematch := 40) (gen := 40) [keeps_raiseM, keeps_stopCores, keeps_updMeadow]

theorem keeps_bench {a s : State} {cause : Half}
    (h : a.Keeps s) : a.Keeps (State.bench s cause) := by
  unfold State.bench
  grind (splits := 40) (ematch := 40) (gen := 40) [keeps_foldl, keeps_foldl_snd, keeps_stopMeadow, keeps_updSxt]

theorem keeps_failEpoch {a s : State} {m : Nat} {code : Half}
    (h : a.Keeps s) : a.Keeps (State.failEpoch s m code) := by
  unfold State.failEpoch
  grind (splits := 40) (ematch := 40) (gen := 40) [keeps_raiseM, keeps_stopCores, keeps_updMeadow]

theorem keeps_askRepair {a s : State} {j : RepairJob}
    (h : a.Keeps s) : a.Keeps (State.askRepair s j) := by
  unfold State.askRepair
  grind (splits := 40) (ematch := 40) (gen := 40) [keeps_updSxt]

theorem keeps_saveStores {a s : State} {l : List Nat}
    (h : a.Keeps s) : a.Keeps (State.saveStores s l) := by
  unfold State.saveStores
  grind (splits := 40) (ematch := 40) (gen := 40) [keeps_foldl, keeps_foldl_snd, keeps_updSxt]

theorem keeps_resetCores {a s : State} {l : List Nat}
    (h : a.Keeps s) : a.Keeps (State.resetCores s l) := by
  unfold State.resetCores
  grind (splits := 40) (ematch := 40) (gen := 40) [keeps_updCores]

theorem keeps_resetDomain {a s : State} {d : Domain} {code : Half}
    (h : a.Keeps s) : a.Keeps (State.resetDomain s d code) := by
  unfold State.resetDomain
  grind (splits := 40) (ematch := 40) (gen := 40) [keeps_failEpoch, keeps_foldl, keeps_foldl_snd, keeps_resetCores, keeps_updBase, keeps_updBases, keeps_updCores, keeps_updHub, keeps_updMeadow]

theorem keeps_stemReset {a s : State} {id : Nat}
    (h : a.Keeps s) : a.Keeps (State.stemReset s id).2 := by
  unfold State.stemReset
  grind (splits := 40) (ematch := 40) (gen := 40) [keeps_resetDomain, keeps_updSxt]

theorem keeps_watchCommand {a s : State} {l : List Nat} {arg : Nat}
    (h : a.Keeps s) : a.Keeps (State.watchCommand s l arg) := by
  unfold State.watchCommand
  grind (splits := 40) (ematch := 40) (gen := 40) [keeps_foldl, keeps_foldl_snd, keeps_set_heath, keeps_updBases, keeps_updCores]

theorem keeps_applyStem {a s : State} {c : StemCmd}
    (h : a.Keeps s) : a.Keeps (State.applyStem s c).2 := by
  unfold State.applyStem
  grind (splits := 40) (ematch := 40) (gen := 40) [keeps_foldl, keeps_foldl_snd, keeps_set_heath, keeps_stemReset, keeps_stopCores, keeps_stopMeadow, keeps_updMeadow, keeps_watchCommand]

theorem keeps_pumpStem {a s : State} {x0}
    (h : a.Keeps s) : a.Keeps (State.pumpStem x0 s) := by
  induction x0 generalizing s with
  | zero => unfold State.pumpStem; grind (splits := 40) (ematch := 40) (gen := 40) [keeps_applyStem, keeps_updSxt]
  | succ fuel ih => unfold State.pumpStem; grind (splits := 40) (ematch := 40) (gen := 40) [keeps_applyStem, keeps_updSxt]

theorem keeps_issueStem {a s : State} {c : StemCmd}
    (h : a.Keeps s) : a.Keeps (State.issueStem s c) := by
  unfold State.issueStem
  grind (splits := 40) (ematch := 40) (gen := 40) [keeps_pumpStem, keeps_updSxt]

theorem keeps_issueAdmits {a s : State} {l : List Nat} {by_ : StemBy}
    (h : a.Keeps s) : a.Keeps (State.issueAdmits s l by_) := by
  unfold State.issueAdmits
  grind (splits := 40) (ematch := 40) (gen := 40) [keeps_pumpStem, keeps_updSxt]

theorem keeps_kickRepair {a s : State} {code : Half}
    (h : a.Keeps s) : a.Keeps (State.kickRepair s code) := by
  unfold State.kickRepair
  grind (splits := 40) (ematch := 40) (gen := 40) [keeps_failEpoch, keeps_issueStem, keeps_updSxt]

theorem keeps_coreFault {a s : State} {n : Nat} {code : Half} {pc : Nat}
    (h : a.Keeps s) : a.Keeps (State.coreFault s n code pc) := by
  unfold State.coreFault
  grind (splits := 40) (ematch := 40) (gen := 40) [keeps_askRepair, keeps_failEpoch, keeps_kickRepair, keeps_updCore]

theorem keeps_updStack {a s : State} {k : Nat} {f : Stack → Stack}
    (h : a.Keeps s) : a.Keeps (State.updStack s k f) := by
  unfold State.updStack
  grind (splits := 40) (ematch := 40) (gen := 40) [keeps_updPkg]

theorem keeps_retire {a s : State} {pa : Nat}
    (h : a.Keeps s) : a.Keeps (State.retire s pa) := by
  unfold State.retire
  grind (splits := 40) (ematch := 40) (gen := 40) [keeps_bench, keeps_updPkg]

theorem keeps_uncorrectableAt {a s : State} {pa : Nat}
    (h : a.Keeps s) : a.Keeps (State.uncorrectableAt s pa) := by
  unfold State.uncorrectableAt
  grind (splits := 40) (ematch := 40) (gen := 40) [keeps_retire, keeps_updStack]

theorem keeps_putBlock {a s : State} {k : Key} {blk : Nat} {b : List Byte}
    (h : a.Keeps s) : a.Keeps (State.putBlock s k blk b) := by
  unfold State.putBlock
  exact keeps_updPkg_wf h fun w => Memory.wf_write _ _ _ w

theorem keeps_claimBlock {a s : State} {k : Key} {blk : Nat}
    (h : a.Keeps s) : a.Keeps (State.claimBlock s k blk) := by
  unfold State.claimBlock
  grind [keeps_updPkg, keeps_putBlock]

theorem keeps_pkgPut {a s : State} {a_ : Nat} {b : List Byte}
    (h : a.Keeps s) : a.Keeps (State.pkgPut s a_ b) := by
  unfold State.pkgPut
  refine keeps_updPkg_wf (keeps_foldl h fun u x hu => keeps_claimBlock hu) fun w => Memory.wf_write _ _ _ w

theorem keeps_setFlips {a s : State} {sec : Nat} {x : BitVec 288}
    (h : a.Keeps s) : a.Keeps (State.setFlips s sec x) := by
  unfold State.setFlips
  grind (splits := 40) (ematch := 40) (gen := 40) [keeps_updPkg]

theorem keeps_setPflips {a s : State} {pix : Nat} {x : BitVec 288}
    (h : a.Keeps s) : a.Keeps (State.setPflips s pix x) := by
  unfold State.setPflips
  grind (splits := 40) (ematch := 40) (gen := 40) [keeps_updPkg]

theorem keeps_turnBlock {a s : State} {blk : Nat} {x : List Byte}
    (h : a.Keeps s) : a.Keeps (State.turnBlock s blk x) := by
  unfold State.turnBlock
  grind (splits := 40) (ematch := 40) (gen := 40) [keeps_putBlock]

theorem keeps_absorb {a s : State} {sec : Nat} {x : BitVec 288}
    (h : a.Keeps s) : a.Keeps (State.absorb s sec x) := by
  unfold State.absorb
  grind (splits := 40) (ematch := 40) (gen := 40) [keeps_setFlips, keeps_setPflips, keeps_turnBlock]

theorem keeps_countCorrected {a s : State} {k : Nat}
    (h : a.Keeps s) : a.Keeps (State.countCorrected s k) := by
  unfold State.countCorrected
  grind (splits := 40) (ematch := 40) (gen := 40) [keeps_updStack]

theorem keeps_readOwn {a s : State} {sec : Nat}
    (h : a.Keeps s) {w : State} (e : (State.readOwn s sec) = some w) : a.Keeps w := by
  unfold State.readOwn at e
  grind (splits := 40) (ematch := 40) (gen := 40) [keeps_absorb, keeps_countCorrected]

theorem keeps_readParity {a s : State} {pix : Nat}
    (h : a.Keeps s) {w : State} (e : (State.readParity s pix) = some w) : a.Keeps w := by
  unfold State.readParity at e
  grind (splits := 40) (ematch := 40) (gen := 40) [keeps_countCorrected, keeps_setPflips]

theorem keeps_readMates {a s : State} {x0}
    (h : a.Keeps s) : a.Keeps (State.readMates s x0).2 := by
  induction x0 generalizing s with
  | nil => unfold State.readMates; grind (splits := 40) (ematch := 40) (gen := 40) [keeps_readOwn]
  | cons y r ih => unfold State.readMates; grind (splits := 40) (ematch := 40) (gen := 40) [keeps_readOwn]

theorem keeps_rebuild {a s t : State} {sec} (h : a.Keeps s)
    (e : s.rebuild sec = .done t ∨ (∃ q, s.rebuild sec = .data q t) ∨ s.rebuild sec = .parity t) : a.Keeps t := by
  have h1 : ∀ l, a.Keeps (s.readMates l).2 := fun l => keeps_readMates h
  unfold State.rebuild at e
  dsimp only at e
  grind (splits := 40) (ematch := 40) (gen := 40) [keeps_absorb, keeps_readParity]

theorem keeps_wait {a s : State} 
    (h : a.Keeps s) : a.Keeps (State.wait s) := by
  unfold State.wait
  grind (splits := 40) (ematch := 40) (gen := 40) [keeps_updPkg]

theorem keeps_landDelta {a s : State} {d : Delta}
    (h : a.Keeps s) : a.Keeps (State.landDelta s d) := by
  unfold State.landDelta
  grind (splits := 40) (ematch := 40) (gen := 40) [keeps_readParity, keeps_updStack]

theorem keeps_settle {a s : State} {p : Delta → Bool}
    (h : a.Keeps s) : a.Keeps (State.settle s p) := by
  unfold State.settle
  grind (splits := 40) (ematch := 40) (gen := 40) [keeps_foldl, keeps_foldl_snd, keeps_landDelta, keeps_updPkg, keeps_wait]

theorem keeps_settleOwn {a s : State} {pa : Nat}
    (h : a.Keeps s) : a.Keeps (State.settleOwn s pa) := by
  unfold State.settleOwn
  grind (splits := 40) (ematch := 40) (gen := 40) [keeps_settle]

theorem keeps_settledFrom {a s t : State} (h : a.Keeps t) : a.Keeps (s.settledFrom t) := by
  unfold State.settledFrom
  split
  · exact h
  · exact keeps_settle h

theorem keeps_rebuildFails {a s : State} {pa : Nat} {r : Rebuilt}
    (hr : ∀ t, r = .done t ∨ (∃ q, r = .data q t) ∨ r = .parity t → a.Keeps t) : a.Keeps (State.rebuildFails s pa r) := by
  unfold State.rebuildFails
  cases r with
  | done t => exact hr t (.inl rfl)
  | data q t => exact keeps_uncorrectableAt (hr t (.inr (.inl ⟨q, rfl⟩)))
  | parity t =>
    have ht := hr t (.inr (.inr rfl))
    dsimp only
    split
    · exact keeps_retire (keeps_updStack ht)
    · exact keeps_uncorrectableAt ht

theorem keeps_serve {a s : State} {pa : Nat}
    (h : a.Keeps s) : a.Keeps (State.serve s pa).2 := by
  have hf : a.Keeps (s.rebuildFails pa (s.rebuild (pa / 32))) := keeps_rebuildFails fun t e => keeps_rebuild h e
  unfold State.serve
  dsimp only
  repeat' split
  · rename_i e; exact keeps_rebuild h (.inl e)
  · exact hf
  · exact keeps_uncorrectableAt h
  · rename_i e; exact keeps_readOwn h e
  · rename_i e; exact keeps_countCorrected (keeps_rebuild h (.inl e))
  · exact hf
  · exact keeps_uncorrectableAt h

theorem keeps_readSec {a s : State} {pa : Nat} {n : Nat}
    (h : a.Keeps s) : a.Keeps (State.readSec s pa n).2 := by
  unfold State.readSec
  grind (splits := 40) (ematch := 40) (gen := 40) [keeps_serve, keeps_settleOwn, keeps_wait]

theorem keeps_store {a s : State} {pa : Nat} {b : List Byte}
    (h : a.Keeps s) : a.Keeps (State.store s pa b) := by
  unfold State.store
  grind (splits := 40) (ematch := 40) (gen := 40) [keeps_pkgPut, keeps_setFlips, keeps_setPflips, keeps_updPkg]

theorem keeps_readFirst {a s : State} {pa : Nat} {whole : Bool}
    (h : a.Keeps s) : a.Keeps (State.readFirst s pa whole).2 := by
  unfold State.readFirst
  grind (splits := 40) (ematch := 40) (gen := 40) [keeps_readMates, keeps_serve, keeps_uncorrectableAt]

theorem keeps_writeSec {a s : State} {pa : Nat} {b : List Byte}
    (h : a.Keeps s) : a.Keeps (State.writeSec s pa b).2 := by
  unfold State.writeSec
  grind (splits := 40) (ematch := 40) (gen := 40) [keeps_readFirst, keeps_settleOwn, keeps_store, keeps_wait]

theorem keeps_ownDeltas {a s : State} {k : Nat} {w : Option DeltaOwner}
    (h : a.Keeps s) : a.Keeps (State.ownDeltas s k w) := by
  unfold State.ownDeltas
  grind (splits := 40) (ematch := 40) (gen := 40) [keeps_updPkg]

theorem keeps_sentFrom {a s t : State} (h : a.Keeps t) : a.Keeps (s.sentFrom t) := by
  unfold State.sentFrom
  split
  · exact h
  · exact keeps_updPkg h rfl

theorem keeps_orHold {a s t : State} {c} (h : a.Keeps s) (ht : a.Keeps t) : a.Keeps (s.orHold c t) := by
  unfold State.orHold
  split
  · exact h
  · split
    · exact keeps_set_held h
    · exact keeps_sentFrom ht

theorem keeps_attempt {a s u t : State} {c} (h : a.Keeps s) (e : s.attempt c (.next u) = .next t) (hu : a.Keeps u) :
    a.Keeps t := by
  cases e
  exact keeps_orHold h hu

theorem keeps_attemptWhole {a s u t : State} {c} (h : a.Keeps s) (e : s.attemptWhole c (.next u) = .next t) (hu : a.Keeps u) :
    a.Keeps t := by
  cases e
  exact keeps_orHold h (keeps_settledFrom hu)

theorem keeps_orSkip {a s t : State} (h : a.Keeps s) (ht : a.Keeps t) : a.Keeps (s.orSkip t) := by
  unfold State.orSkip
  dsimp only
  split
  · exact h
  · exact keeps_sentFrom (keeps_settledFrom ht)

theorem keeps_bar {a s : State} 
    (h : a.Keeps s) : a.Keeps (State.bar s) := by
  unfold State.bar
  grind (splits := 40) (ematch := 40) (gen := 40) [keeps_updPkg]

theorem keeps_walkFrom {a s : State} {b : Option Nat} {m : Nat} {va : Nat} {x0 x1 x2}
    (h : a.Keeps s) : a.Keeps (State.walkFrom s b m va x0 x1 x2).2 := by
  induction x0 generalizing s x1 x2 with
  | zero => unfold State.walkFrom; grind (splits := 40) (ematch := 40) (gen := 40) [keeps_readSec, keeps_updBase]
  | succ fuel ih => unfold State.walkFrom; grind (splits := 40) (ematch := 40) (gen := 40) [keeps_readSec, keeps_updBase]

theorem keeps_walk {a s : State} {b : Option Nat} {m : Nat} {va : Nat}
    (h : a.Keeps s) : a.Keeps (State.walk s b m va).2 := by
  unfold State.walk
  grind (splits := 40) (ematch := 40) (gen := 40) [keeps_walkFrom]

theorem keeps_leafOf {a s : State} {n : Nat} {m : Nat} {va : Nat}
    (h : a.Keeps s) : a.Keeps (State.leafOf s n m va).2 := by
  unfold State.leafOf
  grind (splits := 40) (ematch := 40) (gen := 40) [keeps_updBase, keeps_updCore, keeps_walk]

theorem keeps_failOnLost {a : State} {n : Nat} {α : Type} {r : Res α} (h : a.Keeps r.2) : a.Keeps (failOnLost n r).2 := by
  obtain ⟨x, s⟩ := r
  cases x <;> simp only [failOnLost] <;> grind [keeps_failEpoch]

theorem keeps_vread {a s : State} {n : Nat} {m : Nat} {va : Nat} {k : Nat}
    (h : a.Keeps s) : a.Keeps (State.vread s n m va k).2 := by
  unfold State.vread
  grind (splits := 40) (ematch := 40) (gen := 40) [keeps_bar, keeps_failOnLost, keeps_leafOf, keeps_readSec]

theorem keeps_vreadN {a s : State} {n : Nat} {m : Nat} {x0 x1 x2}
    (h : a.Keeps s) : a.Keeps (State.vreadN s n m x0 x1 x2).2 := by
  induction x0 generalizing s x1 x2 with
  | zero => unfold State.vreadN; grind (splits := 40) (ematch := 40) (gen := 40) [keeps_vread]
  | succ fuel ih => unfold State.vreadN; grind (splits := 40) (ematch := 40) (gen := 40) [keeps_vread]

theorem keeps_ctxDirectory {a s : State} {n : Nat} {m : Nat}
    (h : a.Keeps s) : a.Keeps (State.ctxDirectory s n m).2 := by
  unfold State.ctxDirectory
  grind (splits := 40) (ematch := 40) (gen := 40) [keeps_updBase, keeps_vreadN]

theorem keeps_ctxLeaf {a s : State} {n : Nat} {m : Nat} {va : Nat} {write : Bool}
    (h : a.Keeps s) : a.Keeps (State.ctxLeaf s n m va write).2 := by
  unfold State.ctxLeaf
  grind (splits := 40) (ematch := 40) (gen := 40) [keeps_ctxDirectory, keeps_leafOf, keeps_updBase, keeps_vreadN]

theorem keeps_xlate {a s : State} {n : Nat} {m : Nat} {va : Nat} {write : Bool}
    (h : a.Keeps s) : a.Keeps (State.xlate s n m va write).2 := by
  unfold State.xlate
  grind (splits := 40) (ematch := 40) (gen := 40) [keeps_ctxLeaf, keeps_leafOf]

theorem keeps_engRead {a s : State} {n : Nat} {m : Nat} {va : Nat} {k : Nat}
    (h : a.Keeps s) : a.Keeps (State.engRead s n m va k).2 := by
  unfold State.engRead
  grind (splits := 40) (ematch := 40) (gen := 40) [keeps_bar, keeps_failOnLost, keeps_readSec, keeps_xlate]

theorem keeps_engWrite {a s : State} {n : Nat} {seq : Option Nat} {m : Nat} {va : Nat} {b : List Byte}
    (h : a.Keeps s) : a.Keeps (State.engWrite s n seq m va b).2 := by
  unfold State.engWrite
  grind (splits := 40) (ematch := 40) (gen := 40) [keeps_bar, keeps_failOnLost, keeps_ownDeltas, keeps_updCore, keeps_writeSec, keeps_xlate]

theorem keeps_gatherSector {a s : State} {n : Nat} {pa : Nat}
    (h : a.Keeps s) : a.Keeps (State.gatherSector s n pa).2 := by
  unfold State.gatherSector
  grind (splits := 40) (ematch := 40) (gen := 40) [keeps_readSec, keeps_updCore]

theorem keeps_gatherRead {a s : State} {n : Nat} {m : Nat} {va : Nat}
    (h : a.Keeps s) : a.Keeps (State.gatherRead s n m va).2 := by
  unfold State.gatherRead
  grind (splits := 40) (ematch := 40) (gen := 40) [keeps_bar, keeps_failOnLost, keeps_gatherSector, keeps_updCore, keeps_xlate]

theorem keeps_updPipe {a s : State} {n : Nat} {f : Pipe → Pipe}
    (h : a.Keeps s) : a.Keeps (State.updPipe s n f) := by
  unfold State.updPipe
  grind (splits := 40) (ematch := 40) (gen := 40) [keeps_set_pipes]

theorem keeps_mwalk {a s : State} {who : Option Nat} {m : Nat} {va : Nat}
    (h : a.Keeps s) : a.Keeps (State.mwalk s who m va).2 := by
  unfold State.mwalk
  grind (splits := 40) (ematch := 40) (gen := 40) [keeps_updPipe, keeps_walk]

theorem keeps_mread {a s : State} {who : Option Nat} {m : Nat} {x0 x1 x2}
    (h : a.Keeps s) : a.Keeps (State.mread s who m x0 x1 x2).2 := by
  induction x0 generalizing s x1 x2 with
  | zero => unfold State.mread; grind (splits := 40) (ematch := 40) (gen := 40) [keeps_mwalk, keeps_readSec]
  | succ fuel ih => unfold State.mread; grind (splits := 40) (ematch := 40) (gen := 40) [keeps_mwalk, keeps_readSec]

theorem keeps_frozenDrop {a s : State} {ms : List Nat} {pa : Nat} {agent : Nat}
    (h : a.Keeps s) : a.Keeps (State.frozenDrop s ms pa agent) := by
  unfold State.frozenDrop
  grind (splits := 40) (ematch := 40) (gen := 40) [keeps_foldl, keeps_foldl_snd, keeps_updMeadow]

theorem keeps_agentWrite {a s : State} {agent : Nat} {pa : Nat} {b : List Byte} {via : Option Nat}
    (h : a.Keeps s) : a.Keeps (State.agentWrite s agent pa b via) := by
  unfold State.agentWrite
  grind (splits := 40) (ematch := 40) (gen := 40) [keeps_frozenDrop, keeps_updPkg, keeps_writeSec]

theorem keeps_agentRead {a s : State} {pa : Nat} {k : Nat}
    (h : a.Keeps s) : a.Keeps (State.agentRead s pa k).2 := by
  unfold State.agentRead
  grind (splits := 40) (ematch := 40) (gen := 40) [keeps_readSec]

theorem keeps_mwrite {a s : State} {who : Option Nat} {agent : Nat} {m : Nat} {x0 x1 x2}
    (h : a.Keeps s) : a.Keeps (State.mwrite s who agent m x0 x1 x2).2 := by
  induction x0 generalizing s x1 x2 with
  | zero => unfold State.mwrite; grind (splits := 40) (ematch := 40) (gen := 40) [keeps_agentWrite, keeps_mwalk]
  | succ fuel ih => unfold State.mwrite; grind (splits := 40) (ematch := 40) (gen := 40) [keeps_agentWrite, keeps_mwalk]

theorem keeps_mreadAll {a s : State} {m : Nat} {va : Nat} {k : Nat}
    (h : a.Keeps s) : a.Keeps (State.mreadAll s m va k).2 := by
  unfold State.mreadAll
  grind (splits := 40) (ematch := 40) (gen := 40) [keeps_mread]

theorem keeps_mwriteAll {a s : State} {agent : Nat} {m : Nat} {va : Nat} {b : List Byte}
    (h : a.Keeps s) : a.Keeps (State.mwriteAll s agent m va b).2 := by
  unfold State.mwriteAll
  grind (splits := 40) (ematch := 40) (gen := 40) [keeps_mwrite]

theorem keeps_adv {a s : State} {n : Nat}
    (h : a.Keeps s) : a.Keeps (State.adv s n) := by
  unfold State.adv
  grind (splits := 40) (ematch := 40) (gen := 40) [keeps_coreFault, keeps_updCore]

theorem keeps_faultHere {a s : State} {n : Nat} {code : Half}
    (h : a.Keeps s) : a.Keeps (State.faultHere s n code) := by
  unfold State.faultHere
  grind (splits := 40) (ematch := 40) (gen := 40) [keeps_coreFault]

theorem keeps_result {a s : State} {n : Nat} {f : Fields} {x : Dword}
    (h : a.Keeps s) : a.Keeps (State.result s n f x) := by
  unfold State.result
  grind (splits := 40) (ematch := 40) (gen := 40) [keeps_adv, keeps_updCore]

theorem keeps_jump {a s : State} {n : Nat} {t : Nat}
    (h : a.Keeps s) : a.Keeps (State.jump s n t) := by
  unfold State.jump
  grind (splits := 40) (ematch := 40) (gen := 40) [keeps_updCore]

theorem keeps_sram {a s : State} {n : Nat} {e : Ecc} {k : State → State}
    (h : a.Keeps s) (hk : ∀ u, a.Keeps u → a.Keeps (k u)) : a.Keeps (State.sram s n e k) := by
  unfold State.sram
  grind (splits := 40) (ematch := 40) (gen := 40) [keeps_faultHere, keeps_updHub]

theorem keeps_hold {a s : State} {n : Nat} {op : HeldOp} {f : Fields}
    (h : a.Keeps s) : a.Keeps (State.hold s n op f) := by
  unfold State.hold
  grind (splits := 40) (ematch := 40) (gen := 40) [keeps_updCore]

theorem keeps_tick1 {a s : State} {n : Nat}
    (h : a.Keeps s) : a.Keeps (State.tick1 s n) := by
  unfold State.tick1
  grind (splits := 40) (ematch := 40) (gen := 40) [keeps_updCore]

theorem keeps_vlock {a s : State} {n : Nat} {op : HeldOp} {f : Fields} {k : State → State}
    (h : a.Keeps s) (hk : ∀ u, a.Keeps u → a.Keeps (k u)) : a.Keeps (State.vlock s n op f k) := by
  unfold State.vlock
  grind (splits := 40) (ematch := 40) (gen := 40) [keeps_hold]

theorem keeps_vldBody {a s : State} {n : Nat} {f : Fields}
    (h : a.Keeps s) : a.Keeps (vldBody n f s) := by
  unfold vldBody
  grind (splits := 40) (ematch := 40) (gen := 40) [keeps_adv, keeps_faultHere, keeps_updCore, keeps_vlock]

theorem keeps_vstBody {a s : State} {n : Nat} {f : Fields}
    (h : a.Keeps s) : a.Keeps (vstBody n f s) := by
  unfold vstBody
  grind (splits := 40) (ematch := 40) (gen := 40) [keeps_adv, keeps_faultHere, keeps_updCore, keeps_vlock]

theorem keeps_status {a s : State} {n : Nat} {f : Fields} {code : Half}
    (h : a.Keeps s) : a.Keeps (State.status s n f code) := by
  unfold State.status
  grind (splits := 40) (ematch := 40) (gen := 40) [keeps_result]

theorem keeps_release {a s : State} {n : Nat}
    (h : a.Keeps s) : a.Keeps (State.release s n) := by
  unfold State.release
  grind (splits := 40) (ematch := 40) (gen := 40) [keeps_updCore]

theorem keeps_waitBody {a s : State} {n : Nat} {f : Fields}
    (h : a.Keeps s) : a.Keeps (waitBody n f s) := by
  unfold waitBody
  grind (splits := 40) (ematch := 40) (gen := 40) [keeps_hold, keeps_release, keeps_status, keeps_tick1, keeps_updCore, keeps_wait]

theorem keeps_takeHead {a s : State} {n : Nat} {q : Nat}
    (h : a.Keeps s) : a.Keeps (State.takeHead s n q).2 := by
  unfold State.takeHead
  grind (splits := 40) (ematch := 40) (gen := 40) [keeps_updCore]

theorem keeps_recvBody {a s : State} {n : Nat} {f : Fields}
    (h : a.Keeps s) : a.Keeps (recvBody n f s) := by
  unfold recvBody
  grind (splits := 40) (ematch := 40) (gen := 40) [keeps_hold, keeps_release, keeps_status, keeps_takeHead, keeps_tick1, keeps_updCore, keeps_vlock]

theorem keeps_dropWalker {a s : State} {b : Nat}
    (h : a.Keeps s) : a.Keeps (State.dropWalker s b) := by
  unfold State.dropWalker
  grind (splits := 40) (ematch := 40) (gen := 40) [keeps_updBase]

theorem keeps_fenceBody {a s : State} {n : Nat} {f : Fields}
    (h : a.Keeps s) : a.Keeps (fenceBody n f s) := by
  unfold fenceBody
  grind (splits := 40) (ematch := 40) (gen := 40) [keeps_adv, keeps_dropWalker, keeps_hold, keeps_release, keeps_updCore]

theorem keeps_checkBoundary {a s : State} {m : Nat}
    (h : a.Keeps s) : a.Keeps (State.checkBoundary s m) := by
  unfold State.checkBoundary
  grind (splits := 40) (ematch := 40) (gen := 40) [keeps_updMeadow]

theorem keeps_epochEndBody {a s : State} {n : Nat} {f : Fields}
    (h : a.Keeps s) : a.Keeps (epochEndBody n f s) := by
  unfold epochEndBody
  grind (splits := 40) (ematch := 40) (gen := 40) [keeps_checkBoundary, keeps_hold, keeps_updCore]

theorem keeps_sendBody {a s : State} {n : Nat} {f : Fields}
    (h : a.Keeps s) : a.Keeps (sendBody n f s) := by
  unfold sendBody
  grind (splits := 40) (ematch := 40) (gen := 40) [keeps_release, keeps_status, keeps_tick1, keeps_updCore, keeps_vlock]

theorem keeps_boundBytes {a s : State} {n : Nat} {m : Nat} {x0 x1 x2}
    (h : a.Keeps s) : a.Keeps (State.boundBytes s n m x0 x1 x2).2 := by
  induction x0 generalizing s x1 x2 with
  | zero => unfold State.boundBytes; grind (splits := 40) (ematch := 40) (gen := 40) [keeps_readSec, keeps_xlate]
  | succ fuel ih => unfold State.boundBytes; grind (splits := 40) (ematch := 40) (gen := 40) [keeps_readSec, keeps_xlate]

theorem keeps_boundBlock {a s : State} {n : Nat} {m : Nat} {va : Nat}
    (h : a.Keeps s) : a.Keeps (State.boundBlock s n m va).2 := by
  unfold State.boundBlock
  grind (splits := 40) (ematch := 40) (gen := 40) [keeps_boundBytes]

theorem keeps_undoRead {a s t : State} (h : a.Keeps t) : a.Keeps (t.undoRead s) := by
  cases h; constructor <;> assumption

theorem keeps_mmResolve {a s : State} {n : Nat} {x : MMIssue}
    (h : a.Keeps s) : a.Keeps (mmResolve s n x).2 := by
  unfold mmResolve
  grind (splits := 40) (ematch := 40) (gen := 40) [keeps_boundBlock, keeps_undoRead]

theorem keeps_accept {a s : State} {n : Nat} {e : Nat} {f : Fields} {x : MMIssue} {ex : Nat × Nat × Nat}
    (h : a.Keeps s) : a.Keeps (State.accept s n e f x ex) := by
  unfold State.accept
  grind (splits := 40) (ematch := 40) (gen := 40) [keeps_release, keeps_status, keeps_updCore]

theorem keeps_issueBody {a s : State} {e : Nat} {op : HeldOp} {check : State → Nat → Line → Option Half} {n : Nat} {f : Fields}
    (h : a.Keeps s) : a.Keeps (issueBody e op check n f s) := by
  unfold issueBody
  grind (splits := 40) (ematch := 40) (gen := 40) [keeps_accept, keeps_hold, keeps_release, keeps_status]

theorem keeps_mmBody {a s : State} {n : Nat} {f : Fields}
    (h : a.Keeps s) : a.Keeps (mmBody n f s) := by
  unfold mmBody
  grind (splits := 40) (ematch := 40) (gen := 40) [keeps_accept, keeps_hold, keeps_mmResolve, keeps_release, keeps_status]

theorem keeps_vxBody {a s : State} {n f}
    (h : a.Keeps s) : a.Keeps (vxBody n f s) := by
  unfold vxBody
  grind (splits := 40) (ematch := 40) (gen := 40) [keeps_issueBody]

theorem keeps_sfBody {a s : State} {n f}
    (h : a.Keeps s) : a.Keeps (sfBody n f s) := by
  unfold sfBody
  grind (splits := 40) (ematch := 40) (gen := 40) [keeps_issueBody]

theorem keeps_cpBody {a s : State} {n f}
    (h : a.Keeps s) : a.Keeps (cpBody n f s) := by
  unfold cpBody
  grind (splits := 40) (ematch := 40) (gen := 40) [keeps_issueBody]

theorem keeps_gaBody {a s : State} {n f}
    (h : a.Keeps s) : a.Keeps (gaBody n f s) := by
  unfold gaBody
  grind (splits := 40) (ematch := 40) (gen := 40) [keeps_issueBody]

theorem keeps_nzBody {a s : State} {n f}
    (h : a.Keeps s) : a.Keeps (nzBody n f s) := by
  unfold nzBody
  grind (splits := 40) (ematch := 40) (gen := 40) [keeps_issueBody]

theorem keeps_resume {a s : State} {n : Nat}
    (h : a.Keeps s) : a.Keeps (State.resume s n) := by
  unfold State.resume
  grind (splits := 40) (ematch := 40) (gen := 40) [keeps_cpBody, keeps_epochEndBody, keeps_fenceBody, keeps_gaBody, keeps_mmBody, keeps_nzBody, keeps_recvBody, keeps_release, keeps_sendBody, keeps_sfBody, keeps_vldBody, keeps_vstBody, keeps_vxBody, keeps_wait, keeps_waitBody]

theorem keeps_tokenDone {a s : State} {n : Nat} {t : Nat} {code : Half}
    (h : a.Keeps s) : a.Keeps (State.tokenDone s n t code) := by
  unfold State.tokenDone
  grind (splits := 40) (ematch := 40) (gen := 40) [keeps_resume, keeps_updCore]

theorem keeps_complete {a s : State} {n : Nat} {e : Nat} {code : Half}
    (h : a.Keeps s) : a.Keeps (State.complete s n e code) := by
  unfold State.complete
  grind (splits := 40) (ematch := 40) (gen := 40) [keeps_tokenDone, keeps_updCore]

theorem keeps_putOp {a s : State} {n : Nat} {e : Nat} {o : EngOp}
    (h : a.Keeps s) : a.Keeps (State.putOp s n e o) := by
  unfold State.putOp
  grind (splits := 40) (ematch := 40) (gen := 40) [keeps_updCore]

theorem keeps_engReadN {a s : State} {n : Nat} {m : Nat} {x0 x1 x2}
    (h : a.Keeps s) : a.Keeps (State.engReadN s n m x0 x1 x2).2 := by
  induction x0 generalizing s x1 x2 with
  | zero => unfold State.engReadN; grind (splits := 40) (ematch := 40) (gen := 40) [keeps_engRead]
  | succ fuel ih => unfold State.engReadN; grind (splits := 40) (ematch := 40) (gen := 40) [keeps_engRead]

theorem keeps_engWriteN {a s : State} {n : Nat} {seq : Nat} {m : Nat} {x0 x1 x2}
    (h : a.Keeps s) : a.Keeps (State.engWriteN s n seq m x0 x1 x2).2 := by
  induction x0 generalizing s x1 x2 with
  | zero => unfold State.engWriteN; grind (splits := 40) (ematch := 40) (gen := 40) [keeps_engWrite]
  | succ fuel ih => unfold State.engWriteN; grind (splits := 40) (ematch := 40) (gen := 40) [keeps_engWrite]

theorem keeps_inFlight {a s : State} {space : Nat} (h : a.Keeps s) : a.Keeps (State.inFlight s space).2.2 := by
  unfold State.inFlight
  exact keeps_set_free h (Nat.le_add_right _ _)

theorem keeps_readsRest {a s : State} {n : Nat} {m : Nat} {x0}
    (h : a.Keeps s) : a.Keeps (State.readsRest s n m x0).2.2 := by
  induction x0 generalizing s with
  | nil => unfold State.readsRest; grind (splits := 40) (ematch := 40) (gen := 40) [keeps_engRead]
  | cons y r ih => unfold State.readsRest; grind (splits := 40) (ematch := 40) (gen := 40) [keeps_engRead]

theorem keeps_engReads {a s : State} {n : Nat} {m : Nat} {x0}
    (h : a.Keeps s) : a.Keeps (State.engReads s n m x0).2.2 := by
  induction x0 generalizing s with
  | nil => unfold State.engReads; grind (splits := 40) (ematch := 40) (gen := 40) [keeps_engRead, keeps_inFlight, keeps_readsRest]
  | cons y r ih => unfold State.engReads; grind (splits := 40) (ematch := 40) (gen := 40) [keeps_engRead, keeps_inFlight, keeps_readsRest]

theorem keeps_loadPieces {a s : State} {n : Nat} {m : Nat} {moss : Bool} {w : Win} {ps : List (Nat × Nat × Nat × Nat)}
    (h : a.Keeps s) : a.Keeps (State.loadPieces s n m moss w ps).2 := by
  unfold State.loadPieces
  grind (splits := 40) (ematch := 40) (gen := 40) [keeps_engReads, keeps_updCore]

theorem keeps_storePieces {a s : State} {n : Nat} {seq : Nat} {m : Nat} {x0}
    (h : a.Keeps s) : a.Keeps (State.storePieces s n seq m x0).2 := by
  induction x0 generalizing s with
  | nil => unfold State.storePieces; grind (splits := 40) (ematch := 40) (gen := 40) [keeps_engWriteN]
  | cons y r ih => unfold State.storePieces; grind (splits := 40) (ematch := 40) (gen := 40) [keeps_engWriteN]

theorem keeps_takeRelays {a s : State} {n : Nat} {p : Plan} {q : Nat} {x0}
    (h : a.Keeps s) : a.Keeps (State.takeRelays s n p q x0).2 := by
  induction x0 generalizing s with
  | zero => unfold State.takeRelays; grind (splits := 40) (ematch := 40) (gen := 40) [keeps_putOp, keeps_takeHead]
  | succ fuel ih => unfold State.takeRelays; grind (splits := 40) (ematch := 40) (gen := 40) [keeps_putOp, keeps_takeHead]

theorem keeps_updOp {a s : State} {n : Nat} {e : Nat} {f : EngOp → EngOp}
    (h : a.Keeps s) : a.Keeps (State.updOp s n e f) := by
  unfold State.updOp
  grind (splits := 40) (ematch := 40) (gen := 40) [keeps_putOp, keeps_updCore]

theorem keeps_pushNote {a s : State} {n : Nat} {dst : Nat} {q : Nat} {body : Line} {tok : Option Nat} {cp : Option Nat}
    (h : a.Keeps s) : a.Keeps (State.pushNote s n dst q body tok cp) := by
  unfold State.pushNote
  grind (splits := 40) (ematch := 40) (gen := 40) [keeps_updCore]

theorem keeps_pushCopy {a s : State} {n : Nat} {seq : Nat} {relay : Option Bool} {dst : Nat} {deep : Bool} {writes : List (Nat × List Byte)}
    (h : a.Keeps s) : a.Keeps (State.pushCopy s n seq relay dst deep writes) := by
  unfold State.pushCopy
  grind (splits := 40) (ematch := 40) (gen := 40) [keeps_updCore]

theorem keeps_pumpRelay {a s : State} {n : Nat} {isB : Bool} {x0}
    (h : a.Keeps s) : a.Keeps (State.pumpRelay s n isB x0) := by
  induction x0 generalizing s with
  | zero => unfold State.pumpRelay; grind (splits := 40) (ematch := 40) (gen := 40) [keeps_pushCopy, keeps_pushNote, keeps_putOp]
  | succ fuel ih => unfold State.pumpRelay; grind (splits := 40) (ematch := 40) (gen := 40) [keeps_pushCopy, keeps_pushNote, keeps_putOp]

theorem keeps_fetchT3 {a s : State} {n : Nat} {m : Nat} {q : POp} {isB : Bool} {k : Nat} {g : Nat} {b : Box}
    (h : a.Keeps s) : a.Keeps (State.fetchT3 s n m q isB k g b).2 := by
  unfold State.fetchT3
  grind (splits := 40) (ematch := 40) (gen := 40) [keeps_loadPieces]

theorem keeps_loadT3 {a s : State} {n : Nat} {m : Nat} {isB : Bool} {k : Nat} {g : Nat} {b : Box}
    (h : a.Keeps s) : a.Keeps (State.loadT3 s n m isB k g b).2 := by
  unfold State.loadT3
  grind (splits := 40) (ematch := 40) (gen := 40) [keeps_fetchT3, keeps_pumpRelay, keeps_putOp, keeps_wait]

theorem keeps_aheadT3 {a s : State} {n : Nat} {m : Nat} {isB : Bool}
    (h : a.Keeps s) : a.Keeps (State.aheadT3 s n m isB).2 := by
  unfold State.aheadT3
  grind (splits := 40) (ematch := 40) (gen := 40) [keeps_loadT3, keeps_wait]

theorem keeps_needT3 {a s : State} {n : Nat} {m : Nat} {o : EngOp} {isB : Bool} {x : PStep}
    (h : a.Keeps s) : a.Keeps (State.needT3 s n m o isB x).2 := by
  unfold State.needT3
  grind (splits := 40) (ematch := 40) (gen := 40) [keeps_aheadT3, keeps_loadT3, keeps_pumpRelay, keeps_putOp, keeps_updOp]

theorem keeps_firstLoads {a s : State} {n : Nat} {m : Nat}
    (h : a.Keeps s) : a.Keeps (State.firstLoads s n m) := by
  unfold State.firstLoads
  grind (splits := 40) (ematch := 40) (gen := 40) [keeps_fetchT3, keeps_foldl, keeps_foldl_snd, keeps_updCore]

theorem keeps_planEnd {a s : State} {n : Nat} {o : EngOp}
    (h : a.Keeps s) : a.Keeps (State.planEnd s n o).2 := by
  unfold State.planEnd
  grind (splits := 40) (ematch := 40) (gen := 40) [keeps_pumpRelay, keeps_putOp, keeps_wait]

theorem keeps_planTile {a s : State} {n : Nat} {o : EngOp} {prev : Option PStep} {x : PStep} {later : List PStep}
    (h : a.Keeps s) : a.Keeps (State.planTile s n o prev x later).2 := by
  unfold State.planTile
  grind (splits := 40) (ematch := 40) (gen := 40) [keeps_putOp, keeps_setCore, keeps_updCore]

theorem keeps_planPhase {a s : State} {n : Nat} {o : EngOp}
    (h : a.Keeps s) : a.Keeps (State.planPhase s n o).2 := by
  unfold State.planPhase
  grind (splits := 40) (ematch := 40) (gen := 40) [keeps_firstLoads, keeps_needT3, keeps_planEnd, keeps_planTile, keeps_putOp, keeps_storePieces]

theorem keeps_planRun {a s : State} {n : Nat} {x0}
    (h : a.Keeps s) : a.Keeps (State.planRun s n x0) := by
  induction x0 generalizing s with
  | zero => unfold State.planRun; grind (splits := 40) (ematch := 40) (gen := 40) [keeps_complete, keeps_planPhase, keeps_putOp, keeps_updCore, keeps_updOp, keeps_wait]
  | succ fuel ih => unfold State.planRun; grind (splits := 40) (ematch := 40) (gen := 40) [keeps_complete, keeps_planPhase, keeps_putOp, keeps_updCore, keeps_updOp, keeps_wait]

theorem keeps_planGo {a s : State} {n : Nat} {o : EngOp}
    (h : a.Keeps s) : a.Keeps (State.planGo s n o) := by
  unfold State.planGo
  have h1 := keeps_foldl_snd (l := relayQueues o.pop.p) (p := (false, s))
    (f := fun (r : Bool × State) q => if r.1 then r else r.2.takeRelays n o.pop.p q ((r.2.core n).ring q).count)
    h (fun u x hu => by split <;> grind [keeps_takeRelays])
  dsimp only at h1 ⊢
  split
  · exact keeps_complete h1
  · have h2 := keeps_updOp (n := n) (e := 1) (f := fun o => { o with waits := false }) h1
    have h3 := keeps_aheadT3 (n := n) (m := (s.meadowOf n).getD 0) (isB := false) h2
    split
    · rename_i e
      rw [e] at h3
      exact keeps_complete h3
    · rename_i e
      rw [e] at h3
      have h4 := keeps_aheadT3 (n := n) (m := (s.meadowOf n).getD 0) (isB := true) h3
      split
      · rename_i e
        rw [e] at h4
        exact keeps_complete h4
      · rename_i e
        rw [e] at h4
        exact keeps_planRun h4

theorem keeps_enterFeed {a s : State} {n : Nat} {i : Nat} {j : Nat}
    (h : a.Keeps s) : a.Keeps (State.enterFeed s n i j) := by
  unfold State.enterFeed
  grind (splits := 40) (ematch := 40) (gen := 40) [keeps_putOp, keeps_updCore]

theorem keeps_afterProducts {a s : State} {n : Nat}
    (h : a.Keeps s) : a.Keeps (State.afterProducts s n) := by
  unfold State.afterProducts
  grind (splits := 40) (ematch := 40) (gen := 40) [keeps_updOp]

theorem keeps_takeTiles {a s : State} {n : Nat} {x0}
    (h : a.Keeps s) : a.Keeps (State.takeTiles s n x0) := by
  induction x0 generalizing s with
  | zero => unfold State.takeTiles; grind (splits := 40) (ematch := 40) (gen := 40) [keeps_afterProducts, keeps_complete, keeps_enterFeed, keeps_takeHead, keeps_updCore, keeps_updOp]
  | succ fuel ih => unfold State.takeTiles; grind (splits := 40) (ematch := 40) (gen := 40) [keeps_afterProducts, keeps_complete, keeps_enterFeed, keeps_takeHead, keeps_updCore, keeps_updOp]

theorem keeps_arrayStart {a s : State} {n : Nat} {o : EngOp}
    (h : a.Keeps s) : a.Keeps (State.arrayStart s n o) := by
  unfold State.arrayStart
  grind (splits := 40) (ematch := 40) (gen := 40) [keeps_afterProducts, keeps_enterFeed, keeps_planGo, keeps_takeTiles, keeps_updCore]

theorem keeps_nextRows {a s : State} {n : Nat} {o : EngOp} {i : Nat}
    (h : a.Keeps s) : a.Keeps (State.nextRows s n o i) := by
  unfold State.nextRows
  grind (splits := 40) (ematch := 40) (gen := 40) [keeps_enterFeed, keeps_updOp]

theorem keeps_sweepEnd {a s : State} {n : Nat} {e : Nat} {o : EngOp}
    (h : a.Keeps s) : a.Keeps (State.sweepEnd s n e o) := by
  unfold State.sweepEnd
  grind (splits := 40) (ematch := 40) (gen := 40) [keeps_arrayStart, keeps_enterFeed, keeps_nextRows, keeps_planGo, keeps_updCore, keeps_updOp]

theorem keeps_sweepStep {a s : State} {n : Nat} {e : Nat} {o : EngOp} {sw : Sweep} {op : TOp} {f : TFields}
    (h : a.Keeps s) : a.Keeps (State.sweepStep s n e o sw op f) := by
  unfold State.sweepStep
  grind (splits := 40) (ematch := 40) (gen := 40) [keeps_sweepEnd, keeps_updCore, keeps_updOp]

theorem keeps_tile {a s : State} {n : Nat} {op : TOp} {f : TFields}
    (h : a.Keeps s) : a.Keeps (State.tile s n op f) := by
  unfold State.tile
  grind (splits := 40) (ematch := 40) (gen := 40) [keeps_sweepStep]

theorem keeps_runSweep {a s : State} {n : Nat} {e : Nat} {st : Stage} {x0}
    (h : a.Keeps s) : a.Keeps (State.runSweep s n e st x0) := by
  induction x0 generalizing s with
  | zero => unfold State.runSweep; grind (splits := 40) (ematch := 40) (gen := 40) [keeps_sweepStep]
  | succ fuel ih => unfold State.runSweep; grind (splits := 40) (ematch := 40) (gen := 40) [keeps_sweepStep]

theorem keeps_runSweeps {a s : State} {n : Nat} {e : Nat} {seq : Nat} {x0}
    (h : a.Keeps s) : a.Keeps (State.runSweeps s n e seq x0) := by
  induction x0 generalizing s with
  | zero => unfold State.runSweeps; grind (splits := 40) (ematch := 40) (gen := 40) [keeps_runSweep]
  | succ fuel ih => unfold State.runSweeps; grind (splits := 40) (ematch := 40) (gen := 40) [keeps_runSweep]

theorem keeps_startVector {a s : State} {n : Nat} {e : Nat} {o : EngOp}
    (h : a.Keeps s) : a.Keeps (State.startVector s n e o) := by
  unfold State.startVector
  grind (splits := 40) (ematch := 40) (gen := 40) [keeps_arrayStart, keeps_complete, keeps_putOp, keeps_updCore, keeps_updOp]

theorem keeps_finishVector {a s : State} {n : Nat} {e : Nat}
    (h : a.Keeps s) : a.Keeps (State.finishVector s n e) := by
  unfold State.finishVector
  grind (splits := 40) (ematch := 40) (gen := 40) [keeps_complete, keeps_planGo, keeps_runSweeps, keeps_startVector, keeps_updCore]

theorem keeps_freeBytes {a s : State} {k : Nat}
    (h : a.Keeps s) : a.Keeps (State.freeBytes s k).2 := by
  unfold State.freeBytes
  grind (splits := 40) (ematch := 40) (gen := 40) [keeps_set_free]

theorem keeps_cpRead {a s : State} {n : Nat} {m : Nat} {space : Nat} {a_ : Nat}
    (h : a.Keeps s) : a.Keeps (State.cpRead s n m space a_).2 := by
  unfold State.cpRead
  grind (splits := 40) (ematch := 40) (gen := 40) [keeps_engRead]

theorem keeps_cpWrite {a s : State} {n : Nat} {seq : Nat} {m : Nat} {space : Nat} {a_ : Nat} {b : List Byte}
    (h : a.Keeps s) : a.Keeps (State.cpWrite s n seq m space a_ b).2 := by
  unfold State.cpWrite
  grind (splits := 40) (ematch := 40) (gen := 40) [keeps_engWrite, keeps_updCore]

theorem keeps_cpBytes {a s : State} {n : Nat} {m : Nat} {sa : Nat} {free : Bool} {x : Nat}
    (h : a.Keeps s) : a.Keeps (State.cpBytes s n m sa free x).2 := by
  unfold State.cpBytes
  grind (splits := 40) (ematch := 40) (gen := 40) [keeps_cpRead, keeps_freeBytes]

theorem keeps_cpMove {a s : State} {n : Nat} {seq : Nat} {m : Nat} {sa : Nat} {sb : Nat} {free : Bool} {p : Nat × Nat}
    (h : a.Keeps s) : a.Keeps (State.cpMove s n seq m sa sb free p).2 := by
  unfold State.cpMove
  grind (splits := 40) (ematch := 40) (gen := 40) [keeps_cpBytes, keeps_cpWrite]

theorem keeps_cpRest {a s : State} {n : Nat} {seq : Nat} {m : Nat} {sa : Nat} {sb : Nat} {free : Bool} {x0}
    (h : a.Keeps s) : a.Keeps (State.cpRest s n seq m sa sb free x0).2 := by
  induction x0 generalizing s with
  | nil => unfold State.cpRest; grind (splits := 40) (ematch := 40) (gen := 40) [keeps_cpMove]
  | cons y r ih => unfold State.cpRest; grind (splits := 40) (ematch := 40) (gen := 40) [keeps_cpMove]

theorem keeps_cpLocal {a s : State} {n : Nat} {seq : Nat} {m : Nat} {sa : Nat} {sb : Nat} {free : Bool} {x0}
    (h : a.Keeps s) : a.Keeps (State.cpLocal s n seq m sa sb free x0).2 := by
  induction x0 generalizing s with
  | nil => unfold State.cpLocal; grind (splits := 40) (ematch := 40) (gen := 40) [keeps_cpMove, keeps_cpRest, keeps_inFlight]
  | cons y r ih => unfold State.cpLocal; grind (splits := 40) (ematch := 40) (gen := 40) [keeps_cpMove, keeps_cpRest, keeps_inFlight]

theorem keeps_cpGatherRest {a s : State} {n m sa : Nat} {free : Bool} {l} (h : a.Keeps s) :
    a.Keeps (State.cpGatherRest s n m sa free l).2.2 := by
  induction l generalizing s with
  | nil => unfold State.cpGatherRest; exact h
  | cons y r ih => unfold State.cpGatherRest; grind (splits := 40) (ematch := 40) (gen := 40) [keeps_cpBytes]

theorem keeps_cpGather {a s : State} {n : Nat} {m : Nat} {sa : Nat} {free : Bool} {x0}
    (h : a.Keeps s) : a.Keeps (State.cpGather s n m sa free x0).2.2 := by
  induction x0 generalizing s with
  | nil => unfold State.cpGather; grind (splits := 40) (ematch := 40) (gen := 40) [keeps_cpBytes, keeps_cpGatherRest, keeps_inFlight]
  | cons y r ih => unfold State.cpGather; grind (splits := 40) (ematch := 40) (gen := 40) [keeps_cpBytes, keeps_cpGatherRest, keeps_inFlight]

theorem keeps_updSeqOp {a s : State} {n : Nat} {e : Nat} {seq : Nat} {f : EngOp → EngOp}
    (h : a.Keeps s) : a.Keeps (State.updSeqOp s n e seq f) := by
  unfold State.updSeqOp
  grind (splits := 40) (ematch := 40) (gen := 40) [keeps_updCore]

theorem keeps_cpSend {a s : State} {n : Nat} {o : EngOp} {ws : List (Nat × List Byte)} {err : Half}
    (h : a.Keeps s) : a.Keeps (State.cpSend s n o ws err) := by
  unfold State.cpSend
  grind (splits := 40) (ematch := 40) (gen := 40) [keeps_pushCopy, keeps_updSeqOp]

theorem keeps_collect {a s : State} {n : Nat}
    (h : a.Keeps s) : a.Keeps (State.collect s n).2 := by
  unfold State.collect
  grind (splits := 40) (ematch := 40) (gen := 40) [keeps_updCore]

theorem keeps_startCopy {a s : State} {n : Nat} {o : EngOp}
    (h : a.Keeps s) : a.Keeps (State.startCopy s n o) := by
  unfold State.startCopy
  grind (splits := 40) (ematch := 40) (gen := 40) [keeps_collect, keeps_cpGather, keeps_cpSend, keeps_updSeqOp]

theorem keeps_submitLookup {a s : State} {n : Nat} {o : EngOp}
    (h : a.Keeps s) : a.Keeps (State.submitLookup s n o).2 := by
  unfold State.submitLookup
  grind (splits := 40) (ematch := 40) (gen := 40) [keeps_updBase, keeps_updCore]

theorem keeps_storeRow {a s : State} {n : Nat} {seq : Nat} {m : Nat} {space : Nat} {a_ : Nat} {r : List Byte}
    (h : a.Keeps s) : a.Keeps (State.storeRow s n seq m space a_ r).2 := by
  unfold State.storeRow
  grind (splits := 40) (ematch := 40) (gen := 40) [keeps_cpWrite]

theorem keeps_moveCopy {a s : State} {n : Nat} {o : EngOp}
    (h : a.Keeps s) : a.Keeps (State.moveCopy s n o) := by
  unfold State.moveCopy
  grind (splits := 40) (ematch := 40) (gen := 40) [keeps_collect, keeps_cpLocal, keeps_startCopy, keeps_storeRow, keeps_submitLookup, keeps_updSeqOp]

theorem keeps_endCopy {a s : State} {n : Nat}
    (h : a.Keeps s) : a.Keeps (State.endCopy s n) := by
  unfold State.endCopy
  grind (splits := 40) (ematch := 40) (gen := 40) [keeps_complete]

theorem keeps_finishCopy {a s : State} {n : Nat}
    (h : a.Keeps s) : a.Keeps (State.finishCopy s n) := by
  unfold State.finishCopy
  grind (splits := 40) (ematch := 40) (gen := 40) [keeps_complete, keeps_endCopy, keeps_moveCopy]

theorem keeps_aheadWalk {a s : State} {n : Nat} {m : Nat} {va : Nat}
    (h : a.Keeps s) : a.Keeps (State.aheadWalk s n m va) := by
  unfold State.aheadWalk
  grind (splits := 40) (ematch := 40) (gen := 40) [keeps_ctxLeaf, keeps_failOnLost, keeps_leafOf]

theorem keeps_aheadFetch {a s : State} {n : Nat} {m : Nat} {va : Nat} {i : Nat} {k : Nat} {landed : Bool}
    (h : a.Keeps s) : a.Keeps (State.aheadFetch s n m va i k landed) := by
  unfold State.aheadFetch
  grind (splits := 40) (ematch := 40) (gen := 40) [keeps_failOnLost, keeps_gatherSector, keeps_updCore, keeps_updOp]

theorem keeps_aheadAct {a s : State} {n : Nat} {m : Nat} {d : Line} {i : Nat} {x : Ahead}
    (h : a.Keeps s) : a.Keeps (State.aheadAct s n m d i x) := by
  unfold State.aheadAct
  grind (splits := 40) (ematch := 40) (gen := 40) [keeps_aheadFetch, keeps_aheadWalk, keeps_walk]

theorem keeps_runAhead {a s : State} {n : Nat} {m : Nat} {d : Line} {i : Nat} {l : List Ahead}
    (h : a.Keeps s) : a.Keeps (State.runAhead s n m d i l) := by
  unfold State.runAhead
  grind (splits := 40) (ematch := 40) (gen := 40) [keeps_aheadAct, keeps_foldl, keeps_foldl_snd]

theorem keeps_gaPages {a s : State} {n : Nat} {m : Nat} {a_ : Int} {x0}
    (h : a.Keeps s) : a.Keeps (State.gaPages s n m a_ x0).2 := by
  induction x0 generalizing s with
  | nil => unfold State.gaPages; grind (splits := 40) (ematch := 40) (gen := 40) [keeps_failOnLost, keeps_xlate]
  | cons y r ih => unfold State.gaPages; grind (splits := 40) (ematch := 40) (gen := 40) [keeps_failOnLost, keeps_xlate]

theorem keeps_takeFill {a s : State} {n : Nat} {f : Fill}
    (h : a.Keeps s) : a.Keeps (State.takeFill s n f).2 := by
  unfold State.takeFill
  grind (splits := 40) (ematch := 40) (gen := 40) [keeps_updCore, keeps_updOp]

theorem keeps_gaElem {a s : State} {n : Nat} {m : Nat} {i : Nat} {a_ : Int} {x0}
    (h : a.Keeps s) : a.Keeps (State.gaElem s n m i a_ x0).2 := by
  induction x0 generalizing s with
  | nil => unfold State.gaElem; grind (splits := 40) (ematch := 40) (gen := 40) [keeps_gatherRead, keeps_takeFill]
  | cons y r ih => unfold State.gaElem; grind (splits := 40) (ematch := 40) (gen := 40) [keeps_gatherRead, keeps_takeFill]

theorem keeps_gaRun {a s : State} {n : Nat} {m : Nat} {d : Line} {acts : List Ahead} {x0}
    (h : a.Keeps s) : a.Keeps (State.gaRun s n m d acts x0).2 := by
  induction x0 generalizing s with
  | nil => unfold State.gaRun; grind (splits := 40) (ematch := 40) (gen := 40) [keeps_gaElem, keeps_gaPages, keeps_runAhead, keeps_updCore]
  | cons y r ih => unfold State.gaRun; grind (splits := 40) (ematch := 40) (gen := 40) [keeps_gaElem, keeps_gaPages, keeps_runAhead, keeps_updCore]

theorem keeps_headStarted {a s : State} {n : Nat} {e : Nat}
    (h : a.Keeps s) {x u} (e : (State.headStarted s n e) = some (x, u)) : a.Keeps u := by
  unfold State.headStarted at e
  grind (splits := 40) (ematch := 40) (gen := 40) [keeps_putOp, keeps_updCore]

theorem keeps_startGather {a s : State} {n : Nat} {acts : List Ahead}
    (h : a.Keeps s) : a.Keeps (State.startGather s n acts) := by
  unfold State.startGather
  grind (splits := 40) (ematch := 40) (gen := 40) [keeps_headStarted, keeps_runAhead]

theorem keeps_countDrop {a s : State} {w : DropWhy}
    (h : a.Keeps s) : a.Keeps (State.countDrop s w) := by
  unfold State.countDrop
  grind (splits := 40) (ematch := 40) (gen := 40) [keeps_updHub]

theorem keeps_queueNote {a s : State} {n : Nat} {o : EngOp}
    (h : a.Keeps s) : a.Keeps (State.queueNote s n o) := by
  unfold State.queueNote
  grind (splits := 40) (ematch := 40) (gen := 40) [keeps_updCore, keeps_updSeqOp]

theorem keeps_examine {a s : State} {n : Nat} {m : Nat} {bucket : List Byte} {h_ : Nat} {parent : Nat} {len : Nat} {src : List Byte} {seen : Bool} {x0}
    (h : a.Keeps s) : a.Keeps (State.examine s n m bucket h_ parent len src seen x0).2 := by
  induction x0 generalizing s seen with
  | nil => unfold State.examine; grind
  | cons y r ih => unfold State.examine; grind (splits := 40) (ematch := 40) (gen := 40) [keeps_vreadN]

theorem keeps_lookup {a s : State} {n : Nat} {m : Nat} {req : List Byte}
    (h : a.Keeps s) : a.Keeps (State.lookup s n m req).2 := by
  unfold State.lookup
  grind (splits := 40) (ematch := 40) (gen := 40) [keeps_ctxDirectory, keeps_examine, keeps_freeBytes, keeps_vreadN]

theorem keeps_setMsgs {a s : State} {i : Iface} {w : List Msg} {u : List Msg}
    (h : a.Keeps s) : a.Keeps (State.setMsgs s i w u) := by
  unfold State.setMsgs
  grind (splits := 40) (ematch := 40) (gen := 40) [keeps_updCore, keeps_updHub]

theorem keeps_markMsg {a s : State} {i : Iface} {q : Nat} {was : MsgSt} {st : MsgSt}
    (h : a.Keeps s) : a.Keeps (State.markMsg s i q was st) := by
  unfold State.markMsg
  grind (splits := 40) (ematch := 40) (gen := 40) [keeps_setMsgs]

theorem keeps_offer {a s : State} {d : Nat}
    (h : a.Keeps s) : a.Keeps (State.offer s d) := by
  unfold State.offer
  grind (splits := 40) (ematch := 40) (gen := 40) [keeps_planGo, keeps_resume, keeps_takeTiles]

theorem keeps_noteDropped {a s : State} {m : Msg}
    (h : a.Keeps s) : a.Keeps (State.noteDropped s m) := by
  unfold State.noteDropped
  grind (splits := 40) (ematch := 40) (gen := 40) [keeps_set_pipes, keeps_set_trn]

theorem keeps_epochCode {a s : State} {m : Nat} {c : Half}
    (h : a.Keeps s) : a.Keeps (State.epochCode s m c) := by
  unfold State.epochCode
  grind (splits := 40) (ematch := 40) (gen := 40) [keeps_updMeadow]

theorem keeps_refuseWrite {a s : State} {p : Nat} {f : Nat} {c : Half} {off : Nat}
    (h : a.Keeps s) : a.Keeps (State.refuseWrite s p f c off) := by
  unfold State.refuseWrite
  grind (splits := 40) (ematch := 40) (gen := 40) [keeps_updFn]

theorem keeps_deny {a s : State} {p : Nat} {f : Nat} {bar : Bar} {off : Nat} {write : Bool} {untrusted : Bool}
    (h : a.Keeps s) : a.Keeps (State.deny s p f bar off write untrusted) := by
  unfold State.deny
  grind (splits := 40) (ematch := 40) (gen := 40) [keeps_bar, keeps_raise, keeps_updPort]

theorem keeps_hostRow {a s : State} {m : Nat} {off : Nat} {f : State → State}
    (h : a.Keeps s) (hk : ∀ u, a.Keeps u → a.Keeps (f u)) : a.Keeps (State.hostRow s m off f) := by
  unfold State.hostRow
  grind (splits := 40) (ematch := 40) (gen := 40) [keeps_deny]

theorem keeps_clearRing {a s : State} {m : Nat}
    (h : a.Keeps s) : a.Keeps (State.clearRing s m) := by
  unfold State.clearRing
  grind (splits := 40) (ematch := 40) (gen := 40) [keeps_foldl, keeps_foldl_snd, keeps_mwriteAll]

theorem keeps_openNow {a s : State} {m : Nat} {r : StepRegs} {host : Bool}
    (h : a.Keeps s) : a.Keeps (State.openNow s m r host) := by
  unfold State.openNow
  grind (splits := 40) (ematch := 40) (gen := 40) [keeps_clearRing, keeps_updCores, keeps_updMeadow]

theorem keeps_tryOpen {a s : State} {m : Nat}
    (h : a.Keeps s) : a.Keeps (State.tryOpen s m) := by
  unfold State.tryOpen
  grind (splits := 40) (ematch := 40) (gen := 40) [keeps_openNow, keeps_updMeadow]

theorem keeps_openTake {a s : State} {m : Nat} {c : Option Half}
    (h : a.Keeps s) : a.Keeps (State.openTake s m c) := by
  unfold State.openTake
  grind (splits := 40) (ematch := 40) (gen := 40) [keeps_epochCode, keeps_tryOpen, keeps_updMeadow]

theorem keeps_openWrite {a s : State} {m : Nat}
    (h : a.Keeps s) : a.Keeps (State.openWrite s m) := by
  unfold State.openWrite
  grind (splits := 40) (ematch := 40) (gen := 40) [keeps_openTake]

theorem keeps_beginSwitch {a s : State} {m : Nat} {next : Nat}
    (h : a.Keeps s) : a.Keeps (State.beginSwitch s m next) := by
  unfold State.beginSwitch
  grind (splits := 40) (ematch := 40) (gen := 40) [keeps_updMeadow]

theorem keeps_readyHook {a s : State} {m : Nat}
    (h : a.Keeps s) : a.Keeps (State.readyHook s m) := by
  unfold State.readyHook
  grind (splits := 40) (ematch := 40) (gen := 40) [keeps_beginSwitch]

theorem keeps_switchWrite {a s : State} {m : Nat} {next : Nat}
    (h : a.Keeps s) : a.Keeps (State.switchWrite s m next) := by
  unfold State.switchWrite
  grind (splits := 40) (ematch := 40) (gen := 40) [keeps_beginSwitch, keeps_epochCode, keeps_readyHook, keeps_updMeadow]

theorem keeps_epochControl {a s : State} {m : Nat} {v : Nat}
    (h : a.Keeps s) : a.Keeps (State.epochControl s m v) := by
  unfold State.epochControl
  grind (splits := 40) (ematch := 40) (gen := 40) [keeps_openTake, keeps_switchWrite, keeps_updMeadow]

theorem keeps_saveSectors {a s : State} {n : Nat} {m : Nat} {va : Nat} {deep : Bool} {x0}
    (h : a.Keeps s) : a.Keeps (State.saveSectors s n m va deep x0).2 := by
  induction x0 generalizing s with
  | nil => unfold State.saveSectors; grind (splits := 40) (ematch := 40) (gen := 40) [keeps_engWrite]
  | cons y r ih => unfold State.saveSectors; grind (splits := 40) (ematch := 40) (gen := 40) [keeps_engWrite]

theorem keeps_loadSectors {a s : State} {n : Nat} {m : Nat} {va : Nat} {deep : Bool} {x0}
    (h : a.Keeps s) : a.Keeps (State.loadSectors s n m va deep x0).2 := by
  induction x0 generalizing s with
  | nil => unfold State.loadSectors; grind (splits := 40) (ematch := 40) (gen := 40) [keeps_engRead, keeps_updCore]
  | cons y r ih => unfold State.loadSectors; grind (splits := 40) (ematch := 40) (gen := 40) [keeps_engRead, keeps_updCore]

theorem keeps_saveJob {a s : State} {m : Nat} {area : Nat} {ns : List Nat} {ds : List Nat} {x0 x1}
    (h : a.Keeps s) : a.Keeps (State.saveJob s m area ns ds x0 x1).2 := by
  induction x1 generalizing s x0 with
  | nil => unfold State.saveJob; grind (splits := 40) (ematch := 40) (gen := 40) [keeps_saveSectors]
  | cons y r ih => unfold State.saveJob; grind (splits := 40) (ematch := 40) (gen := 40) [keeps_saveSectors]

theorem keeps_engBytes {a s : State} {n : Nat} {m : Nat} {x0 x1 x2}
    (h : a.Keeps s) : a.Keeps (State.engBytes s n m x0 x1 x2).2 := by
  induction x0 generalizing s x1 x2 with
  | zero => unfold State.engBytes; grind (splits := 40) (ematch := 40) (gen := 40) [keeps_engRead]
  | succ fuel ih => unfold State.engBytes; grind (splits := 40) (ematch := 40) (gen := 40) [keeps_engRead]

theorem keeps_loadJob {a s : State} {m : Nat} {table : Nat} {area : Nat} {job : Nat} {ns : List Nat} {ds : List Nat} {x0 x1 x2}
    (h : a.Keeps s) : a.Keeps (State.loadJob s m table area job ns ds x0 x1 x2).2 := by
  induction x1 generalizing s x0 x2 with
  | nil => unfold State.loadJob; exact h
  | cons y r ih =>
    unfold State.loadJob
    have h1 := keeps_loadSectors (n := y) (m := m) (va := area + 2 ^ 19 * x0) (deep := false) (x0 := ns) h
    dsimp only
    split
    · simp_all
    · rename_i t e1
      rw [e1] at h1
      have h2 := keeps_loadSectors (n := y) (m := m) (va := area + 2 ^ 19 * x0 + 2 ^ 17) (deep := true) (x0 := ds) h1
      split
      · simp_all
      · rename_i t2 e2
        rw [e2] at h2
        have h3 := keeps_engBytes (n := y) (m := m) (x0 := 1) (x1 := table + 8 * x0) (x2 := 8) h2
        split
        · simp_all
        · rename_i b t3 e3
          rw [e3] at h3
          split
          · exact h3
          · have h4 := keeps_engBytes (n := y) (m := m) (x0 := bitsOf (bytesToNat b) 60 48 / 4 + 1)
              (x1 := bitsOf (bytesToNat b) 47 0) (x2 := 8 * bitsOf (bytesToNat b) 60 48) h3
            split
            · simp_all
            · rename_i b4 t4 e4
              rw [e4] at h4
              exact ih (keeps_updCore h4)

theorem keeps_endSwitch {a s : State} {m : Nat} {back : MState}
    (h : a.Keeps s) : a.Keeps (State.endSwitch s m back) := by
  unfold State.endSwitch
  grind (splits := 40) (ematch := 40) (gen := 40) [keeps_raiseM, keeps_readyHook, keeps_updMeadow]

theorem keeps_boundaryClear {a s : State} {m : Nat}
    (h : a.Keeps s) : a.Keeps (State.boundaryClear s m) := by
  unfold State.boundaryClear
  grind (splits := 40) (ematch := 40) (gen := 40) [keeps_foldl, keeps_foldl_snd, keeps_noteDropped, keeps_updBases, keeps_updCores, keeps_updHub, keeps_updMeadow]

theorem keeps_recordStep {a s : State} {m : Nat}
    (h : a.Keeps s) : a.Keeps (State.recordStep s m) := by
  unfold State.recordStep
  grind (splits := 40) (ematch := 40) (gen := 40) [keeps_raiseM, keeps_updMeadow]

theorem keeps_afterBoundary {a s : State} {m : Nat}
    (h : a.Keeps s) : a.Keeps (State.afterBoundary s m) := by
  unfold State.afterBoundary
  grind (splits := 40) (ematch := 40) (gen := 40) [keeps_beginSwitch, keeps_raiseM, keeps_updMeadow]

theorem keeps_endRepair {a s : State} {m : Nat}
    (h : a.Keeps s) : a.Keeps (State.endRepair s m) := by
  unfold State.endRepair
  grind (splits := 40) (ematch := 40) (gen := 40) [keeps_updSxt]

theorem keeps_restartEpoch {a s : State} {m : Nat}
    (h : a.Keeps s) : a.Keeps (State.restartEpoch s m) := by
  unfold State.restartEpoch
  grind (splits := 40) (ematch := 40) (gen := 40) [keeps_readyHook, keeps_updCores, keeps_updMeadow]

theorem keeps_decideReplay {a s : State} {m : Nat}
    (h : a.Keeps s) : a.Keeps (State.decideReplay s m) := by
  unfold State.decideReplay
  grind (splits := 40) (ematch := 40) (gen := 40) [keeps_raiseM, keeps_restartEpoch, keeps_updMeadow]

theorem keeps_drainEnd {a s : State} {m : Nat}
    (h : a.Keeps s) : a.Keeps (State.drainEnd s m) := by
  unfold State.drainEnd
  grind (splits := 40) (ematch := 40) (gen := 40) [keeps_afterBoundary, keeps_boundaryClear, keeps_decideReplay, keeps_endRepair, keeps_foldl, keeps_foldl_snd, keeps_recordStep, keeps_updBase, keeps_updMeadow]

theorem keeps_seqStart {a s : State} {m : Nat} {j : Nat}
    (h : a.Keeps s) : a.Keeps (State.seqStart s m j) := by
  unfold State.seqStart
  grind (splits := 40) (ematch := 40) (gen := 40) [keeps_refuseWrite, keeps_updMeadow]

theorem keeps_readEntry {a s : State} {m : Nat} {j : Nat} {i : Nat}
    (h : a.Keeps s) : a.Keeps (State.readEntry s m j i).2 := by
  unfold State.readEntry
  grind (splits := 40) (ematch := 40) (gen := 40) [keeps_mreadAll]

theorem keeps_burnLife {a s : State} 
    (h : a.Keeps s) : a.Keeps (State.burnLife s) := by
  obtain ⟨h1, h2, h3, h4, h5, h6, h7, h8, h9⟩ := h
  exact ⟨h1, h2, h3, h4, h5, fun i hi => by simp [State.burnLife, State.updSxt, h6 i hi], h7, h8, h9⟩

theorem keeps_journal {a s : State} {g : Guard}
    (h : a.Keeps s) : a.Keeps (State.journal s g) := by
  obtain ⟨h1, h2, h3, h4, h5, h6, h7, h8, h9⟩ := h
  exact ⟨h1, h2, h3, h4, h5, h6, h7, h8, h9.trans (List.prefix_append _ _)⟩

theorem keeps_freshKey {a s : State} {slot : Nat}
    (h : a.Keeps s) : a.Keeps (State.freshKey s slot) := by
  unfold State.freshKey
  grind (splits := 40) (ematch := 40) (gen := 40) [keeps_fresh, keeps_updPkg]

theorem keeps_random128 {a s : State} 
    (h : a.Keeps s) : a.Keeps (State.random128 s).2 := by
  unfold State.random128
  grind (splits := 40) (ematch := 40) (gen := 40) [keeps_freeBytes]

theorem keeps_freshTree {a s : State} {i : Nat}
    (h : a.Keeps s) : a.Keeps (State.freshTree s i) := by
  unfold State.freshTree
  grind (splits := 40) (ematch := 40) (gen := 40) [keeps_freeBytes, keeps_updSxt]

theorem keeps_identitySign {a s t : State} {msg b} (h : a.Keeps s) (e : s.identitySign msg = .ok (b, t)) : a.Keeps t := by
  unfold State.identitySign at e
  grind [keeps_updSxt, keeps_freeBytes]

end Sys2Proof.Machine
end

