-- ==== Sys2Proof/Laws/KeepsUnits.lean ====
section
/-!
SUPPORT. What every operation of streams, Swarm, the transport port and Cicada keeps.
-/

namespace Sys2Proof.Machine

open Sys2Proof

set_option Elab.async false

theorem keeps_cutSite {a s : State} {before : Sparse Bool} {site : Nat}
    (h : a.Keeps s) : a.Keeps (cutSite before s site) := by
  unfold cutSite
  grind (splits := 40) (ematch := 40) (gen := 40) [keeps_set_heath]

theorem keeps_qApply {a s : State} {r : QRec}
    (h : a.Keeps s) : a.Keeps (qApply s r) := by
  unfold qApply
  dsimp only
  split
  case h_4 => exact keeps_settings (p := { s.pkg with parity := bitOf (r.w 0) 16 }) h rfl
  all_goals grind [keeps_set_heath, keeps_updMeadow, keeps_foldl, keeps_cutSite]

theorem keeps_qRecords {a s u : State} {x last seen l} (h : a.Keeps s) (e : qRecords x last seen s l = .ok u) :
    a.Keeps u := by
  induction l generalizing x last seen s with
  | nil => unfold qRecords at e; grind
  | cons r l ih => unfold qRecords at e; grind (splits := 40) [keeps_qApply]

theorem keeps_fillRows {a s : State} {recs : List QRec}
    (h : a.Keeps s) : a.Keeps (fillRows s recs) := by
  unfold fillRows
  grind (splits := 40) (ematch := 40) (gen := 40) [keeps_foldl, keeps_foldl_snd, keeps_set_heath, keeps_updBase]

theorem keeps_blankSettings {a s : State} 
    (h : a.Keeps s) : a.Keeps (State.blankSettings s) := by
  exact keeps_settings (p := { s.pkg with parity := false }) h rfl

theorem keeps_applyAgain {a s : State} {b : List Byte}
    (h : a.Keeps s) : a.Keeps (State.applyAgain s b) := by
  unfold State.applyAgain
  grind (splits := 40) (ematch := 40) (gen := 40) [keeps_blankSettings, keeps_foldl, keeps_foldl_snd, keeps_qApply, keeps_set_heath]

theorem keeps_reapply {a s : State} 
    (h : a.Keeps s) : a.Keeps (State.reapply s) := by
  unfold State.reapply
  grind (splits := 40) (ematch := 40) (gen := 40) [keeps_applyAgain, keeps_foldl, keeps_foldl_snd, keeps_set_heath]

theorem keeps_hubNote {a s : State} {core : Nat} {queue : Nat} {u : NoteOf} {payload : List Byte}
    (h : a.Keeps s) {w : State} (e : (State.hubNote s core queue u payload) = some w) : a.Keeps w := by
  unfold State.hubNote at e
  grind (splits := 40) (ematch := 40) (gen := 40) [keeps_updHub]

theorem keeps_tryNote {a s : State} {core : Nat} {queue : Nat} {u : NoteOf} {payload : List Byte}
    (h : a.Keeps s) : a.Keeps (State.tryNote s core queue u payload) := by
  unfold State.tryNote
  cases e : s.hubNote core queue u payload
  · exact h
  · exact keeps_hubNote h e

theorem keeps_physWrite {a s : State} {agent : Nat} {x0 x1 x2}
    (h : a.Keeps s) : a.Keeps (State.physWrite s agent x0 x1 x2) := by
  induction x0 generalizing s x1 x2 with
  | zero => unfold State.physWrite; grind (splits := 40) (ematch := 40) (gen := 40) [keeps_agentWrite]
  | succ fuel ih => unfold State.physWrite; grind (splits := 40) (ematch := 40) (gen := 40) [keeps_agentWrite]

theorem keeps_physPut {a s : State} {agent : Nat} {pa : Nat} {b : List Byte}
    (h : a.Keeps s) : a.Keeps (State.physPut s agent pa b) := by
  unfold State.physPut
  grind (splits := 40) (ematch := 40) (gen := 40) [keeps_physWrite]

theorem keeps_physRead {a s : State} {x0 x1 x2}
    (h : a.Keeps s) : a.Keeps (State.physRead s x0 x1 x2).2 := by
  induction x0 generalizing s x1 x2 with
  | zero => unfold State.physRead; grind (splits := 40) (ematch := 40) (gen := 40) [keeps_agentRead]
  | succ fuel ih => unfold State.physRead; grind (splits := 40) (ematch := 40) (gen := 40) [keeps_agentRead]

theorem keeps_physGet {a s : State} {pa : Nat} {k : Nat}
    (h : a.Keeps s) : a.Keeps (State.physGet s pa k).2 := by
  unfold State.physGet
  grind (splits := 40) (ematch := 40) (gen := 40) [keeps_physRead]

theorem keeps_updSw {a s : State} {n : Nat} {f : SwLink → SwLink}
    (h : a.Keeps s) : a.Keeps (State.updSw s n f) := by
  unfold State.updSw
  grind (splits := 40) (ematch := 40) (gen := 40) [keeps_set_swarm]

theorem keeps_swControl {a s : State} {c : SwCtl}
    (h : a.Keeps s) : a.Keeps (State.swControl s c) := by
  unfold State.swControl
  grind (splits := 40) (ematch := 40) (gen := 40) [keeps_emit, keeps_updSw]

theorem keeps_collectiveDone {a s : State} {m : Nat} {code : Half}
    (h : a.Keeps s) : a.Keeps (State.collectiveDone s m code) := by
  unfold State.collectiveDone
  grind (splits := 40) (ematch := 40) (gen := 40) [keeps_failEpoch, keeps_mwriteAll, keeps_raiseM, keeps_tryNote, keeps_updMeadow]

theorem keeps_collectiveFails {a s : State} {m : Nat} {code : Half}
    (h : a.Keeps s) : a.Keeps (State.collectiveFails s m code) := by
  unfold State.collectiveFails
  grind (splits := 40) (ematch := 40) (gen := 40) [keeps_collectiveDone, keeps_foldl, keeps_foldl_snd, keeps_freeBytes, keeps_mwriteAll, keeps_swControl]

theorem keeps_swAdvance {a s : State} {m : Nat} {x0}
    (h : a.Keeps s) : a.Keeps (State.swAdvance s m x0) := by
  induction x0 generalizing s with
  | zero => unfold State.swAdvance; grind (splits := 40) (ematch := 40) (gen := 40) [keeps_collectiveDone, keeps_collectiveFails, keeps_foldl, keeps_foldl_snd, keeps_swControl, keeps_updMeadow]
  | succ fuel ih => unfold State.swAdvance; grind (splits := 40) (ematch := 40) (gen := 40) [keeps_collectiveDone, keeps_collectiveFails, keeps_foldl, keeps_foldl_snd, keeps_swControl, keeps_updMeadow]

theorem keeps_swNext {a s : State} {m : Nat}
    (h : a.Keeps s) : a.Keeps (State.swNext s m) := by
  unfold State.swNext
  grind (splits := 40) (ematch := 40) (gen := 40) [keeps_swAdvance]

theorem keeps_swRebuild {a s : State} 
    (h : a.Keeps s) : a.Keeps (State.swRebuild s) := by
  unfold State.swRebuild
  grind (splits := 40) (ematch := 40) (gen := 40) [keeps_emit, keeps_foldl, keeps_foldl_snd, keeps_swNext]

theorem keeps_swEmit {a s : State} {n : Nat} {u : SwOut}
    (h : a.Keeps s) : a.Keeps (State.swEmit s n u) := by
  unfold State.swEmit
  grind (splits := 40) (ematch := 40) (gen := 40) [keeps_emit]

theorem keeps_swSend {a s : State} {n : Nat} {h_ : SwHead} {b : List Byte}
    (h : a.Keeps s) : a.Keeps (State.swSend s n h_ b) := by
  unfold State.swSend
  grind (splits := 40) (ematch := 40) (gen := 40) [keeps_swEmit, keeps_updSw]

theorem keeps_swForward {a s : State} {h_ : SwHead} {b : List Byte}
    (h : a.Keeps s) : a.Keeps (State.swForward s h_ b) := by
  unfold State.swForward
  grind (splits := 40) (ematch := 40) (gen := 40) [keeps_swSend]

theorem keeps_swSendTo {a s : State} {k : SwKey} {d : Nat} {b : List Byte}
    (h : a.Keeps s) : a.Keeps (State.swSendTo s k d b) := by
  unfold State.swSendTo
  grind (splits := 40) (ematch := 40) (gen := 40) [keeps_foldl, keeps_foldl_snd, keeps_swForward]

theorem keeps_collectiveSend {a s : State} {m : Nat} {k : SwTaken}
    (h : a.Keeps s) : a.Keeps (State.collectiveSend s m k) := by
  unfold State.collectiveSend
  grind (splits := 40) (ematch := 40) (gen := 40) [keeps_collectiveDone, keeps_collectiveFails, keeps_foldl, keeps_foldl_snd, keeps_mreadAll, keeps_swNext, keeps_swSendTo, keeps_updMeadow]

theorem keeps_collectiveEnd {a s : State} {m : Nat}
    (h : a.Keeps s) : a.Keeps (State.collectiveEnd s m) := by
  unfold State.collectiveEnd
  grind (splits := 40) (ematch := 40) (gen := 40) [keeps_collectiveDone, keeps_mwriteAll, keeps_swNext]

theorem keeps_swRetrain {a s : State} {n : Nat}
    (h : a.Keeps s) : a.Keeps (State.swRetrain s n) := by
  unfold State.swRetrain
  grind (splits := 40) (ematch := 40) (gen := 40) [keeps_swRebuild, keeps_updSw]

theorem keeps_swTrained {a s : State} {n : Nat} {t : Training}
    (h : a.Keeps s) : a.Keeps (State.swTrained s n t) := by
  unfold State.swTrained
  grind (splits := 40) (ematch := 40) (gen := 40) [keeps_updSw]

theorem keeps_toStep8 {a s : State} 
    (h : a.Keeps s) : a.Keeps (State.toStep8 s) := by
  unfold State.toStep8
  grind (splits := 40) (ematch := 40) (gen := 40) [keeps_set_bist, keeps_set_heath, keeps_updSxt]

theorem keeps_failPeer {a s : State} {d : Nat}
    (h : a.Keeps s) : a.Keeps (State.failPeer s d) := by
  unfold State.failPeer
  grind (splits := 40) (ematch := 40) (gen := 40) [keeps_foldl, keeps_foldl_snd, keeps_swNext, keeps_updMeadow]

theorem keeps_swResend {a s : State} {n : Nat}
    (h : a.Keeps s) : a.Keeps (State.swResend s n) := by
  unfold State.swResend
  grind (splits := 40) (ematch := 40) (gen := 40) [keeps_emit, keeps_foldl, keeps_foldl_snd, keeps_swControl, keeps_swEmit, keeps_updSw]

theorem keeps_swDeliver {a s : State} {h_ : SwHead} {b : List Byte}
    (h : a.Keeps s) : a.Keeps (State.swDeliver s h_ b) := by
  unfold State.swDeliver
  grind (splits := 40) (ematch := 40) (gen := 40) [keeps_swForward, keeps_updMeadow]

theorem keeps_swRingWrite {a s : State} {m : Nat} {v : Dword}
    (h : a.Keeps s) : a.Keeps (State.swRingWrite s m v) := by
  unfold State.swRingWrite
  grind (splits := 40) (ematch := 40) (gen := 40) [keeps_refuseWrite, keeps_updMeadow]

theorem keeps_swStart {a s : State} 
    (h : a.Keeps s) : a.Keeps (State.swStart s) := by
  unfold State.swStart
  grind (splits := 40) (ematch := 40) (gen := 40) [keeps_foldl, keeps_foldl_snd, keeps_updSw]

theorem keeps_swApply {a s : State} 
    (h : a.Keeps s) : a.Keeps (State.swApply s) := by
  unfold State.swApply
  grind (splits := 40) (ematch := 40) (gen := 40) [keeps_foldl, keeps_foldl_snd, keeps_updSw]

theorem keeps_updTrn {a s : State} {f : Trn → Trn}
    (h : a.Keeps s) : a.Keeps (State.updTrn s f) := by
  unfold State.updTrn
  grind (splits := 40) (ematch := 40) (gen := 40) [keeps_set_trn]

theorem keeps_rxDrop {a s : State} 
    (h : a.Keeps s) : a.Keeps (State.rxDrop s) := by
  unfold State.rxDrop
  grind (splits := 40) (ematch := 40) (gen := 40) [keeps_updTrn]

theorem keeps_ringPut {a s : State} {a_ : Nat} {b : List Byte}
    (h : a.Keeps s) : a.Keeps (State.ringPut s a_ b) := by
  unfold State.ringPut
  grind (splits := 40) (ematch := 40) (gen := 40) [keeps_physPut]

theorem keeps_readHostCount {a s : State} 
    (h : a.Keeps s) : a.Keeps (State.readHostCount s) := by
  unfold State.readHostCount
  grind (splits := 40) (ematch := 40) (gen := 40) [keeps_physGet, keeps_updTrn]

theorem keeps_raisePortCount {a s : State} 
    (h : a.Keeps s) : a.Keeps (State.raisePortCount s) := by
  unfold State.raisePortCount
  grind (splits := 40) (ematch := 40) (gen := 40) [keeps_ringPut, keeps_updTrn]

theorem keeps_frameNote {a s : State} {frame : Nat} {slot : Nat} {flags : Nat} {missing : Nat}
    (h : a.Keeps s) : a.Keeps (State.frameNote s frame slot flags missing) := by
  unfold State.frameNote
  grind (splits := 40) (ematch := 40) (gen := 40) [keeps_hubNote, keeps_updTrn]

theorem keeps_mmpSend {a s : State} {type : Nat} {session : Nat} {ack : Nat} {pay : List Byte}
    (h : a.Keeps s) : a.Keeps (State.mmpSend s type session ack pay) := by
  unfold State.mmpSend
  grind (splits := 40) (ematch := 40) (gen := 40) [keeps_emit, keeps_updTrn]

theorem keeps_mmp {a s : State} {type : Nat} {pay : List Byte}
    (h : a.Keeps s) : a.Keeps (State.mmp s type pay) := by
  unfold State.mmp
  grind (splits := 40) (ematch := 40) (gen := 40) [keeps_mmpSend]

theorem keeps_register {a s : State} {l : Nat} {h_ : MmpHdr}
    (h : a.Keeps s) {w : State} (e : (State.register s l h_) = some w) : a.Keeps w := by
  unfold State.register at e
  grind (splits := 40) (ematch := 40) (gen := 40) [keeps_updTrn]

theorem keeps_onMessage {a s : State} {l : Nat} {h_ : MmpHdr} {f : State → State}
    (h : a.Keeps s) (hk : ∀ u, a.Keeps u → a.Keeps (f u)) : a.Keeps (State.onMessage s l h_ f) := by
  unfold State.onMessage
  grind (splits := 40) (ematch := 40) (gen := 40) [keeps_register, keeps_rxDrop]

theorem keeps_finishFrame {a s : State} {f : TrnFrame}
    (h : a.Keeps s) : a.Keeps (State.finishFrame s f) := by
  unfold State.finishFrame
  grind (splits := 40) (ematch := 40) (gen := 40) [keeps_frameNote, keeps_raisePortCount, keeps_ringPut, keeps_updTrn]

theorem keeps_finishAll {a s : State} 
    (h : a.Keeps s) : a.Keeps (State.finishAll s) := by
  unfold State.finishAll
  grind (splits := 40) (ematch := 40) (gen := 40) [keeps_finishFrame, keeps_foldl, keeps_foldl_snd]

theorem keeps_finishClosed {a s : State} 
    (h : a.Keeps s) : a.Keeps (State.finishClosed s) := by
  unfold State.finishClosed
  grind (splits := 40) (ematch := 40) (gen := 40) [keeps_finishFrame, keeps_foldl, keeps_foldl_snd]

theorem keeps_endSession {a s : State} {code : Half}
    (h : a.Keeps s) : a.Keeps (State.endSession s code) := by
  unfold State.endSession
  grind (splits := 40) (ematch := 40) (gen := 40) [keeps_finishAll, keeps_updTrn]

theorem keeps_sendPause {a s : State} 
    (h : a.Keeps s) : a.Keeps (State.sendPause s) := by
  unfold State.sendPause
  grind (splits := 40) (ematch := 40) (gen := 40) [keeps_mmp, keeps_updTrn]

theorem keeps_sendRun {a s : State} 
    (h : a.Keeps s) : a.Keeps (State.sendRun s) := by
  unfold State.sendRun
  grind (splits := 40) (ematch := 40) (gen := 40) [keeps_mmp, keeps_updTrn]

theorem keeps_openFrame {a s : State} {block : Nat}
    (h : a.Keeps s) : a.Keeps (State.openFrame s block) := by
  unfold State.openFrame
  grind (splits := 40) (ematch := 40) (gen := 40) [keeps_readHostCount, keeps_ringPut, keeps_sendPause, keeps_updTrn]

theorem keeps_updFrame {a s : State} {block : Nat} {g : TrnFrame → TrnFrame}
    (h : a.Keeps s) : a.Keeps (State.updFrame s block g) := by
  unfold State.updFrame
  grind (splits := 40) (ematch := 40) (gen := 40) [keeps_updTrn]

theorem keeps_framePut {a s : State} {pa : Nat} {b : List Byte}
    (h : a.Keeps s) : a.Keeps (State.framePut s pa b).2 := by
  unfold State.framePut
  grind (splits := 40) (ematch := 40) (gen := 40) [keeps_agentWrite, keeps_writeSec]

theorem keeps_putPacket {a s : State} {f : TrnFrame} {x0 x1 x2}
    (h : a.Keeps s) : a.Keeps (State.putPacket s f x0 x1 x2) := by
  induction x0 generalizing s x1 x2 with
  | zero => unfold State.putPacket; grind (splits := 40) (ematch := 40) (gen := 40) [keeps_framePut, keeps_updFrame]
  | succ fuel ih => unfold State.putPacket; grind (splits := 40) (ematch := 40) (gen := 40) [keeps_framePut, keeps_updFrame]

theorem keeps_askResend {a s : State} {f : TrnFrame} {id : Nat}
    (h : a.Keeps s) : a.Keeps (State.askResend s f id) := by
  unfold State.askResend
  grind (splits := 40) (ematch := 40) (gen := 40) [keeps_emit]

theorem keeps_withFrame {a s : State} {block : Nat} {g : State → TrnFrame → State}
    (h : a.Keeps s) (hk : ∀ u f, a.Keeps u → a.Keeps (g u f)) : a.Keeps (State.withFrame s block g) := by
  unfold State.withFrame
  grind (splits := 40) (ematch := 40) (gen := 40) [keeps_openFrame, keeps_rxDrop, keeps_updTrn]

theorem keeps_seePacket {a s : State} {f : TrnFrame} {id : Nat}
    (h : a.Keeps s) : a.Keeps (State.seePacket s f id) := by
  unfold State.seePacket
  grind (splits := 40) (ematch := 40) (gen := 40) [keeps_askResend, keeps_updFrame]

theorem keeps_payloadPacket {a s : State} {block : Nat} {id : Nat} {bytes : List Byte}
    (h : a.Keeps s) : a.Keeps (State.payloadPacket s block id bytes) := by
  unfold State.payloadPacket
  grind (splits := 40) (ematch := 40) (gen := 40) [keeps_finishClosed, keeps_putPacket, keeps_seePacket, keeps_updFrame, keeps_updTrn, keeps_withFrame]

theorem keeps_gvspIn {a s : State} {p : Gvsp}
    (h : a.Keeps s) : a.Keeps (State.gvspIn s p) := by
  unfold State.gvspIn
  grind (splits := 40) (ematch := 40) (gen := 40) [keeps_finishFrame, keeps_payloadPacket, keeps_rxDrop, keeps_seePacket, keeps_withFrame]

theorem keeps_refuseHello {a s : State} {h_ : MmpHdr} {c : Half}
    (h : a.Keeps s) : a.Keeps (State.refuseHello s h_ c) := by
  unfold State.refuseHello
  grind (splits := 40) (ematch := 40) (gen := 40) [keeps_mmpSend, keeps_updTrn]

theorem keeps_freshSession {a s : State} 
    (h : a.Keeps s) : a.Keeps (State.freshSession s).2 := by
  unfold State.freshSession
  grind (splits := 40) (ematch := 40) (gen := 40) [keeps_fresh]

theorem keeps_acceptHello {a s : State} {h_ : MmpHdr} {b : List Byte} {ix : Nat} {m : TrnMode}
    (h : a.Keeps s) : a.Keeps (State.acceptHello s h_ b ix m) := by
  unfold State.acceptHello
  grind (splits := 40) (ematch := 40) (gen := 40) [keeps_freshSession, keeps_mmp, keeps_ringPut, keeps_updTrn]

theorem keeps_startOut {a s : State} 
    (h : a.Keeps s) : a.Keeps (State.startOut s) := by
  unfold State.startOut
  grind (splits := 40) (ematch := 40) (gen := 40) [keeps_emit, keeps_mmp, keeps_readHostCount, keeps_sendPause, keeps_updTrn]

theorem keeps_outPackets {a s : State} {b : List Byte} {last : Bool}
    (h : a.Keeps s) : a.Keeps (State.outPackets s b last) := by
  unfold State.outPackets
  grind (splits := 40) (ematch := 40) (gen := 40) [keeps_emit, keeps_foldl, keeps_foldl_snd, keeps_updTrn]

theorem keeps_endOut {a s : State} 
    (h : a.Keeps s) : a.Keeps (State.endOut s) := by
  unfold State.endOut
  grind (splits := 40) (ematch := 40) (gen := 40) [keeps_emit, keeps_frameNote, keeps_mmp, keeps_raisePortCount, keeps_ringPut, keeps_updTrn]

theorem keeps_sendLine {a s : State} {absent : Nat}
    (h : a.Keeps s) : a.Keeps (State.sendLine s absent) := by
  unfold State.sendLine
  grind (splits := 40) (ematch := 40) (gen := 40) [keeps_endOut, keeps_mmp, keeps_outPackets, keeps_physGet, keeps_startOut, keeps_updTrn]

theorem keeps_refuseTrn {a s : State} {p : Nat} {c : Half} {off : Nat}
    (h : a.Keeps s) : a.Keeps (State.refuseTrn s p c off) := by
  unfold State.refuseTrn
  grind (splits := 40) (ematch := 40) (gen := 40) [keeps_refuseWrite, keeps_updTrn]

theorem keeps_trnWrite {a s : State} {p : Nat} {off : Nat} {f : State → State}
    (h : a.Keeps s) (hk : ∀ u, a.Keeps u → a.Keeps (f u)) : a.Keeps (State.trnWrite s p off f) := by
  unfold State.trnWrite
  grind (splits := 40) (ematch := 40) (gen := 40) [keeps_refuseTrn]

theorem keeps_trnRun {a s : State} {p : Nat}
    (h : a.Keeps s) : a.Keeps (State.trnRun s p) := by
  unfold State.trnRun
  grind (splits := 40) (ematch := 40) (gen := 40) [keeps_readHostCount, keeps_refuseTrn, keeps_sendRun, keeps_trnWrite, keeps_updTrn]

theorem keeps_trnPause {a s : State} {p : Nat}
    (h : a.Keeps s) : a.Keeps (State.trnPause s p) := by
  unfold State.trnPause
  grind (splits := 40) (ematch := 40) (gen := 40) [keeps_refuseTrn, keeps_sendPause, keeps_trnWrite]

theorem keeps_trnEnd {a s : State} {p : Nat}
    (h : a.Keeps s) : a.Keeps (State.trnEnd s p) := by
  unfold State.trnEnd
  grind (splits := 40) (ematch := 40) (gen := 40) [keeps_endSession, keeps_mmp, keeps_trnWrite]

theorem keeps_cicUncorrected {a s t : State} {n : Nat} (h : a.Keeps t) : a.Keeps (t.cicUncorrected s n) := by
  unfold State.cicUncorrected
  grind [keeps_updPipe]

theorem keeps_cicRead {a s : State} {go : Bool} {n : Nat} {m : Nat} {x0 x1 x2}
    (h : a.Keeps s) : a.Keeps (State.cicRead s go n m x0 x1 x2).2 := by
  induction x0 generalizing s x1 x2 with
  | zero => unfold State.cicRead; grind (splits := 40) (ematch := 40) (gen := 40) [keeps_cicUncorrected, keeps_mread]
  | succ fuel ih => unfold State.cicRead; grind (splits := 40) (ematch := 40) (gen := 40) [keeps_cicUncorrected, keeps_mread]

theorem keeps_cicGet {a s : State} {n : Nat} {m : Nat} {va : Nat} {k : Nat}
    (h : a.Keeps s) : a.Keeps (State.cicGet s n m va k).2 := by
  unfold State.cicGet
  grind (splits := 40) (ematch := 40) (gen := 40) [keeps_cicRead]

theorem keeps_cicPut {a s : State} {n : Nat} {m : Nat} {va : Nat} {b : List Byte}
    (h : a.Keeps s) : a.Keeps (State.cicPut s n m va b).2 := by
  unfold State.cicPut
  grind (splits := 40) (ematch := 40) (gen := 40) [keeps_mwrite]

theorem keeps_cicDone {a s : State} {n : Nat} {j : CicJob} {code : Half} {result concealed flags : Nat}
    (h : a.Keeps s) : a.Keeps (s.cicDone n j code result concealed flags) := by
  have hn : ∀ {u p q b f}, a.Keeps u →
      a.Keeps (match State.hubNote u p q (.cicada n) b with | some v => v | none => u.updPipe n f) := by
    intro u p q b f hu
    split
    · rename_i e; exact keeps_hubNote hu e
    · exact keeps_updPipe hu
  unfold State.cicDone
  dsimp only
  exact keeps_updPipe (hn (keeps_updMeadow (keeps_cicPut (keeps_cicPut h))))

theorem keeps_cicFail {a s : State} {n : Nat} {j : CicJob} {code : Half}
    (h : a.Keeps s) : a.Keeps (State.cicFail s n j code) := by
  unfold State.cicFail
  grind (splits := 40) (ematch := 40) (gen := 40) [keeps_cicDone]

theorem keeps_cicLost {a s : State} {n : Nat} {j : CicJob}
    (h : a.Keeps s) : a.Keeps (State.cicLost s n j) := by
  unfold State.cicLost
  grind (splits := 40) (ematch := 40) (gen := 40) [keeps_cicFail, keeps_cicPut, keeps_freeBytes]

theorem keeps_cicStop {a s : State} {n : Nat} {j : CicJob} {c : Half}
    (h : a.Keeps s) : a.Keeps (State.cicStop s n j c) := by
  unfold State.cicStop
  grind (splits := 40) (ematch := 40) (gen := 40) [keeps_cicFail, keeps_cicLost]

theorem keeps_cicCtrl {a s : State} {n : Nat} {m : Nat} {a_ : Nat}
    (h : a.Keeps s) : a.Keeps (State.cicCtrl s n m a_).2 := by
  unfold State.cicCtrl
  grind (splits := 40) (ematch := 40) (gen := 40) [keeps_cicGet]

theorem keeps_cicTake {a s : State} {n : Nat} {m : Nat} {e : List Byte} {addr : Nat} {bad : Bool}
    (h : a.Keeps s) : a.Keeps (State.cicTake s n m e addr bad) := by
  unfold State.cicTake
  grind (splits := 40) (ematch := 40) (gen := 40) [keeps_cicCtrl, keeps_cicFail, keeps_cicGet, keeps_cicStop, keeps_updPipe]

theorem keeps_cicRanges {a s : State} {n : Nat} {m : Nat} {x0}
    (h : a.Keeps s) : a.Keeps (State.cicRanges s n m x0).2 := by
  induction x0 generalizing s with
  | nil => unfold State.cicRanges; grind (splits := 40) (ematch := 40) (gen := 40) [keeps_cicGet]
  | cons y r ih => unfold State.cicRanges; grind (splits := 40) (ematch := 40) (gen := 40) [keeps_cicGet]

theorem keeps_encReads {a s : State} {n : Nat} {j : CicJob}
    (h : a.Keeps s) : a.Keeps (State.encReads s n j).2 := by
  unfold State.encReads
  grind (splits := 40) (ematch := 40) (gen := 40) [keeps_cicRanges]

theorem keeps_cicWrites {a s : State} {n : Nat} {m : Nat} {l : List (Nat × List Byte)}
    (h : a.Keeps s) : a.Keeps (State.cicWrites s n m l).2 := by
  unfold State.cicWrites
  grind (splits := 40) (ematch := 40) (gen := 40) [keeps_cicPut, keeps_foldl, keeps_foldl_snd]

theorem keeps_encEmit {a s : State} {n : Nat} {j : CicJob} {o : EncOutcome}
    (h : a.Keeps s) : a.Keeps (State.encEmit s n j o) := by
  unfold State.encEmit
  grind (splits := 40) (ematch := 40) (gen := 40) [keeps_cicDone, keeps_cicFail, keeps_cicWrites]

theorem keeps_decReads {a s : State} {n : Nat} {j : CicJob} {x0}
    (h : a.Keeps s) : a.Keeps (State.decReads s n j x0).2 := by
  induction x0 generalizing s with
  | nil => unfold State.decReads; grind (splits := 40) (ematch := 40) (gen := 40) [keeps_cicGet]
  | cons y r ih => unfold State.decReads; grind (splits := 40) (ematch := 40) (gen := 40) [keeps_cicGet]

theorem keeps_decEmit {a s : State} {n : Nat} {j : CicJob} {pool : List Frame} {o : DecOutcome}
    (h : a.Keeps s) : a.Keeps (State.decEmit s n j pool o) := by
  unfold State.decEmit
  grind (splits := 40) (ematch := 40) (gen := 40) [keeps_cicDone, keeps_cicFail, keeps_cicWrites]

theorem keeps_cicRingWrite {a s : State} {m : Nat} {n : Nat} {v : Dword}
    (h : a.Keeps s) : a.Keeps (State.cicRingWrite s m n v) := by
  unfold State.cicRingWrite
  grind (splits := 40) (ematch := 40) (gen := 40) [keeps_refuseWrite, keeps_updMeadow, keeps_updPipe]

theorem keeps_cicOwners {a s : State} 
    (h : a.Keeps s) : a.Keeps (State.cicOwners s) := by
  unfold State.cicOwners
  grind (splits := 40) (ematch := 40) (gen := 40) [keeps_foldl, keeps_foldl_snd, keeps_updPipe]

theorem keeps_gateBase {a s : State} {b : Nat}
    (h : a.Keeps s) : a.Keeps (State.gateBase s b) := by
  unfold State.gateBase
  grind (splits := 40) (ematch := 40) (gen := 40) [keeps_updBase, keeps_updCores]

theorem keeps_returnBase {a s : State} {b : Nat}
    (h : a.Keeps s) : a.Keeps (State.returnBase s b) := by
  unfold State.returnBase
  grind (splits := 40) (ematch := 40) (gen := 40) [keeps_updBase, keeps_updCores]

theorem keeps_loseStores {a s : State} {m : Nat} {k : Nat}
    (h : a.Keeps s) : a.Keeps (State.loseStores s m k) := by
  unfold State.loseStores
  grind (splits := 40) (ematch := 40) (gen := 40) [keeps_updMeadow]

theorem keeps_abandonJobs {a s : State} {m : Nat}
    (h : a.Keeps s) : a.Keeps (State.abandonJobs s m) := by
  unfold State.abandonJobs
  grind (splits := 40) (ematch := 40) (gen := 40) [keeps_foldl, keeps_foldl_snd, keeps_updPipe]

theorem keeps_teardown {a s : State} {m : Nat} {slot : Nat} {bases : List Nat}
    (h : a.Keeps s) : a.Keeps (State.teardown s m slot bases) := by
  unfold State.teardown
  grind (splits := 40) (ematch := 40) (gen := 40) [keeps_abandonJobs, keeps_endSession, keeps_foldl, keeps_foldl_snd, keeps_freshKey, keeps_gateBase, keeps_updCores, keeps_updMeadow]

theorem keeps_registerGuard {a s : State} {g : Guard}
    (h : a.Keeps s) : a.Keeps (State.registerGuard s g) := by
  unfold State.registerGuard
  grind (splits := 40) (ematch := 40) (gen := 40) [keeps_journal, keeps_updSxt]

theorem keeps_acceptGuard {a s : State} {r : QRec}
    (h : a.Keeps s) : a.Keeps (State.acceptGuard s r) := by
  unfold State.acceptGuard
  grind (splits := 40) (ematch := 40) (gen := 40) [keeps_burnLife, keeps_registerGuard, keeps_updSxt]

theorem keeps_putSettings {a s t : State} (h : a.Keeps t) : a.Keeps (s.putSettings t).2 := by
  unfold State.putSettings
  dsimp only
  refine keeps_foldl (keeps_foldl (keeps_foldl (keeps_foldl (keeps_foldl h ?_) ?_) ?_) ?_) ?_
  · exact fun u m hu => keeps_teardown hu
  · intro u c hu
    split
    · exact keeps_updCores (keeps_gateBase hu)
    · exact keeps_updBase (keeps_updCores (keeps_returnBase hu))
  · intro u n hu
    split
    · split
      · exact keeps_updCore hu
      · exact keeps_loseStores (keeps_updCore hu)
    · exact keeps_updCore hu
  · exact fun u m hu => keeps_updMeadow (keeps_random128 (keeps_freshKey hu))
  · intro u m hu
    split
    · exact hu
    · exact keeps_freshKey hu

theorem keeps_trnApply {a s : State} 
    (h : a.Keeps s) : a.Keeps (State.trnApply s) := by
  unfold State.trnApply
  grind (splits := 40) (ematch := 40) (gen := 40) [keeps_foldl, keeps_foldl_snd, keeps_updTrn]

theorem keeps_bootDone {a s : State} 
    (h : a.Keeps s) : a.Keeps (State.bootDone s) := by
  unfold State.bootDone
  grind (splits := 40) (ematch := 40) (gen := 40) [keeps_raise, keeps_updSxt]

theorem keeps_startAdmission {a s : State} 
    (h : a.Keeps s) : a.Keeps (State.startAdmission s) := by
  unfold State.startAdmission
  grind (splits := 40) (ematch := 40) (gen := 40) [keeps_bootDone, keeps_issueAdmits, keeps_updSxt]

theorem keeps_failStopped {a s : State} {ms : List Nat}
    (h : a.Keeps s) : a.Keeps (State.failStopped s ms) := by
  unfold State.failStopped
  grind (splits := 40) (ematch := 40) (gen := 40) [keeps_failEpoch, keeps_foldl, keeps_foldl_snd]

theorem keeps_acceptQorf {a s : State} {q : QOk} {admits} (hq : a.Keeps q.set) : a.Keeps (s.acceptQorf q admits) := by
  have h1 : a.Keeps (s.putSettings q.set).2 := keeps_putSettings hq
  have h2 : ∀ {t}, a.Keeps t → a.Keeps (match q.guard with | some r => t.acceptGuard r | none => t) := by
    intro t ht
    split
    · exact keeps_acceptGuard ht
    · exact ht
  unfold State.acceptQorf
  dsimp only
  split
  · exact keeps_startAdmission (keeps_trnApply (keeps_swApply (keeps_set_power (keeps_cicOwners (keeps_set_qorf (h2 h1))))))
  · split
    · exact keeps_issueAdmits (keeps_failStopped (keeps_cicOwners (keeps_set_qorf (h2 h1))))
    · exact keeps_failStopped (keeps_cicOwners (keeps_set_qorf (h2 h1)))

theorem keeps_checkStream {a s : State} {n b q} (h : a.Keeps s) (e : s.checkStream n b = .ok q) : a.Keeps q.set := by
  unfold State.checkStream at e
  dsimp only at e
  split at e
  · cases e
  · split at e
    · cases e
    · split at e
      · cases e
      · rename_i t et
        have h0 : a.Keeps (if (!bitOf ((wordsOf n b).getD 1 0) 16) = true then s.blankSettings else s) := by
          split
          · exact keeps_blankSettings h
          · exact h
        have h1 : a.Keeps t := keeps_qRecords (keeps_set_heath h0) et
        split at e
        · cases e
        · cases e
          dsimp only
          split
          · exact keeps_fillRows h1
          · exact h1

theorem keeps_handleRepair {a s : State} {scope : Nat} {recs : List Nat}
    (h : a.Keeps s) : a.Keeps (State.handleRepair s scope recs).2 := by
  unfold State.handleRepair
  dsimp only
  split
  · exact keeps_set_qorf h
  · rename_i e
    dsimp only
    refine keeps_updSxt (keeps_acceptQorf (keeps_checkStream ?_ e)) rfl rfl rfl rfl
    exact keeps_set_qorf (keeps_updSxt (f := fun x => { x with bootStep := 11 }) h rfl rfl rfl rfl)

theorem keeps_mend {a s : State} {rows : List Nat} {routers : List Nat}
    (h : a.Keeps s) : a.Keeps (State.mend s rows routers).2 := by
  have h1 : ∀ sc l, a.Keeps (s.handleRepair sc l).2 := fun sc l => keeps_handleRepair h
  unfold State.mend
  dsimp only
  split
  · exact h
  · split
    · rename_i c t e
      have h2 : a.Keeps t := by
        have := congrArg Prod.snd e
        dsimp only at this
        exact this ▸ h1 _ _
      split
      · exact h1 _ _
      · exact h2
    · exact h1 _ _

end Sys2Proof.Machine
end

