-- ==== Sys2Proof/Laws/KeepsDevice.lean ====
section
/-!
SUPPORT. What every operation of Sexton, the stem, memory, ports, power and registers keeps.
-/

namespace Sys2Proof.Machine

open Sys2Proof

set_option Elab.async false

theorem keeps_updMbox {a s : State} {p : Nat} {f : Mailbox → Mailbox}
    (h : a.Keeps s) : a.Keeps (State.updMbox s p f) := by
  unfold State.updMbox
  grind (splits := 40) (ematch := 40) (gen := 40) [keeps_updSxt]

theorem keeps_mailEnd {a s : State} {p : Nat} {code : Half} {result : Nat}
    (h : a.Keeps s) : a.Keeps (State.mailEnd s p code result) := by
  unfold State.mailEnd
  grind (splits := 40) (ematch := 40) (gen := 40) [keeps_result, keeps_updMbox]

theorem keeps_bootRefuse {a s : State} {code : Half}
    (h : a.Keeps s) : a.Keeps (State.bootRefuse s code) := by
  unfold State.bootRefuse
  grind (splits := 40) (ematch := 40) (gen := 40) [keeps_updSxt]

theorem keeps_onMail {a s : State} {p : Nat} {op : Nat} {f : MailJob → State}
    (h : a.Keeps s) (hk : ∀ j, a.Keeps (f j)) : a.Keeps (State.onMail s p op f) := by
  unfold State.onMail
  grind (splits := 40) (ematch := 40) (gen := 40) [keeps_mailEnd]

theorem keeps_submit {a s : State} {p : Nat}
    (h : a.Keeps s) : a.Keeps (State.submit s p) := by
  unfold State.submit
  grind (splits := 40) (ematch := 40) (gen := 40) [keeps_updMbox, keeps_updSxt]

theorem keeps_publish {a s : State} {p : Nat} {j : MailJob} {code : Half} {result : Dword}
    (h : a.Keeps s) : a.Keeps (State.publish s p j code result) := by
  unfold State.publish
  grind (splits := 40) (ematch := 40) (gen := 40) [keeps_kickRepair, keeps_raise, keeps_result, keeps_updMbox, keeps_updSxt]

theorem keeps_makeIdentity {a s : State} 
    (h : a.Keeps s) : a.Keeps (State.makeIdentity s) := by
  unfold State.makeIdentity
  split
  · grind [keeps_updSxt]
  · obtain ⟨h1, h2, h3, h4, h5, h6, h7, h8, h9⟩ := keeps_freshTree h (s := s)
    exact ⟨h1, h2, h3, h4, h5, h6, Nat.le_trans h7 (Nat.le_succ _), h8, h9⟩

theorem keeps_startLinks {a s : State} 
    (h : a.Keeps s) : a.Keeps (State.startLinks s) := by
  unfold State.startLinks
  grind (splits := 40) (ematch := 40) (gen := 40) [keeps_swStart, keeps_trnApply, keeps_updSxt, keeps_updTrn]

theorem keeps_rangeBytes {a s : State} {m : Nat} {b : List Byte} {x0}
    (h : a.Keeps s) : a.Keeps (State.rangeBytes s m b x0).2 := by
  induction x0 generalizing s with
  | nil => unfold State.rangeBytes; grind (splits := 40) (ematch := 40) (gen := 40) [keeps_mreadAll]
  | cons y r ih => unfold State.rangeBytes; grind (splits := 40) (ematch := 40) (gen := 40) [keeps_mreadAll]

theorem keeps_sendStop {a s : State} {m : Nat}
    (h : a.Keeps s) : a.Keeps (State.sendStop s m) := by
  unfold State.sendStop
  grind (splits := 40) (ematch := 40) (gen := 40) [keeps_issueStem]

theorem keeps_setTdi {a s : State} {p : Nat} {f : Nat} {t : Tdi}
    (h : a.Keeps s) : a.Keeps (State.setTdi s p f t) := by
  unfold State.setTdi
  grind (splits := 40) (ematch := 40) (gen := 40) [keeps_sendStop, keeps_updFn]

theorem keeps_retireSweep {a s : State} 
    (h : a.Keeps s) : a.Keeps (State.retireSweep s) := by
  unfold State.retireSweep
  grind (splits := 40) (ematch := 40) (gen := 40) [keeps_foldl, keeps_foldl_snd, keeps_teardown]

theorem keeps_destroyKeys {a s : State} 
    (h : a.Keeps s) : a.Keeps (State.destroyKeys s) := by
  unfold State.destroyKeys
  grind (splits := 40) (ematch := 40) (gen := 40) [keeps_foldl, keeps_foldl_snd, keeps_freshKey]

theorem keeps_retireNow {a s : State} 
    (h : a.Keeps s) : a.Keeps (State.retireNow s) := by
  unfold State.retireNow
  grind (splits := 40) (ematch := 40) (gen := 40) [keeps_burnLife, keeps_destroyKeys, keeps_foldl, keeps_foldl_snd, keeps_retireSweep, keeps_sendStop]

theorem keeps_guardRow {a s : State} {p : Nat} {op : Nat} {data : Option (List Byte)} {cert : Bool} {f : MailJob → List Byte → State → State}
    (h : a.Keeps s) (hk : ∀ j b u, a.Keeps u → a.Keeps (f j b u)) : a.Keeps (State.guardRow s p op data cert f) := by
  unfold State.guardRow
  grind (splits := 40) (ematch := 40) (gen := 40) [keeps_mailEnd, keeps_onMail, keeps_set_qorf]

theorem keeps_failSite {a s : State} {site : Nat}
    (h : a.Keeps s) : a.Keeps (State.failSite s site) := by
  unfold State.failSite
  grind (splits := 40) (ematch := 40) (gen := 40) [keeps_set_heath]

theorem keeps_admitCore {a s : State} {n : Nat}
    (h : a.Keeps s) : a.Keeps (State.admitCore s n) := by
  unfold State.admitCore
  grind (splits := 40) (ematch := 40) (gen := 40) [keeps_resume, keeps_set_heath, keeps_updCore]

theorem keeps_bootHook {a s : State} 
    (h : a.Keeps s) : a.Keeps (State.bootHook s) := by
  unfold State.bootHook
  grind (splits := 40) (ematch := 40) (gen := 40) [keeps_bootDone]

theorem keeps_admitHook {a s : State} {m : Nat}
    (h : a.Keeps s) : a.Keeps (State.admitHook s m) := by
  unfold State.admitHook
  grind (splits := 40) (ematch := 40) (gen := 40) [keeps_bootHook, keeps_readyHook, keeps_updMeadow]

theorem keeps_admitAck {a s : State} {c : StemCmd}
    (h : a.Keeps s) : a.Keeps (State.admitAck s c) := by
  unfold State.admitAck
  dsimp only
  exact keeps_foldl (keeps_foldl h fun u n hu => keeps_admitCore hu) fun u m hu => keeps_admitHook hu

theorem keeps_startTest {a s : State} {b : Nat} {preserve : Bool}
    (h : a.Keeps s) : a.Keeps (State.startTest s b preserve) := by
  unfold State.startTest
  grind (splits := 40) (ematch := 40) (gen := 40) [keeps_failEpoch, keeps_foldl, keeps_foldl_snd, keeps_gateBase, keeps_saveStores, keeps_set_heath, keeps_updCores]

theorem keeps_bistRound {a s : State} 
    (h : a.Keeps s) : a.Keeps (State.bistRound s) := by
  unfold State.bistRound
  grind (splits := 40) (ematch := 40) (gen := 40) [keeps_foldl, keeps_foldl_snd, keeps_set_bist, keeps_startTest]

theorem keeps_queueTests {a s : State} {l : List BistJob}
    (h : a.Keeps s) : a.Keeps (State.queueTests s l) := by
  unfold State.queueTests
  grind (splits := 40) (ematch := 40) (gen := 40) [keeps_bistRound, keeps_set_bist]

theorem keeps_bistHook {a s : State} 
    (h : a.Keeps s) : a.Keeps (State.bistHook s) := by
  unfold State.bistHook
  grind (splits := 40) (ematch := 40) (gen := 40) [keeps_set_bist]

theorem keeps_returnCores {a s : State} {l : List Nat} {keep : Nat → Bool}
    (h : a.Keeps s) : a.Keeps (State.returnCores s l keep) := by
  unfold State.returnCores
  grind (splits := 40) (ematch := 40) (gen := 40) [keeps_foldl, keeps_foldl_snd, keeps_updCore, keeps_updSxt]

theorem keeps_dropSaves {a s : State} {l : List Nat}
    (h : a.Keeps s) : a.Keeps (State.dropSaves s l) := by
  unfold State.dropSaves
  grind (splits := 40) (ematch := 40) (gen := 40) [keeps_foldl, keeps_foldl_snd, keeps_updSxt]

theorem keeps_countLosses {a s : State} {l : List Nat}
    (h : a.Keeps s) : a.Keeps (State.countLosses s l) := by
  unfold State.countLosses
  grind (splits := 40) (ematch := 40) (gen := 40) [keeps_foldl, keeps_foldl_snd, keeps_loseStores]

theorem keeps_holdMeadow {a s : State} {m : Nat} {code : Half}
    (h : a.Keeps s) : a.Keeps (State.holdMeadow s m code) := by
  unfold State.holdMeadow
  grind (splits := 40) (ematch := 40) (gen := 40) [keeps_raiseM, keeps_stopCores, keeps_updMeadow]

theorem keeps_trunkFails {a s : State} {b : Nat}
    (h : a.Keeps s) : a.Keeps (State.trunkFails s b) := by
  unfold State.trunkFails
  grind [keeps_updBase, keeps_qApply, keeps_holdMeadow]

theorem keeps_endOfRepair {a s : State} {code : Half}
    (h : a.Keeps s) : a.Keeps (State.endOfRepair s code) := by
  unfold State.endOfRepair
  grind (splits := 40) (ematch := 40) (gen := 40) [keeps_bistHook, keeps_kickRepair, keeps_updSxt]

theorem keeps_repairAdmitted {a s : State} 
    (h : a.Keeps s) : a.Keeps (State.repairAdmitted s) := by
  unfold State.repairAdmitted
  grind (splits := 40) (ematch := 40) (gen := 40) [keeps_bistHook, keeps_decideReplay, keeps_endOfRepair, keeps_kickRepair, keeps_updSxt]

theorem keeps_repairBuild {a s : State} 
    (h : a.Keeps s) : a.Keeps (State.repairBuild s) := by
  unfold State.repairBuild
  grind (splits := 40) (ematch := 40) (gen := 40) [keeps_countLosses, keeps_dropSaves, keeps_endOfRepair, keeps_foldl, keeps_foldl_snd, keeps_holdMeadow, keeps_issueAdmits, keeps_mend, keeps_returnCores, keeps_trunkFails, keeps_updBase, keeps_updSxt]

theorem keeps_repairNext {a s : State} 
    (h : a.Keeps s) : a.Keeps (State.repairNext s) := by
  unfold State.repairNext
  grind (splits := 40) (ematch := 40) (gen := 40) [keeps_failSite, keeps_foldl, keeps_foldl_snd, keeps_repairBuild, keeps_updSxt]

theorem keeps_requestTested {a s : State} {b : Nat} {preserve : Bool} {saved : Bool}
    (h : a.Keeps s) : a.Keeps (State.requestTested s b preserve saved) := by
  unfold State.requestTested
  grind (splits := 40) (ematch := 40) (gen := 40) [keeps_askRepair, keeps_bistHook, keeps_countLosses, keeps_dropSaves, keeps_issueAdmits, keeps_kickRepair, keeps_returnCores, keeps_set_bist, keeps_updBase]

theorem keeps_ctlEnd {a s : State} {p : Nat} {fn : Nat} {tag : Nat} {code : Half}
    (h : a.Keeps s) : a.Keeps (State.ctlEnd s p fn tag code) := by
  unfold State.ctlEnd
  grind (splits := 40) (ematch := 40) (gen := 40) [keeps_updFn]

theorem keeps_stemEnd {a s : State} {c : StemCmd} {code : Half}
    (h : a.Keeps s) : a.Keeps (State.stemEnd s c code) := by
  unfold State.stemEnd
  grind (splits := 40) (ematch := 40) (gen := 40) [keeps_bistHook, keeps_ctlEnd, keeps_mailEnd, keeps_queueTests, keeps_repairAdmitted, keeps_saveStores, keeps_set_bist, keeps_updBase, keeps_updPort, keeps_updSxt]

theorem keeps_ackEffect {a s : State} {c : StemCmd}
    (h : a.Keeps s) : a.Keeps (State.ackEffect s c) := by
  unfold State.ackEffect
  grind (splits := 40) (ematch := 40) (gen := 40) [keeps_admitAck, keeps_queueTests, keeps_updBases]

theorem keeps_pumpCtl {a s : State} {p : Nat} {x0}
    (h : a.Keeps s) : a.Keeps (State.pumpCtl s p x0) := by
  induction x0 generalizing s with
  | zero => unfold State.pumpCtl; grind (splits := 40) (ematch := 40) (gen := 40) [keeps_ctlEnd, keeps_foldl, keeps_foldl_snd, keeps_issueStem, keeps_updPort]
  | succ fuel ih => unfold State.pumpCtl; grind (splits := 40) (ematch := 40) (gen := 40) [keeps_ctlEnd, keeps_foldl, keeps_foldl_snd, keeps_issueStem, keeps_updPort]

theorem keeps_pumpAll {a s : State} 
    (h : a.Keeps s) : a.Keeps (State.pumpAll s) := by
  unfold State.pumpAll
  grind (splits := 40) (ematch := 40) (gen := 40) [keeps_pumpCtl, keeps_pumpStem]

theorem keeps_ctlWrite {a s : State} {p : Nat} {f : Nat} {v : Dword}
    (h : a.Keeps s) : a.Keeps (State.ctlWrite s p f v) := by
  unfold State.ctlWrite
  grind (splits := 40) (ematch := 40) (gen := 40) [keeps_pumpCtl, keeps_updPort]

theorem keeps_stemRow {a s : State} {p : Nat} {op : Nat}
    (h : a.Keeps s) : a.Keeps (State.stemRow s p op) := by
  unfold State.stemRow
  grind (splits := 40) (ematch := 40) (gen := 40) [keeps_issueStem, keeps_mailEnd, keeps_onMail, keeps_set_bist]

theorem keeps_coldReset {a s : State} 
    (h : a.Keeps s) : a.Keeps (State.coldReset s) := by
  obtain ⟨h1, h2, h3, h4, h5, h6, h7, h8, h9⟩ := h
  exact ⟨fun _ => rfl, h2, h3, h4, h5, h6, h7, h8, h9⟩

theorem keeps_failRim {a s : State} {k : Nat}
    (h : a.Keeps s) : a.Keeps (State.failRim s k) := by
  unfold State.failRim
  grind (splits := 40) (ematch := 40) (gen := 40) [keeps_foldl, keeps_foldl_snd, keeps_swRebuild, keeps_updStack, keeps_updSw, keeps_updSxt]

theorem keeps_partDone {a s : State} {j : BistJob} {r : PartReport}
    (h : a.Keeps s) : a.Keeps (State.partDone s j r) := by
  unfold State.partDone
  grind (splits := 40) (ematch := 40) (gen := 40) [keeps_failRim, keeps_failSite, keeps_foldl, keeps_foldl_snd, keeps_set_bist, keeps_updSxt]

theorem keeps_step9 {a s : State} 
    (h : a.Keeps s) : a.Keeps (State.step9 s) := by
  unfold State.step9
  grind (splits := 40) (ematch := 40) (gen := 40) [keeps_countLosses, keeps_foldl, keeps_foldl_snd, keeps_holdMeadow, keeps_mend, keeps_reapply, keeps_startAdmission, keeps_updCores, keeps_updSxt]

theorem keeps_startupTested {a s : State} {slice : Nat} {saved : Bool}
    (h : a.Keeps s) : a.Keeps (State.startupTested s slice saved) := by
  unfold State.startupTested
  grind (splits := 40) (ematch := 40) (gen := 40) [keeps_foldl, keeps_foldl_snd, keeps_set_bist, keeps_step9, keeps_updCores, keeps_updSxt]

theorem keeps_sliceTested {a s : State} {j : BistJob} {saved : Bool}
    (h : a.Keeps s) : a.Keeps (State.sliceTested s j saved) := by
  unfold State.sliceTested
  grind (splits := 40) (ematch := 40) (gen := 40) [keeps_dropSaves, keeps_requestTested, keeps_set_bist, keeps_startupTested]

theorem keeps_replay {a s : State} {m : Nat}
    (h : a.Keeps s) : a.Keeps (State.replay s m) := by
  unfold State.replay
  grind (splits := 40) (ematch := 40) (gen := 40) [keeps_restartEpoch, keeps_updMeadow]

theorem keeps_resumeMeadow {a s : State} {m : Nat}
    (h : a.Keeps s) : a.Keeps (State.resumeMeadow s m) := by
  unfold State.resumeMeadow
  grind (splits := 40) (ematch := 40) (gen := 40) [keeps_checkBoundary, keeps_issueAdmits, keeps_readyHook, keeps_replay, keeps_updCores, keeps_updMeadow]

theorem keeps_trnWarm {a s : State} 
    (h : a.Keeps s) : a.Keeps (State.trnWarm s) := by
  unfold State.trnWarm
  grind (splits := 40) (ematch := 40) (gen := 40) [keeps_endSession, keeps_mmp, keeps_set_trn]

theorem keeps_sextonWarm {a s : State} 
    (h : a.Keeps s) : a.Keeps (State.sextonWarm s) := by
  unfold State.sextonWarm
  grind (splits := 40) (ematch := 40) (gen := 40) [keeps_foldl, keeps_foldl_snd, keeps_loseStores, keeps_set_bist, keeps_updBase, keeps_updSxt]

theorem keeps_hubWarm {a s : State} 
    (h : a.Keeps s) : a.Keeps (State.hubWarm s) := by
  unfold State.hubWarm
  dsimp only
  refine keeps_cicOwners (keeps_foldl (keeps_foldl (keeps_foldl (keeps_foldl ?_ ?_) ?_) ?_) ?_)
  · exact keeps_set_hub_pipes (keeps_trnWarm h)
  · exact fun u p hu => keeps_updPort hu
  · exact fun u p hu => keeps_updSw hu
  · exact fun u p hu => keeps_updStack hu
  · exact fun u p hu => keeps_updMeadow hu

theorem keeps_warmReset {a s : State} {code : Half}
    (h : a.Keeps s) : a.Keeps (State.warmReset s code) := by
  unfold State.warmReset
  grind (splits := 40) (ematch := 40) (gen := 40) [keeps_bench, keeps_drainEnd, keeps_foldl, keeps_foldl_snd, keeps_hubWarm, keeps_resetDomain, keeps_sextonWarm, keeps_startLinks, keeps_updSxt]

theorem keeps_doReset {a s : State} {d : Domain} {code : Half} {readmit : Bool}
    (h : a.Keeps s) : a.Keeps (State.doReset s d code readmit) := by
  unfold State.doReset
  grind (splits := 40) (ematch := 40) (gen := 40) [keeps_issueAdmits, keeps_resetDomain, keeps_warmReset]

theorem keeps_ownReset {a s : State} {d : Domain} {code : Half}
    (h : a.Keeps s) : a.Keeps (State.ownReset s d code) := by
  unfold State.ownReset
  grind (splits := 40) (ematch := 40) (gen := 40) [keeps_doReset, keeps_updSxt]

theorem keeps_runDelayed {a s : State} {x0}
    (h : a.Keeps s) : a.Keeps (State.runDelayed x0 s) := by
  induction x0 generalizing s with
  | nil => unfold State.runDelayed; grind (splits := 40) (ematch := 40) (gen := 40) [keeps_doReset, keeps_orSkip, keeps_updSxt]
  | cons y r ih => unfold State.runDelayed; grind (splits := 40) (ematch := 40) (gen := 40) [keeps_doReset, keeps_orSkip, keeps_updSxt]

theorem keeps_fireWatch {a s : State} {m : Nat} {b : Nat} {silent : List Nat}
    (h : a.Keeps s) : a.Keeps (State.fireWatch s m b silent) := by
  unfold State.fireWatch
  grind (splits := 40) (ematch := 40) (gen := 40) [keeps_foldl, keeps_foldl_snd, keeps_ownReset, keeps_updBase, keeps_updMeadow]

theorem keeps_hostReset {a s : State} {p : Nat} {d : Domain}
    (h : a.Keeps s) : a.Keeps (State.hostReset s p d) := by
  unfold State.hostReset
  grind (splits := 40) (ematch := 40) (gen := 40) [keeps_ownReset, keeps_refuseWrite]

theorem keeps_faultClear {a s : State} {p : Nat}
    (h : a.Keeps s) : a.Keeps (State.faultClear s p) := by
  unfold State.faultClear
  grind (splits := 40) (ematch := 40) (gen := 40) [keeps_refuseWrite, keeps_startAdmission, keeps_updSxt]

theorem keeps_disturb {a s : State} {pa : Nat} {parity : Bool} {e : BitVec 288}
    (h : a.Keeps s) : a.Keeps (State.disturb s pa parity e) := by
  unfold State.disturb
  grind (splits := 40) (ematch := 40) (gen := 40) [keeps_setFlips, keeps_setPflips]

theorem keeps_onDie {a s : State} {k : Nat} {reported : Bool}
    (h : a.Keeps s) : a.Keeps (State.onDie s k reported) := by
  unfold State.onDie
  grind (splits := 40) (ematch := 40) (gen := 40) [keeps_countCorrected]

theorem keeps_memReply {a s : State} {r : SectorReader} {x : Res (List Byte)} (h : a.Keeps x.2) : a.Keeps (s.memReply r x) := by
  unfold State.memReply
  split
  · exact keeps_updHub h
  · exact keeps_failOnLost h

theorem keeps_memoryLost {a s : State} 
    (h : a.Keeps s) : a.Keeps (State.memoryLost s) := by
  unfold State.memoryLost
  grind (splits := 40) (ematch := 40) (gen := 40) [keeps_failEpoch, keeps_foldl, keeps_foldl_snd]

theorem keeps_scanTable {a s : State} {m : Nat} {x0 x1 x2 x3}
    (h : a.Keeps s) : a.Keeps (State.scanTable s m x0 x1 x2 x3).2 := by
  induction x0 generalizing s x1 x2 x3 with
  | zero => unfold State.scanTable; grind (splits := 40) (ematch := 40) (gen := 40) [keeps_foldl, keeps_foldl_snd, keeps_readSec]
  | succ fuel ih => unfold State.scanTable; grind (splits := 40) (ematch := 40) (gen := 40) [keeps_foldl, keeps_foldl_snd, keeps_readSec]

theorem keeps_frozenSync {a s : State} {m : Nat}
    (h : a.Keeps s) : a.Keeps (State.frozenSync s m) := by
  unfold State.frozenSync
  grind (splits := 40) (ematch := 40) (gen := 40) [keeps_updMeadow]

theorem keeps_bar2Get {a s : State} {p : Nat} {f : Nat} {a_ : Nat} {n : Nat} {ide : Bool}
    (h : a.Keeps s) : a.Keeps (State.bar2Get s p f a_ n ide) := by
  unfold State.bar2Get
  grind (splits := 40) (ematch := 40) (gen := 40) [keeps_deny, keeps_emit, keeps_physGet, keeps_raise, keeps_updPort]

theorem keeps_bar4Get {a s : State} {p : Nat} {f : Nat} {a_ : Nat} {n : Nat} {ide : Bool}
    (h : a.Keeps s) : a.Keeps (State.bar4Get s p f a_ n ide) := by
  unfold State.bar4Get
  grind (splits := 40) (ematch := 40) (gen := 40) [keeps_deny, keeps_emit, keeps_freeBytes]

theorem keeps_hcServe {a s : State} {p : Nat} {x0}
    (h : a.Keeps s) : a.Keeps (State.hcServe s p x0) := by
  induction x0 generalizing s with
  | zero => unfold State.hcServe; grind (splits := 40) (ematch := 40) (gen := 40) [keeps_updMeadow, keeps_updPort]
  | succ fuel ih => unfold State.hcServe; grind (splits := 40) (ematch := 40) (gen := 40) [keeps_updMeadow, keeps_updPort]

theorem keeps_hcRead {a s : State} {m : Nat} {x0 x1 x2}
    (h : a.Keeps s) : a.Keeps (State.hcRead s m x0 x1 x2).2 := by
  induction x0 generalizing s x1 x2 with
  | zero => unfold State.hcRead; grind (splits := 40) (ematch := 40) (gen := 40) [keeps_agentRead, keeps_walk]
  | succ fuel ih => unfold State.hcRead; grind (splits := 40) (ematch := 40) (gen := 40) [keeps_agentRead, keeps_walk]

theorem keeps_hcWrite {a s : State} {p : Nat} {m : Nat} {x0 x1 x2}
    (h : a.Keeps s) : a.Keeps (State.hcWrite s p m x0 x1 x2).2 := by
  induction x0 generalizing s x1 x2 with
  | zero => unfold State.hcWrite; grind (splits := 40) (ematch := 40) (gen := 40) [keeps_mwrite]
  | succ fuel ih => unfold State.hcWrite; grind (splits := 40) (ematch := 40) (gen := 40) [keeps_mwrite]

theorem keeps_hcMove {a s : State} {m : Nat} {p : Nat} {f : Nat} {d : List Byte} {got : List Byte} {took : Nat}
    (h : a.Keeps s) : a.Keeps (State.hcMove s m p f d got took).2 := by
  unfold State.hcMove
  grind (splits := 40) (ematch := 40) (gen := 40) [keeps_emit, keeps_hcRead, keeps_hcWrite, keeps_raise]

theorem keeps_hcEnd {a s : State} {m : Nat} {e : HcFlight} {d : List Byte} {code : Half}
    (h : a.Keeps s) : a.Keeps (State.hcEnd s m e d code) := by
  unfold State.hcEnd
  grind (splits := 40) (ematch := 40) (gen := 40) [keeps_emit, keeps_raise, keeps_tryNote, keeps_updMeadow]

theorem keeps_hcRun {a s : State} {m : Nat} {e : HcFlight} {desc : Option (List Byte)} {got : List Byte} {took : Nat}
    (h : a.Keeps s) : a.Keeps (State.hcRun s m e desc got took) := by
  unfold State.hcRun
  grind (splits := 40) (ematch := 40) (gen := 40) [keeps_hcEnd, keeps_hcMove]

theorem keeps_hcTailWrite {a s : State} {m : Nat} {v : Nat}
    (h : a.Keeps s) : a.Keeps (State.hcTailWrite s m v) := by
  unfold State.hcTailWrite
  grind (splits := 40) (ematch := 40) (gen := 40) [keeps_hcServe, keeps_refuseWrite, keeps_updMeadow]

theorem keeps_hcControlWrite {a s : State} {m : Nat} {v : Nat}
    (h : a.Keeps s) : a.Keeps (State.hcControlWrite s m v) := by
  unfold State.hcControlWrite
  grind (splits := 40) (ematch := 40) (gen := 40) [keeps_refuseWrite, keeps_updMeadow]

theorem keeps_hcBaseWrite {a s : State} {m : Nat} {v : Nat}
    (h : a.Keeps s) : a.Keeps (State.hcBaseWrite s m v) := by
  unfold State.hcBaseWrite
  grind (splits := 40) (ematch := 40) (gen := 40) [keeps_refuseWrite, keeps_updMeadow]

theorem keeps_resetFnMeadow {a s : State} {l : List (MeadowIx × BitVec 12 × List Byte)} {m : Nat}
    (h : a.Keeps s) : a.Keeps (State.resetFnMeadow s l m) := by
  unfold State.resetFnMeadow
  grind (splits := 40) (ematch := 40) (gen := 40) [keeps_foldl, keeps_foldl_snd, keeps_hcEnd, keeps_sendStop, keeps_updMeadow]

theorem keeps_resetFn {a s : State} {l : List (MeadowIx × BitVec 12 × List Byte)} {p : Nat} {f : Nat}
    (h : a.Keeps s) : a.Keeps (State.resetFn s l p f) := by
  unfold State.resetFn
  grind (splits := 40) (ematch := 40) (gen := 40) [keeps_resetFnMeadow, keeps_setTdi, keeps_updFn]

theorem keeps_loseLoad {a s : State} {p : Nat}
    (h : a.Keeps s) : a.Keeps (State.loseLoad s p) := by
  unfold State.loseLoad
  grind (splits := 40) (ematch := 40) (gen := 40) [keeps_mailEnd, keeps_updSxt]

theorem keeps_updPower {a s : State} {f : Power → Power}
    (h : a.Keeps s) : a.Keeps (State.updPower s f) := by
  unfold State.updPower
  grind (splits := 40) (ematch := 40) (gen := 40) [keeps_set_power]

theorem keeps_updRail {a s : State} {k : Nat} {f : Rail → Rail}
    (h : a.Keeps s) : a.Keeps (State.updRail s k f) := by
  unfold State.updRail
  grind (splits := 40) (ematch := 40) (gen := 40) [keeps_updPower]

theorem keeps_capWrite {a s : State} {p : Nat} {v : Nat}
    (h : a.Keeps s) : a.Keeps (State.capWrite s p v) := by
  unfold State.capWrite
  grind (splits := 40) (ematch := 40) (gen := 40) [keeps_refuseWrite, keeps_updPower]

theorem keeps_pmbus {a s : State} {k : Nat} {c : Pmbus}
    (h : a.Keeps s) : a.Keeps (State.pmbus s k c) := by
  unfold State.pmbus
  grind (splits := 40) (ematch := 40) (gen := 40) [keeps_emit]

theorem keeps_sampleOnce {a s : State} {k : Nat}
    (h : a.Keeps s) : a.Keeps (State.sampleOnce s k) := by
  unfold State.sampleOnce
  grind (splits := 40) (ematch := 40) (gen := 40) [keeps_emit, keeps_pmbus]

theorem keeps_takeRail {a s : State} {k : Nat}
    (h : a.Keeps s) : a.Keeps (State.takeRail s k) := by
  unfold State.takeRail
  grind (splits := 40) (ematch := 40) (gen := 40) [keeps_pmbus]

theorem keeps_sampleRail {a s : State} {k : Nat} {r : RailReading}
    (h : a.Keeps s) : a.Keeps (State.sampleRail s k r) := by
  unfold State.sampleRail
  grind (splits := 40) (ematch := 40) (gen := 40) [keeps_foldl, keeps_foldl_snd, keeps_sampleOnce, keeps_takeRail, keeps_updRail]

theorem keeps_setRail {a s : State} {k : Nat}
    (h : a.Keeps s) : a.Keeps (State.setRail s k) := by
  unfold State.setRail
  grind (splits := 40) (ematch := 40) (gen := 40) [keeps_emit, keeps_updRail]

theorem keeps_setRails {a s : State} 
    (h : a.Keeps s) : a.Keeps (State.setRails s) := by
  unfold State.setRails
  grind (splits := 40) (ematch := 40) (gen := 40) [keeps_foldl, keeps_foldl_snd, keeps_setRail]

theorem keeps_thermtrip {a s : State} 
    (h : a.Keeps s) : a.Keeps (State.thermtrip s) := by
  unfold State.thermtrip
  grind (splits := 40) (ematch := 40) (gen := 40) [keeps_emit, keeps_updPower]

theorem keeps_stopAll {a s : State} 
    (h : a.Keeps s) : a.Keeps (State.stopAll s) := by
  unfold State.stopAll
  grind (splits := 40) (ematch := 40) (gen := 40) [keeps_foldl, keeps_foldl_snd, keeps_sendStop]

theorem keeps_throttleStep {a s : State} {k : Nat} {on : Bool}
    (h : a.Keeps s) : a.Keeps (State.throttleStep s k on) := by
  unfold State.throttleStep
  grind (splits := 40) (ematch := 40) (gen := 40) [keeps_updBase, keeps_updPower]

theorem keeps_refreshStep {a s : State} {k : Nat} {c : Int}
    (h : a.Keeps s) : a.Keeps (State.refreshStep s k c) := by
  unfold State.refreshStep
  grind (splits := 40) (ematch := 40) (gen := 40) [keeps_updStack]

theorem keeps_drivePins {a s : State} 
    (h : a.Keeps s) : a.Keeps (State.drivePins s) := by
  unfold State.drivePins
  grind (splits := 40) (ematch := 40) (gen := 40) [keeps_emit, keeps_foldl, keeps_foldl_snd]

theorem keeps_scanReg {a s : State} {r : ScanReg} {load : Option Dword}
    (h : a.Keeps s) : a.Keeps (State.scanReg s r load) := by
  unfold State.scanReg
  grind (splits := 40) (ematch := 40) (gen := 40) [keeps_emit, keeps_freeBytes, keeps_set_bist]

theorem keeps_setMask {a s : State} {p : Nat} {f : Nat} {v : Nat} {masked : Bool}
    (h : a.Keeps s) : a.Keeps (State.setMask s p f v masked) := by
  unfold State.setMask
  grind (splits := 40) (ematch := 40) (gen := 40) [keeps_emit, keeps_updFn]

theorem keeps_msixWrite {a s : State} {p : Nat} {f : Nat} {off : Nat} {v : Nat}
    (h : a.Keeps s) : a.Keeps (State.msixWrite s p f off v) := by
  unfold State.msixWrite
  grind (splits := 40) (ematch := 40) (gen := 40) [keeps_setMask, keeps_updFn]

theorem keeps_mdwRead {a s : State} {m : Nat} {o : Nat}
    (h : a.Keeps s) : a.Keeps (State.mdwRead s m o).2 := by
  unfold State.mdwRead
  grind (splits := 40) (ematch := 40) (gen := 40) [keeps_cicDone, keeps_updMeadow]

theorem keeps_seqWrite {a s : State} {m : Nat} {j : Nat} {o : Nat} {v : Nat}
    (h : a.Keeps s) : a.Keeps (State.seqWrite s m j o v) := by
  unfold State.seqWrite
  grind (splits := 40) (ematch := 40) (gen := 40) [keeps_hold, keeps_refuseWrite, keeps_seqStart, keeps_updMeadow]

theorem keeps_recoverControl {a s : State} {m : Nat} {v : Nat}
    (h : a.Keeps s) : a.Keeps (State.recoverControl s m v) := by
  unfold State.recoverControl
  grind (splits := 40) (ematch := 40) (gen := 40) [keeps_replay, keeps_resumeMeadow, keeps_updMeadow]

theorem keeps_mdwWrite {a s : State} {m : Nat} {o : Nat} {v : Nat}
    (h : a.Keeps s) : a.Keeps (State.mdwWrite s m o v) := by
  unfold State.mdwWrite
  grind (splits := 40) (ematch := 40) (gen := 40) [keeps_cicRingWrite, keeps_epochControl, keeps_frozenSync, keeps_hcBaseWrite, keeps_hcControlWrite, keeps_hcTailWrite, keeps_recoverControl, keeps_seqWrite, keeps_swRingWrite, keeps_updCores, keeps_updMeadow]

theorem keeps_hubRead {a s : State} {o : Nat}
    (h : a.Keeps s) : a.Keeps (State.hubRead s o).2 := by
  unfold State.hubRead
  dsimp only
  repeat' split
  all_goals first | exact h | (dsimp only; exact keeps_updPort h) | (dsimp only; exact keeps_updHub h)

theorem keeps_stkRead {a s : State} {o : Nat}
    (h : a.Keeps s) : a.Keeps (State.stkRead s o).2 := by
  unfold State.stkRead
  grind (splits := 40) (ematch := 40) (gen := 40) [keeps_updPkg, keeps_updStack]

theorem keeps_swmRead {a s : State} {o : Nat}
    (h : a.Keeps s) : a.Keeps (State.swmRead s o).2 := by
  unfold State.swmRead
  grind (splits := 40) (ematch := 40) (gen := 40) [keeps_updSw]

theorem keeps_trnRead {a s : State} {o : Nat}
    (h : a.Keeps s) : a.Keeps (State.trnRead s o).2 := by
  unfold State.trnRead
  grind (splits := 40) (ematch := 40) (gen := 40) [keeps_updTrn]

theorem keeps_cicBlockRead {a s : State} {o : Nat}
    (h : a.Keeps s) : a.Keeps (State.cicBlockRead s o).2 := by
  unfold State.cicBlockRead
  grind (splits := 40) (ematch := 40) (gen := 40) [keeps_updPipe]

theorem keeps_pwrRead {a s : State} {o : Nat}
    (h : a.Keeps s) : a.Keeps (State.pwrRead s o).2 := by
  unfold State.pwrRead
  grind (splits := 40) (ematch := 40) (gen := 40) [keeps_updPower]

theorem keeps_devRead {a s : State} {p : Nat} {o : Nat}
    (h : a.Keeps s) : a.Keeps (State.devRead s p o).2 := by
  unfold State.devRead
  grind (splits := 40) (ematch := 40) (gen := 40) [keeps_cicBlockRead, keeps_hubRead, keeps_pwrRead, keeps_stkRead, keeps_swmRead, keeps_trnRead]

theorem keeps_mboxWrite {a s : State} {p : Nat} {o : Nat} {v : Nat}
    (h : a.Keeps s) : a.Keeps (State.mboxWrite s p o v) := by
  unfold State.mboxWrite
  grind (splits := 40) (ematch := 40) (gen := 40) [keeps_submit, keeps_updMbox]

theorem keeps_trnControlWrite {a s : State} {p : Nat} {v : Nat}
    (h : a.Keeps s) : a.Keeps (State.trnControlWrite s p v) := by
  unfold State.trnControlWrite
  grind (splits := 40) (ematch := 40) (gen := 40) [keeps_refuseTrn, keeps_trnEnd, keeps_trnPause, keeps_trnRun]

theorem keeps_devWrite {a s : State} {p : Nat} {o : Nat} {v : Nat}
    (h : a.Keeps s) : a.Keeps (State.devWrite s p o v) := by
  unfold State.devWrite
  grind (splits := 40) (ematch := 40) (gen := 40) [keeps_capWrite, keeps_faultClear, keeps_hostReset, keeps_mboxWrite, keeps_set_bist, keeps_trnControlWrite, keeps_trnWrite, keeps_updPower, keeps_updSxt, keeps_updTrn]

theorem keeps_slotRead {a s : State} {p : Nat} {f : Nat} {off : Nat}
    (h : a.Keeps s) : a.Keeps (State.slotRead s p f off).2 := by
  unfold State.slotRead
  grind (splits := 40) (ematch := 40) (gen := 40) [keeps_devRead, keeps_mdwRead]

theorem keeps_slotWrite {a s : State} {p : Nat} {f : Nat} {slot : Nat} {v : Nat}
    (h : a.Keeps s) : a.Keeps (State.slotWrite s p f slot v) := by
  unfold State.slotWrite
  grind (splits := 40) (ematch := 40) (gen := 40) [keeps_ctlWrite, keeps_devWrite, keeps_mdwWrite, keeps_msixWrite]

theorem keeps_countStall {a s : State} {n : Nat} {e : Nat} {c : Nat} {k : Nat}
    (h : a.Keeps s) : a.Keeps (State.countStall s n e c k) := by
  unfold State.countStall
  grind (splits := 40) (ematch := 40) (gen := 40) [keeps_updCore]

theorem keeps_coreCycle {a s : State} {n : Nat}
    (h : a.Keeps s) : a.Keeps (State.coreCycle s n) := by
  unfold State.coreCycle
  grind (splits := 40) (ematch := 40) (gen := 40) [keeps_countStall, keeps_foldl, keeps_foldl_snd, keeps_freeBytes, keeps_updCore]

/-- A cycle in which no command waits raises the clock by one, queues the commands whose requests waited, and keeps the rest. -/
theorem keeps_idle (s : State) : State.Keeps { s with tick := s.tick + 1, pending := s.held, held := [] } s.idle := by
  have hc : ∀ x : Sexton, (Sexton.cycle x).lcBits = x.lcBits ∧ (Sexton.cycle x).leaves = x.leaves
      ∧ (Sexton.cycle x).svn = x.svn ∧ (Sexton.cycle x).journal = x.journal := by
    intro x
    unfold Sexton.cycle
    split <;> exact ⟨rfl, rfl, rfl, rfl⟩
  have h1 : ∀ a : State, a.Keeps (((a.cores.map (·.1)).foldl State.coreCycle a).updSxt Sexton.cycle) := fun a =>
    keeps_updSxt (keeps_foldl (State.Keeps.refl _) fun u n hu => keeps_coreCycle hu) (hc _).1 (hc _).2.1 (hc _).2.2.1 (hc _).2.2.2
  unfold State.idle
  dsimp only
  generalize h1 { s with tick := s.tick + 1, pending := s.held, held := [] } = h1
  have h2 := fun l => keeps_runDelayed (x0 := l) h1
  exact keeps_orSkip (keeps_orSkip (h2 _) (keeps_repairNext (h2 _))) (keeps_retireSweep (keeps_orSkip (h2 _) (keeps_repairNext (h2 _))))

end Sys2Proof.Machine
end

