-- ==== Sys2Proof/Laws/KeepsCommands.lean ====
section
/-!
SUPPORT. What every command keeps.
-/

namespace Sys2Proof.Machine

open Sys2Proof

set_option Elab.async false

theorem keeps_cu {a s t : State} {n op f legal} {body : State → State} (h : a.Keeps s) (hk : ∀ u, a.Keeps u → a.Keeps (body u))
    (e : s.cu n op f legal body = .next t) : a.Keeps t := by
  unfold State.cu at e
  cases e
  split
  · exact h
  · split
    · exact keeps_faultHere h
    · exact hk s h

theorem keeps_alu {a s t : State} {o op} {c : CoreIx} {f : Fields} (h : a.Keeps s) (e : alu o op c f s = .next t) : a.Keeps t := by
  unfold alu at e
  refine keeps_cu h (fun u hu => ?_) e
  exact keeps_result hu

theorem keeps_execNop {a s t : State} {c : CoreIx} {f : Fields} (h : a.Keeps s)
    (e : execNop c f s = .next t) : a.Keeps t := by
  unfold execNop at e
  refine keeps_cu h (fun u hu => ?_) e
  grind (splits := 40) (ematch := 40) (gen := 40) [keeps_adv]

theorem keeps_execAdd {a s t : State} {c : CoreIx} {f : Fields} (h : a.Keeps s)
    (e : execAdd c f s = .next t) : a.Keeps t := by
  exact keeps_alu h e

theorem keeps_execSub {a s t : State} {c : CoreIx} {f : Fields} (h : a.Keeps s)
    (e : execSub c f s = .next t) : a.Keeps t := by
  exact keeps_alu h e

theorem keeps_execAnd {a s t : State} {c : CoreIx} {f : Fields} (h : a.Keeps s)
    (e : execAnd c f s = .next t) : a.Keeps t := by
  exact keeps_alu h e

theorem keeps_execOr {a s t : State} {c : CoreIx} {f : Fields} (h : a.Keeps s)
    (e : execOr c f s = .next t) : a.Keeps t := by
  exact keeps_alu h e

theorem keeps_execXor {a s t : State} {c : CoreIx} {f : Fields} (h : a.Keeps s)
    (e : execXor c f s = .next t) : a.Keeps t := by
  exact keeps_alu h e

theorem keeps_execShl {a s t : State} {c : CoreIx} {f : Fields} (h : a.Keeps s)
    (e : execShl c f s = .next t) : a.Keeps t := by
  exact keeps_alu h e

theorem keeps_execShr {a s t : State} {c : CoreIx} {f : Fields} (h : a.Keeps s)
    (e : execShr c f s = .next t) : a.Keeps t := by
  exact keeps_alu h e

theorem keeps_execSra {a s t : State} {c : CoreIx} {f : Fields} (h : a.Keeps s)
    (e : execSra c f s = .next t) : a.Keeps t := by
  exact keeps_alu h e

theorem keeps_execMul {a s t : State} {c : CoreIx} {f : Fields} (h : a.Keeps s)
    (e : execMul c f s = .next t) : a.Keeps t := by
  exact keeps_alu h e

theorem keeps_execMulhu {a s t : State} {c : CoreIx} {f : Fields} (h : a.Keeps s)
    (e : execMulhu c f s = .next t) : a.Keeps t := by
  exact keeps_alu h e

theorem keeps_execSlt {a s t : State} {c : CoreIx} {f : Fields} (h : a.Keeps s)
    (e : execSlt c f s = .next t) : a.Keeps t := by
  exact keeps_alu h e

theorem keeps_execSltu {a s t : State} {c : CoreIx} {f : Fields} (h : a.Keeps s)
    (e : execSltu c f s = .next t) : a.Keeps t := by
  exact keeps_alu h e

theorem keeps_execMin {a s t : State} {c : CoreIx} {f : Fields} (h : a.Keeps s)
    (e : execMin c f s = .next t) : a.Keeps t := by
  exact keeps_alu h e

theorem keeps_execMax {a s t : State} {c : CoreIx} {f : Fields} (h : a.Keeps s)
    (e : execMax c f s = .next t) : a.Keeps t := by
  exact keeps_alu h e

theorem keeps_execClz {a s t : State} {c : CoreIx} {f : Fields} (h : a.Keeps s)
    (e : execClz c f s = .next t) : a.Keeps t := by
  unfold execClz at e
  refine keeps_cu h (fun u hu => ?_) e
  grind (splits := 40) (ematch := 40) (gen := 40) [keeps_result]

theorem keeps_execPopc {a s t : State} {c : CoreIx} {f : Fields} (h : a.Keeps s)
    (e : execPopc c f s = .next t) : a.Keeps t := by
  unfold execPopc at e
  refine keeps_cu h (fun u hu => ?_) e
  grind (splits := 40) (ematch := 40) (gen := 40) [keeps_result]

theorem keeps_execLih {a s t : State} {c : CoreIx} {f : Fields} (h : a.Keeps s)
    (e : execLih c f s = .next t) : a.Keeps t := by
  unfold execLih at e
  refine keeps_cu h (fun u hu => ?_) e
  grind (splits := 40) (ematch := 40) (gen := 40) [keeps_result]

theorem keeps_execBr {a s t : State} {c : CoreIx} {f : Fields} (h : a.Keeps s)
    (e : execBr c f s = .next t) : a.Keeps t := by
  unfold execBr at e
  refine keeps_cu h (fun u hu => ?_) e
  grind (splits := 40) (ematch := 40) (gen := 40) [keeps_adv, keeps_jump]

theorem keeps_execCall {a s t : State} {c : CoreIx} {f : Fields} (h : a.Keeps s)
    (e : execCall c f s = .next t) : a.Keeps t := by
  unfold execCall at e
  refine keeps_cu h (fun u hu => ?_) e
  grind (splits := 40) (ematch := 40) (gen := 40) [keeps_jump, keeps_updCore]

theorem keeps_execJr {a s t : State} {c : CoreIx} {f : Fields} (h : a.Keeps s)
    (e : execJr c f s = .next t) : a.Keeps t := by
  unfold execJr at e
  refine keeps_cu h (fun u hu => ?_) e
  grind (splits := 40) (ematch := 40) (gen := 40) [keeps_jump]

theorem keeps_execLd {a s t : State} {c : CoreIx} {f : Fields} {e_ : Ecc} (h : a.Keeps s)
    (e : execLd c f e_ s = .next t) : a.Keeps t := by
  unfold execLd at e
  refine keeps_cu h (fun u hu => ?_) e
  grind (splits := 40) (ematch := 40) (gen := 40) [keeps_faultHere, keeps_result, keeps_sram]

theorem keeps_execSt {a s t : State} {c : CoreIx} {f : Fields} (h : a.Keeps s)
    (e : execSt c f s = .next t) : a.Keeps t := by
  unfold execSt at e
  refine keeps_cu h (fun u hu => ?_) e
  grind (splits := 40) (ematch := 40) (gen := 40) [keeps_adv, keeps_faultHere, keeps_updCore]

theorem keeps_execLdd {a s t : State} {c : CoreIx} {f : Fields} {e_ : Ecc} (h : a.Keeps s)
    (e : execLdd c f e_ s = .next t) : a.Keeps t := by
  unfold execLdd at e
  refine keeps_cu h (fun u hu => ?_) e
  grind (splits := 40) (ematch := 40) (gen := 40) [keeps_adv, keeps_faultHere, keeps_sram, keeps_updCore]

theorem keeps_execStd {a s t : State} {c : CoreIx} {f : Fields} (h : a.Keeps s)
    (e : execStd c f s = .next t) : a.Keeps t := by
  unfold execStd at e
  refine keeps_cu h (fun u hu => ?_) e
  grind (splits := 40) (ematch := 40) (gen := 40) [keeps_adv, keeps_faultHere, keeps_updCore]

theorem keeps_execDput {a s t : State} {c : CoreIx} {f : Fields} (h : a.Keeps s)
    (e : execDput c f s = .next t) : a.Keeps t := by
  unfold execDput at e
  refine keeps_cu h (fun u hu => ?_) e
  grind (splits := 40) (ematch := 40) (gen := 40) [keeps_adv, keeps_updCore]

theorem keeps_execDget {a s t : State} {c : CoreIx} {f : Fields} (h : a.Keeps s)
    (e : execDget c f s = .next t) : a.Keeps t := by
  unfold execDget at e
  refine keeps_cu h (fun u hu => ?_) e
  grind (splits := 40) (ematch := 40) (gen := 40) [keeps_result]

theorem keeps_execVld {a s t : State} {c : CoreIx} {f : Fields} {e_ : Ecc} (h : a.Keeps s)
    (e : execVld c f e_ s = .next t) : a.Keeps t := by
  unfold execVld at e
  refine keeps_cu h (fun u hu => ?_) e
  grind (splits := 40) (ematch := 40) (gen := 40) [keeps_hold, keeps_sram, keeps_vldBody]

theorem keeps_execVst {a s t : State} {c : CoreIx} {f : Fields} (h : a.Keeps s)
    (e : execVst c f s = .next t) : a.Keeps t := by
  unfold execVst at e
  refine keeps_cu h (fun u hu => ?_) e
  grind (splits := 40) (ematch := 40) (gen := 40) [keeps_vstBody]

theorem keeps_execWait {a s t : State} {c : CoreIx} {f : Fields} (h : a.Keeps s)
    (e : execWait c f s = .next t) : a.Keeps t := by
  unfold execWait at e
  refine keeps_cu h (fun u hu => ?_) e
  grind (splits := 40) (ematch := 40) (gen := 40) [keeps_waitBody]

theorem keeps_execWaitTimeout {a s t : State} {c : CoreIx} (h : a.Keeps s)
    (e : execWaitTimeout c s = .next t) : a.Keeps t := by
  unfold execWaitTimeout at e
  cases e
  grind (splits := 40) (ematch := 40) (gen := 40) [keeps_release, keeps_status, keeps_wait]

theorem keeps_execRecv {a s t : State} {c : CoreIx} {f : Fields} (h : a.Keeps s)
    (e : execRecv c f s = .next t) : a.Keeps t := by
  unfold execRecv at e
  refine keeps_cu h (fun u hu => ?_) e
  grind (splits := 40) (ematch := 40) (gen := 40) [keeps_recvBody]

theorem keeps_execRecvTimeout {a s t : State} {c : CoreIx} (h : a.Keeps s)
    (e : execRecvTimeout c s = .next t) : a.Keeps t := by
  unfold execRecvTimeout at e
  cases e
  grind (splits := 40) (ematch := 40) (gen := 40) [keeps_release, keeps_status]

theorem keeps_execPoll {a s t : State} {c : CoreIx} {f : Fields} (h : a.Keeps s)
    (e : execPoll c f s = .next t) : a.Keeps t := by
  unfold execPoll at e
  refine keeps_cu h (fun u hu => ?_) e
  grind (splits := 40) (ematch := 40) (gen := 40) [keeps_result]

theorem keeps_execFence {a s t : State} {c : CoreIx} {f : Fields} (h : a.Keeps s)
    (e : execFence c f s = .next t) : a.Keeps t := by
  unfold execFence at e
  refine keeps_cu h (fun u hu => ?_) e
  grind (splits := 40) (ematch := 40) (gen := 40) [keeps_fenceBody]

theorem keeps_execEpochEnd {a s t : State} {c : CoreIx} {f : Fields} (h : a.Keeps s)
    (e : execEpochEnd c f s = .next t) : a.Keeps t := by
  unfold execEpochEnd at e
  refine keeps_cu h (fun u hu => ?_) e
  grind (splits := 40) (ematch := 40) (gen := 40) [keeps_epochEndBody]

theorem keeps_execSysrd {a s t : State} {c : CoreIx} {f : Fields} (h : a.Keeps s)
    (e : execSysrd c f s = .next t) : a.Keeps t := by
  unfold execSysrd at e
  refine keeps_cu h (fun u hu => ?_) e
  grind (splits := 40) (ematch := 40) (gen := 40) [keeps_result, keeps_updCore]

theorem keeps_execSyswr {a s t : State} {c : CoreIx} {f : Fields} (h : a.Keeps s)
    (e : execSyswr c f s = .next t) : a.Keeps t := by
  unfold execSyswr at e
  refine keeps_cu h (fun u hu => ?_) e
  grind (splits := 40) (ematch := 40) (gen := 40) [keeps_adv, keeps_faultHere, keeps_updCore]

theorem keeps_execIllegalInstruction {a s t : State} {c : CoreIx} (h : a.Keeps s)
    (e : execIllegalInstruction c s = .next t) : a.Keeps t := by
  unfold execIllegalInstruction at e
  cases e
  grind (splits := 40) (ematch := 40) (gen := 40) [keeps_faultHere]

theorem keeps_execSend {a s t : State} {c : CoreIx} {f : Fields} (h : a.Keeps s)
    (e : execSend c f s = .next t) : a.Keeps t := by
  unfold execSend at e
  refine keeps_cu h (fun u hu => ?_) e
  grind (splits := 40) (ematch := 40) (gen := 40) [keeps_sendBody]

theorem keeps_execMm {a s t : State} {c : CoreIx} {f : Fields} (h : a.Keeps s)
    (e : execMm c f s = .next t) : a.Keeps t := by
  unfold execMm at e
  cases e
  exact keeps_orHold h (keeps_cu h (fun u hu => keeps_mmBody hu) rfl)

theorem keeps_execVx {a s t : State} {c : CoreIx} {f : Fields} (h : a.Keeps s)
    (e : execVx c f s = .next t) : a.Keeps t := by
  unfold execVx at e
  refine keeps_cu h (fun u hu => ?_) e
  grind (splits := 40) (ematch := 40) (gen := 40) [keeps_vxBody]

theorem keeps_execSf {a s t : State} {c : CoreIx} {f : Fields} (h : a.Keeps s)
    (e : execSf c f s = .next t) : a.Keeps t := by
  unfold execSf at e
  refine keeps_cu h (fun u hu => ?_) e
  grind (splits := 40) (ematch := 40) (gen := 40) [keeps_sfBody]

theorem keeps_execCp {a s t : State} {c : CoreIx} {f : Fields} (h : a.Keeps s)
    (e : execCp c f s = .next t) : a.Keeps t := by
  unfold execCp at e
  refine keeps_cu h (fun u hu => ?_) e
  grind (splits := 40) (ematch := 40) (gen := 40) [keeps_cpBody]

theorem keeps_execGa {a s t : State} {c : CoreIx} {f : Fields} (h : a.Keeps s)
    (e : execGa c f s = .next t) : a.Keeps t := by
  unfold execGa at e
  refine keeps_cu h (fun u hu => ?_) e
  grind (splits := 40) (ematch := 40) (gen := 40) [keeps_gaBody]

theorem keeps_execNz {a s t : State} {c : CoreIx} {f : Fields} (h : a.Keeps s)
    (e : execNz c f s = .next t) : a.Keeps t := by
  unfold execNz at e
  refine keeps_cu h (fun u hu => ?_) e
  grind (splits := 40) (ematch := 40) (gen := 40) [keeps_nzBody]

theorem keeps_execEngineOpStart {a s t : State} {c : CoreIx} {e_ : Fin 6} {acts : List Ahead} (h : a.Keeps s)
    (e : execEngineOpStart c e_ acts s = .next t) : a.Keeps t := by
  unfold execEngineOpStart at e
  cases e
  refine keeps_orHold h ?_
  grind (splits := 40) (ematch := 40) (gen := 40) [keeps_headStarted, keeps_orHold, keeps_startCopy, keeps_startGather, keeps_startVector]

theorem keeps_execMmComplete {a s t : State} {c : CoreIx} (h : a.Keeps s)
    (e : execMmComplete c s = .next t) : a.Keeps t := by
  unfold execMmComplete at e
  cases e
  refine keeps_orHold h ?_
  grind (splits := 40) (ematch := 40) (gen := 40) [keeps_finishVector, keeps_orHold]

theorem keeps_execVxComplete {a s t : State} {c : CoreIx} (h : a.Keeps s)
    (e : execVxComplete c s = .next t) : a.Keeps t := by
  unfold execVxComplete at e
  cases e
  refine keeps_orHold h ?_
  grind (splits := 40) (ematch := 40) (gen := 40) [keeps_attempt, keeps_finishVector]

theorem keeps_execSfComplete {a s t : State} {c : CoreIx} (h : a.Keeps s)
    (e : execSfComplete c s = .next t) : a.Keeps t := by
  unfold execSfComplete at e
  cases e
  refine keeps_orHold h ?_
  grind (splits := 40) (ematch := 40) (gen := 40) [keeps_attempt, keeps_complete, keeps_headStarted, keeps_updCore]

theorem keeps_execCpComplete {a s t : State} {c : CoreIx} (h : a.Keeps s)
    (e : execCpComplete c s = .next t) : a.Keeps t := by
  unfold execCpComplete at e
  cases e
  refine keeps_orHold h ?_
  grind (splits := 40) (ematch := 40) (gen := 40) [keeps_finishCopy, keeps_orHold]

theorem keeps_execGaComplete {a s t : State} {c : CoreIx} {acts : List Ahead} (h : a.Keeps s)
    (e : execGaComplete c acts s = .next t) : a.Keeps t := by
  unfold execGaComplete at e
  cases e
  refine keeps_orHold h ?_
  grind (splits := 40) (ematch := 40) (gen := 40) [keeps_complete, keeps_gaRun, keeps_headStarted, keeps_orHold]

theorem keeps_execNzComplete {a s t : State} {c : CoreIx} (h : a.Keeps s)
    (e : execNzComplete c s = .next t) : a.Keeps t := by
  unfold execNzComplete at e
  cases e
  refine keeps_orHold h ?_
  grind (splits := 40) (ematch := 40) (gen := 40) [keeps_attempt, keeps_complete, keeps_headStarted, keeps_updCore]

theorem keeps_execRemoteWrite {a s t : State} {c : CoreIx} (h : a.Keeps s)
    (e : execRemoteWrite c s = .next t) : a.Keeps t := by
  unfold execRemoteWrite at e
  cases e
  grind (splits := 40) (ematch := 40) (gen := 40) [keeps_countDrop, keeps_updCore]

theorem keeps_execRemoteAck {a s t : State} {c : CoreIx} (h : a.Keeps s)
    (e : execRemoteAck c s = .next t) : a.Keeps t := by
  unfold execRemoteAck at e
  cases e
  refine keeps_orHold h ?_
  grind (splits := 40) (ematch := 40) (gen := 40) [keeps_complete, keeps_orHold, keeps_planGo, keeps_pumpRelay, keeps_pushNote, keeps_queueNote, keeps_updCore, keeps_updHub, keeps_updOp, keeps_updSeqOp]

theorem keeps_execPrefixLookupDone {a s t : State} {b : BaseIx} (h : a.Keeps s)
    (e : execPrefixLookupDone b s = .next t) : a.Keeps t := by
  unfold execPrefixLookupDone at e
  cases e
  refine keeps_orHold h ?_
  grind (splits := 40) (ematch := 40) (gen := 40) [keeps_lookup, keeps_orHold, keeps_updBase, keeps_updCore]

theorem keeps_execVnop {a s t : State} {c : CoreIx} {f : TFields} (h : a.Keeps s)
    (e : execVnop c f s = .next t) : a.Keeps t := by
  unfold execVnop at e
  cases e
  refine keeps_orHold h ?_
  grind (splits := 40) (ematch := 40) (gen := 40) [keeps_attempt, keeps_tile]

theorem keeps_execVadd {a s t : State} {c : CoreIx} {f : TFields} (h : a.Keeps s)
    (e : execVadd c f s = .next t) : a.Keeps t := by
  unfold execVadd at e
  cases e
  refine keeps_orHold h ?_
  grind (splits := 40) (ematch := 40) (gen := 40) [keeps_attempt, keeps_tile]

theorem keeps_execVsub {a s t : State} {c : CoreIx} {f : TFields} (h : a.Keeps s)
    (e : execVsub c f s = .next t) : a.Keeps t := by
  unfold execVsub at e
  cases e
  refine keeps_orHold h ?_
  grind (splits := 40) (ematch := 40) (gen := 40) [keeps_attempt, keeps_tile]

theorem keeps_execVmul {a s t : State} {c : CoreIx} {f : TFields} (h : a.Keeps s)
    (e : execVmul c f s = .next t) : a.Keeps t := by
  unfold execVmul at e
  cases e
  refine keeps_orHold h ?_
  grind (splits := 40) (ematch := 40) (gen := 40) [keeps_attempt, keeps_tile]

theorem keeps_execVfma {a s t : State} {c : CoreIx} {f : TFields} (h : a.Keeps s)
    (e : execVfma c f s = .next t) : a.Keeps t := by
  unfold execVfma at e
  cases e
  refine keeps_orHold h ?_
  grind (splits := 40) (ematch := 40) (gen := 40) [keeps_attempt, keeps_tile]

theorem keeps_execVmin {a s t : State} {c : CoreIx} {f : TFields} (h : a.Keeps s)
    (e : execVmin c f s = .next t) : a.Keeps t := by
  unfold execVmin at e
  cases e
  refine keeps_orHold h ?_
  grind (splits := 40) (ematch := 40) (gen := 40) [keeps_attempt, keeps_tile]

theorem keeps_execVmax {a s t : State} {c : CoreIx} {f : TFields} (h : a.Keeps s)
    (e : execVmax c f s = .next t) : a.Keeps t := by
  unfold execVmax at e
  cases e
  refine keeps_orHold h ?_
  grind (splits := 40) (ematch := 40) (gen := 40) [keeps_attempt, keeps_tile]

theorem keeps_execVceq {a s t : State} {c : CoreIx} {f : TFields} (h : a.Keeps s)
    (e : execVceq c f s = .next t) : a.Keeps t := by
  unfold execVceq at e
  cases e
  refine keeps_orHold h ?_
  grind (splits := 40) (ematch := 40) (gen := 40) [keeps_attempt, keeps_tile]

theorem keeps_execVclt {a s t : State} {c : CoreIx} {f : TFields} (h : a.Keeps s)
    (e : execVclt c f s = .next t) : a.Keeps t := by
  unfold execVclt at e
  cases e
  refine keeps_orHold h ?_
  grind (splits := 40) (ematch := 40) (gen := 40) [keeps_attempt, keeps_tile]

theorem keeps_execVcle {a s t : State} {c : CoreIx} {f : TFields} (h : a.Keeps s)
    (e : execVcle c f s = .next t) : a.Keeps t := by
  unfold execVcle at e
  cases e
  refine keeps_orHold h ?_
  grind (splits := 40) (ematch := 40) (gen := 40) [keeps_attempt, keeps_tile]

theorem keeps_execVsel {a s t : State} {c : CoreIx} {f : TFields} (h : a.Keeps s)
    (e : execVsel c f s = .next t) : a.Keeps t := by
  unfold execVsel at e
  cases e
  refine keeps_orHold h ?_
  grind (splits := 40) (ematch := 40) (gen := 40) [keeps_attempt, keeps_tile]

theorem keeps_execVand {a s t : State} {c : CoreIx} {f : TFields} (h : a.Keeps s)
    (e : execVand c f s = .next t) : a.Keeps t := by
  unfold execVand at e
  cases e
  refine keeps_orHold h ?_
  grind (splits := 40) (ematch := 40) (gen := 40) [keeps_attempt, keeps_tile]

theorem keeps_execVor {a s t : State} {c : CoreIx} {f : TFields} (h : a.Keeps s)
    (e : execVor c f s = .next t) : a.Keeps t := by
  unfold execVor at e
  cases e
  refine keeps_orHold h ?_
  grind (splits := 40) (ematch := 40) (gen := 40) [keeps_attempt, keeps_tile]

theorem keeps_execVxor {a s t : State} {c : CoreIx} {f : TFields} (h : a.Keeps s)
    (e : execVxor c f s = .next t) : a.Keeps t := by
  unfold execVxor at e
  cases e
  refine keeps_orHold h ?_
  grind (splits := 40) (ematch := 40) (gen := 40) [keeps_attempt, keeps_tile]

theorem keeps_execVldx {a s t : State} {c : CoreIx} {f : TFields} (h : a.Keeps s)
    (e : execVldx c f s = .next t) : a.Keeps t := by
  unfold execVldx at e
  cases e
  refine keeps_orHold h ?_
  grind (splits := 40) (ematch := 40) (gen := 40) [keeps_attempt, keeps_tile]

theorem keeps_execVldy {a s t : State} {c : CoreIx} {f : TFields} (h : a.Keeps s)
    (e : execVldy c f s = .next t) : a.Keeps t := by
  unfold execVldy at e
  cases e
  refine keeps_orHold h ?_
  grind (splits := 40) (ematch := 40) (gen := 40) [keeps_attempt, keeps_tile]

theorem keeps_execVldz {a s t : State} {c : CoreIx} {f : TFields} (h : a.Keeps s)
    (e : execVldz c f s = .next t) : a.Keeps t := by
  unfold execVldz at e
  cases e
  refine keeps_orHold h ?_
  grind (splits := 40) (ematch := 40) (gen := 40) [keeps_attempt, keeps_tile]

theorem keeps_execVsto {a s t : State} {c : CoreIx} {f : TFields} (h : a.Keeps s)
    (e : execVsto c f s = .next t) : a.Keeps t := by
  unfold execVsto at e
  cases e
  refine keeps_orHold h ?_
  grind (splits := 40) (ematch := 40) (gen := 40) [keeps_attempt, keeps_tile]

theorem keeps_execVlds {a s t : State} {c : CoreIx} {f : TFields} (h : a.Keeps s)
    (e : execVlds c f s = .next t) : a.Keeps t := by
  unfold execVlds at e
  cases e
  refine keeps_orHold h ?_
  grind (splits := 40) (ematch := 40) (gen := 40) [keeps_attempt, keeps_tile]

theorem keeps_execVsts {a s t : State} {c : CoreIx} {f : TFields} (h : a.Keeps s)
    (e : execVsts c f s = .next t) : a.Keeps t := by
  unfold execVsts at e
  cases e
  refine keeps_orHold h ?_
  grind (splits := 40) (ematch := 40) (gen := 40) [keeps_attempt, keeps_tile]

theorem keeps_execVimm {a s t : State} {c : CoreIx} {f : TFields} (h : a.Keeps s)
    (e : execVimm c f s = .next t) : a.Keeps t := by
  unfold execVimm at e
  cases e
  refine keeps_orHold h ?_
  grind (splits := 40) (ematch := 40) (gen := 40) [keeps_attempt, keeps_tile]

theorem keeps_execVsys {a s t : State} {c : CoreIx} {f : TFields} (h : a.Keeps s)
    (e : execVsys c f s = .next t) : a.Keeps t := by
  unfold execVsys at e
  cases e
  refine keeps_orHold h ?_
  grind (splits := 40) (ematch := 40) (gen := 40) [keeps_attempt, keeps_tile]

theorem keeps_execVidx {a s t : State} {c : CoreIx} {f : TFields} (h : a.Keeps s)
    (e : execVidx c f s = .next t) : a.Keeps t := by
  unfold execVidx at e
  cases e
  refine keeps_orHold h ?_
  grind (splits := 40) (ematch := 40) (gen := 40) [keeps_attempt, keeps_tile]

theorem keeps_execVcvt {a s t : State} {c : CoreIx} {f : TFields} (h : a.Keeps s)
    (e : execVcvt c f s = .next t) : a.Keeps t := by
  unfold execVcvt at e
  cases e
  refine keeps_orHold h ?_
  grind (splits := 40) (ematch := 40) (gen := 40) [keeps_attempt, keeps_tile]

theorem keeps_execVsfn {a s t : State} {c : CoreIx} {f : TFields} (h : a.Keeps s)
    (e : execVsfn c f s = .next t) : a.Keeps t := by
  unfold execVsfn at e
  cases e
  refine keeps_orHold h ?_
  grind (splits := 40) (ematch := 40) (gen := 40) [keeps_attempt, keeps_tile]

theorem keeps_execRclr {a s t : State} {c : CoreIx} {f : TFields} (h : a.Keeps s)
    (e : execRclr c f s = .next t) : a.Keeps t := by
  unfold execRclr at e
  cases e
  refine keeps_orHold h ?_
  grind (splits := 40) (ematch := 40) (gen := 40) [keeps_attempt, keeps_tile]

theorem keeps_execRsx {a s t : State} {c : CoreIx} {f : TFields} (h : a.Keeps s)
    (e : execRsx c f s = .next t) : a.Keeps t := by
  unfold execRsx at e
  cases e
  refine keeps_orHold h ?_
  grind (splits := 40) (ematch := 40) (gen := 40) [keeps_attempt, keeps_tile]

theorem keeps_execRsl {a s t : State} {c : CoreIx} {f : TFields} (h : a.Keeps s)
    (e : execRsl c f s = .next t) : a.Keeps t := by
  unfold execRsl at e
  cases e
  refine keeps_orHold h ?_
  grind (splits := 40) (ematch := 40) (gen := 40) [keeps_attempt, keeps_tile]

theorem keeps_execRmean {a s t : State} {c : CoreIx} {f : TFields} (h : a.Keeps s)
    (e : execRmean c f s = .next t) : a.Keeps t := by
  unfold execRmean at e
  cases e
  refine keeps_orHold h ?_
  grind (splits := 40) (ematch := 40) (gen := 40) [keeps_attempt, keeps_tile]

theorem keeps_execRvar {a s t : State} {c : CoreIx} {f : TFields} (h : a.Keeps s)
    (e : execRvar c f s = .next t) : a.Keeps t := by
  unfold execRvar at e
  cases e
  refine keeps_orHold h ?_
  grind (splits := 40) (ematch := 40) (gen := 40) [keeps_attempt, keeps_tile]

theorem keeps_execRdiv {a s t : State} {c : CoreIx} {f : TFields} (h : a.Keeps s)
    (e : execRdiv c f s = .next t) : a.Keeps t := by
  unfold execRdiv at e
  cases e
  refine keeps_orHold h ?_
  grind (splits := 40) (ematch := 40) (gen := 40) [keeps_attempt, keeps_tile]

theorem keeps_execRsmax {a s t : State} {c : CoreIx} {f : TFields} (h : a.Keeps s)
    (e : execRsmax c f s = .next t) : a.Keeps t := by
  unfold execRsmax at e
  cases e
  refine keeps_orHold h ?_
  grind (splits := 40) (ematch := 40) (gen := 40) [keeps_attempt, keeps_tile]

theorem keeps_execRprob {a s t : State} {c : CoreIx} {f : TFields} (h : a.Keeps s)
    (e : execRprob c f s = .next t) : a.Keeps t := by
  unfold execRprob at e
  cases e
  refine keeps_orHold h ?_
  grind (splits := 40) (ematch := 40) (gen := 40) [keeps_attempt, keeps_tile]

theorem keeps_execRstr {a s t : State} {c : CoreIx} {f : TFields} (h : a.Keeps s)
    (e : execRstr c f s = .next t) : a.Keeps t := by
  unfold execRstr at e
  cases e
  refine keeps_orHold h ?_
  grind (splits := 40) (ematch := 40) (gen := 40) [keeps_attempt, keeps_tile]

theorem keeps_execRldr {a s t : State} {c : CoreIx} {f : TFields} (h : a.Keeps s)
    (e : execRldr c f s = .next t) : a.Keeps t := by
  unfold execRldr at e
  cases e
  refine keeps_orHold h ?_
  grind (splits := 40) (ematch := 40) (gen := 40) [keeps_attempt, keeps_tile]

theorem keeps_execRaddr {a s t : State} {c : CoreIx} {f : TFields} (h : a.Keeps s)
    (e : execRaddr c f s = .next t) : a.Keeps t := by
  unfold execRaddr at e
  cases e
  refine keeps_orHold h ?_
  grind (splits := 40) (ematch := 40) (gen := 40) [keeps_attempt, keeps_tile]

theorem keeps_execRdfr {a s t : State} {c : CoreIx} {f : TFields} (h : a.Keeps s)
    (e : execRdfr c f s = .next t) : a.Keeps t := by
  unfold execRdfr at e
  cases e
  refine keeps_orHold h ?_
  grind (splits := 40) (ematch := 40) (gen := 40) [keeps_attempt, keeps_tile]

theorem keeps_execRscale {a s t : State} {c : CoreIx} {f : TFields} (h : a.Keeps s)
    (e : execRscale c f s = .next t) : a.Keeps t := by
  unfold execRscale at e
  cases e
  refine keeps_orHold h ?_
  grind (splits := 40) (ematch := 40) (gen := 40) [keeps_attempt, keeps_tile]

theorem keeps_execCldg {a s t : State} {c : CoreIx} {f : TFields} (h : a.Keeps s)
    (e : execCldg c f s = .next t) : a.Keeps t := by
  unfold execCldg at e
  cases e
  refine keeps_orHold h ?_
  grind (splits := 40) (ematch := 40) (gen := 40) [keeps_attempt, keeps_tile]

theorem keeps_execCfeed {a s t : State} {c : CoreIx} {f : TFields} (h : a.Keeps s)
    (e : execCfeed c f s = .next t) : a.Keeps t := by
  unfold execCfeed at e
  cases e
  refine keeps_orHold h ?_
  grind (splits := 40) (ematch := 40) (gen := 40) [keeps_attempt, keeps_tile]

theorem keeps_execCscale {a s t : State} {c : CoreIx} {f : TFields} (h : a.Keeps s)
    (e : execCscale c f s = .next t) : a.Keeps t := by
  unfold execCscale at e
  cases e
  refine keeps_orHold h ?_
  grind (splits := 40) (ematch := 40) (gen := 40) [keeps_attempt, keeps_tile]

theorem keeps_execMessageInject {a s t : State} {i : Iface} (h : a.Keeps s)
    (e : execMessageInject i s = .next t) : a.Keeps t := by
  unfold execMessageInject at e
  cases e
  refine keeps_orHold h ?_
  grind (splits := 40) (ematch := 40) (gen := 40) [keeps_attempt, keeps_setMsgs, keeps_tokenDone, keeps_updSeqOp]

theorem keeps_execMessageArrival {a s t : State} {i : Iface} {q : QueueIx} (h : a.Keeps s)
    (e : execMessageArrival i q s = .next t) : a.Keeps t := by
  unfold execMessageArrival at e
  cases e
  refine keeps_orHold h ?_
  grind (splits := 40) (ematch := 40) (gen := 40) [keeps_attempt, keeps_countDrop, keeps_markMsg, keeps_offer, keeps_updCore, keeps_updMeadow]

theorem keeps_execMessageResponse {a s t : State} {i : Iface} {q : QueueIx} (h : a.Keeps s)
    (e : execMessageResponse i q s = .next t) : a.Keeps t := by
  unfold execMessageResponse at e
  cases e
  grind (splits := 40) (ematch := 40) (gen := 40) [keeps_markMsg, keeps_noteDropped, keeps_setMsgs, keeps_updHub]

theorem keeps_execMessageResend {a s t : State} {i : Iface} {q : QueueIx} (h : a.Keeps s)
    (e : execMessageResend i q s = .next t) : a.Keeps t := by
  unfold execMessageResend at e
  cases e
  grind (splits := 40) (ematch := 40) (gen := 40) [keeps_markMsg]

theorem keeps_execOpen {a s t : State} {m : MeadowIx} (h : a.Keeps s)
    (e : execOpen m s = .next t) : a.Keeps t := by
  unfold execOpen at e
  cases e
  refine keeps_orHold h (keeps_settledFrom ?_)
  grind (splits := 40) (ematch := 40) (gen := 40) [keeps_hostRow, keeps_openWrite]

theorem keeps_execEpochOpen {a s t : State} {m : MeadowIx} (h : a.Keeps s)
    (e : execEpochOpen m s = .next t) : a.Keeps t := by
  unfold execEpochOpen at e
  cases e
  refine keeps_orHold h (keeps_settledFrom ?_)
  grind (splits := 40) (ematch := 40) (gen := 40) [keeps_tryOpen]

theorem keeps_execSwitch {a s t : State} {m : MeadowIx} {next : JobIx} (h : a.Keeps s)
    (e : execSwitch m next s = .next t) : a.Keeps t := by
  unfold execSwitch at e
  cases e
  grind (splits := 40) (ematch := 40) (gen := 40) [keeps_hostRow, keeps_switchWrite]

theorem keeps_execJobSaveDone {a s t : State} {m : MeadowIx} (h : a.Keeps s)
    (e : execJobSaveDone m s = .next t) : a.Keeps t := by
  unfold execJobSaveDone at e
  cases e
  refine keeps_orHold h (keeps_settledFrom ?_)
  grind (splits := 40) (ematch := 40) (gen := 40) [keeps_endSwitch, keeps_epochCode, keeps_raiseM, keeps_replay, keeps_saveJob, keeps_updMeadow]

theorem keeps_execJobLoadDone {a s t : State} {m : MeadowIx} (h : a.Keeps s)
    (e : execJobLoadDone m s = .next t) : a.Keeps t := by
  unfold execJobLoadDone at e
  cases e
  refine keeps_orHold h (keeps_settledFrom ?_)
  grind (splits := 40) (ematch := 40) (gen := 40) [keeps_endSwitch, keeps_loadJob, keeps_raiseM, keeps_updMeadow]

theorem keeps_execBoundaryDrained {a s t : State} {m : MeadowIx} (h : a.Keeps s)
    (e : execBoundaryDrained m s = .next t) : a.Keeps t := by
  unfold execBoundaryDrained at e
  cases e
  grind (splits := 40) (ematch := 40) (gen := 40) [keeps_drainEnd]

theorem keeps_execSeqStart {a s t : State} {m : MeadowIx} {j : JobIx} (h : a.Keeps s)
    (e : execSeqStart m j s = .next t) : a.Keeps t := by
  unfold execSeqStart at e
  cases e
  grind (splits := 40) (ematch := 40) (gen := 40) [keeps_hostRow, keeps_seqStart]

theorem keeps_execScheduleRead {a s t : State} {m : MeadowIx} {j : JobIx} (h : a.Keeps s)
    (e : execScheduleRead m j s = .next t) : a.Keeps t := by
  unfold execScheduleRead at e
  cases e
  refine keeps_orHold h (keeps_settledFrom ?_)
  grind (splits := 40) (ematch := 40) (gen := 40) [keeps_readEntry, keeps_updMeadow]

theorem keeps_execStallClear {a s t : State} {m : MeadowIx} (h : a.Keeps s)
    (e : execStallClear m s = .next t) : a.Keeps t := by
  unfold execStallClear at e
  cases e
  grind (splits := 40) (ematch := 40) (gen := 40) [keeps_hostRow, keeps_updCores]

theorem keeps_execCollectivePoll {a s t : State} {m : MeadowIx} (h : a.Keeps s)
    (e : execCollectivePoll m s = .next t) : a.Keeps t := by
  unfold execCollectivePoll at e
  cases e
  refine keeps_orHold h (keeps_settledFrom ?_)
  grind (splits := 40) (ematch := 40) (gen := 40) [keeps_mreadAll, keeps_swNext, keeps_updMeadow]

theorem keeps_execCollectiveComplete {a s t : State} {m : MeadowIx} {members : List Member} (h : a.Keeps s)
    (e : execCollectiveComplete m members s = .next t) : a.Keeps t := by
  unfold execCollectiveComplete at e
  cases e
  refine keeps_orHold h (keeps_settledFrom ?_)
  grind (splits := 40) (ematch := 40) (gen := 40) [keeps_collectiveDone, keeps_collectiveEnd, keeps_collectiveFails, keeps_collectiveSend, keeps_swNext]

theorem keeps_execPortTrainingDone {a s t : State} {n : SwPort} {t_ : Training} (h : a.Keeps s)
    (e : execPortTrainingDone n t_ s = .next t) : a.Keeps t := by
  unfold execPortTrainingDone at e
  cases e
  grind (splits := 40) (ematch := 40) (gen := 40) [keeps_swTrained, keeps_toStep8]

theorem keeps_execSwarmRetrainDone {a s t : State} {n : SwPort} {t_ : Training} (h : a.Keeps s)
    (e : execSwarmRetrainDone n t_ s = .next t) : a.Keeps t := by
  unfold execSwarmRetrainDone at e
  cases e
  refine keeps_orHold h (keeps_settledFrom ?_)
  grind (splits := 40) (ematch := 40) (gen := 40) [keeps_swRebuild, keeps_swTrained, keeps_toStep8]

theorem keeps_execAdmission {a s t : State} {n : SwPort} {r : PeerReport} (h : a.Keeps s)
    (e : execAdmission n r s = .next t) : a.Keeps t := by
  unfold execAdmission at e
  cases e
  refine keeps_orHold h (keeps_settledFrom ?_)
  split
  · exact h
  · dsimp only
    split
    · exact keeps_swRebuild (keeps_updSw h)
    · rename_i e1
      have h2 := keeps_identitySign (keeps_freeBytes h) e1
      split
      · exact keeps_swRebuild (keeps_updSw (keeps_emit h2))
      · refine keeps_swRebuild ?_
        split
        · exact keeps_failPeer (keeps_updSw (keeps_fresh (keeps_emit h2)))
        · exact keeps_swResend (keeps_updSw (keeps_fresh (keeps_emit h2)))

theorem keeps_execSwarmFrame {a s t : State} {n : SwPort} {gen : Half} {f : SwFrame} (h : a.Keeps s)
    (e : execSwarmFrame n gen f s = .next t) : a.Keeps t := by
  unfold execSwarmFrame at e
  cases e
  refine keeps_orHold h (keeps_settledFrom ?_)
  grind (splits := 40) (ematch := 40) (gen := 40) [keeps_emit, keeps_foldl, keeps_foldl_snd, keeps_swControl, keeps_swDeliver, keeps_swEmit, keeps_swNext, keeps_swRebuild, keeps_swRetrain, keeps_updMeadow, keeps_updSw]

theorem keeps_execSwarmAckTimeout {a s t : State} {n : SwPort} (h : a.Keeps s)
    (e : execSwarmAckTimeout n s = .next t) : a.Keeps t := by
  unfold execSwarmAckTimeout at e
  cases e
  refine keeps_orHold h (keeps_settledFrom ?_)
  grind (splits := 40) (ematch := 40) (gen := 40) [keeps_swRetrain]

theorem keeps_execSwarmRingWrite {a s t : State} {m : MeadowIx} {v : Dword} (h : a.Keeps s)
    (e : execSwarmRingWrite m v s = .next t) : a.Keeps t := by
  unfold execSwarmRingWrite at e
  cases e
  grind (splits := 40) (ematch := 40) (gen := 40) [keeps_hostRow, keeps_swRingWrite]

theorem keeps_execGvspPacket {a s t : State} {l : LaneIx} {p : Gvsp} (h : a.Keeps s)
    (e : execGvspPacket l p s = .next t) : a.Keeps t := by
  unfold execGvspPacket at e
  cases e
  refine keeps_orHold h (keeps_settledFrom ?_)
  grind (splits := 40) (ematch := 40) (gen := 40) [keeps_gvspIn, keeps_rxDrop]

theorem keeps_execHello {a s t : State} {l : LaneIx} {h_ : MmpHdr} {b : List Byte} (h : a.Keeps s)
    (e : execHello l h_ b s = .next t) : a.Keeps t := by
  unfold execHello at e
  cases e
  refine keeps_orHold h (keeps_settledFrom ?_)
  grind (splits := 40) (ematch := 40) (gen := 40) [keeps_acceptHello, keeps_refuseHello, keeps_rxDrop, keeps_updTrn]

theorem keeps_execReady {a s t : State} {l : LaneIx} {h_ : MmpHdr} (h : a.Keeps s)
    (e : execReady l h_ s = .next t) : a.Keeps t := by
  unfold execReady at e
  cases e
  grind (splits := 40) (ematch := 40) (gen := 40) [keeps_onMessage, keeps_updTrn]

theorem keeps_execStopped {a s t : State} {l : LaneIx} {h_ : MmpHdr} {_lastFrame : Word} {_lastLine : Word} (h : a.Keeps s)
    (e : execStopped l h_ _lastFrame _lastLine s = .next t) : a.Keeps t := by
  unfold execStopped at e
  cases e
  refine keeps_orHold h (keeps_settledFrom ?_)
  grind (splits := 40) (ematch := 40) (gen := 40) [keeps_finishAll, keeps_onMessage, keeps_updTrn]

theorem keeps_execAlive {a s t : State} {l : LaneIx} {h_ : MmpHdr} (h : a.Keeps s)
    (e : execAlive l h_ s = .next t) : a.Keeps t := by
  unfold execAlive at e
  cases e
  grind (splits := 40) (ematch := 40) (gen := 40) [keeps_onMessage]

theorem keeps_execBye {a s t : State} {l : LaneIx} {h_ : MmpHdr} {code : Half} (h : a.Keeps s)
    (e : execBye l h_ code s = .next t) : a.Keeps t := by
  unfold execBye at e
  cases e
  refine keeps_orHold h (keeps_settledFrom ?_)
  grind (splits := 40) (ematch := 40) (gen := 40) [keeps_endSession, keeps_onMessage]

theorem keeps_execMmpResend {a s t : State} {seq : Word} (h : a.Keeps s)
    (e : execMmpResend seq s = .next t) : a.Keeps t := by
  unfold execMmpResend at e
  cases e
  refine keeps_orHold h (keeps_settledFrom ?_)
  grind (splits := 40) (ematch := 40) (gen := 40) [keeps_emit, keeps_endSession, keeps_mmp, keeps_updTrn]

theorem keeps_execMmpIdleTimer {a s t : State}  (h : a.Keeps s)
    (e : execMmpIdleTimer s = .next t) : a.Keeps t := by
  unfold execMmpIdleTimer at e
  cases e
  grind (splits := 40) (ematch := 40) (gen := 40) [keeps_mmp]

theorem keeps_execPartnerLost {a s t : State}  (h : a.Keeps s)
    (e : execPartnerLost s = .next t) : a.Keeps t := by
  unfold execPartnerLost at e
  cases e
  refine keeps_orHold h (keeps_settledFrom ?_)
  grind (splits := 40) (ematch := 40) (gen := 40) [keeps_endSession]

theorem keeps_execHostCountPoll {a s t : State}  (h : a.Keeps s)
    (e : execHostCountPoll s = .next t) : a.Keeps t := by
  unfold execHostCountPoll at e
  cases e
  refine keeps_orHold h (keeps_settledFrom ?_)
  grind (splits := 40) (ematch := 40) (gen := 40) [keeps_readHostCount, keeps_sendRun]

theorem keeps_execLineSend {a s t : State} {absent : Half} (h : a.Keeps s)
    (e : execLineSend absent s = .next t) : a.Keeps t := by
  unfold execLineSend at e
  cases e
  refine keeps_orHold h (keeps_settledFrom ?_)
  grind (splits := 40) (ematch := 40) (gen := 40) [keeps_sendLine]

theorem keeps_execTrnRun {a s t : State} {p : PortIx} (h : a.Keeps s)
    (e : execTrnRun p s = .next t) : a.Keeps t := by
  unfold execTrnRun at e
  cases e
  refine keeps_orHold h (keeps_settledFrom ?_)
  grind (splits := 40) (ematch := 40) (gen := 40) [keeps_trnRun]

theorem keeps_execTrnPause {a s t : State} {p : PortIx} (h : a.Keeps s)
    (e : execTrnPause p s = .next t) : a.Keeps t := by
  unfold execTrnPause at e
  cases e
  grind (splits := 40) (ematch := 40) (gen := 40) [keeps_trnPause]

theorem keeps_execTrnEnd {a s t : State} {p : PortIx} (h : a.Keeps s)
    (e : execTrnEnd p s = .next t) : a.Keeps t := by
  unfold execTrnEnd at e
  cases e
  refine keeps_orHold h (keeps_settledFrom ?_)
  grind (splits := 40) (ematch := 40) (gen := 40) [keeps_trnEnd]

theorem keeps_execLaneStateChange {a s t : State} {l : LaneIx} {up : Bool} {cr1 : Bool} (h : a.Keeps s)
    (e : execLaneStateChange l up cr1 s = .next t) : a.Keeps t := by
  unfold execLaneStateChange at e
  cases e
  grind (splits := 40) (ematch := 40) (gen := 40) [keeps_toStep8, keeps_updTrn]

theorem keeps_execArpRequest {a s t : State} {l : LaneIx} {ip : Word} (h : a.Keeps s)
    (e : execArpRequest l ip s = .next t) : a.Keeps t := by
  unfold execArpRequest at e
  cases e
  grind (splits := 40) (ematch := 40) (gen := 40) [keeps_emit]

theorem keeps_execUnacceptedFrame {a s t : State} {l : LaneIx} (h : a.Keeps s)
    (e : execUnacceptedFrame l s = .next t) : a.Keeps t := by
  unfold execUnacceptedFrame at e
  cases e
  grind (splits := 40) (ematch := 40) (gen := 40) [keeps_rxDrop]

theorem keeps_execCicadaPoll {a s t : State} {n : PipeIx} (h : a.Keeps s)
    (e : execCicadaPoll n s = .next t) : a.Keeps t := by
  unfold execCicadaPoll at e
  cases e
  refine keeps_orHold h (keeps_settledFrom ?_)
  grind (splits := 40) (ematch := 40) (gen := 40) [keeps_cicRead, keeps_cicTake, keeps_updPipe]

theorem keeps_execEncodeComplete {a s t : State} {n : PipeIx} (h : a.Keeps s)
    (e : execEncodeComplete n s = .next t) : a.Keeps t := by
  unfold execEncodeComplete at e
  cases e
  refine keeps_orHold h (keeps_settledFrom ?_)
  grind (splits := 40) (ematch := 40) (gen := 40) [keeps_cicStop, keeps_encEmit, keeps_encReads, keeps_updPipe]

theorem keeps_execDecodeComplete {a s t : State} {n : PipeIx} (h : a.Keeps s)
    (e : execDecodeComplete n s = .next t) : a.Keeps t := by
  unfold execDecodeComplete at e
  cases e
  refine keeps_orHold h (keeps_settledFrom ?_)
  grind (splits := 40) (ematch := 40) (gen := 40) [keeps_cicFail, keeps_cicGet, keeps_decEmit, keeps_decReads, keeps_fresh]

theorem keeps_execDecodeWorkBound {a s t : State} {n : PipeIx} (h : a.Keeps s)
    (e : execDecodeWorkBound n s = .next t) : a.Keeps t := by
  unfold execDecodeWorkBound at e
  cases e
  grind (splits := 40) (ematch := 40) (gen := 40) [keeps_updPipe]

theorem keeps_execCicRingWrite {a s t : State} {m : MeadowIx} {n : PipeIx} {v : Dword} (h : a.Keeps s)
    (e : execCicRingWrite m n v s = .next t) : a.Keeps t := by
  unfold execCicRingWrite at e
  cases e
  grind (splits := 40) (ematch := 40) (gen := 40) [keeps_cicRingWrite, keeps_hostRow]

theorem keeps_execMailboxCommandComplete {a s t : State} {p : PortIx} (h : a.Keeps s)
    (e : execMailboxCommandComplete p s = .next t) : a.Keeps t := by
  unfold execMailboxCommandComplete at e
  cases e
  grind (splits := 40) (ematch := 40) (gen := 40) [keeps_publish]

theorem keeps_execSextonDmaTimeout {a s t : State} {p : PortIx} (h : a.Keeps s)
    (e : execSextonDmaTimeout p s = .next t) : a.Keeps t := by
  unfold execSextonDmaTimeout at e
  cases e
  grind (splits := 40) (ematch := 40) (gen := 40) [keeps_mailEnd, keeps_updSxt]

theorem keeps_execFirmwareLoad {a s t : State} {p : PortIx} {data : Option (List Byte)} (h : a.Keeps s)
    (e : execFirmwareLoad p data s = .next t) : a.Keeps t := by
  unfold execFirmwareLoad at e
  cases e
  refine keeps_onMail h fun j => ?_
  dsimp only
  split
  · exact keeps_mailEnd h
  · split
    · exact keeps_updSxt (keeps_mailEnd h) rfl rfl rfl rfl
    · rename_i b
      split
      · exact keeps_bootRefuse (keeps_mailEnd h)
      · split
        · exact keeps_bootRefuse (keeps_mailEnd h)
        · split
          · exact keeps_bootRefuse (keeps_mailEnd h)
          · refine keeps_mailEnd (keeps_startLinks (keeps_makeIdentity ?_))
            obtain ⟨h1, h2, h3, h4, h5, h6, h7, h8, h9⟩ := h
            refine ⟨h1, h2, h3, h4, Nat.le_trans h5 (Nat.le_add_right _ _), h6, h7, Nat.le_trans h8 ?_, h9⟩
            simp only [State.updSxt]
            split
            · exact Nat.le_max_left _ _
            · exact Nat.le_refl _

theorem keeps_execStreamLoad {a s t : State} {p : PortIx} {data : Option (List Byte)} (h : a.Keeps s)
    (e : execStreamLoad p data s = .next t) : a.Keeps t := by
  unfold execStreamLoad at e
  cases e
  refine keeps_orHold h (keeps_settledFrom (keeps_onMail h fun j => ?_))
  dsimp only
  split
  · exact keeps_mailEnd h
  · split
    · exact keeps_updSxt (keeps_mailEnd h) rfl rfl rfl rfl
    · split
      · exact keeps_bootRefuse (keeps_mailEnd (keeps_set_qorf (keeps_set_qorf h)))
      · rename_i e1
        exact keeps_mailEnd (keeps_acceptQorf (keeps_checkStream (keeps_updSxt (keeps_set_qorf h) rfl rfl rfl rfl) e1))

theorem keeps_execAttest {a s t : State} {p : PortIx} {data : Option (List Byte)} (h : a.Keeps s)
    (e : execAttest p data s = .next t) : a.Keeps t := by
  unfold execAttest at e
  cases e
  refine keeps_orHold h (keeps_settledFrom (keeps_onMail h fun j => ?_))
  dsimp only
  split
  · exact keeps_mailEnd h
  · split
    · exact keeps_mailEnd h
    · rename_i b
      split
      · exact keeps_mailEnd h
      · split
        · exact keeps_mailEnd h
        · have h1 := keeps_rangeBytes (m := fieldNat b 32 1) (b := b) (x0 := upFrom 0 (fieldNat b 33 1)) h
          split
          · rename_i e1
            rw [e1] at h1
            exact keeps_mailEnd h1
          · rename_i e1
            rw [e1] at h1
            split
            · exact keeps_mailEnd h1
            · rename_i e2
              exact keeps_mailEnd (keeps_emit (keeps_identitySign h1 e2))

theorem keeps_execCertRead {a s t : State} {p : PortIx} {ok : Bool} (h : a.Keeps s)
    (e : execCertRead p ok s = .next t) : a.Keeps t := by
  unfold execCertRead at e
  cases e
  grind (splits := 40) (ematch := 40) (gen := 40) [keeps_emit, keeps_mailEnd, keeps_onMail]

theorem keeps_execKeyLoad {a s t : State} {p : PortIx} {data : Option (List Byte)} (h : a.Keeps s)
    (e : execKeyLoad p data s = .next t) : a.Keeps t := by
  unfold execKeyLoad at e
  cases e
  grind (splits := 40) (ematch := 40) (gen := 40) [keeps_mailEnd, keeps_onMail, keeps_updPkg, keeps_updSxt]

theorem keeps_execDebugRead {a s t : State} {p : PortIx} (h : a.Keeps s)
    (e : execDebugRead p s = .next t) : a.Keeps t := by
  unfold execDebugRead at e
  cases e
  grind (splits := 40) (ematch := 40) (gen := 40) [keeps_mailEnd, keeps_onMail, keeps_updCore]

theorem keeps_execTdiLeaveRun {a s t : State} {p : PortIx} {f : FnIx} {err : Bool} (h : a.Keeps s)
    (e : execTdiLeaveRun p f err s = .next t) : a.Keeps t := by
  unfold execTdiLeaveRun at e
  cases e
  grind (splits := 40) (ematch := 40) (gen := 40) [keeps_setTdi]

theorem keeps_execSpdmRequest {a s t : State} {p : PortIx} {f : FnIx} {r : Spdm} (h : a.Keeps s)
    (e : execSpdmRequest p f r s = .next t) : a.Keeps t := by
  unfold execSpdmRequest at e
  cases e
  grind (splits := 40) (ematch := 40) (gen := 40) [keeps_emit, keeps_identitySign, keeps_setTdi, keeps_updFn, keeps_updSxt]

theorem keeps_execLockstepDisagree {a s t : State}  (h : a.Keeps s)
    (e : execLockstepDisagree s = .next t) : a.Keeps t := by
  unfold execLockstepDisagree at e
  cases e
  grind (splits := 40) (ematch := 40) (gen := 40) [keeps_bench, keeps_updSxt]

theorem keeps_execSet {a s t : State} {p : PortIx} {data : Option (List Byte)} (h : a.Keeps s)
    (e : execSet p data s = .next t) : a.Keeps t := by
  unfold execSet at e
  cases e
  grind (splits := 40) (ematch := 40) (gen := 40) [keeps_guardRow, keeps_mailEnd, keeps_registerGuard]

theorem keeps_execRetire {a s t : State} {p : PortIx} {data : Option (List Byte)} (h : a.Keeps s)
    (e : execRetire p data s = .next t) : a.Keeps t := by
  unfold execRetire at e
  cases e
  refine keeps_orHold h (keeps_settledFrom ?_)
  grind (splits := 40) (ematch := 40) (gen := 40) [keeps_guardRow, keeps_mailEnd, keeps_retireNow]

theorem keeps_execReturn {a s t : State} {p : PortIx} {data : Option (List Byte)} (h : a.Keeps s)
    (e : execReturn p data s = .next t) : a.Keeps t := by
  unfold execReturn at e
  cases e
  grind (splits := 40) (ematch := 40) (gen := 40) [keeps_burnLife, keeps_guardRow, keeps_journal, keeps_mailEnd, keeps_updSxt]

theorem keeps_execProvision {a s t : State} {p : PortIx} {data : Option (List Byte)} (h : a.Keeps s)
    (e : execProvision p data s = .next t) : a.Keeps t := by
  unfold execProvision at e
  cases e
  grind (splits := 40) (ematch := 40) (gen := 40) [keeps_emit, keeps_guardRow, keeps_mailEnd, keeps_updSxt]

theorem keeps_execCertify {a s t : State} {p : PortIx} {data : Option (List Byte)} {binds : Bool} (h : a.Keeps s)
    (e : execCertify p data binds s = .next t) : a.Keeps t := by
  unfold execCertify at e
  cases e
  grind (splits := 40) (ematch := 40) (gen := 40) [keeps_burnLife, keeps_guardRow, keeps_mailEnd, keeps_updSxt]

theorem keeps_execTestEntry {a s t : State} {p : PortIx} {data : Option (List Byte)} (h : a.Keeps s)
    (e : execTestEntry p data s = .next t) : a.Keeps t := by
  unfold execTestEntry at e
  cases e
  grind (splits := 40) (ematch := 40) (gen := 40) [keeps_burnLife, keeps_guardRow, keeps_mailEnd, keeps_updSxt]

theorem keeps_execStemAck {a s t : State} {k : Fin 4} (h : a.Keeps s)
    (e : execStemAck k s = .next t) : a.Keeps t := by
  unfold execStemAck at e
  cases e
  refine keeps_orHold h (keeps_settledFrom ?_)
  grind (splits := 40) (ematch := 40) (gen := 40) [keeps_ackEffect, keeps_pumpAll, keeps_stemEnd, keeps_updSxt]

theorem keeps_execStemNoAck {a s t : State} {k : Fin 4} {silent : List Silent} (h : a.Keeps s)
    (e : execStemNoAck k silent s = .next t) : a.Keeps t := by
  unfold execStemNoAck at e
  cases e
  grind (splits := 40) (ematch := 40) (gen := 40) [keeps_askRepair, keeps_bistHook, keeps_failEpoch, keeps_foldl, keeps_foldl_snd, keeps_kickRepair, keeps_pumpAll, keeps_stemEnd, keeps_updSxt]

theorem keeps_execCtlStopMeadow {a s t : State} {p : PortIx} {f : FnIx} {m : MeadowIx} {tag : Half} (h : a.Keeps s)
    (e : execCtlStopMeadow p f m tag s = .next t) : a.Keeps t := by
  unfold execCtlStopMeadow at e
  cases e
  grind (splits := 40) (ematch := 40) (gen := 40) [keeps_ctlWrite]

theorem keeps_execCtlStopPort {a s t : State} {p : PortIx} {f : FnIx} {tag : Half} (h : a.Keeps s)
    (e : execCtlStopPort p f tag s = .next t) : a.Keeps t := by
  unfold execCtlStopPort at e
  cases e
  grind (splits := 40) (ematch := 40) (gen := 40) [keeps_ctlWrite]

theorem keeps_execStop {a s t : State} {p : PortIx} (h : a.Keeps s)
    (e : execStop p s = .next t) : a.Keeps t := by
  unfold execStop at e
  cases e
  grind (splits := 40) (ematch := 40) (gen := 40) [keeps_stemRow]

theorem keeps_execIsolate {a s t : State} {p : PortIx} (h : a.Keeps s)
    (e : execIsolate p s = .next t) : a.Keeps t := by
  unfold execIsolate at e
  cases e
  grind (splits := 40) (ematch := 40) (gen := 40) [keeps_stemRow]

theorem keeps_execReset {a s t : State} {p : PortIx} (h : a.Keeps s)
    (e : execReset p s = .next t) : a.Keeps t := by
  unfold execReset at e
  cases e
  grind (splits := 40) (ematch := 40) (gen := 40) [keeps_stemRow]

theorem keeps_execAdmit {a s t : State} {p : PortIx} (h : a.Keeps s)
    (e : execAdmit p s = .next t) : a.Keeps t := by
  unfold execAdmit at e
  cases e
  grind (splits := 40) (ematch := 40) (gen := 40) [keeps_stemRow]

theorem keeps_execBist {a s t : State} {p : PortIx} (h : a.Keeps s)
    (e : execBist p s = .next t) : a.Keeps t := by
  unfold execBist at e
  cases e
  grind (splits := 40) (ematch := 40) (gen := 40) [keeps_stemRow]

theorem keeps_execWatch {a s t : State} {p : PortIx} (h : a.Keeps s)
    (e : execWatch p s = .next t) : a.Keeps t := by
  unfold execWatch at e
  cases e
  grind (splits := 40) (ematch := 40) (gen := 40) [keeps_stemRow]

theorem keeps_execPowerGood {a s t : State} {rom : RomChecks} {otpOk : Bool} {strap : Fin 8} (h : a.Keeps s)
    (e : execPowerGood rom otpOk strap s = .next t) : a.Keeps t := by
  unfold execPowerGood at e
  cases e
  grind (splits := 40) (ematch := 40) (gen := 40) [keeps_set_power, keeps_updSxt]

theorem keeps_execColdReset {a s t : State}  (h : a.Keeps s)
    (e : execColdReset s = .next t) : a.Keeps t := by
  unfold execColdReset at e
  cases e
  grind (splits := 40) (ematch := 40) (gen := 40) [keeps_coldReset]

theorem keeps_execStackTrainingDone {a s t : State} {l : List StackReport} (h : a.Keeps s)
    (e : execStackTrainingDone l s = .next t) : a.Keeps t := by
  unfold execStackTrainingDone at e
  cases e
  grind (splits := 40) (ematch := 40) (gen := 40) [keeps_foldl, keeps_foldl_snd, keeps_toStep8, keeps_updStack, keeps_updSxt]

theorem keeps_execBistComplete {a s t : State} {slice : Fin 263} {reports : List PartReport} {saved : Bool} (h : a.Keeps s)
    (e : execBistComplete slice reports saved s = .next t) : a.Keeps t := by
  unfold execBistComplete at e
  cases e
  refine keeps_orHold h (keeps_settledFrom ?_)
  grind (splits := 40) (ematch := 40) (gen := 40) [keeps_bistRound, keeps_foldl, keeps_foldl_snd, keeps_partDone, keeps_set_bist, keeps_sliceTested]

theorem keeps_execReplay {a s t : State} {m : MeadowIx} (h : a.Keeps s)
    (e : execReplay m s = .next t) : a.Keeps t := by
  unfold execReplay at e
  cases e
  grind (splits := 40) (ematch := 40) (gen := 40) [keeps_hostRow, keeps_replay]

theorem keeps_execResume {a s t : State} {m : MeadowIx} (h : a.Keeps s)
    (e : execResume m s = .next t) : a.Keeps t := by
  unfold execResume at e
  cases e
  grind (splits := 40) (ematch := 40) (gen := 40) [keeps_hostRow, keeps_resumeMeadow]

theorem keeps_execWatchFire {a s t : State} {b : BaseIx} (h : a.Keeps s)
    (e : execWatchFire b s = .next t) : a.Keeps t := by
  unfold execWatchFire at e
  cases e
  refine keeps_orHold h (keeps_settledFrom ?_)
  grind (splits := 40) (ematch := 40) (gen := 40) [keeps_fireWatch, keeps_updCores]

theorem keeps_execMemTimeout {a s t : State} {c : CoreIx} {e_ : Fin 6} (h : a.Keeps s)
    (e : execMemTimeout c e_ s = .next t) : a.Keeps t := by
  unfold execMemTimeout at e
  cases e
  refine keeps_orHold h (keeps_settledFrom ?_)
  grind (splits := 40) (ematch := 40) (gen := 40) [keeps_complete, keeps_failEpoch]

theorem keeps_execHeathReset {a s t : State} {p : PortIx} (h : a.Keeps s)
    (e : execHeathReset p s = .next t) : a.Keeps t := by
  unfold execHeathReset at e
  cases e
  refine keeps_orHold h (keeps_settledFrom ?_)
  grind (splits := 40) (ematch := 40) (gen := 40) [keeps_hostReset]

theorem keeps_execWarmReset {a s t : State} {p : PortIx} (h : a.Keeps s)
    (e : execWarmReset p s = .next t) : a.Keeps t := by
  unfold execWarmReset at e
  cases e
  refine keeps_orHold h (keeps_settledFrom ?_)
  grind (splits := 40) (ematch := 40) (gen := 40) [keeps_hostReset, keeps_warmReset]

theorem keeps_execFaultClear {a s t : State} {p : PortIx} (h : a.Keeps s)
    (e : execFaultClear p s = .next t) : a.Keeps t := by
  unfold execFaultClear at e
  cases e
  grind (splits := 40) (ematch := 40) (gen := 40) [keeps_faultClear]

theorem keeps_execSectorRead {a s t : State} {pa : BitVec 48} {e_ : SectorFound} {reader : Option SectorReader} (h : a.Keeps s)
    (e : execSectorRead pa e_ reader s = .next t) : a.Keeps t := by
  unfold execSectorRead at e
  cases e
  refine keeps_orHold h ?_
  dsimp only
  split
  · exact h
  · split
    · exact keeps_memReply (keeps_readSec (keeps_onDie (keeps_disturb h)))
    · exact keeps_readSec (keeps_onDie (keeps_disturb h))

theorem keeps_execSectorWrite {a s t : State} {w : Writer} {pa : BitVec 48} {b : List Byte} (h : a.Keeps s)
    (e : execSectorWrite w pa b s = .next t) : a.Keeps t := by
  unfold execSectorWrite at e
  cases e
  refine keeps_orHold h ?_
  split
  · exact h
  · split
    · split
      · exact h
      · exact keeps_failOnLost (keeps_writeSec h)
    · exact keeps_settledFrom (keeps_agentWrite h)

theorem keeps_execParityDelta {a s t : State}  (h : a.Keeps s)
    (e : execParityDelta s = .next t) : a.Keeps t := by
  unfold execParityDelta at e
  cases e
  grind (splits := 40) (ematch := 40) (gen := 40) [keeps_landDelta, keeps_updPkg]

theorem keeps_execScrub {a s t : State} {pa : BitVec 48} {parity : Bool} {e_ : SectorFound} (h : a.Keeps s)
    (e : execScrub pa parity e_ s = .next t) : a.Keeps t := by
  unfold execScrub at e
  cases e
  refine keeps_orHold h ?_
  dsimp only
  split
  · exact h
  · split
    · split
      · exact h
      · split
        · exact keeps_wait (keeps_onDie (keeps_disturb h))
        · split
          · rename_i e1
            exact keeps_readParity (keeps_onDie (keeps_disturb h)) e1
          · exact keeps_updStack (keeps_onDie (keeps_disturb h))
    · split
      · exact h
      · exact keeps_readSec (keeps_onDie (keeps_disturb h))

theorem keeps_execLaneDegrade {a s t : State} {k : StackIx} {ch : Fin 32} (h : a.Keeps s)
    (e : execLaneDegrade k ch s = .next t) : a.Keeps t := by
  unfold execLaneDegrade at e
  cases e
  grind (splits := 40) (ematch := 40) (gen := 40) [keeps_updStack]

theorem keeps_execStackRetrainDone {a s t : State} {k : StackIx} {ch : Fin 32} {r : StackReport} (h : a.Keeps s)
    (e : execStackRetrainDone k ch r s = .next t) : a.Keeps t := by
  unfold execStackRetrainDone at e
  cases e
  grind (splits := 40) (ematch := 40) (gen := 40) [keeps_memoryLost, keeps_updStack]

theorem keeps_execFrozenSync {a s t : State} {m : MeadowIx} (h : a.Keeps s)
    (e : execFrozenSync m s = .next t) : a.Keeps t := by
  unfold execFrozenSync at e
  cases e
  grind (splits := 40) (ematch := 40) (gen := 40) [keeps_frozenSync, keeps_hostRow]

theorem keeps_execFrozenRebuildDone {a s t : State} {m : MeadowIx} (h : a.Keeps s)
    (e : execFrozenRebuildDone m s = .next t) : a.Keeps t := by
  unfold execFrozenRebuildDone at e
  cases e
  refine keeps_orHold h ?_
  grind (splits := 40) (ematch := 40) (gen := 40) [keeps_orHold, keeps_scanTable, keeps_updMeadow]

theorem keeps_execBar2Read {a s t : State} {p : PortIx} {f : FnIx} {a_ : BarAddr} {n : Fin 4097} {ide : Bool} (h : a.Keeps s)
    (e : execBar2Read p f a_ n ide s = .next t) : a.Keeps t := by
  unfold execBar2Read at e
  cases e
  refine keeps_orHold h (keeps_settledFrom ?_)
  grind (splits := 40) (ematch := 40) (gen := 40) [keeps_bar2Get, keeps_bar4Get]

theorem keeps_execBar2Write {a s t : State} {p : PortIx} {f : FnIx} {a_ : BitVec 41} {b : List Byte} {ide : Bool} (h : a.Keeps s)
    (e : execBar2Write p f a_ b ide s = .next t) : a.Keeps t := by
  unfold execBar2Write at e
  cases e
  refine keeps_orHold h ?_
  grind (splits := 40) (ematch := 40) (gen := 40) [keeps_attempt, keeps_deny, keeps_ownDeltas, keeps_physPut, keeps_raise]

theorem keeps_execDoorbell {a s t : State} {p : PortIx} {f : FnIx} {off : BitVec 21} {b : List Byte} {ide : Bool} (h : a.Keeps s)
    (e : execDoorbell p f off b ide s = .next t) : a.Keeps t := by
  unfold execDoorbell at e
  cases e
  grind (splits := 40) (ematch := 40) (gen := 40) [keeps_deny, keeps_updHub, keeps_updPort]

theorem keeps_execHcopyComplete {a s t : State} {m : MeadowIx} {ix : BitVec 12} {desc : Option (List Byte)} {got : List Byte} {took : Word} (h : a.Keeps s)
    (e : execHcopyComplete m ix desc got took s = .next t) : a.Keeps t := by
  unfold execHcopyComplete at e
  cases e
  refine keeps_orHold h (keeps_settledFrom ?_)
  grind (splits := 40) (ematch := 40) (gen := 40) [keeps_hcRun, keeps_hcServe]

theorem keeps_execHcopyTail {a s t : State} {m : MeadowIx} {v : Word} (h : a.Keeps s)
    (e : execHcopyTail m v s = .next t) : a.Keeps t := by
  unfold execHcopyTail at e
  cases e
  grind (splits := 40) (ematch := 40) (gen := 40) [keeps_hcTailWrite, keeps_hostRow]

theorem keeps_execHcopyEnable {a s t : State} {m : MeadowIx} {v : Word} (h : a.Keeps s)
    (e : execHcopyEnable m v s = .next t) : a.Keeps t := by
  unfold execHcopyEnable at e
  cases e
  grind (splits := 40) (ematch := 40) (gen := 40) [keeps_hcControlWrite, keeps_hostRow]

theorem keeps_execFunctionLevelReset {a s t : State} {p : PortIx} {e_ : HostReset} {descs : List (MeadowIx × BitVec 12 × List Byte)} (h : a.Keeps s)
    (e : execFunctionLevelReset p e_ descs s = .next t) : a.Keeps t := by
  unfold execFunctionLevelReset at e
  cases e
  grind (splits := 40) (ematch := 40) (gen := 40) [keeps_foldl, keeps_foldl_snd, keeps_hcServe, keeps_loseLoad, keeps_resetFn, keeps_updPort]

theorem keeps_execLinkTraining {a s t : State} {p : PortIx} {rate : Fin 7} {width : Fin 9} {flit : Bool} {vc1 : Bool} (h : a.Keeps s)
    (e : execLinkTraining p rate width flit vc1 s = .next t) : a.Keeps t := by
  unfold execLinkTraining at e
  cases e
  grind (splits := 40) (ematch := 40) (gen := 40) [keeps_updPort]

theorem keeps_execPwrCapWrite {a s t : State} {p : PortIx} {v : Word} (h : a.Keeps s)
    (e : execPwrCapWrite p v s = .next t) : a.Keeps t := by
  unfold execPwrCapWrite at e
  cases e
  grind (splits := 40) (ematch := 40) (gen := 40) [keeps_capWrite]

theorem keeps_execOscTrim {a s t : State} {i : IslandIx} (h : a.Keeps s)
    (e : execOscTrim i s = .next t) : a.Keeps t := by
  unfold execOscTrim at e
  cases e
  grind (splits := 40) (ematch := 40) (gen := 40) [keeps_updPower]

theorem keeps_execSupplyDroop {a s t : State} {i : IslandIx} (h : a.Keeps s)
    (e : execSupplyDroop i s = .next t) : a.Keeps t := by
  unfold execSupplyDroop at e
  cases e
  grind (splits := 40) (ematch := 40) (gen := 40) [keeps_updPower]

theorem keeps_execSupplyRecovery {a s t : State} {i : IslandIx} (h : a.Keeps s)
    (e : execSupplyRecovery i s = .next t) : a.Keeps t := by
  unfold execSupplyRecovery at e
  cases e
  grind (splits := 40) (ematch := 40) (gen := 40) [keeps_updPower]

theorem keeps_execPowerSample {a s t : State} {l : List RailReading} (h : a.Keeps s)
    (e : execPowerSample l s = .next t) : a.Keeps t := by
  have h1 : a.Keeps (((upFrom 0 10).foldl (fun t k => t.sampleRail k (railReading l k)) s)) :=
    keeps_foldl h fun u k hu => keeps_sampleRail hu
  unfold execPowerSample at e
  generalize (upFrom 0 10).foldl (fun t k => t.sampleRail k (railReading l k)) s = u at h1 e
  have h2 : ∀ f, a.Keeps (u.updPower f).setRails := fun f => keeps_setRails (keeps_updPower h1)
  grind

theorem keeps_execSmbalert {a s t : State} {k : Fin 10} {fault : Bool} (h : a.Keeps s)
    (e : execSmbalert k fault s = .next t) : a.Keeps t := by
  unfold execSmbalert at e
  cases e
  grind (splits := 40) (ematch := 40) (gen := 40) [keeps_pmbus, keeps_updPower, keeps_updRail]

theorem keeps_execGate {a s t : State} {b : BaseIx} (h : a.Keeps s)
    (e : execGate b s = .next t) : a.Keeps t := by
  unfold execGate at e
  cases e
  grind (splits := 40) (ematch := 40) (gen := 40) [keeps_gateBase, keeps_loseStores, keeps_updBase]

theorem keeps_execGateReturn {a s t : State} {b : BaseIx} (h : a.Keeps s)
    (e : execGateReturn b s = .next t) : a.Keeps t := by
  unfold execGateReturn at e
  cases e
  grind (splits := 40) (ematch := 40) (gen := 40) [keeps_issueAdmits, keeps_returnBase]

theorem keeps_execThermalSample {a s t : State} {k : Fin 293} {t_ : BitVec 16} (h : a.Keeps s)
    (e : execThermalSample k t_ s = .next t) : a.Keeps t := by
  unfold execThermalSample at e
  cases e
  grind (splits := 40) (ematch := 40) (gen := 40) [keeps_refreshStep, keeps_setRails, keeps_stopAll, keeps_thermtrip, keeps_throttleStep, keeps_updPower]

theorem keeps_execComparatorThermtrip {a s t : State}  (h : a.Keeps s)
    (e : execComparatorThermtrip s = .next t) : a.Keeps t := by
  unfold execComparatorThermtrip at e
  cases e
  grind (splits := 40) (ematch := 40) (gen := 40) [keeps_thermtrip]

theorem keeps_execJtagInstruction {a s t : State} {i : Jtag} (h : a.Keeps s)
    (e : execJtagInstruction i s = .next t) : a.Keeps t := by
  unfold execJtagInstruction at e
  cases e
  grind (splits := 40) (ematch := 40) (gen := 40) [keeps_drivePins, keeps_emit, keeps_scanReg, keeps_set_bscan, keeps_set_jtag, keeps_thermtrip]

theorem keeps_execReadClear {a s t : State} {p : PortIx} {f : FnIx} {off : BitVec 24} {n : Fin 4097} {ide : Bool} (h : a.Keeps s)
    (e : execReadClear p f off n ide s = .next t) : a.Keeps t := by
  unfold execReadClear at e
  cases e
  grind (splits := 40) (ematch := 40) (gen := 40) [keeps_deny, keeps_emit, keeps_slotRead]

theorem keeps_execRegisterWrite {a s t : State} {p : PortIx} {f : FnIx} {off : BitVec 24} {n : Fin 513} {v : Dword} {ide : Bool} (h : a.Keeps s)
    (e : execRegisterWrite p f off n v ide s = .next t) : a.Keeps t := by
  unfold execRegisterWrite at e
  cases e
  refine keeps_orHold h (keeps_settledFrom ?_)
  grind (splits := 40) (ematch := 40) (gen := 40) [keeps_deny, keeps_slotWrite]

end Sys2Proof.Machine
end

