-- ==== Sys2Proof/Laws/Units.lean ====
section
/-!
SUPPORT. Two updates of one unit make one, and an update of many cores leaves every other unit as it was.
-/

namespace Sys2Proof.Machine

open Sys2Proof

/-- Two updates of one entry make one. -/
theorem State.updBase_updBase (s : State) (n : Nat) (f g : Base → Base) :
    (s.updBase n f).updBase n g = s.updBase n fun x => g (f x) := by
  simp [State.updBase, State.base, Sparse.put_put]

/-- Two updates of one entry make one. -/
theorem State.updPort_updPort (s : State) (n : Nat) (f g : Port → Port) :
    (s.updPort n f).updPort n g = s.updPort n fun x => g (f x) := by
  simp [State.updPort, State.port, Sparse.put_put]

/-- Two updates of one entry make one. -/
theorem State.updSw_updSw (s : State) (n : Nat) (f g : SwLink → SwLink) :
    (s.updSw n f).updSw n g = s.updSw n fun x => g (f x) := by
  simp [State.updSw, State.sw, Sparse.put_put]

/-- Two updates of one entry make one. -/
theorem State.updPipe_updPipe (s : State) (n : Nat) (f g : Pipe → Pipe) :
    (s.updPipe n f).updPipe n g = s.updPipe n fun x => g (f x) := by
  simp [State.updPipe, State.pipe, Sparse.put_put]

/-- Two updates of one function make one. -/
theorem State.updFn_updFn (s : State) (p k : Nat) (f g : HostFn → HostFn) :
    (s.updFn p k f).updFn p k g = s.updFn p k fun x => g (f x) := by
  simp [State.updFn, State.fn, Sparse.put_put]

/-- Two updates of one mailbox make one. -/
theorem State.updMbox_updMbox (s : State) (p : Nat) (f g : Mailbox → Mailbox) :
    (s.updMbox p f).updMbox p g = s.updMbox p fun x => g (f x) := by
  simp [State.updMbox, State.mbox, State.updSxt, Sparse.put_put]

/-- Two updates of one stack make one. -/
theorem State.updStack_updStack (s : State) (k : Nat) (f g : Stack → Stack) :
    (s.updStack k f).updStack k g = s.updStack k fun x => g (f x) := by
  simp [State.updStack, State.stack, State.updPkg, Sparse.put_put]

/-- Two updates of one rail make one. -/
theorem State.updRail_updRail (s : State) (k : Nat) (f g : Rail → Rail) :
    (s.updRail k f).updRail k g = s.updRail k fun x => g (f x) := by
  simp [State.updRail, State.rail, State.updPower, Sparse.put_put]

@[simp] theorem State.updSxt_updSxt (s : State) (f g : Sexton → Sexton) :
    (s.updSxt f).updSxt g = s.updSxt fun x => g (f x) := rfl
@[simp] theorem State.updHub_updHub (s : State) (f g : Hub → Hub) :
    (s.updHub f).updHub g = s.updHub fun x => g (f x) := rfl
@[simp] theorem State.updPkg_updPkg (s : State) (f g : Pkg → Pkg) :
    (s.updPkg f).updPkg g = s.updPkg fun x => g (f x) := rfl
@[simp] theorem State.updPower_updPower (s : State) (f g : Power → Power) :
    (s.updPower f).updPower g = s.updPower fun x => g (f x) := rfl
@[simp] theorem State.updTrn_updTrn (s : State) (f g : Trn → Trn) :
    (s.updTrn f).updTrn g = s.updTrn fun x => g (f x) := rfl

/-! What an update of several cores leaves. -/

@[simp] theorem State.updCores_pending (s : State) (l : List Nat) (f : Core → Core) : (s.updCores l f).pending = s.pending := by
  rw [State.updCores_eq]
@[simp] theorem State.updCores_held (s : State) (l : List Nat) (f : Core → Core) : (s.updCores l f).held = s.held := by
  rw [State.updCores_eq]
@[simp] theorem State.updCores_free (s : State) (l : List Nat) (f : Core → Core) : (s.updCores l f).free = s.free := by
  rw [State.updCores_eq]
@[simp] theorem State.updCores_tick (s : State) (l : List Nat) (f : Core → Core) : (s.updCores l f).tick = s.tick := by
  rw [State.updCores_eq]
@[simp] theorem State.updCores_part (s : State) (l : List Nat) (f : Core → Core) : (s.updCores l f).part = s.part := by
  rw [State.updCores_eq]
@[simp] theorem State.updCores_bases (s : State) (l : List Nat) (f : Core → Core) : (s.updCores l f).bases = s.bases := by
  rw [State.updCores_eq]
@[simp] theorem State.updCores_meadows (s : State) (l : List Nat) (f : Core → Core) : (s.updCores l f).meadows = s.meadows := by
  rw [State.updCores_eq]
@[simp] theorem State.updCores_heath (s : State) (l : List Nat) (f : Core → Core) : (s.updCores l f).heath = s.heath := by
  rw [State.updCores_eq]
@[simp] theorem State.updCores_pkg (s : State) (l : List Nat) (f : Core → Core) : (s.updCores l f).pkg = s.pkg := by
  rw [State.updCores_eq]
@[simp] theorem State.updCores_hub (s : State) (l : List Nat) (f : Core → Core) : (s.updCores l f).hub = s.hub := by
  rw [State.updCores_eq]
@[simp] theorem State.updCores_sxt (s : State) (l : List Nat) (f : Core → Core) : (s.updCores l f).sxt = s.sxt := by
  rw [State.updCores_eq]
@[simp] theorem State.updCores_qorf (s : State) (l : List Nat) (f : Core → Core) : (s.updCores l f).qorf = s.qorf := by
  rw [State.updCores_eq]
@[simp] theorem State.updCores_swarm (s : State) (l : List Nat) (f : Core → Core) : (s.updCores l f).swarm = s.swarm := by
  rw [State.updCores_eq]
@[simp] theorem State.updCores_trn (s : State) (l : List Nat) (f : Core → Core) : (s.updCores l f).trn = s.trn := by
  rw [State.updCores_eq]
@[simp] theorem State.updCores_pipes (s : State) (l : List Nat) (f : Core → Core) : (s.updCores l f).pipes = s.pipes := by
  rw [State.updCores_eq]
@[simp] theorem State.updCores_bscan (s : State) (l : List Nat) (f : Core → Core) : (s.updCores l f).bscan = s.bscan := by
  rw [State.updCores_eq]
@[simp] theorem State.updCores_power (s : State) (l : List Nat) (f : Core → Core) : (s.updCores l f).power = s.power := by
  rw [State.updCores_eq]
@[simp] theorem State.updCores_bist (s : State) (l : List Nat) (f : Core → Core) : (s.updCores l f).bist = s.bist := by
  rw [State.updCores_eq]
@[simp] theorem State.updCores_jtag (s : State) (l : List Nat) (f : Core → Core) : (s.updCores l f).jtag = s.jtag := by
  rw [State.updCores_eq]
@[simp] theorem State.updCores_ports (s : State) (l : List Nat) (f : Core → Core) : (s.updCores l f).ports = s.ports := by
  rw [State.updCores_eq]
@[simp] theorem State.updCores_fns (s : State) (l : List Nat) (f : Core → Core) : (s.updCores l f).fns = s.fns := by
  rw [State.updCores_eq]
@[simp] theorem State.updCores_out (s : State) (l : List Nat) (f : Core → Core) : (s.updCores l f).out = s.out := by
  rw [State.updCores_eq]
@[simp] theorem State.updCores_base (s : State) (l : List Nat) (f : Core → Core) (i : Nat) :
    (s.updCores l f).base i = s.base i := by
  unfold State.base; rw [State.updCores_bases]
@[simp] theorem State.updCores_meadow (s : State) (l : List Nat) (f : Core → Core) (i : Nat) :
    (s.updCores l f).meadow i = s.meadow i := by
  unfold State.meadow; rw [State.updCores_meadows]
@[simp] theorem State.updCores_port (s : State) (l : List Nat) (f : Core → Core) (i : Nat) :
    (s.updCores l f).port i = s.port i := by
  unfold State.port; rw [State.updCores_ports]
@[simp] theorem State.updCores_sw (s : State) (l : List Nat) (f : Core → Core) (i : Nat) :
    (s.updCores l f).sw i = s.sw i := by
  unfold State.sw; rw [State.updCores_swarm]
@[simp] theorem State.updCores_pipe (s : State) (l : List Nat) (f : Core → Core) (i : Nat) :
    (s.updCores l f).pipe i = s.pipe i := by
  unfold State.pipe; rw [State.updCores_pipes]
@[simp] theorem State.updCores_stack (s : State) (l : List Nat) (f : Core → Core) (i : Nat) :
    (s.updCores l f).stack i = s.stack i := by
  unfold State.stack; rw [State.updCores_pkg]
@[simp] theorem State.updCores_mbox (s : State) (l : List Nat) (f : Core → Core) (i : Nat) :
    (s.updCores l f).mbox i = s.mbox i := by
  unfold State.mbox; rw [State.updCores_sxt]
@[simp] theorem State.updCores_fn (s : State) (l : List Nat) (f : Core → Core) (p k : Nat) :
    (s.updCores l f).fn p k = s.fn p k := by
  unfold State.fn; rw [State.updCores_fns]

/-- A core of a list that names it once is updated once. -/
theorem State.updCores_core_in (f : Core → Core) (n : Nat) (l : List Nat) (hl : l.Nodup) (hn : n ∈ l) :
    ∀ s : State, (s.updCores l f).core n = f (s.core n) := by
  unfold State.updCores
  induction l with
  | nil => simp at hn
  | cons a r ih =>
    intro s
    rw [List.nodup_cons] at hl
    by_cases h : n = a
    · subst h
      refine (State.updCores_core_out f n r (s.updCore n f) hl.1).trans ?_
      rw [State.updCore_core, if_pos rfl]
    · have hr : n ∈ r := by simpa [h] using hn
      refine (ih hl.2 hr (s.updCore a f)).trans ?_
      rw [State.updCore_core, if_neg (Ne.symm h)]

end Sys2Proof.Machine
end

