-- ==== Sys2Proof/Laws/Waits.lean ====
section
/-!
SUPPORT. The outcome of a command that leaves no delta and waits for no controller is its own effect.

Log entry 43 gives what else may become of it.
-/

namespace Sys2Proof.Machine

/-- A state with the deltas and the waiting marks of another. -/
def State.still (s t : State) : Prop :=
  t.pkg.deltas = s.pkg.deltas ∧ t.pkg.barred = s.pkg.barred ∧ t.pkg.blocked = s.pkg.blocked

variable {s t : State}

theorem State.still_of_pkg (h : t.pkg = s.pkg) : s.still t := ⟨by rw [h], by rw [h], by rw [h]⟩

theorem settledFrom_same (h : t.pkg.deltas = s.pkg.deltas) : s.settledFrom t = t := by
  unfold State.settledFrom; rw [if_pos h]

theorem sentFrom_same (h : t.pkg.deltas = s.pkg.deltas) : s.sentFrom t = t := by
  unfold State.sentFrom; rw [if_pos h]

theorem completed_same (h : t.pkg.deltas = s.pkg.deltas) : s.completed t = t := by
  unfold State.completed; rw [settledFrom_same h, sentFrom_same h]

theorem undelayed_same (h : s.still t) : s.undelayed t := by
  unfold State.undelayed; rw [settledFrom_same h.1]; exact ⟨h.2.1, h.2.2⟩

/-- A command none of whose requests waits has its effect, its deltas no longer its own. -/
theorem orHold_next (c : Instr) (b : t.pkg.barred = s.pkg.barred) (k : t.pkg.blocked = s.pkg.blocked) :
    s.orHold c t = s.sentFrom t := by
  unfold State.orHold; rw [b, k]; simp

theorem orHold_same (c : Instr) (h : s.still t) : s.orHold c t = t := by
  rw [orHold_next c h.2.1 h.2.2, sentFrom_same h.1]

theorem attempt_same (c : Instr) (h : s.still t) : s.attempt c (.next t) = .next t := by
  rw [State.attempt, orHold_same c h]

/-- An agent's command none of whose requests waits is complete. -/
theorem attemptWhole_undelayed (c : Instr) (h : s.undelayed t) : s.attemptWhole c (.next t) = .next (s.completed t) := by
  rw [State.attemptWhole, State.completed, orHold_next c h.1 h.2]

theorem attemptWhole_same (c : Instr) (h : s.still t) : s.attemptWhole c (.next t) = .next t := by
  rw [attemptWhole_undelayed c (undelayed_same h), completed_same h.1]

theorem orSkip_same (h : s.still t) : s.orSkip t = t := by
  unfold State.orSkip; simp only [settledFrom_same h.1]
  rw [h.2.2, sentFrom_same h.1]; simp

end Sys2Proof.Machine
end

