-- ==== Sys2Proof/WellFormed.lean ====
section
/-!
DEFINITION. Commands whose data can arrive: the sizes and ranges that the interfaces of the block allow.
The machine gives every command an outcome; these checks say which ones an outside can send.
-/

namespace Sys2Proof

/-- Whether a list has no repeats. -/
def noRepeats {α : Type} [DecidableEq α] : List α → Bool
  | [] => true
  | a :: r => !r.contains a && noRepeats r

/-- A command that the outside can send. -/
def Instr.wellFormed : Instr → Bool
  -- One report for each partition at most (R497).
  | .bistComplete _ l _ => noRepeats (l.map (·.part))
  -- A stack controller takes 1 to 32 bytes within one sector (R310).
  | .sectorWrite _ pa b => 1 ≤ b.length && pa.toNat % 32 + b.length ≤ 32
  -- A read request asks for 1 to 4,096 bytes, and a write carries 1 to 512 (R382).
  | .bar2Read _ _ _ n _ => 1 ≤ n.val
  | .bar2Write _ _ _ b _ => 1 ≤ b.length && b.length ≤ 512
  | .doorbell _ _ _ b _ => 1 ≤ b.length && b.length ≤ 512
  -- A trained link has a rate and a width of 1, 2, 4 or 8 lanes (R382).
  | .linkTraining _ rate width _ _ => 1 ≤ rate.val && [1, 2, 4, 8].contains width.val
  -- Sexton samples all ten rails (R517).
  | .powerSample l => l.length = 10
  -- An access to a register carries at least one byte; only 4 or 8 bytes, naturally aligned, have an effect (R528).
  | .registerWrite _ _ _ n _ _ => 1 ≤ n.val
  | .readClear _ _ _ n _ => 1 ≤ n.val
  -- A member speaks once (R375).
  | .collectiveComplete _ l => noRepeats (l.map (·.device))
  | _ => true

end Sys2Proof
end

