-- ==== Sys2Proof/Tests/Slice0.lean ====
section
/-!
SUPPORT. Tests of the model, and witnesses: for each statement with hypotheses, concrete states and operands that meet them.
-/

namespace Sys2Proof.Tests

open Sys2Proof Sys2Proof.Machine

set_option Elab.async false

/-- An instruction's fields. -/
def fl (dst sa sb : BitVec 5) (tok : BitVec 6) (sub : BitVec 3) (imm : Word) : Fields := ⟨dst, sa, sb, tok, sub, imm⟩
/-- A core that issues, at instruction 7. -/
def running : Core := { Core.zero with ctl := .run, pc := 7 }
/-- The reset state with a core in place of core 5. -/
def at5 (c : Core) : State := State.reset.setCore 5 c
/-- A core after a command; one that holds nothing where the block stops. -/
def coreAfter (o : Out) (n : Nat) : Core := match o with | .next t => t.core n | _ => Core.zero
/-- Two general registers set. -/
def regs (a b : Dword) : Core := { running with g := [(2, a), (3, b)] }
/-- A core with the word of an opcode and fields at its pc. -/
def holding (op : BitVec 8) (f : Fields) (c : Core) : Core := { c with prog := Sparse.put 0 c.prog c.pc (f.word op) }
/-- The state whose core 5 stands at that word. -/
def has (op : BitVec 8) (f : Fields) (c : Core) : State := at5 (holding op f c)
/-- Core 5 issues, and its word is that of the opcode and fields. -/
def Ready (op : BitVec 8) (f : Fields) (c : Core) : Prop := (has op f c).issues 5 ∧ (has op f c).spells 5 op f
theorem ready {op : BitVec 8} {f : Fields} {c : Core} (h : c.issuing = true) (k : c.pc ≠ 4095) : Ready op f c := by
  have e : (has op f c).core 5 = holding op f c := State.setCore_core_same ..
  refine ⟨⟨by rw [e]; exact h, by rw [e]; exact k⟩, ?_⟩
  unfold State.spells; rw [e]; exact Sparse.get_put_same ..
theorem ready_running (op : BitVec 8) (f : Fields) : Ready op f running := ready rfl (by decide)
/-- Core 5 after the instruction of a word. -/
def goes (op : BitVec 8) (f : Fields) (c : Core) : Core := coreAfter (exec (coreInstr 5 (f.word op)) (has op f c)) 5
/-- g1 after the instruction of a word, with g2 = `a`, g3 = `b`. -/
def g1 (op : BitVec 8) (f : Fields) (a b : Dword) : Dword := (goes op f (regs a b)).gr 1
/-- DST 1, SA 2, SB 3. -/
def f123 : Fields := fl 1 2 3 0 0 0
/-- DST 1, SA 2. -/
def f12 (sub : BitVec 3) (imm : Word) : Fields := fl 1 2 0 0 sub imm
/-- Meadow 0 over base tussock 1, which owns core 5, in a state. -/
def owned (s : State) (st : MState) : State := s.updMeadow 0 fun x => { x with state := st, top := 0x1001 }

/-! Core instructions (R94, R95); the expected values are the rules' sums done by hand. -/

theorem test_add_wraps : g1 0x01 f123 0xFFFFFFFFFFFFFFFF 2 = 1 := by decide
theorem test_sub_immediate : g1 0x02 (f12 1 0xFFFFFFFF) 0 9 = 1 := by decide
theorem test_mul_low : g1 0x09 f123 0x8000000000000000 3 = 0x8000000000000000 := by decide
theorem test_mulhu_unsigned : g1 0x0A f123 0xFFFFFFFFFFFFFFFF 0xFFFFFFFFFFFFFFFF = 0xFFFFFFFFFFFFFFFE := by decide
theorem test_shl_low_bits : g1 0x06 f123 1 65 = 2 := by decide
theorem test_shr_logical : g1 0x07 f123 0x8000000000000000 63 = 1 := by decide
theorem test_sra_arithmetic : g1 0x08 f123 0x8000000000000000 63 = 0xFFFFFFFFFFFFFFFF := by decide
theorem test_slt_signed : g1 0x0B f123 0xFFFFFFFFFFFFFFFF 0 = 1 := by decide
theorem test_sltu_unsigned : g1 0x0C f123 0xFFFFFFFFFFFFFFFF 0 = 0 := by decide
theorem test_min_signed : g1 0x0D f123 0xFFFFFFFFFFFFFFFF 0 = 0xFFFFFFFFFFFFFFFF := by decide
theorem test_max_signed : g1 0x0E f123 0xFFFFFFFFFFFFFFFF 0 = 0 := by decide
theorem test_clz_zero : g1 0x0F (f12 0 0) 0 0 = 64 := by decide
theorem test_popc : g1 0x10 (f12 0 0) 0xF0 0 = 4 := by decide
theorem test_lih : g1 0x11 (f12 0 0x80000001) 0xFFFFFFFF00000002 0 = 0x8000000100000002 := by decide
theorem test_logic : g1 0x03 f123 12 10 = 8 ∧ g1 0x04 f123 12 10 = 14 ∧ g1 0x05 f123 12 10 = 6 := by decide
/-- SUB 3 of BR compares signed values. -/
theorem test_br_signed : (goes 0x20 (fl 0 2 3 0 3 0xFFF) (regs 0xFFFFFFFFFFFFFFFF 0)).pc = 0xFFF := by decide
theorem test_call_saves_the_next : let k := goes 0x21 (fl 1 0 0 0 0 0xFFF) running
    k.pc = 0xFFF ∧ k.g = [(1, 8)] := by decide
theorem test_jr_ignores_high_bits : (goes 0x22 (fl 0 2 0 0 0 0) (regs 0xF003 0)).pc = 3 := by decide
/-- A signed byte is sign-extended. -/
theorem test_ld_byte : (goes 0x30 (f12 4 1) { regs 15 0 with near := [(16, 0x80)] }).gr 1 = 0xFFFFFFFFFFFFFF80 := by decide
theorem test_st_word : (goes 0x31 (fl 0 2 3 0 2 0) (regs 0x1FFFC 0x11223344)).near
    = [(0x1FFFC, 0x44), (0x1FFFD, 0x33), (0x1FFFE, 0x22), (0x1FFFF, 0x11)] := by decide
theorem test_dput : ((goes 0x36 (f12 0 7) (regs 5 0)).dr 1).toNat = 5 * 2 ^ 448 := by decide +kernel
/-- A command whose word does not stand at the pc changes nothing (log entry 12). -/
theorem test_word_not_at_the_pc : coreAfter (exec (.add 5 f123) (has 0x02 f123 running)) 5
    = holding 0x02 f123 running := by decide
/-- LIH, opcode 0x11, DST 1, SA 2, IMM 0x80000001: bits [63:56], [55:51], [50:46] and [31:0] (R92, R94). -/
theorem test_word_lih : coreInstr 5 0x1108800080000001 = .lih 5 (f12 0 0x80000001) := by decide
/-- MM, opcode 0x40, DST 1, SA 1, TOK 9 at [40:35] (R92, R94). -/
theorem test_word_mm : coreInstr 5 0x4008404800000000 = .mm 5 (fl 1 1 0 9 0 0) := by decide
/-- 0x12 is not an opcode of the table. -/
theorem test_word_not_listed : coreInstr 5 0x1200000000000000 = .illegalInstruction 5 := by decide

theorem witness_AluWritesItsResult : Ready 0x01 f123 running ∧ aluLegal f123 = true ∧ Ready 0x02 (f12 1 0xFFFFFFFF) running
    ∧ aluLegal (f12 1 0xFFFFFFFF) = true ∧ Ready 0x0F (f12 0 0) running
    ∧ (f12 0 0).only true true false false false 0 = true ∧ Ready 0x11 (f12 0 7) running
    ∧ (f12 0 7).only true true false false false 0xFFFFFFFF = true ∧ Ready 0x00 (fl 0 0 0 0 0 0) running
    ∧ (fl 0 0 0 0 0 0).only false false false false false 0 = true := by simp only [ready_running, true_and]; decide
theorem witness_IllegalInstructionFaults : Ready 0x12 f123 running ∧ Ready 0x01 (f12 2 0) running
    ∧ Ready 0x00 (fl 1 0 0 0 0 0) running ∧ Ready 0x20 (fl 0 2 3 0 0 0x1000) running ∧ Ready 0x22 (fl 0 2 0 0 0 1) running
    ∧ Ready 0x34 (fl 16 2 0 0 0 0) running ∧ 0x12 ∉ coreOps ∧ 0x11 ∈ coreOps ∧ aluLegal (f12 2 0) = false
    ∧ (fl 1 0 0 0 0 0).dst ≠ 0 ∧ 0x1000 ≤ (fl 0 2 3 0 0 0x1000).imm.toNat ∧ (fl 0 2 0 0 0 1).imm ≠ 0
    ∧ 16 ≤ (fl 16 2 0 0 0 0).dst.toNat ∧ (owned (has 0x12 f123 running) .opened).meadowOf 5 = some 0
    ∧ ((owned (has 0x12 f123 running) .opened).meadow 0).state = .opened := by simp only [ready_running, true_and]; decide
/-- The illegal instruction's epoch fails and the core faults. -/
theorem test_illegal_opcode :
    let o := exec (coreInstr 5 (f123.word 0x12)) (owned (has 0x12 f123 running) .opened)
    (coreAfter o 5).faulted = true ∧ (coreAfter o 5).lastError = 0x0211 := by decide +kernel
/-- SUB 6 holds exactly where SUB 5 does not; 6 is the last condition. -/
theorem witness_BranchesGoToTheirTargets : Ready 0x20 (fl 0 2 3 0 6 0xFFF) running ∧ Ready 0x20 (fl 0 2 3 0 0 0xFFF) running
    ∧ Ready 0x21 (fl 1 0 0 0 0 0xFFF) running ∧ Ready 0x22 (fl 0 2 0 0 0 0) running
    ∧ (fl 0 2 3 0 0 0xFFF).only false true true false true 0xFFF = true ∧ (fl 0 2 3 0 6 0xFFF).sub ≠ 7
    ∧ ¬ (regs 0 1).gr 3 ≤ (regs 0 1).gr 2 ∧ (fl 1 0 0 0 0 0xFFF).only true false false false false 0xFFF = true
    ∧ (fl 0 2 0 0 0 0).only false true false false false 0 = true := by simp only [ready_running, true_and]; decide
/-- A load of the last 8 bytes and of the last line of the near store, and of the bytes one further. -/
theorem witness_NearLoads : Ready 0x30 (f12 7 0) (regs 0x1FFF8 0x1FFC0) ∧ Ready 0x32 (fl 15 3 0 0 0 0) (regs 0x1FFF8 0x1FFC0)
    ∧ Ready 0x34 (fl 15 3 0 0 0 0) (regs 0x1FFF8 0x1FFC0) ∧ Ecc.corrected ≠ .uncorrectable
    ∧ (f12 7 0).only true true false false true 0xFFFFFFFF = true ∧ 0x1FFF8 % 2 ^ ((f12 7 0).sub.toNat % 4) = 0
    ∧ 0x1FFF8 + 2 ^ ((f12 7 0).sub.toNat % 4) ≤ 0x20000
    ∧ (fl 15 3 0 0 0 0).only true true false false false 0xFFFFFFFF = true ∧ (fl 15 3 0 0 0 0).dst.toNat < 16
    ∧ 0x1FFC0 % 64 = 0 ∧ 0x1FFC0 + 64 ≤ 0x20000 ∧ running.vBusy = false
    ∧ 0x1FFF9 % 8 ≠ 0 ∧ 0x20000 < 0x1FFF9 + 8 ∧ 0x1FFC1 % 64 ≠ 0 ∧ 0x20000 < 0x1FFC1 + 64
    ∧ ({ running with eng := [(2, [mkOp running 0 ⟨0, 0, [], 0, 0⟩ (0, 0, 0)])] } : Core).vBusy = true := by
  refine ⟨ready rfl (by decide), ready rfl (by decide), ready rfl (by decide), ?_⟩; decide
theorem witness_NearStoresChangeTheirBytesOnly : Ready 0x31 (fl 0 2 3 0 3 0) (regs 0x1FFF8 0) ∧ Ready 0x33 (fl 0 2 15 0 0 0) (regs 0x1FFC0 0)
    ∧ Ready 0x35 (fl 0 2 15 0 0 0) (regs 0x1FFC0 0)
    ∧ (fl 0 2 3 0 3 0).only false true true false true 0xFFFFFFFF = true ∧ (fl 0 2 3 0 3 0).sub.toNat < 4
    ∧ 0x1FFF8 % 2 ^ ((fl 0 2 3 0 3 0).sub.toNat % 4) = 0 ∧ 0x1FFF8 + 8 ≤ 0x20000
    ∧ (fl 0 2 15 0 0 0).only false true true false false 0xFFFFFFFF = true ∧ (fl 0 2 15 0 0 0).sb.toNat < 16
    ∧ 0x1FFC0 % 64 = 0 ∧ running.vBusy = false
    ∧ 0x1FFF9 % 8 ≠ 0 ∧ 0x20000 < 0x1FFF9 + 8 ∧ 0x1FFC1 % 64 ≠ 0 ∧ 0x20000 < 0x1FFC1 + 64 := by
  refine ⟨ready rfl (by decide), ready rfl (by decide), ready rfl (by decide), ?_⟩; decide
/-- A misaligned address in range, one out of range, the first aligned one out of range and the last good one. -/
theorem witness_NearAccessFaults : Ready 0x30 (f12 7 0) running ∧ Ready 0x31 (fl 0 2 3 0 3 0) running
    ∧ Ready 0x32 (fl 15 3 0 0 0 0) running ∧ Ready 0x33 (fl 0 2 15 0 0 0) running ∧ running.vBusy = false
    ∧ running.faulted = false ∧ 0x1FFF7 % 8 ≠ 0 ∧ 0x1FFF7 + 8 ≤ 0x20000
    ∧ 0x1FFF9 % 8 ≠ 0 ∧ 0x20000 < 0x1FFF9 + 8 ∧ 0x20000 % 8 = 0 ∧ 0x20000 < 0x20000 + 8 ∧ 0x1FFF8 % 8 = 0
    ∧ 0x1FFF8 + 8 ≤ 0x20000 ∧ (f12 7 0).only true true false false true 0xFFFFFFFF = true
    ∧ (fl 0 2 3 0 3 0).only false true true false true 0xFFFFFFFF = true ∧ (fl 0 2 3 0 3 0).sub.toNat < 4
    ∧ (fl 15 3 0 0 0 0).only true true false false false 0xFFFFFFFF = true ∧ (fl 15 3 0 0 0 0).dst.toNat < 16
    ∧ (fl 0 2 15 0 0 0).only false true true false false 0xFFFFFFFF = true := by simp only [ready_running, true_and]; decide
theorem witness_RegistersMoved : Ready 0x36 (fl 15 2 0 0 0 7) running ∧ Ready 0x37 (fl 1 15 0 0 0 7) running
    ∧ Ready 0x52 (fl 1 0 0 0 7 0) running ∧ Ready 0x70 (fl 1 0 0 0 0 0x019) running ∧ Ready 0x71 (fl 0 2 0 0 0 0x018) running
    ∧ (fl 15 2 0 0 0 7).only true true false false false 7 = true
    ∧ (fl 15 2 0 0 0 7).dst.toNat < 16 ∧ (fl 1 15 0 0 0 7).sa.toNat < 16
    ∧ (fl 1 0 0 0 7 0).only true false false false true 0 = true
    ∧ (fl 1 0 0 0 0 0x019).only true false false false false 0xFFF = true
    ∧ 5 ∉ [0, 1, 2, 3, 4, 8, 9, 10, 11, 12, 13, 16, 17, 24, 25, 26, 32, 33, 34, 35]
    ∧ (fl 0 2 0 0 0 0x018).only false true false false false 0xFFF = true
    ∧ (0x020 : Nat) ≤ 0x020 ∧ (0x020 : Nat) ≤ 0x023 ∧ (0x023 : Nat) < 0x024 ∧ (0x01F : Nat) < 0x020 := by simp only [ready_running, true_and]; decide
theorem witness_RegisterZeroIsHardwired : Ready 0x01 (fl 0 0 0 0 0 0) running ∧ Ready 0x31 (fl 0 0 0 0 3 0) running
    ∧ Ready 0x36 (fl 0 2 0 0 0 0) running ∧ Ready 0x37 (fl 0 15 0 0 0 7) running ∧ aluLegal (fl 0 0 0 0 0 0) = true
    ∧ (fl 0 0 0 0 3 0).only false true true false true 0xFFFFFFFF = true
    ∧ ((at5 running).core 5).gr 0 = 0 ∧ (fl 0 0 0 0 0 0).sa = 0 ∧ (fl 0 0 0 0 0 0).sb = 0 ∧ (fl 0 0 0 0 0 0).sub = 0
    ∧ (fl 0 2 0 0 0 0).only true true false false false 0 = true ∧ (fl 0 15 0 0 0 7).sa.toNat < 16
    ∧ (fl 0 0 0 0 0 0x018).imm.toNat ≠ 0x019 := by simp only [ready_running, true_and]; decide

/-! Descriptors (04, the engines' descriptor tables), by their words. -/

/-- A line of 32-bit words. -/
def line (w : List Nat) : Line := BitVec.ofNat 512 (w.foldr (fun x a => x + 2 ^ 32 * a) 0)
/-- MM: one product of S16 elements, kept in cell 0; and the same with a drain to near-store address 64. -/
def mm1 : Line := line [1, 1, 0x10001, 0, 0, 0x10000, 0, 32, 0x10000]
def mmDrain : Line := line [0x101, 1, 0x10001, 0, 0, 0x10000, 0, 32, 0x10000, 0, 64, 0x10000]
/-- VX: one row of one S16 element, a program of one instruction at near-store address 0. -/
def vx1 : Line := line [0x10002, 0, 0x10001, 0, 0, 0, 0, 0, 0, 0, 0, 0, 0, 64, 0x10000, 0]
/-- SF: one S16 element. -/
def sf1 : Line := line [3, 0x10001, 0, 0, 0, 0x10000, 0, 64, 0x10000, 0]
/-- CP: one row of 32 bytes from near-store address 0 to deep-store address 64. -/
def cp1 : Line := line [4, 32, 1, 0xFFFF, 0, 0, 0, 64, 0x80000, 0]
/-- GA: one element of 32 bytes from package memory to near-store address 0. -/
def ga1 : Line := line [5, 1, 1, 32, 0, 0x100000, 0, 0, 0, 0, 0, 0, 0]
/-- NZ: one uniform L32 element to near-store address 64. -/
def nz1 : Line := line [6, 1, 0, 0, 64, 0x20000, 0]
/-- A running core whose d1 holds a descriptor. -/
def withD (d : Line) : Core := { running with d := [(1, d)] }
/-- An issue of d1 with token 9 and status in g1. -/
def fIssue : Fields := fl 1 1 0 9 0 0
/-- An operation of a descriptor with token 9. -/
def op1 (d : Line) : EngOp := mkOp running 9 ⟨d, 0, [], 0, 0⟩ (1, 1, 1)
/-- The same, started. -/
def op2 (d : Line) : EngOp := { op1 d with started := true }
/-- A running core with an operation at the head of an engine and its token PENDING. -/
def busy (e : Nat) (o : EngOp) : Core := { running with eng := [(e, [o])], tok := [(9, .pending)] }

theorem witness_WaitOutcomes : Ready 0x60 (fl 1 0 0 9 0 0xFFFFFFFF) running ∧ Ready 0x60 (fl 1 0 2 9 0 0) (busy 3 (op2 sf1))
    ∧ Ready 0x60 (fl 1 0 0 9 0 1) { running with tok := [(9, .done 5)] }
    ∧ (fl 1 0 0 9 0 0xFFFFFFFF).only true false true true false 0xFFFFFFFF = true
    ∧ (fl 1 0 2 9 0 0).only true false true true false 0 = true
    ∧ running.token 9 = .free ∧ ({ running with tok := [(9, .done 5)] } : Core).token 9 = .done 5
    ∧ (busy 3 (op2 sf1)).token 9 = .pending ∧ (fl 1 0 0 9 0 0).imm.toNat = 0 ∧ (fl 1 0 0 9 0 1).imm.toNat ≠ 0
    ∧ ({ running with ctl := .held .wait (fl 1 0 0 9 0 0xFFFFFFFE) } : Core).ctl = .held .wait (fl 1 0 0 9 0 0xFFFFFFFE)
    ∧ (fl 1 0 0 9 0 0xFFFFFFFE).imm.toNat ≠ 0xFFFFFFFF ∧ (fl 1 0 0 9 0 0xFFFFFFFF).imm.toNat = 0xFFFFFFFF
    ∧ (busy 3 (op2 sf1)).engq 3 = [op2 sf1] ∧ (fl 1 0 0 9 0 5).tok.toNat = (op2 sf1).tok ∧ running.stopped = false
    ∧ running.awaitAdmit = false := by
  refine ⟨ready rfl (by decide), ready rfl (by decide), ready rfl (by decide), ?_⟩; decide +kernel
/-- A stalled WAIT takes the completion of its token. -/
theorem test_wait_completes :
    let k := coreAfter (exec (.sfComplete 5) (at5 { busy 3 (op2 sf1) with ctl := .held .wait (fl 1 0 0 9 0 5) })) 5
    k.ctl = .run ∧ k.pc = 8 ∧ k.token 9 = .free ∧ k.gr 1 = 0 := by decide +kernel
theorem test_wait_timeout : coreAfter (exec (.waitTimeout 5) (at5 { running with ctl := .held .wait (fl 1 0 0 9 0 5) })) 5
    = { running with pc := 8, g := [(1, 0x020A)] } := by decide
/-- The ring of queue 8 · 5 + 7 holds one entry, in the last of its 16 places. -/
theorem witness_ReceiveTakesTheHeadEntry :
    let k : Core := { running with rings := [(7, ⟨15, 1⟩)] }
    Ready 0x51 (fl 1 15 0 0 7 0) k ∧ Ready 0x51 (fl 1 15 2 0 7 0) running ∧ k.vBusy = false ∧ (fl 1 15 0 0 7 0).sa.toNat < 16
    ∧ (fl 1 15 0 0 7 5).only true true true false true 0xFFFFFFFF = true
    ∧ (fl 1 15 2 0 7 0).only true true true false true 0 = true
    ∧ (k.ring 7).count ≠ 0 ∧ k.queueTaken 7 = false ∧ (running.ring 7).count = 0
    ∧ (fl 1 15 0 0 7 0).imm.toNat = 0 ∧ (fl 1 15 0 0 7 5).imm.toNat ≠ 0
    ∧ ({ running with ctl := .held .recv (fl 1 15 0 0 7 5) } : Core).ctl = .held .recv (fl 1 15 0 0 7 5)
    ∧ (fl 1 15 0 0 7 0xFFFFFFFF).imm.toNat = 0xFFFFFFFF
    ∧ ({ busy 2 (op2 vx1) with ctl := .held .recv (fl 1 15 0 0 7 5) } : Core).vBusy = true := by
  refine ⟨ready rfl (by decide), ready rfl (by decide), ?_⟩; decide +kernel
theorem test_recv_wraps : (goes 0x51 (fl 1 15 0 0 7 5) { running with rings := [(7, ⟨15, 1⟩)] }).ring 7 = ⟨0, 0⟩ := by
  decide +kernel
/-- Core 5 of meadow 0 sends to tussock 5, queue 7, and to tussocks 0 and 2^19 - 1 outside it. -/
theorem witness_SendChecksThenHandsOver :
    let s (x : Dword) : State := owned (has 0x50 (fl 1 15 3 9 0 0) { running with g := [(3, x)] }) .opened
    ((s 0x70005).issues 5 ∧ (s 0x70005).spells 5 0x50 (fl 1 15 3 9 0 0)) ∧ running.vBusy = false ∧ (fl 1 15 3 9 0 0).sa.toNat < 16
    ∧ (fl 1 15 3 9 0 0).only true true true true false 0 = true ∧ (s 0x70005).meadowOf 5 = some 0
    ∧ running.token 9 = .free ∧ (busy 3 (op2 sf1)).token 9 ≠ .free ∧ 0x80000 / 2 ^ 19 ≠ 0 ∧ 0x7FFFF / 2 ^ 19 = 0
    ∧ (s 0).inMeadow (0x7FFFF % 2 ^ 16) 0 = false ∧ (s 0).inMeadow (0x70005 % 2 ^ 16) 0 = true := by
  unfold State.issues State.spells; decide +kernel
theorem witness_FenceOrders :
    let k := { busy 3 (op2 sf1) with ctl := .held .fence (fl 0 0 0 0 1 0) }
    Ready 0x61 (fl 0 0 0 0 3 0) running ∧ Ready 0x61 (fl 0 0 0 0 3 0) (busy 3 (op2 sf1)) ∧ Ready 0x61 (fl 0 0 0 0 4 0) running
    ∧ (fl 0 0 0 0 3 0).only false false false false true 0 = true ∧ 4 ≤ (fl 0 0 0 0 4 0).sub.toNat
    ∧ (fl 0 0 0 0 3 0).sub.toNat < 4 ∧ (fl 0 0 0 0 3 0).sub.getLsbD 0 = true ∧ (fl 0 0 0 0 3 0).sub.getLsbD 1 = true
    ∧ (fl 0 0 0 0 0 0).sub.getLsbD 0 = false ∧ (fl 0 0 0 0 0 0).sub.getLsbD 1 = false
    ∧ (busy 3 (op2 sf1)).anyPending = true ∧ running.anyPending = false
    ∧ k.ctl = .held .fence (fl 0 0 0 0 1 0) ∧ k.engq 3 = [op2 sf1] ∧ k.stopped = false ∧ k.awaitAdmit = false ∧ k.pc ≠ 4095
    ∧ ({ k with tok := [(8, .pending), (9, .pending)] }.setTok 9 (.done 0)).anyPending = true
    ∧ (k.setTok 9 (.done 0)).anyPending = false := by
  refine ⟨ready rfl (by decide), ready rfl (by decide), ready rfl (by decide), ?_⟩; decide +kernel
theorem test_fence_goes_on :
    (coreAfter (exec (.sfComplete 5) (at5 { busy 3 (op2 sf1) with ctl := .held .fence (fl 0 0 0 0 3 0) })) 5).pc = 8 := by
  decide +kernel
/-- Of two errors the lower-numbered token's is kept. -/
theorem witness_EpochEndStopsTheCore :
    let k : Core := { running with tok := [(3, .done 0), (4, .done 0x0505), (9, .done 0x0502)] }
    Ready 0x62 (fl 0 0 0 0 0 0) k ∧ Ready 0x62 (fl 0 0 0 0 0 0) (busy 3 (op2 sf1)) ∧ (fl 0 0 0 0 0 0).only false false false false false 0 = true
    ∧ (busy 3 (op2 sf1)).anyPending = true ∧ k.anyPending = false ∧ running.firstError = none
    ∧ k.firstError = some 0x0505 ∧ (owned (at5 k) .opened).meadowOf 5 = some 0
    ∧ ((owned (at5 k) .opened).meadow 0).state = .opened := by
  refine ⟨ready rfl (by decide), ready rfl (by decide), ?_⟩; decide +kernel
theorem witness_EngineIssueAccepted :
    let full (e : Nat) : Core := { running with eng := [(e, List.replicate 4 (op2 sf1))] }
    Ready 0x40 fIssue (withD mm1) ∧ Ready 0x41 fIssue (withD vx1) ∧ Ready 0x42 fIssue (withD sf1) ∧ Ready 0x43 fIssue (withD cp1)
    ∧ Ready 0x44 fIssue (withD ga1) ∧ Ready 0x45 fIssue (withD nz1) ∧ issueLegal fIssue = true ∧ running.token 9 = .free
    ∧ lineBits vx1 0 3 0 = 2 ∧ vxCheck vx1 = none ∧ lineBits sf1 0 3 0 = 3 ∧ sfCheck sf1 = none
    ∧ lineBits cp1 0 3 0 = 4 ∧ cpCheck (at5 running) 5 cp1 = none ∧ lineBits ga1 0 3 0 = 5 ∧ gaCheck ga1 = none
    ∧ lineBits nz1 0 3 0 = 6 ∧ nzCheck nz1 = none ∧ lineBits mm1 0 3 0 = 1 ∧ lineBits mm1 0 30 20 = 0
    ∧ mmCheck1 (mmCopies running mm1) = none ∧ (running.engq 2).length < 4 ∧ 4 ≤ ((full 2).engq 2).length
    ∧ (mmResolve (has 0x40 fIssue (withD mm1)) 5 (mmCopies (withD mm1) mm1)).1.isOk = true
    ∧ (mmResolve (has 0x40 fIssue (withD mm1)) 5 (mmCopies (withD mm1) mm1)).2.pkg = State.reset.pkg := by
  refine ⟨ready rfl (by decide), ready rfl (by decide), ready rfl (by decide), ready rfl (by decide), ready rfl (by decide),
    ready rfl (by decide), ?_⟩; decide +kernel
theorem test_issue_joins : let k := goes 0x40 fIssue (withD mm1)
    k.token 9 = .pending ∧ k.gr 1 = 0 ∧ (k.engq 1).length = 1 ∧ k.pc = 8 := by decide +kernel
theorem witness_EngineIssueRefused : Ready 0x40 fIssue (withD sf1) ∧ Ready 0x41 fIssue (withD (line [2]))
    ∧ Ready 0x42 fIssue (withD (line [3, 0x10001, 0, 0, 0, 0x40000])) ∧ Ready 0x43 fIssue (withD (line [4, 0]))
    ∧ Ready 0x44 fIssue (withD (line [5, 1, 65, 0, 0, 0x100000])) ∧ Ready 0x45 fIssue (withD (line [6, 0, 0, 0, 0, 0x20000]))
    ∧ issueLegal fIssue = true
    ∧ (busy 3 (op2 sf1)).token 9 ≠ .free ∧ running.token 9 = .free ∧ lineBits sf1 0 3 0 ≠ 1
    ∧ vxCheck (line [2]) = some 0x020C ∧ sfCheck (line [3, 0x10001, 0, 0, 0, 0x40000]) = some 0x0201
    ∧ cpCheck (at5 running) 5 (line [4, 0]) = some 0x020B ∧ gaCheck (line [5, 1, 65, 0, 0, 0x100000]) = some 0x0302
    ∧ nzCheck (line [6, 0, 0, 0, 0, 0x20000]) = some 0x0302 := by
  refine ⟨ready rfl (by decide), ready rfl (by decide), ready rfl (by decide), ready rfl (by decide), ready rfl (by decide),
    ready rfl (by decide), ?_⟩; decide +kernel
theorem witness_EngineOperationStarts :
    let b (e : Nat) (o : EngOp) : Core := busy e o
    (b 3 (op2 sf1)).stopped = false ∧ (b 3 (op2 sf1)).engq 3 = [op2 sf1] ∧ (op2 sf1).started = true
    ∧ (op1 sf1).started = false ∧ (b 6 (op1 nz1)).engq 6 = [op1 nz1] ∧ cpRemote cp1 = false
    ∧ (b 4 (op1 cp1)).nextCopy = some (op1 cp1) ∧ (b 5 (op1 ga1)).engq 5 = [op1 ga1] ∧ (op1 vx1).err = 0
    ∧ ((at5 (b 5 (op2 ga1))).runAhead 5 0 ga1 0 []).pkg = State.reset.pkg
    ∧ (b 2 (op1 vx1)).engq 2 = [op1 vx1] ∧ (b 2 (op1 vx1)).vectorFree (op1 vx1).seq = true
    ∧ progCheck (b 2 (op1 vx1)) (vxSweep vx1) = none := by decide +kernel
/-- A core with no stalled instruction. -/
theorem unstalled_run {c : Core} (h : c.ctl = .run) : c.unstalled := fun _ _ k => by simp [h] at k
theorem unstalled_idle {c : Core} (h : c.ctl = .idle) : c.unstalled := fun _ _ k => by simp [h] at k
theorem witness_MatrixProductsSummed : (busy 1 (op1 mm1)).engq 1 = [op1 mm1] ∧ (busy 1 (op1 mm1)).unstalled
    ∧ (op1 mm1).chain = 0 ∧ (op1 mm1).plan = [] ∧ (op1 mm1).stage = .work ∧ (op1 mm1).isAq = false
    ∧ (op1 mm1).started = false ∧ (busy 1 (op1 mm1)).stopped = false ∧ (op1 mm1).summed = false ∧ lineBits mm1 0 8 8 = 0
    ∧ (op2 mmDrain).started = true ∧ ({ op2 mmDrain with summed := true } : EngOp).summed = true
    ∧ lineBits mmDrain 0 8 8 = 1 ∧ (at5 (busy 1 (op1 mm1))).acking 5 (op1 mm1).seq = false := by
  refine ⟨by decide +kernel, unstalled_run rfl, ?_⟩; decide +kernel
theorem witness_EngineResultsWritten : (busy 3 (op2 sf1)).unstalled ∧ (busy 3 (op2 sf1)).stopped = false
    ∧ (busy 3 (op2 sf1)).engq 3 = [op2 sf1] ∧ (busy 6 (op2 nz1)).engq 6 = [op2 nz1] ∧ (busy 5 (op2 ga1)).engq 5 = [op2 ga1]
    ∧ (op2 ga1).started = true
    ∧ ((at5 (busy 5 (op2 ga1))).gaRun 5 0 ga1 [] (List.range (lineWord ga1 1))).2.core 5 = busy 5 (op2 ga1)
    ∧ ((at5 (busy 5 (op2 ga1))).gaRun 5 0 ga1 [] (List.range (lineWord ga1 1))).2.pkg = State.reset.pkg
    ∧ (busy 2 { op2 vx1 with vdone := true }).engq 2 = [{ op2 vx1 with vdone := true }]
    ∧ (op2 vx1).stage = .work ∧ (op2 vx1).plan = [] := by
  refine ⟨unstalled_run rfl, ?_⟩; decide +kernel
theorem witness_LocalCopyMovesItsBytes : (busy 4 (op2 cp1)).engq 4 = [op2 cp1] ∧ (busy 4 (op2 cp1)).unstalled
    ∧ (busy 4 (op2 cp1)).stopped = false ∧ cpRemote cp1 = false ∧ (tensAt cp1 4).space ≤ 1 ∧ (tensAt cp1 7).space ≤ 1
    ∧ lineBits cp1 1 19 0 % 32 = 0 ∧ cpOverlap false cp1 = false ∧ (op2 cp1).sent = false
    ∧ (at5 (busy 4 (op2 cp1))).acking 5 (op2 cp1).seq = false := by
  refine ⟨by decide +kernel, unstalled_run rfl, ?_⟩; decide +kernel
theorem test_copy : (coreAfter (exec (.cpComplete 5) (at5 { busy 4 (op2 cp1) with near := [(31, 7)] })) 5).deep = [(95, 7)] := by
  decide +kernel

/-! Tile programs. -/

/-- VX with three S16 inputs, one row of 17 columns (two tiles), a program of two instructions and two scratch places. -/
def vx3 : Line := line [0x20302, 0, 0x110001, 0x20040, 0, 0x10000, 0, 64, 0x10000, 0, 128, 0x10000, 0, 256, 0x10000, 0]
/-- Its operation in its sweep, at the first instruction of the first row step, and at the last of the last. -/
def vop : EngOp := { op2 vx3 with stage := .vx }
def vlast : EngOp := { vop with tile := 1, ip := 1 }
/-- Core 5 in that sweep, with v1, v2 and a statistic slot. -/
def vcore (o : EngOp) (sl : Slot) : Core :=
  { busy 2 o with v := [(2, line [0x3F800000, 0x40000000]), (4, line [0x40000000, 0x40000000])], slots := if sl = Slot.zero then [] else [(0, sl)] }
/-- A tile instruction's fields. -/
def tf (vd va vb vc : BitVec 4) (w : Bool) (fn : BitVec 4) (imm : Word) : TFields := ⟨vd, va, vb, vc, w, fn, false, 0, imm⟩
/-- The word of a tile instruction, and an operation whose every instruction is that word. -/
def tword (op : Nat) (f : TFields) : Nat := op * 2 ^ 56 + f.vd.toNat * 2 ^ 52 + f.va.toNat * 2 ^ 48 + f.vb.toNat * 2 ^ 44
  + f.vc.toNat * 2 ^ 40 + f.w.toNat * 2 ^ 39 + f.fn.toNat * 2 ^ 35 + f.imm.toNat
def opOf (op : Nat) (f : TFields) (o : EngOp) : EngOp :=
  { o with words := [[tword op f, tword op f], [tword op f, tword op f]] }
/-- MM with an epilogue that gates, or that feeds a second operation. -/
def mmGate : EngOp := { op2 mmDrain with chain := line [0x10C, 0, 0, 0x20000, 0, 0x200, 0xFFFF0000, 1], stage := .epi }
def mmNext : EngOp := { op2 mmDrain with chain := line [0x114, 0, 0, 0x20000, 0, 0x200, 0xFFFF0000, 0], stage := .epi }

/-- Every vector instruction passes its checks; registers at the ends of their ranges. -/
def vectorOps : List (TOp × TFields) :=
  [(.nop, tf 0 0 0 0 false 0 0), (.add, tf 15 1 2 0 false 0 0), (.sub, tf 14 0 2 0 true 0 0), (.mul, tf 15 1 2 0 false 0 0),
    (.fma, tf 15 1 2 3 false 0 0), (.min, tf 0 1 2 0 false 0 0), (.max, tf 0 1 2 0 false 0 0), (.ceq, tf 0 1 2 0 false 0 0),
    (.clt, tf 0 1 2 0 false 0 0), (.cle, tf 0 1 2 0 false 0 0), (.sel, tf 0 1 2 3 false 0 0), (.and, tf 0 1 2 0 false 0 0),
    (.or, tf 0 1 2 0 false 0 0), (.xor, tf 0 1 2 0 false 0 0), (.ldx, tf 14 0 0 0 true 0 0), (.ldy, tf 1 0 0 0 false 0 0),
    (.ldz, tf 1 0 0 0 false 0 0), (.sto, tf 0 1 0 0 false 0 0), (.lds, tf 1 0 0 0 false 0 1), (.sts, tf 0 1 0 0 false 0 1),
    (.imm, tf 1 0 0 0 false 0 0xFFFFFFFF), (.sys, tf 1 0 0 0 false 0 0xFFF), (.idx, tf 1 0 0 0 false 0 3),
    (.cvt, tf 2 1 0 0 false 0 0), (.cvt, tf 1 2 0 0 false 0 1), (.cvt, tf 1 2 0 0 false 0 2), (.cvt, tf 1 2 0 0 false 0 3),
    (.sfn, tf 1 2 0 0 false 9 0), (.rclr, tf 0 0 0 0 false 0 0), (.rsx, tf 0 0 0 0 false 0 0), (.rsl, tf 0 1 0 0 false 0 0),
    (.rmean, tf 1 0 0 0 false 0 0), (.rvar, tf 2 0 0 0 true 0 0), (.rdiv, tf 1 2 0 0 false 0 0), (.rsmax, tf 1 2 0 0 false 0 0),
    (.rprob, tf 1 2 0 0 false 0 0), (.rstr, tf 0 0 0 0 false 0 0x7FF), (.rldr, tf 0 0 0 0 false 0 0x7FF),
    (.raddr, tf 0 0 0 0 false 0 0x7FF)]

/-- The state, the sweep, the checks and what follows, for the first and the last instruction of a VX sweep. -/
theorem witness_TileInstructionIsOneRowStep :
    (vcore vop Slot.zero).sweeping = some (2, vop) ∧ (vcore vop Slot.zero).engq 2 = [vop] ∧ vop.sweep = some (vxSweep vx3)
    ∧ (vectorOps.all fun x => tileCheck (vxSweep vx3) x.1 x.2 == none) = true
    ∧ (vxSweep vx3).after 0 0 0 = some (0, 0, 1) ∧ (vxSweep vx3).after 0 0 1 = some (1, 0, 0)
    ∧ (vcore vlast Slot.zero).sweeping = some (2, vlast) ∧ (vxSweep vx3).after 1 0 1 = none ∧ vlast.stage = .vx := by
  decide +kernel
/-- VADD v15, v2, v4; VSTO of v2 and of v1; RSX; RPROB; CLDG; CFEED; a load. -/
def vadd1 : EngOp := opOf 0x01 (tf 15 2 4 0 false 0 0) vop
def vsto2 : EngOp := opOf 0x13 (tf 0 2 0 0 false 0 0) vlast
def vsto1 : EngOp := opOf 0x13 (tf 0 1 0 0 false 0 0) vlast
def vrsx : EngOp := opOf 0x41 (tf 0 0 0 0 false 0 0) vlast
def vprob : EngOp := opOf 0x47 (tf 1 2 0 0 false 0 0) vlast
def gldg : EngOp := opOf 0x50 (tf 2 0 0 0 true 0 0) mmGate
def gldx : EngOp := opOf 0x10 (tf 1 0 0 0 false 0 0) mmGate
def nfeed : EngOp := opOf 0x51 (tf 0 1 0 0 false 0 0) mmNext
theorem atRow_add : (at5 (vcore vadd1 Slot.zero)).AtRow 5 2 vadd1 (vxSweep vx3) .add (tf 15 2 4 0 false 0 0) :=
  ⟨by decide +kernel, by decide +kernel, by decide +kernel, by decide +kernel⟩
/-- 1 + 2 = 3 in L32. -/
theorem test_vadd : (coreAfter (exec (.vadd 5 (tf 15 2 4 0 false 0 0)) (at5 (vcore vadd1 Slot.zero))) 5).lane false 15 0 = 0x40400000 := by
  decide +kernel
theorem witness_TileLaneArithmetic : (at5 (vcore vadd1 Slot.zero)).AtRow 5 2 vadd1 (vxSweep vx3) .add (tf 15 2 4 0 false 0 0)
    ∧ (vxSweep vx3).after vop.tile vop.row vop.ip ≠ none ∧ vlast.stage = .vx := ⟨atRow_add, by decide +kernel⟩
/-- The last row step has one active lane. -/
theorem witness_TileLoadsStoresAndConversions :
    (at5 (vcore vsto1 Slot.zero)).AtRow 5 2 vsto1 (vxSweep vx3) .sto (tf 0 1 0 0 false 0 0)
    ∧ (vxSweep vx3).x = some (tensAt vx3 4) ∧ (vxSweep vx3).y = some (tensAt vx3 7) ∧ (vxSweep vx3).z = some (tensAt vx3 10)
    ∧ ((vxSweep vx3).step 1 0).act = 1 ∧ (tf 1 0 0 0 false 0 1).w = false ∧ (epiSweep mmGate).x = none
    ∧ (at5 (busy 1 gldx)).AtRow 5 1 gldx (epiSweep mmGate) .ldx (tf 1 0 0 0 false 0 0)
    ∧ (epiSweep mmGate).after mmGate.tile mmGate.row mmGate.ip ≠ none := by
  refine ⟨⟨by decide +kernel, by decide +kernel, by decide +kernel, by decide +kernel⟩, ?_⟩
  refine ⟨by decide +kernel, by decide +kernel, by decide +kernel, by decide +kernel, by decide +kernel, by decide +kernel, ?_⟩
  exact ⟨⟨by decide +kernel, by decide +kernel, by decide +kernel, by decide +kernel⟩, by decide +kernel⟩
/-- 1.0 is the S16 code 0x4000 (R67). -/
theorem test_vsto_one_lane : (coreAfter (exec (.vsto 5 (tf 0 2 0 0 false 0 0)) (at5 (vcore vsto2 Slot.zero))) 5).near = [(289, 0x40)] := by
  decide +kernel
/-- Slots of each kind; an instruction that is not the first of its row sees the slot as it is. -/
theorem witness_RowStatistics :
    (at5 (vcore vprob { Slot.zero with kind := .softmax, n := 1 })).AtRow 5 2 vprob (vxSweep vx3) .rprob (tf 1 2 0 0 false 0 0)
    ∧ (at5 (vcore vlast { Slot.zero with kind := .softmax, n := 1 })).slotSeen 5 vlast (vxSweep vx3)
      = { Slot.zero with kind := .softmax, n := 1 }
    ∧ ((at5 (vcore vlast { Slot.zero with kind := .exact, n := 1 })).slotSeen 5 vlast (vxSweep vx3)).kind = .exact
    ∧ ((at5 (vcore vop { Slot.zero with kind := .wide, n := 1 })).slotSeen 5 vop (vxSweep vx3)).kind = .empty
    ∧ (vxSweep vx3).allCols ≤ ((vxSweep vx3).step 1 0).col + 16
    ∧ ¬ (vxSweep vx3).allCols ≤ ((vxSweep vx3).step 0 0).col + 16 := by
  refine ⟨⟨by decide +kernel, by decide +kernel, by decide +kernel, by decide +kernel⟩, ?_⟩; decide +kernel
/-- RSX of the S16 code 3, which is 3 times 2^-40: the sum's unit is 2^-80 (R184). -/
theorem test_rsx_sums : ((coreAfter (exec (.rsx 5 (tf 0 0 0 0 false 0 0))
    (at5 { vcore vrsx Slot.zero with near := [(32, 3)] })) 5).slot 0).sum1 = 3 * 2 ^ 40 := by decide +kernel
theorem witness_ChainInstructions :
    (at5 (busy 1 gldg)).AtRow 5 1 gldg (epiSweep mmGate) .cldg (tf 2 0 0 0 true 0 0)
    ∧ (at5 (busy 1 nfeed)).AtRow 5 1 nfeed (epiSweep mmNext) .cfeed (tf 0 1 0 0 false 0 0)
    ∧ ([(.cscale, tf 0 0 0 0 false 0 0x3F), (.rscale, tf 0 0 0 0 false 0 0), (.rdfr, tf 1 2 0 0 false 0 4095)].all
        fun x => tileCheck (epiSweep mmNext) x.1 x.2 == none) = true
    ∧ (epiSweep mmGate).after mmGate.tile mmGate.row mmGate.ip ≠ none
    ∧ (epiSweep mmNext).after mmNext.tile mmNext.row mmNext.ip ≠ none
    ∧ ((at5 { busy 1 { mmNext with ip := 1 } with slots := [(0, { Slot.zero with kind := .softmax })] }).slotSeen 5
        { mmNext with ip := 1 } (epiSweep mmNext)).kind = .softmax := by
  refine ⟨⟨by decide +kernel, by decide +kernel, by decide +kernel, by decide +kernel⟩,
    ⟨by decide +kernel, by decide +kernel, by decide +kernel, by decide +kernel⟩, ?_⟩
  decide +kernel
/-- The program in the near store is VNOP with a non-zero IMM. -/
theorem witness_IllegalTileInstructionEndsItsOperation :
    let k : Core := { busy 2 (op1 vx1) with near := [(1, 5)] }
    k.engq 2 = [op1 vx1] ∧ (op1 vx1).started = false ∧ k.stopped = false ∧ k.vectorFree (op1 vx1).seq = true ∧ k.unstalled
    ∧ progCheck k (vxSweep vx1) = some 0x0401
    ∧ (vcore vadd1 Slot.zero).sweeping = some (2, vadd1) ∧ vadd1.sweep = some (vxSweep vx3)
    ∧ vadd1.nextTile (vxSweep vx3) ≠ (some .add, tf 15 2 5 0 false 0 0)
    ∧ tileCheck (vxSweep vx3) .add (tf 1 2 3 4 false 0 0) = some 0x0401
    ∧ tileCheck (vxSweep vx3) .sto (tf 0 1 0 0 true 0 0) = some 0x0402
    ∧ tileCheck (vxSweep vx1) .rsx (tf 0 0 0 0 false 0 0) = some 0x0406
    ∧ tileCheck (vxSweep vx3) .cldg (tf 1 0 0 0 false 0 0) = some 0x0401 := by
  refine ⟨by decide +kernel, by decide +kernel, by decide +kernel, by decide +kernel, unstalled_run rfl, ?_⟩; decide +kernel

/-! Messages, the stem network and the control page. -/

/-- A message of core 5 to queue 3 of core 6, with token 9, in a state. -/
def msg1 (st : MsgSt) : Msg := { mkMsg 6 6 3 0 5 0 0 0 (some 9) none with st := st, site := 6 }
/-- A doorbell of port 0 for queue 3 of core 6, and a note of copy 4. -/
def bell : Msg := mkMsg 6 6 3 2 0 1 0 0 none none
def note : Msg := { msg1 .waiting with kind := 1, tok := none, cp := some 4 }
/-- Core 5 has an injected message in a state, and base tussock 1 has power. -/
def sent (st : MsgSt) : State := (owned (at5 { running with unacked := [msg1 st] }) .opened).updBase 1 fun b => { b with gated := false }
/-- The same with queue 3 of core 6 full. -/
def sentFull : State := (sent .flying).updCore 6 fun k => { k with rings := [(3, ⟨0, 16⟩)] }

theorem witness_MessagesInjectedDeliveredAndAnswered :
    (State.reset.updHub fun h => { h with doorbells := [bell] }).hub.doorbells = [] ++ bell :: []
    ∧ (State.reset.updHub fun h => { h with doorbells := [bell] }).behindWrite bell = false ∧ running.stopped = false
    ∧ (15 : Nat) < 16 ∧ (msg1 .waiting).kind ≠ 2 ∧ (msg1 .waiting).tok = some 9 ∧ (msg1 .waiting).cp = none
    ∧ note.tok = none ∧ note.cp = some 4 ∧ note.kind ≠ 2
    ∧ (at5 { running with sendq := [msg1 .waiting] }).waiting (.core 5) = [] ++ msg1 .waiting :: []
    ∧ (at5 { running with sendq := [msg1 .waiting] }).unacked (.core 5) = []
    ∧ (sent .flying).findMsg (.core 5) 51 (· == .flying) = some (msg1 .flying)
    ∧ (sent .flying).dropAt 6 6 0 = none ∧ ((sent .flying).core 6).ring 3 = ⟨0, 0⟩ ∧ (15 : Nat) < (sent .flying).queueDepth 51
    ∧ sentFull.dropAt 6 6 0 = none ∧ sentFull.queueDepth 51 ≤ ((sentFull.core 6).ring 3).count
    ∧ sentFull.meadowOf 6 = some 0
    ∧ (State.reset.setCore 5 { running with unacked := [msg1 .flying] }).dropAt 6 6 0 = some .gated
    ∧ (sent .accepted).findMsg (.core 5) 51 (fun st => st == .accepted || st == .dropped || st == .bounced) = some (msg1 .accepted)
    ∧ (sent .bounced).findMsg (.core 5) 51 (fun st => st == .accepted || st == .dropped || st == .bounced) = some (msg1 .bounced)
    ∧ (msg1 .accepted).igen = ((sent .accepted).core 5).gen ∧ (msg1 .accepted).igen ≠ ({ running with gen := 1 } : Core).gen
    ∧ (sent .held).findMsg (.core 5) 51 (· == .held) = some (msg1 .held)
    ∧ (sent .held).mayInject (.core 5) = true ∧ (sent .held).abandoned (.core 5) (msg1 .held) = false
    ∧ (owned (sent .held) .boundary).abandoned (.core 5) (msg1 .held) = true := by decide +kernel
/-- The entry goes behind the 15 that the ring holds. -/
theorem test_arrival : (coreAfter (exec (.messageArrival (.core 5) 51)
    ((sent .flying).updCore 6 fun k => { k with rings := [(3, ⟨15, 15⟩)] })) 6).ring 3 = ⟨15, 16⟩ := by decide +kernel

/-- A level-2 tree. -/
def tree : IdTree := ⟨List.replicate 16 0, List.replicate 32 0, [], []⟩
/-- The block after start-up. -/
def up : State := State.reset.updSxt fun x =>
  { x with power := true, bootStep := 11, fwRunning := true, bootLeaf := some 0, idTree := some tree, sigsLeft := 1 }
/-- Port 0 has a mailbox command that Sexton handles. -/
def mailed (s : State) (op : Nat) (args : Sparse Dword) : State :=
  (s.updMbox 0 fun m => { m with job := some ⟨op, 7, args, 11⟩ }).updSxt fun x => { x with mailQueue := [0] }
/-- A STEM frame for base tussock 1, which is meadow 0's, or for base tussock 2, which is no meadow's. -/
def framed (fr : Nat) : State := mailed (owned up .stopped) 7 [(0, BitVec.ofNat 64 fr)]
/-- A public key of a form that is accepted (R458), and the part in its OWNED state with it. -/
def owner : List Byte := natToBe 4 1 ++ natToBe 4 6 ++ natToBe 4 3 ++ List.replicate 48 0
def ownedPart (s : State) : State := s.updSxt fun x => { x with lcBits := 0x7, journal := [⟨⟨owner, owner, 0, true, true⟩, true⟩] }

theorem witness_StemFramesAreIssued :
    (framed 0x100101).mailJob 0 = some ⟨7, 7, [(0, 0x100101)], 11⟩ ∧ (framed 0x100101).sxt.fwRunning = true
    ∧ ((framed 0x100101).sxt.stemWait ++ (framed 0x100101).sxt.stemOut).any (fun k => k.by_ == .mail 0) = false
    ∧ 10 ≤ (framed 0x100101).sxt.bootStep ∧ ([1, 2, 3, 4, 5, 6].all fun op => frameOk (0x100100 + op)) = true
    ∧ bitsOf 0x100106 3 0 = 6 ∧ (framed 0x100101).portTarget 0 0x1001 = true ∧ (framed 0x100201).portTarget 0 0x1002 = false
    ∧ (framed 0x100101).sxt.stemWait = [] ∧ stemPlace (framed 0x100101).sxt.stemOut ⟨1, 0x1001, 0, .mail 0, false⟩ = true
    ∧ (ownedPart (framed 0x6100105)).bistCheck 0x1001 6 = none ∧ (ownedPart (framed 0x100105)).bistCheck 0x1001 0 = some 0x0E02
    ∧ ((ownedPart (framed 0x6100105)).updBase 1 fun b => { b with gated := false }).bistWaits 0x1001 = false
    ∧ ((framed 0x100101).updSxt fun x => { x with bootStep := 9 }).sxt.bootStep < 10 ∧ frameOk 0x100181 = false := by
  decide +kernel
/-- STOP stops the cores of its target. -/
theorem test_stop : (coreAfter (exec (.stemStop 0) (mailed (owned up .opened) 7 [(0, 0x100101)])) 5).stopped = true := by decide +kernel

/-- Stem commands unacknowledged. -/
def stem (s : State) (k : StemCmd) : State := s.updSxt fun x => { x with stemOut := [k] }
def stopCmd : StemCmd := ⟨1, 0x1001, 0, .mail 0, false⟩
def admitCmd : StemCmd := ⟨4, 0x1001, 5, .sexton, false⟩
/-- A request of core 5 on its way holds back the acknowledgement of its tussock's ISOLATE. -/
theorem witness_StemAcknowledgements_flies :
    5 ∈ ((owned up .stopped).coresOf 0x1001).getD [] ∧ (∃ m ∈ ((sent .flying).core 5).unacked, m.st ≠ .held ∧ m.st ≠ .waiting)
    ∧ (((owned up .stopped).coresOf 0x1001).getD []).all (fun n => ((owned up .stopped).core n).unacked.isEmpty
        && ((owned up .stopped).core n).rcopies.isEmpty) = true ∧ (owned up .stopped).pkg.deltas = [] := by decide +kernel
theorem witness_StemAcknowledgements :
    (stem (owned up .opened) stopCmd).sxt.stemOut[(0 : Fin 4).val]? = some stopCmd ∧ stopCmd.waits = false
    ∧ (stem (owned up .opened) stopCmd).sxt.lockstep = false ∧ (stem (owned up .opened) stopCmd).sxt.stemWait = []
    ∧ ((stem (owned up .opened) stopCmd).port 0).ctlQueue = [] ∧ ((stem (owned up .opened) stopCmd).port 1).ctlQueue = []
    ∧ stopCmd.by_ = .mail 0 ∧ (stem (owned up .opened) stopCmd).sxt.repairQueue = []
    ∧ admitCmd.by_ = .sexton ∧ (owned up .opened).meadowOfTop 0x1001 = some 0 ∧ bitsOf admitCmd.arg 11 0 = 5
    ∧ (owned up .opened).meadowOf 5 = some 0 ∧ (((owned up .opened).basesOf 0x1001).getD []).contains 1 = true
    ∧ (owned up .opened).meadowOfBase 1 = some 0 ∧ ((owned up .opened).meadow 0).state = .opened
    ∧ (owned up .opened).sxt.repair.phase = 0 ∧ (owned up .opened).hostStream = false
    ∧ (((owned up .opened).updBase 1 fun b => { b with gated := false }).base (baseOf 5)).gated = false
    ∧ (owned up .opened).sxt.bootStep ≠ 10
    ∧ (MState.opened ≠ .ready ∨ ((owned up .opened).meadow 0).switchReq = false) := by decide +kernel
theorem witness_StemAcknowledgements_core : ((stem (owned up .opened) admitCmd).core 5).unstalled := unstalled_idle (by decide +kernel)
/-- An admitted core starts where its meadow's epoch is open. -/
theorem test_admit_starts : (coreAfter (exec (.stemAck 0)
    (stem (((owned up .opened).setCore 5 { Core.zero with awaitAdmit := true }).updBase 1 fun b =>
      { b with gated := false }) admitCmd)) 5).ctl = .run := by decide +kernel

/-- Meadow 0 on function 3 of port 0, in a state. -/
def onFn (st : MState) : State := (owned up st).updMeadow 0 fun x => { x with fn := 3 }
theorem witness_ControlPageStops :
    16 ≤ (((onFn .opened).updPort 0 fun x => { x with ctlQueue := List.replicate 16 ⟨0, 1, true, 1⟩ }).port 0).ctlQueue.length
    ∧ ((onFn .opened).port 0).ctlQueue = [] ∧ (onFn .opened).sxt.lockstep = false
    ∧ ((onFn .opened).meadow 0).state ≠ .absent ∧ ((onFn .opened).meadow 0).port = 0 ∧ ((onFn .opened).meadow 0).state ≠ .stopped
    ∧ ((onFn .stopped).meadow 0).state = .stopped ∧ ((onFn .opened).meadow 63).state = .absent
    ∧ (onFn .opened).fnMeadow 0 3 = some 0
    ∧ ((onFn .opened).meadowIds.filter fun k => ((onFn .opened).meadow k).state ≠ .stopped) = [0]
    ∧ ((onFn .stopped).meadowIds.filter fun k => ((onFn .stopped).meadow k).state ≠ .stopped) = [] := by decide +kernel

/-! Signatures. A witness's key is the one that a fixed signature verifies under: only the key depends on the message. -/

theorem sha256_length (m : List Byte) : (sha256 m).length = 32 := by
  unfold sha256; simp [natToBe, natToBytes_length, upFrom, List.flatMap]
theorem slice_left (a r : List Byte) (i n : Nat) (h : i + n ≤ a.length) : sliceBytes (a ++ r) i n = sliceBytes a i n := by
  have e : ((a ++ r).drop i).take n = (a.drop i).take n := by
    rw [List.drop_append_of_le_length (by omega), List.take_append_of_le_length (by simp; omega)]
  unfold sliceBytes; rw [e]
theorem slice_right (a r : List Byte) : sliceBytes (a ++ r) a.length r.length = r := by
  simp [sliceBytes]

/-- The 24 bytes of a tree's public key before its root: height 10, 16 bits of a digit, no name (R458). -/
def keyHead : List Byte := natToBe 4 6 ++ natToBe 4 3 ++ List.replicate 16 0
/-- A signature of one level, of leaf 0, with zeros for every hash. -/
def sigTree : List Byte :=
  List.replicate 4 0 ++ natToBe 4 3 ++ List.replicate 2176 0 ++ natToBe 4 6 ++ List.replicate 320 0
def sigOf : List Byte := List.replicate 4 0 ++ sigTree
/-- The root that the signature leads to. -/
def rootOf (msg : List Byte) : List Byte :=
  let id := List.replicate 16 (0 : Byte)
  lmsRoot id 10 1024 (sha256 (id ++ natToBe 4 1024 ++ [0x82, 0x82]
    ++ otsKey ⟨4, 67⟩ id 0 (sliceBytes sigTree 8 32) (sliceBytes sigTree 40 2144) msg)) (sigTree.drop 2188)
/-- The public key. -/
def keyOf (msg : List Byte) : List Byte := natToBe 4 1 ++ keyHead ++ rootOf msg

theorem lmsRoot_length (id : List Byte) (h n : Nat) (t path : List Byte) (k : t.length = 32) :
    (lmsRoot id h n t path).length = 32 := by
  induction h generalizing n t path with
  | zero => exact k
  | succ h ih => exact ih _ _ _ (sha256_length _)
theorem rootOf_length (msg : List Byte) : (rootOf msg).length = 32 := lmsRoot_length _ _ _ _ _ (sha256_length _)
theorem lms_signed (msg : List Byte) : lmsVerify (keyHead ++ rootOf msg) sigTree msg = true := by
  have e0 : sliceBytes (keyHead ++ rootOf msg) 0 4 = natToBe 4 6 := (slice_left _ _ _ _ (by decide)).trans (by decide)
  have e4 : sliceBytes (keyHead ++ rootOf msg) 4 4 = natToBe 4 3 := (slice_left _ _ _ _ (by decide)).trans (by decide)
  have e8 : sliceBytes (keyHead ++ rootOf msg) 8 16 = List.replicate 16 0 := (slice_left _ _ _ _ (by decide)).trans (by decide)
  have e24 : sliceBytes (keyHead ++ rootOf msg) 24 32 = rootOf msg := by
    have := slice_right keyHead (rootOf msg); rwa [rootOf_length] at this
  have s0 : bytesToBe (sliceBytes sigTree 0 4) = 0 := by decide +kernel
  have s4 : bytesToBe (sliceBytes sigTree 4 4) = 3 := by decide +kernel
  have st : bytesToBe (sliceBytes sigTree 2184 4) = 6 := by decide +kernel
  have l : sigTree.length = 2508 := by decide +kernel
  have k6 : bytesToBe (natToBe 4 6) = 6 := by decide
  have k3 : bytesToBe (natToBe 4 3) = 3 := by decide
  have len : (keyHead ++ rootOf msg).length = 56 := by simp [rootOf_length, keyHead, natToBe, natToBytes_length]
  simp only [lmsVerify, lmsSigBytes, e0, e4, e8, e24, s0, s4, st, l, k6, k3, len, lmsHeight, otsKind]
  simp [rootOf, lmsKeyBytes]
/-- The signature verifies under the key. -/
theorem hss_signed (msg : List Byte) : hssVerify (keyOf msg) sigOf msg = true := by
  have e : (keyOf msg).drop 4 = keyHead ++ rootOf msg := by simp [keyOf, natToBe, natToBytes]
  have f : sigOf.drop 4 = sigTree := by simp [sigOf]
  have e0 : bytesToBe (sliceBytes (keyOf msg) 0 4) = 1 := by
    unfold keyOf; rw [List.append_assoc, slice_left _ _ _ _ (by decide)]; decide
  have s0 : bytesToBe (sliceBytes sigOf 0 4) = 0 := by decide +kernel
  have l : (keyOf msg).length = 60 := by simp [keyOf, rootOf_length, keyHead, natToBe, natToBytes_length]
  simp [hssVerify, e, f, e0, s0, l, hssLevels, lms_signed]

/-! Sexton. -/

/-- A firmware image of 64 bytes for every part, security version 1 (R454), and its signature. -/
def image : List Byte := natToBytes 4 0x54585346 ++ natToBytes 4 0 ++ [1, 1, 0xFF, 0xFF] ++ List.replicate 52 0
def signedImage : List Byte := image ++ sigOf
/-- Start-up at a step. -/
def atStep (n : Nat) (fw : Bool) : State := up.updSxt fun x => { x with bootStep := n, fwRunning := fw, waiting := true }
/-- The ROM waits for firmware, and holds the key of the image. -/
def rom : State := mailed ((atStep 5 false).updSxt fun x => { x with romKey := keyOf image }) 1 []
/-- A partial stream with no record, of SERIAL 2 over a full stream of serial 1; its digest was computed outside the model. -/
def stream2 : List Byte := [0x46524F51, 0x00010100, 17, 1, 2, 1, 0, 0, 0x0008FFFE, 0x2521406A, 0x1B3F3D0A, 0x0F0759C2,
  0xF4740225, 0x1171C98C, 0x807E20B6, 0x21766107, 0xF4E29751].flatMap (natToBytes 4)
/-- The stream of serial 1 is in force. -/
def streamed (n : Nat) : State := { atStep n true with qorf := { Qorf.zero with fullSerial := 1, serial := 1, anyAccepted := true } }

theorem image_signed : rom.gnoelliaSigns (signedImage.drop 64) (signedImage.take 64) = true := by
  have e : signedImage.take 64 = image ∧ signedImage.drop 64 = sigOf := by
    have l : image.length = 64 := by decide
    exact ⟨l ▸ List.take_left, l ▸ List.drop_left⟩
  rw [e.1, e.2]; exact hss_signed image
/-- Sexton handles the mailbox command of port 0, before firmware runs and after. -/
theorem handles_firmware : rom.Handles 0 1 ⟨1, 7, [], 11⟩ := ⟨by decide +kernel, rfl, .inr rfl⟩
theorem handles_stream : (mailed (streamed 11) 2 [(1, 17)]).Handles 0 2 ⟨2, 7, [(1, 17)], 11⟩ :=
  ⟨by decide +kernel, rfl, .inl (by decide +kernel)⟩
theorem witness_FirmwareAndStreamsAreLoaded : rom.Handles 0 1 ⟨1, 7, [], 11⟩
    ∧ (mailed (streamed 11) 2 [(1, 17)]).Handles 0 2 ⟨2, 7, [(1, 17)], 11⟩
    ∧ rom.gnoelliaSigns (signedImage.drop 64) (signedImage.take 64) = true
    ∧ rom.sxt.fwRunning = false ∧ rom.sxt.bootStep = 5 ∧ (atStep 6 true).sxt.fwRunning = true
    ∧ 64 + fieldNat signedImage 4 4 = 64 ∧ fwFormatOk .m4l2 signedImage = true ∧ fwFormatOk .m4l2 (image.drop 1) = false
    ∧ fwFormatOk .m4l2 image = true ∧ rom.gnoelliaSigns (image.drop 64) (image.take 64) = false
    ∧ rom.sxt.svn ≤ fieldNat signedImage 8 1 ∧ fieldNat signedImage 8 1 < (rom.updSxt fun x => { x with svn := 2 }).sxt.svn
    ∧ rom.part = .m4l2 ∧ ((streamed 11).updSxt fun x => { x with repair := { Repair.zero with phase := 4 } }).sxt.repair.phase = 4
    ∧ (streamed 11).sxt.repair.phase ≠ 4 ∧ (streamed 11).sxt.bootStep = 11 ∧ (streamed 9).sxt.bootStep = 9
    ∧ (match (streamed 9).checkStream 0 [] with | .error e => e == (0x0101, 0) | .ok _ => false) = true :=
  ⟨handles_firmware, handles_stream, image_signed, by decide +kernel⟩
set_option maxRecDepth 10000 in
/-- A stream that is accepted; its digest is SHA-256's (R39). -/
theorem witness_FirmwareAndStreamsAreLoaded_accepted :
    let s := mailed (streamed 11) 2 [(1, 17)]
    let kept : State := { s with qorf := { s.qorf with copy := stream2 } }
    (match (kept.updSxt fun x => { x with bootStep := x.bootStep }).checkStream 17 stream2 with
      | .ok q => q.serial == 2 && !q.full && (kept.acceptQorf q (some .sexton)).pkg.barred == s.pkg.barred
          && (kept.acceptQorf q (some .sexton)).pkg.blocked == s.pkg.blocked
      | .error _ => false) = true := by
  decide +kernel

/-- A guard request of an OP up to its signature block, for a payload of whole words and signatures of `n` bytes (R464). -/
def requestHead (op : Nat) (pay : List Byte) (n : Nat) : List Byte :=
  natToBytes 4 0x44524147 ++ natToBytes 4 op ++ natToBytes 16 0 ++ natToBytes 4 5 ++ natToBytes 4 (72 + pay.length + n)
    ++ natToBytes 4 pay.length ++ List.replicate 28 0 ++ pay
/-- The request, with the Owner's and the Steward's signature `o` and Gnoellia's signature `g`. -/
def request (op : Nat) (pay o g : List Byte) : List Byte :=
  requestHead op pay (2 * o.length + g.length)
    ++ (natToBytes 2 o.length ++ natToBytes 2 o.length ++ natToBytes 4 g.length ++ (o ++ (o ++ g)))
/-- The GUARD payload that sets FLOOR to 6. -/
def payload : List Byte := natToBytes 4 0 ++ natToBytes 4 6 ++ List.replicate 124 0
/-- The part with a number of LIFE_CYCLE bits burned, whose keys are those of a message, and a request of `len` bytes. -/
def burned (n : Nat) (len : Dword) (msg : List Byte) : State := mailed (up.updSxt fun x =>
  { x with
    lcBits := BitVec.ofNat 64 (2 ^ n - 1), secret := false, romKey := keyOf msg,
    journal := [⟨⟨keyOf msg, keyOf msg, 0, true, true⟩, true⟩] }) 3 [(1, len)]

theorem slice_mid (a x r : List Byte) {i n : Nat} (hi : i = a.length) (hn : n = x.length) :
    sliceBytes (a ++ (x ++ r)) i n = x := by
  subst hi hn; simp [sliceBytes]
/-- The signatures of a request whose block begins after `h`. -/
theorem gSigned_of {s : State} {h m o w g b : List Byte} (e : b = h ++ (m ++ (o ++ (w ++ g)))) (hm : m.length = 8)
    (hb : gBlock b = h.length) (hs : gSigs b = (o.length, w.length, g.length)) (ho : o.length % 4 = 0) (hw : w.length % 4 = 0)
    (two : gOp b = 1 ∨ gOp b = 2 ∨ gOp b = 3 → 0 < o.length ∧ 0 < w.length ∧ s.bothSign o w h = true)
    (one : ¬ (gOp b = 1 ∨ gOp b = 2 ∨ gOp b = 3) → o = [] ∧ w = [])
    (gn : gOp b = 3 ∨ gOp b = 5 ∨ gOp b = 6 ∨ gOp b = 7 → 0 < g.length ∧ s.gnoelliaSigns g h = true)
    (no : ¬ (gOp b = 3 ∨ gOp b = 5 ∨ gOp b = 6 ∨ gOp b = 7) → g = []) : s.gSigned b = true := by
  have so : sliceBytes b (h.length + 8) o.length = o := by
    rw [e, ← List.append_assoc]; exact slice_mid _ _ _ (by simp [hm]) rfl
  have co : 4 * ceilDiv o.length 4 = o.length := by unfold ceilDiv; omega
  have cw : 4 * ceilDiv w.length 4 = w.length := by unfold ceilDiv; omega
  have sw : sliceBytes b (h.length + 8 + o.length) w.length = w := by
    have := slice_mid (h ++ m ++ o) w g (i := h.length + 8 + o.length) (by simp [hm, Nat.add_assoc]) rfl
    simpa [e] using this
  have sg : sliceBytes b (h.length + 8 + o.length + w.length) g.length = g := by
    have := slice_mid (h ++ m ++ o ++ w) g [] (i := h.length + 8 + o.length + w.length) (by simp [hm, Nat.add_assoc]) rfl
    simpa [e] using this
  have tk : b.take h.length = h := by rw [e]; exact List.take_left
  simp only [State.gSigned, hs, hb, co, cw, so, sw, sg, tk]
  rw [Bool.and_eq_true]; refine ⟨?_, ?_⟩ <;> split <;> rename_i c <;> simp only [Bool.or_eq_true, decide_eq_true_eq, or_assoc] at c
  · have := two c; simp [this]
  · simp [one c]
  · have := gn c; simp [this]
  · simp [no c]
/-- The checks of R465 all passed. -/
theorem gCheck_none {s : State} {b : List Byte} {cert : Bool} (sign : s.gSigned b = true)
    (h : gFormatOk b = true ∧ ¬ (gOp b ≠ 7 ∧ fieldNat b 8 16 ≠ s.sxt.deviceId) ∧ s.life = gState (gOp b)
      ∧ ¬ ((s.qorf.anyAccepted ∧ gSerial b ≤ s.qorf.serial.toNat) ∨ gSerial b < s.floor)
      ∧ ¬ (gOp b = 1 ∧ (gWord b 1 < s.floor ∨ gWord b 1 ≤ gSerial b))
      ∧ ¬ (gOp b = 6 ∧ (!cert ∨ (s.sxt.cert ≠ [] ∧ s.sxt.cert ≠ sliceBytes b 64 (gPay b))))
      ∧ s.sxt.journal.length < 384 ∧ lcCount s.sxt.lcBits < 64) : s.gCheck b cert = none := by
  obtain ⟨h1, h2, h3, h4, h5, h6, h7, h8⟩ := h
  have j : s.journalFull (s.gAfter b) = false := by simp [State.journalFull]; omega
  simp only [State.gCheck]
  rw [if_neg (by simp [h1]), if_neg h2, if_neg (by simp [h3]), if_neg h4, if_neg (by simp [sign]), if_neg h5, if_neg h6,
    if_neg (by rw [j]; simp; omega)]

/-- A request of each kind: SET and RETIRE with two signatures, RETURN with three, the rest with Gnoellia's. -/
theorem signed_two {op : Nat} {pay : List Byte} {n : Nat} {len : Dword} (k : op = 1 ∨ op = 2) (e : gOp (request op pay sigOf []) = op)
    (hb : gBlock (request op pay sigOf []) = (requestHead op pay 5024).length) (hs : gSigs (request op pay sigOf []) = (2512, 2512, 0)) :
    (burned n len (requestHead op pay 5024)).gSigned (request op pay sigOf []) = true := by
  have l : sigOf.length = 2512 := by decide +kernel
  refine gSigned_of (h := requestHead op pay 5024) (m := natToBytes 2 2512 ++ natToBytes 2 2512 ++ natToBytes 4 0) (o := sigOf) (w := sigOf) (g := [])
    (by simp [request, l]) (by simp) hb (by rw [hs, l]; rfl) (by rw [l]) (by rw [l]) (fun _ => ⟨by rw [l]; decide, by rw [l]; decide, ?_⟩)
    (fun c => absurd (by omega) c) (fun c => by omega) (fun _ => rfl)
  show (hssVerify _ _ _ && hssVerify _ _ _) = true
  rw [show (burned n len (requestHead op pay 5024)).guard.owner = keyOf (requestHead op pay 5024) from rfl,
    show (burned n len (requestHead op pay 5024)).guard.steward = keyOf (requestHead op pay 5024) from rfl, hss_signed]; rfl
theorem signed_three {n : Nat} {len : Dword} : (burned n len (requestHead 3 [] 7536)).gSigned (request 3 [] sigOf sigOf) = true := by
  have l : sigOf.length = 2512 := by decide +kernel
  refine gSigned_of (h := requestHead 3 [] 7536) (m := natToBytes 2 2512 ++ natToBytes 2 2512 ++ natToBytes 4 2512) (o := sigOf) (w := sigOf) (g := sigOf)
    (by simp [request, l]) (by simp) (by decide +kernel) (by decide +kernel) (by rw [l]) (by rw [l]) (fun _ => ⟨by rw [l]; decide, by rw [l]; decide, ?_⟩)
    (fun c => absurd (.inr (.inr (by decide +kernel))) c) (fun _ => ⟨by rw [l]; decide, hss_signed _⟩) (fun c => absurd (.inl (by decide +kernel)) c)
  show (hssVerify _ _ _ && hssVerify _ _ _) = true
  rw [show (burned n len (requestHead 3 [] 7536)).guard.owner = keyOf (requestHead 3 [] 7536) from rfl,
    show (burned n len (requestHead 3 [] 7536)).guard.steward = keyOf (requestHead 3 [] 7536) from rfl, hss_signed]; rfl
theorem signed_one {op : Nat} {pay : List Byte} {n : Nat} {len : Dword} (k : op = 5 ∨ op = 6 ∨ op = 7) (e : gOp (request op pay [] sigOf) = op)
    (hb : gBlock (request op pay [] sigOf) = (requestHead op pay 2512).length) (hs : gSigs (request op pay [] sigOf) = (0, 0, 2512)) :
    (burned n len (requestHead op pay 2512)).gSigned (request op pay [] sigOf) = true := by
  have l : sigOf.length = 2512 := by decide +kernel
  refine gSigned_of (h := requestHead op pay 2512) (m := natToBytes 2 0 ++ natToBytes 2 0 ++ natToBytes 4 2512) (o := []) (w := []) (g := sigOf)
    (by simp [request, l]) (by simp) hb (by rw [hs, l]; rfl) rfl rfl (fun c => by omega) (fun _ => ⟨rfl, rfl⟩)
    (fun _ => ⟨by rw [l]; decide, hss_signed _⟩) (fun c => absurd (by omega) c)
set_option maxRecDepth 20000 in
theorem set_passes : (burned 3 5228 (requestHead 1 payload 5024)).gCheck (request 1 payload sigOf []) true = none :=
  gCheck_none (signed_two (.inl rfl) (by decide +kernel) (by decide +kernel) (by decide +kernel)) (by decide +kernel)
set_option maxRecDepth 20000 in
theorem retire_passes : (burned 3 5096 (requestHead 2 [] 5024)).gCheck (request 2 [] sigOf []) true = none :=
  gCheck_none (signed_two (.inr rfl) (by decide +kernel) (by decide +kernel) (by decide +kernel)) (by decide +kernel)
set_option maxRecDepth 20000 in
theorem return_passes : (burned 4 7608 (requestHead 3 [] 7536)).gCheck (request 3 [] sigOf sigOf) true = none :=
  gCheck_none signed_three (by decide +kernel)
set_option maxRecDepth 20000 in
theorem vendor_passes : (burned 1 2584 (requestHead 5 [] 2512)).gCheck (request 5 [] [] sigOf) true = none
    ∧ (burned 1 2588 (requestHead 6 [1, 0, 0, 0] 2512)).gCheck (request 6 [1, 0, 0, 0] [] sigOf) true = none
    ∧ (burned 0 2584 (requestHead 7 [] 2512)).gCheck (request 7 [] [] sigOf) true = none :=
  ⟨gCheck_none (signed_one (.inl rfl) (by decide +kernel) (by decide +kernel) (by decide +kernel)) (by decide +kernel),
   gCheck_none (signed_one (.inr (.inl rfl)) (by decide +kernel) (by decide +kernel) (by decide +kernel)) (by decide +kernel),
   gCheck_none (signed_one (.inr (.inr rfl)) (by decide +kernel) (by decide +kernel) (by decide +kernel)) (by decide +kernel)⟩

theorem handles_guard (n : Nat) (len : Dword) (msg : List Byte) : (burned n len msg).Handles 0 3 ⟨3, 7, [(1, len)], 11⟩ := ⟨rfl, rfl, .inl rfl⟩
set_option maxRecDepth 20000 in
/-- Each OP in the state of the life cycle that it needs: none, 1, 3, 4 bits burned; a request that lacks a signature, and
a certificate of another part. -/
theorem witness_GuardRequestsTakeEffect : (∀ n len msg, (burned n len msg).Handles 0 3 ⟨3, 7, [(1, len)], 11⟩)
    ∧ (burned 3 5228 (requestHead 1 payload 5024)).gCheck (request 1 payload sigOf []) true = none
    ∧ (burned 3 5096 (requestHead 2 [] 5024)).gCheck (request 2 [] sigOf []) true = none
    ∧ (burned 4 7608 (requestHead 3 [] 7536)).gCheck (request 3 [] sigOf sigOf) true = none
    ∧ ((burned 1 2584 (requestHead 5 [] 2512)).gCheck (request 5 [] [] sigOf) true = none
      ∧ (burned 1 2588 (requestHead 6 [1, 0, 0, 0] 2512)).gCheck (request 6 [1, 0, 0, 0] [] sigOf) true = none
      ∧ (burned 0 2584 (requestHead 7 [] 2512)).gCheck (request 7 [] [] sigOf) true = none)
    ∧ (burned 3 5228 []).sxt.repair.phase ≠ 4 ∧ (request 1 payload sigOf []).length = 5228
    ∧ (request 2 [] sigOf []).length = 5096 ∧ (request 3 [] sigOf sigOf).length = 7608 ∧ (request 5 [] [] sigOf).length = 2584
    ∧ (request 6 [1, 0, 0, 0] [] sigOf).length = 2588 ∧ (request 7 [] [] sigOf).length = 2584
    ∧ ([1, 2].all fun op => fieldNat (request op [] sigOf []) 4 1 == op) = true ∧ fieldNat (request 3 [] sigOf sigOf) 4 1 = 3
    ∧ ([5, 6, 7].all fun op => fieldNat (request op [] [] sigOf) 4 1 == op) = true
    ∧ (burned 3 5228 []).gCheck (request 1 payload [0, 0, 0, 0] []) true = some 0x0C02
    ∧ (burned 1 2588 []).gCheck (request 6 [1, 0, 0, 0] [] []) false = some 0x0C02
    ∧ (∀ n, n < 8000 → (⟨3, 7, [(1, BitVec.ofNat 64 n)], 11⟩ : MailJob).arg 1 = n) :=
  by
  refine ⟨handles_guard, set_passes, retire_passes, return_passes, vendor_passes, ?_⟩
  iterate 12 refine ⟨by decide +kernel, ?_⟩
  intro n h; simp [MailJob.arg, Sparse.get]; omega
set_option maxRecDepth 20000 in
theorem witness_GuardRequestsTakeEffect_retire :
    let s := burned 3 5096 (requestHead 2 [] 5024)
    let u : State := { s with qorf := { s.qorf with serial := BitVec.ofNat 32 (fieldNat (request 2 [] sigOf []) 24 4), anyAccepted := true } }
    u.retireNow.pkg.barred = s.pkg.barred ∧ u.retireNow.pkg.blocked = s.pkg.blocked := by decide +kernel

/-! Ciphers give blocks of 16 bytes, so that a witness's tag can be the one that GCM gives. -/

theorem xorBytes_length (a b : List Byte) : (xorBytes a b).length = min a.length b.length := by simp [xorBytes]
theorem aesEncrypt_length (key block : List Byte) (h : block.length = 16) : (aesEncrypt key block).length = 16 := by
  have keys : ∀ k ∈ aesRoundKeys key, k.length = 16 := by
    intro k m; simp only [aesRoundKeys, List.mem_map] at m
    obtain ⟨i, -, rfl⟩ := m; simp [sliceBytes] <;> omega
  unfold aesEncrypt
  generalize aesRoundKeys key = l at keys
  match l with
  | [] => exact h
  | k0 :: ks =>
    have go : ∀ (l : List (List Byte × Nat)) (b : List Byte), (∀ e ∈ l, e.1.length = 16) → b.length = 16 →
        (l.foldl (fun b (e : List Byte × Nat) =>
          let b := aesRows 1 (b.map aesSub)
          xorBytes (if e.2 = 13 then b else aesColumns [2, 3, 1, 1] b) e.1) b).length = 16 := by
      intro l
      induction l with
      | nil => exact fun b _ h => h
      | cons e r ih =>
        refine fun b m h => ih _ (fun x hx => m x (by simp [hx])) ?_
        have := m e (by simp)
        dsimp only; split <;> simp [xorBytes_length, aesRows, aesColumns, this]
    refine go _ _ (fun e m => keys _ ?_) (by simp [xorBytes_length, h, keys k0 (by simp)])
    exact List.mem_cons_of_mem _ (List.fst_mem_of_mem_zipIdx m)
theorem gcmTag_length (key nonce aad c : List Byte) (h : nonce.length = 12) : (gcmTag key nonce aad c).length = 16 := by
  simp [gcmTag, xorBytes_length, natToBe, aesEncrypt_length, h]
/-- What opens under its own tag, and not under another. -/
theorem gcm_opens (key nonce aad c : List Byte) : (gcmOpen key nonce aad c (gcmTag key nonce aad c)).isSome = true := by
  simp [gcmOpen]
theorem gcm_refuses (key nonce aad c : List Byte) (h : nonce.length = 12) :
    gcmOpen key nonce aad c ((gcmTag key nonce aad c).map (· + 1)) = none := by
  have l := gcmTag_length key nonce aad c h
  refine if_neg ?_
  generalize gcmTag key nonce aad c = t at l
  match t with
  | x :: r => intro e; clear l; injection e with e _; revert e; revert x; decide

/-! Attestation, content keys and debug access. -/

/-- An attestation request for the device, with no range. -/
def attReq : List Byte := List.replicate 32 0 ++ [0xFF] ++ List.replicate 31 0
/-- The OWNED part with debug access, and meadow 0 in a state, with a command of the mailbox; its Owner's key is that of a message. -/
def debugPart (st : MState) (op : Nat) (args : Sparse Dword) (msg : List Byte) : State := mailed ((owned up st).updSxt fun x =>
  { x with lcBits := 0x7, journal := [⟨⟨keyOf msg, keyOf msg, 0, true, true⟩, true⟩] }) op args
theorem debug_life (st : MState) (op : Nat) (args : Sparse Dword) (msg : List Byte) : (debugPart st op args msg).life = .owned := by
  have : (debugPart st op args msg).sxt.lcBits = 7 := rfl
  unfold State.life; rw [this]; rfl
/-- A KEY_LOAD message for meadow 0 of counter 1, up to its tag: no ciphertext, nonce or key of its own. -/
def keyHeadMsg : List Byte := natToBytes 4 0x59454B4D ++ natToBytes 4 0 ++ natToBytes 8 1 ++ List.replicate 1644 0
/-- The key that unwraps it. -/
def keyKey : List Byte :=
  let s := debugPart .stopped 6 [] []
  sha256 ([0x4B, 0x45, 0x59, 0x31] ++ s.secretOf (sliceBytes keyHeadMsg 16 1568) ++ natToBytes 16 s.sxt.deviceId ++ sliceBytes keyHeadMsg 4 1)
/-- Its tag. -/
def keyTag : List Byte := gcmTag keyKey (sliceBytes keyHeadMsg 1584 12) (keyHeadMsg.take 16) (sliceBytes keyHeadMsg 1596 64)
/-- The message with a tag and a signature. -/
def keyMsg (tag sig : List Byte) : List Byte := keyHeadMsg ++ (tag ++ sig)
theorem keyHeadMsg_length : keyHeadMsg.length = 1660 := by
  simp only [keyHeadMsg, List.length_append, natToBytes_length, List.length_replicate]
theorem keyMsg_left {tag sig : List Byte} {i n : Nat} (h : i + n ≤ 1660) :
    sliceBytes (keyMsg tag sig) i n = sliceBytes keyHeadMsg i n := slice_left _ _ _ _ (by rw [keyHeadMsg_length]; exact h)
theorem keyMsg_unwrap {tag sig msg : List Byte} (h : tag.length = 16) :
    (debugPart .stopped 6 [] msg).unwrap (keyMsg tag sig) = (gcmOpen keyKey (sliceBytes keyHeadMsg 1584 12) (keyHeadMsg.take 16)
      (sliceBytes keyHeadMsg 1596 64) tag).map bytesToNat := by
  have e : (keyMsg tag sig).take 16 = keyHeadMsg.take 16 := by
    unfold keyMsg; rw [List.take_append_of_le_length (by rw [keyHeadMsg_length]; decide)]
  have t : sliceBytes (keyMsg tag sig) 1660 16 = tag := slice_mid _ _ _ keyHeadMsg_length.symm h.symm
  have d (m : List Byte) : (debugPart .stopped 6 [] m).sxt.deviceId = 0 := rfl
  have k (m : List Byte) : (debugPart .stopped 6 [] m).sxt.kem = 0 := rfl
  have s (i n : Nat) (h : i + n ≤ 1660) : sliceBytes (keyMsg tag sig) i n = sliceBytes keyHeadMsg i n := keyMsg_left h
  simp only [State.unwrap, State.secretOf, keyKey, d, k, e, t, s 16 1568 (by decide), s 4 1 (by decide), s 1584 12 (by decide),
    s 1596 64 (by decide)]
theorem keyMsg_signed {tag : List Byte} (h : tag.length = 16) : hssVerify (debugPart .stopped 6 [] (keyHeadMsg ++ tag)).guard.owner
    ((keyMsg tag sigOf).drop 1676) ((keyMsg tag sigOf).take 1676) = true := by
  have l : (keyHeadMsg ++ tag).length = 1676 := by simp [keyHeadMsg_length, h]
  have e : keyMsg tag sigOf = (keyHeadMsg ++ tag) ++ sigOf := by simp [keyMsg]
  rw [e, ← l, List.drop_left, List.take_left]; exact hss_signed _
theorem keyTag_length : keyTag.length = 16 := gcmTag_length _ _ _ _ (by simp [sliceBytes, keyHeadMsg_length])
/-- The format that KEY_LOAD asks for, whatever the tag and the signature. -/
theorem keyMsg_fits {tag sig : List Byte} (h : tag.length = 16) : 1676 ≤ (keyMsg tag sig).length
    ∧ fieldNat (keyMsg tag sig) 0 4 = 0x59454B4D ∧ fieldZero (keyMsg tag sig) 5 3 = true ∧ fieldNat (keyMsg tag sig) 4 1 = 0
    ∧ fieldNat (keyMsg tag sig) 8 8 = 1 := by
  refine ⟨by simp only [keyMsg, List.length_append, keyHeadMsg_length, h]; omega, ?_⟩
  simp only [fieldZero, fieldNat]
  rw [keyMsg_left (by decide), keyMsg_left (by decide), keyMsg_left (by decide), keyMsg_left (by decide)]; decide +kernel
/-- A signature that claims six levels. -/
theorem hss_refuses (key msg : List Byte) : hssVerify key [0, 0, 0, 5] msg = false := by
  have e : bytesToBe (sliceBytes [0, 0, 0, 5] 0 4) = 5 := by decide
  simp only [hssVerify, e]
  by_cases h : 5 + 1 = bytesToBe (sliceBytes key 0 4)
  · simp [← h]
  · have : (5 + 1 == bytesToBe (sliceBytes key 0 4)) = false := by simpa using h
    simp [this]
/-- A message that is accepted, one whose tag fails, and one without a signature. -/
theorem witness_AttestationKeysAndDebug_key :
    let good := keyMsg keyTag sigOf
    let bad := keyMsg (keyTag.map (· + 1)) sigOf
    let key (t : List Byte) : State := debugPart .stopped 6 [] (keyHeadMsg ++ t)
    (∀ t, (key t).Handles 0 6 ⟨6, 7, [], 11⟩ ∧ (key t).life = .owned)
    ∧ (1676 ≤ good.length ∧ fieldNat good 0 4 = 0x59454B4D ∧ fieldZero good 5 3 = true ∧ fieldNat good 4 1 = 0 ∧ fieldNat good 8 8 = 1)
    ∧ (1676 ≤ bad.length ∧ fieldNat bad 0 4 = 0x59454B4D ∧ fieldZero bad 5 3 = true ∧ fieldNat bad 4 1 = 0 ∧ fieldNat bad 8 8 = 1)
    ∧ (∀ t, ((key t).meadow 0).state.isStopped = true ∧ (key t).slotStopped 0 = true ∧ Sparse.get none (key t).sxt.keyCounters 0 = none
      ∧ ((key t).meadow 0).port = 0)
    ∧ hssVerify (key keyTag).guard.owner (good.drop 1676) (good.take 1676) = true
    ∧ (∃ k, (key keyTag).unwrap good = some k)
    ∧ hssVerify (key (keyTag.map (· + 1))).guard.owner (bad.drop 1676) (bad.take 1676) = true
    ∧ (key (keyTag.map (· + 1))).unwrap bad = none
    ∧ hssVerify (key keyTag).guard.owner ((keyMsg keyTag [0, 0, 0, 5]).drop 1676)
      ((keyMsg keyTag [0, 0, 0, 5]).take 1676) = false := by
  have m : (keyTag.map (· + 1)).length = 16 := by simp [keyTag_length]
  refine ⟨fun t => ⟨⟨rfl, rfl, .inl rfl⟩, debug_life ..⟩, keyMsg_fits keyTag_length, keyMsg_fits m, fun t => ⟨rfl, rfl, rfl, rfl⟩,
    keyMsg_signed keyTag_length, ?_, keyMsg_signed m, ?_, ?_⟩
  · rw [keyMsg_unwrap keyTag_length]
    obtain ⟨x, h⟩ := Option.isSome_iff_exists.mp (gcm_opens keyKey (sliceBytes keyHeadMsg 1584 12) (keyHeadMsg.take 16) (sliceBytes keyHeadMsg 1596 64))
    exact ⟨bytesToNat x, by rw [show keyTag = gcmTag _ _ _ _ from rfl, h]; rfl⟩
  · rw [keyMsg_unwrap m, show keyTag = gcmTag _ _ _ _ from rfl, gcm_refuses _ _ _ _ (by simp [sliceBytes, keyHeadMsg_length])]; rfl
  · have e : (keyMsg keyTag [0, 0, 0, 5]).drop 1676 = [0, 0, 0, 5] := by
      have l : (keyHeadMsg ++ keyTag).length = 1676 := by simp [keyHeadMsg_length, keyTag_length]
      rw [show keyMsg keyTag [0, 0, 0, 5] = (keyHeadMsg ++ keyTag) ++ [0, 0, 0, 5] by simp [keyMsg], ← l, List.drop_left]
    rw [e]; exact hss_refuses ..

theorem handles_attest : (mailed up 4 [(2, 7348)]).Handles 0 4 ⟨4, 7, [(2, 7348)], 11⟩ := ⟨by decide +kernel, rfl, .inl (by decide +kernel)⟩
theorem handles_cert : (mailed up 5 []).Handles 0 5 ⟨5, 7, [], 11⟩ := ⟨by decide +kernel, rfl, .inl (by decide +kernel)⟩
theorem handles_debug (st : MState) :
    (debugPart st 8 [(0, 0x1005), (1, 0x1FFF8)] []).Handles 0 8 ⟨8, 7, [(0, 0x1005), (1, 0x1FFF8)], 11⟩ := ⟨rfl, rfl, .inl rfl⟩
theorem witness_AttestationKeysAndDebug :
    (mailed up 4 [(2, 7348)]).undelayed (mailed up 4 [(2, 7348)])
    ∧ (mailed up 4 [(2, 7348)]).Handles 0 4 ⟨4, 7, [(2, 7348)], 11⟩ ∧ (mailed up 5 []).Handles 0 5 ⟨5, 7, [], 11⟩
    ∧ (∀ st, (debugPart st 8 [(0, 0x1005), (1, 0x1FFF8)] []).Handles 0 8 ⟨8, 7, [(0, 0x1005), (1, 0x1FFF8)], 11⟩)
    ∧ (debugPart .stopped 8 [] []).life = .owned
    ∧ up.life.identified = true ∧ attestOk attReq = true ∧ 7348 ≤ (⟨4, 7, [(2, 7348)], 11⟩ : MailJob).arg 2
    ∧ fieldNat attReq 32 1 = 0xFF
    ∧ (match (mailed up 4 [(2, 7348)]).rangeBytes 0xFF attReq (upFrom 0 0) with
      | (.ok w, u) => w.isEmpty && u == mailed up 4 [(2, 7348)] | _ => false) = true
    ∧ up.sxt.bootLeaf.isSome = true ∧ up.sxt.idTree.isSome = true ∧ up.sxt.sigsLeft ≠ 0 ∧ (up.updSxt fun x => { x with sigsLeft := 0 }).sxt.sigsLeft = 0
    ∧ (up.updSxt fun x => { x with bootLeaf := none }).sxt.bootLeaf = none ∧ up.sxt.cert.length ≤ 0
    ∧ (debugPart .stopped 8 [] []).debugOk 0 5 = true ∧ (debugPart .opened 8 [] []).debugOk 0 5 = false
    ∧ bitsOf 0x1005 13 12 = 1 ∧ bitsOf 0x0005 13 12 = 0 ∧ 0x1FFF8 % 8 = 0 ∧ 0x1FFF8 < 131072 :=
  ⟨undelayed_same ⟨rfl, rfl, rfl⟩, handles_attest, handles_cert, handles_debug, debug_life .., by decide +kernel⟩

/-- A function of port 0 whose TDI is in a state, with a session of its SPDM responder. -/
def tdi (t : Tdi) (ide : Bool) : State :=
  ((onFn .opened).updMeadow 0 (fun x => { x with confidential := true })).updFn 0 3 (fun x => { x with tdi := t, ide := ide })
    |>.updSxt fun x => { x with spdm := [(0, 2)] }
theorem witness_SextonPublishesAndAnswersSpdm :
    (mailed up 9 []).sxt.lockstep = false ∧ (mailed up 9 []).sxt.mailQueue.head? = some 0
    ∧ ((mailed up 9 []).mbox 0).job = some ⟨9, 7, [], 11⟩ ∧ ((mailed up 9 []).mbox 0).ready = none
    ∧ (((mailed up 1 []).mailEnd 0 0 0).mbox 0).ready = some (0, 0) ∧ (mailed up 6 []).mailJob 0 = some ⟨6, 7, [], 11⟩
    ∧ (mailed (atStep 9 true) 2 []).mailJob 0 = some ⟨2, 7, [], 11⟩ ∧ (atStep 9 true).sxt.bootStep = 9
    ∧ up.sxt.bootLeaf = some 0 ∧ up.sxt.idTree = some tree ∧ up.life.identified = true ∧ up.sxt.sigsLeft ≠ 0
    ∧ Sparse.get 0 (up.updSxt fun x => { x with spdm := [(0, 1)] }).sxt.spdm 0 = 1
    ∧ Sparse.get 0 (tdi .unlocked false).sxt.spdm 0 = 2
    ∧ Sparse.get 0 up.sxt.spdm 0 = 0 ∧ Sparse.get [] (up.updSxt fun x => { x with psk := [(0, [7])] }).sxt.psk 0 = [7]
    ∧ ((tdi .unlocked false).fn 0 3).tdi = .unlocked ∧ ((tdi .locked true).fn 0 3).tdi = .locked
    ∧ ((tdi .locked true).fn 0 3).ide = true
    ∧ ((tdi .run true).fn 0 3).tdi = .run ∧ (tdi .run true).fnMeadow 0 3 = some 0 ∧ ((tdi .run true).meadow 0).confidential = true
    ∧ up.fnMeadow 0 3 = none := by decide +kernel

/-! Epochs, sequencers, jobs and recovery. -/

/-- Meadow 0 with changes to its record, its base tussock powered and its cores admitted. -/
def mdw (st : MState) (f : Meadow → Meadow) : State :=
  ((owned up st).updMeadow 0 f).updBase 1 fun b => { b with gated := false }
/-- A context of meadow 0, job 2 resident. -/
def ctx (st : MState) (q : Seq) : State := mdw st fun x => { x with resident := some 2, jobs := 7, seqs := [(2, q)] }
/-- A context that waits with its first entry read, for step 0 of frame 4. -/
def waiting (limit : Word) : Seq := { Seq.zero with state := .waiting, steps := 2, runSteps := 2, entry := some (List.replicate 64 0), frame := 4, limit }
/-- A page table of meadow 0 that maps virtual 0 to 2 MiB to package memory at 2 MiB, readable and writable (R320, R321). -/
def tables : Mem := [(0x1000, 1), (0x1001, 0x20), (0x2000, 1), (0x2001, 0x30), (0x3000, 0x0F), (0x3002, 0x20)]
/-- Package memory holds the table and some bytes above; meadow 0 is granted the first 4 MiB. -/
def mapped (s : State) (b : Mem) : State :=
  { (s.updMeadow 0 fun x => { x with root := 0x1000 }) with
    heath := { s.heath with regions := [⟨0, 0, 0x400000, 0, 1⟩] }, pkg := { s.pkg with bytes := tables ++ b } }

/-- A planned product of 16 by 16 S16 elements whose M is the first word of the bound block at 0x1000 (R210, R221), core 5 at its
issue, and the state with that block. -/
def planBytes : List Byte :=
  let level : List Nat := [0 + 1 * 2 ^ 3 + 2 * 2 ^ 6 + 7 * 2 ^ 9 + 7 * 2 ^ 12 + 7 * 2 ^ 15 + 7 * 2 ^ 18, 16 + 16 * 2 ^ 16, 16, 0, 0, 0, 0, 0]
  ([0x200, 256 + 64 * 2 ^ 16, 64 * 2 ^ 16, 0x1000, 0, 0xFFFFFFFF, 0xFFFFFFFF, 0] ++ level ++ level ++ level).flatMap (natToBytes 4 ·)
def mmPlan : Line := line [0x200181, 16, 16 * 2 ^ 16, 0, 0, 0x110000, 0x10000, 0, 0x110000, 0x10000, 0, 0x110000, 0x10000]
def planner : Core := { withD mmPlan with near := ((upFrom 0 128).map fun i => (128 + i, planBytes.getD i 0)).filter fun c => c.2 ≠ 0 }
def planned : State := mapped (owned (has 0x40 fIssue planner) .opened) [(0x201000, 16)]
theorem witness_EngineIssueAccepted_plan :
    let x := mmCopies planner mmPlan
    let r := mmResolve planned 5 x
    x.bound = true ∧ planCheck1 planned 5 x = none ∧ planned.cutOff 5 = false ∧ r.1.isOk = true
    ∧ r.2.pkg.barred = planned.pkg.barred ∧ r.2.pkg.blocked = planned.pkg.blocked ∧ (r.2.core 5).ctl = (planned.core 5).ctl
    ∧ (r.2.core 5).pc = (planned.core 5).pc
    ∧ ({ planned with heath := { planned.heath with isolated := [(5, true)] } } : State).cutOff 5 = true
    ∧ planCheck1 { planned with heath := { planned.heath with isolated := [(5, true)] } } 5 x = none := by decide +kernel
/-- Its whole extents: M from the bound block, K and N from the descriptor. -/
theorem test_bound_extents : (match (mmResolve planned 5 (mmCopies planner mmPlan)).1 with
    | .ok e => e == (16, 16, 16) | _ => false) = true := by decide +kernel
/-- The host may write the block of a meadow that is not confidential, and not that of a confidential one outside RUN (R388). -/
theorem witness_hostMay : (mdw .ready id).hostMay 0 ∧ ¬ (tdi .locked true).hostMay 0 ∧ (tdi .run true).hostMay 0 := by
  unfold State.hostMay; decide +kernel
/-- An OPEN that is not trusted is counted and opens nothing. -/
theorem test_open_denied : (match exec (.hostOpen 0) ((tdi .locked true).updMeadow 0 fun x => { x with state := .ready }) with
    | .next t => (t.meadow 0).state == .ready && (t.port 0).denied == 1 | _ => false) = true := by decide +kernel
theorem witness_EpochsOpen :
    ((mdw .ready id).meadow 0).state ≠ .absent ∧ ((mdw .ready id).meadow 0).resident = none
    ∧ (ctx .boundary Seq.zero).shownState 0 ≠ .ready ∧ (ctx .ready Seq.zero).shownState 0 = .ready
    ∧ ((ctx .ready Seq.zero).meadow 0).resident = some 2 ∧ (((ctx .ready (waiting 5)).meadow 0).seq 2).state = .waiting
    ∧ (((ctx .ready Seq.zero).meadow 0).seq 2).state = .idle
    ∧ ((ctx .ready Seq.zero).updMeadow 0 fun x => { x with openReq := true }).mayOpen 0 = true
    ∧ (((ctx .ready Seq.zero).updCore 5 fun k => { k with awaitAdmit := true }).updMeadow 0 fun x => { x with openReq := true }).mayOpen 0 = false
    ∧ (((ctx .ready Seq.zero).updMeadow 0 fun x => { x with replay := true }).meadow 0).replay = true
    ∧ (((ctx .ready Seq.zero).updMeadow 0 fun x => { x with replay := true }).meadow 0).openedByHost = false
    ∧ (((ctx .ready (waiting 5)).updMeadow 0 fun x => { x with openedByHost := true }).meadow 0).openedByHost = true
    ∧ (ctx .ready (waiting 5)).mayOpen 0 = true ∧ (waiting 5).hold = false ∧ (waiting 5).frame.toNat < (waiting 5).limit.toNat
    ∧ { waiting 5 with step := 1 }.step ≠ 0 ∧ (waiting 5).entry = some (List.replicate 64 0)
    ∧ ((ctx .ready (waiting 5)).clearRing 0).pkg.barred = (ctx .ready (waiting 5)).pkg.barred
    ∧ ((ctx .ready (waiting 5)).clearRing 0).pkg.blocked = (ctx .ready (waiting 5)).pkg.blocked := by decide +kernel
/-- A failed epoch of the host's waits for the host (R490). -/
theorem test_host_replay_waits :
    (match exec (.epochOpen 0) ((ctx .ready Seq.zero).updMeadow 0 fun x => { x with replay := true, openedByHost := true }) with
      | .next t => (t.meadow 0).state == .ready | _ => false) = true := by decide +kernel
/-- FRAME_LIMIT is exclusive: at the limit no epoch opens. -/
theorem test_frame_limit : (match exec (.epochOpen 0) (ctx .ready (waiting 4)) with | .next t => (t.meadow 0).state == .ready | _ => false) = true := by
  decide +kernel
/-- The first step of a schedule at virtual 0x1000 whose entry names step 0, and one whose entry names step 1. -/
def sched (b : Mem) : State := mapped (ctx .ready { Seq.zero with state := .waiting, runSchedule := 0x1000, runSteps := 2 }) b
theorem witness_SequencersStartAndJobsSwitch :
    let q (n sc : Nat) : Seq := { Seq.zero with steps := n, schedule := sc }
    ((ctx .ready (q 1 0)).meadow 0).state ≠ .absent ∧ (((ctx .ready (waiting 5)).meadow 0).seq 2).state = .waiting
    ∧ (q 0 0).state = .idle ∧ (q 0 0).steps = 0 ∧ 4096 < (q 4097 0).steps ∧ (q 1 32).schedule % 64 ≠ 0
    ∧ 1 ≤ (q 1 64).steps ∧ (q 4096 64).steps ≤ 4096 ∧ (q 1 64).schedule % 64 = 0
    ∧ (((sched []).meadow 0).seq 2).state = .waiting ∧ (((sched []).meadow 0).seq 2).entry = none
    ∧ (match (ctx .ready { Seq.zero with state := .waiting }).mreadAll 0 0 64 with
        | (.error c, t) => c == 0x0504 && t.pkg.barred == false && t.pkg.blocked == false | _ => false) = true
    ∧ (match (sched []).mreadAll 0 0x1000 64 with | (.ok b, t) => b == List.replicate 64 0 && t == sched [] | _ => false) = true
    ∧ (match (sched [(0x201000, 1)]).mreadAll 0 0x1000 64 with
        | (.ok b, t) => fieldNat b 0 2 == 1 && t.pkg.barred == false && t.pkg.blocked == false | _ => false) = true
    ∧ (match ((sched [(0x201040, 1)]).updMeadow 0 fun x => x.updSeq 2 fun q => { q with state := .running }).mreadAll 0 0x1040 64 with
        | (.ok b, t) => fieldNat b 0 2 == 1 && fieldZero b 2 2 && fieldZero b 20 44 && t.pkg.barred == false && t.pkg.blocked == false
        | _ => false) = true ∧ (sched []).pkg.barred = false ∧ (sched []).pkg.blocked = false
    ∧ ((ctx .ready (q 1 0)).meadow 0).jobs = 7 ∧ ((ctx .ready (q 1 0)).meadow 0).resident = some 2
    ∧ ((mdw .ready id).meadow 0).resident = none ∧ ((mdw .ready id).meadow 0).jobs < 1
    ∧ ((ctx .opened (q 1 0)).meadow 0).state = .opened := by
  decide +kernel
/-- A switching meadow; its top-level tussock names none, so that it has no core to save or load. -/
def moving (ph : SwitchPhase) : State := mdw .switching fun x => { x with top := 0xFFFF, resident := some 2, switchPhase := ph }
/-- The first step of two, and the last. -/
def running2 (st : MState) (step : Nat) : State := ctx st { Seq.zero with state := .running, runSteps := 2, step }
theorem witness_BoundariesEndAndJobsMove :
    let f := mdw .failed fun x => { x with attempts := 1 }
    ((mdw .boundary id).updCore 5 fun k => { k with unacked := [msg1 .flying] }).meadowDrained 0 = false
    ∧ (running2 .boundary 0).meadowDrained 0 = true ∧ ((running2 .boundary 0).meadow 0).state = .boundary
    ∧ ((running2 .boundary 0).meadow 0).stopDue = false ∧ ((running2 .boundary 0).meadow 0).switchReq = false
    ∧ ((running2 .boundary 0).meadow 0).slice = 0
    ∧ ((mdw .boundary fun x => { x with stopDue := true }).meadow 0).stopDue = true
    ∧ ((running2 .boundary 0).meadow 0).openedByHost = false ∧ (((running2 .boundary 0).meadow 0).seq 2).step + 1 < 2
    ∧ 2 ≤ (((running2 .boundary 1).meadow 0).seq 2).step + 1
    ∧ f.meadowDrained 0 = true ∧ (f.meadow 0).state = .failed ∧ (f.meadow 0).drained = false ∧ f.sxt.repair.phase = 0
    ∧ (f.meadow 0).auto = true ∧ (f.meadow 0).replayDue = false ∧ (f.meadow 0).attempts < (f.meadow 0).limit
    ∧ ((mdw .failed fun x => { x with attempts := 4 }).meadow 0).limit ≤ 4
    ∧ ((mdw .failed fun x => { x with auto := false }).meadow 0).auto = false
    ∧ (moving (.saving 3 0)).allOn 0 = true ∧ ((moving (.saving 3 0)).meadow 0).switchPhase = .saving 3 0
    ∧ ((moving (.loading 3 .ready 0 0)).meadow 0).switchPhase = .loading 3 .ready 0 0
    ∧ (match (moving (.saving 3 0)).saveJob 0 0 nearSectors deepSectors 0 ((moving (.saving 3 0)).meadowCores 0) with
        | (.ok (), t) => t == moving (.saving 3 0) | _ => false) = true
    ∧ (match (moving (.loading 3 .ready 0 0)).loadJob 0 0 0 3 nearSectors deepSectors 0 ((moving (.loading 3 .ready 0 0)).meadowCores 0) [] with
        | (.ok _, t) => !(t.meadow 0).stopDue && !(t.meadow 0).switchReq && t.pkg.barred == false && t.pkg.blocked == false | _ => false) = true
    ∧ (match (mdw .switching fun x => { x with switchPhase := .loading 3 .ready 0 0 }).loadJob 0 0 0 3 nearSectors deepSectors 0
          ((mdw .switching id).meadowCores 0) [] with
        | (.error _, t) => t.pkg.barred == false && t.pkg.blocked == false | _ => false) = true := by decide +kernel
theorem witness_RecoveryWrites :
    ((mdw .ready id).meadow 0).state ≠ .failed ∧ ((mdw .failed fun x => { x with drained := true }).meadow 0).drained = true
    ∧ (mdw .failed id).sxt.repair.phase = 0 ∧ ((mdw .failed id).meadow 0).switchReq = false
    ∧ ((mdw .failed id).meadow 0).drained = false
    ∧ ((mdw .stopped fun x => { x with stopWas := .opened }).meadow 0).stopWas = .opened
    ∧ ((mdw .stopped id).meadow 0).stopFail = 0
    ∧ ((mdw .stopped fun x => { x with stopWas := .ready }).meadow 0).stopWas = .ready
    ∧ ((mdw .stopped fun x => { x with stopWas := .failed }).meadow 0).stopWas = .failed ∧ up.sxt.benched = false
    ∧ (mdw .stopped id).sxt.lockstep = false ∧ ((mdw .stopped id).meadow 0).switchReq = false
    ∧ ((mdw .stopped id).meadow 0).drained = false
    ∧ (up.updSxt fun x => { x with benched := true, cause := 0x0D0A }).sxt.cause ≠ Code.benched
    ∧ (up.updSxt fun x => { x with benched := true, cause := 0x0D08 }).sxt.cause = Code.benched
    ∧ up.sxt.bootStep ≠ 10 := by decide +kernel
/-- An open epoch of meadow 0; core 5 silent, the other cores with progress, base tussock 1 at a stage of its watch. -/
def watched (st : Nat) : State :=
  ((coresOfBase 1).foldl (fun t n => t.updCore n fun k => { k with progress := n ≠ 5 }) (mdw .opened id)).updBase 1 fun b => { b with stage := st }
theorem witness_WatchesAndTimeoutsFire :
    up.meadowOfBase 1 = none ∧ (mdw .ready id).watching 0 1 = false ∧ (watched 0).meadowOfBase 1 = some 0
    ∧ (watched 0).watching 0 1 = true ∧ (watched 0).silentCores 1 = [5] ∧ (watched 0).sxt.lockstep = false
    ∧ ((watched 0).updCore 5 fun k => { k with progress := true }).silentCores 1 = [] ∧ (watched 0).sxt.stemWait = []
    ∧ ((watched 2).base 1).stage = 2 ∧ (watched 0).tooSoon [5] = false
    ∧ (watched 1).tooSoon ((watched 1).domainCores (.tussock 0x1001)) = false
    ∧ (watched 2).tooSoon ((watched 2).domainCores (.meadow 0)) = false
    ∧ ((watched 2).meadowCores 0).Nodup ∧ ((watched 3).base 1).stage = 3
    ∧ (watched 3).tooSoon ((watched 3).domainCores .warm) = false ∧ (watched 3).bootStopped = false
    ∧ ((watched 3).updSxt fun x => { x with bootCode := Code.bootHub }).bootStopped = true ∧ (watched 3).trn.st.alive = false
    ∧ ((watched 0).updSxt fun x => { x with lockstep := true }).sxt.lockstep = true
    ∧ ((watched 1).updCore 6 fun k => { k with lastReset := some 0 }).tooSoon (coresOfBase 1) = true
    ∧ (op2 ga1).requests 5 = true ∧ (op2 sf1).requests 3 = false ∧ (owned (at5 (busy 5 (op2 ga1))) .opened).meadowOf 5 = some 0
    ∧ (at5 (busy 5 (op2 ga1))).meadowOf 5 = none ∧ running.engq 6 = [] := by decide +kernel
/-- At each stage of the watch a step follows; the last resets the device. -/
theorem test_watch_stages : ([0, 1, 2].all fun st => match exec (.watchFire 1) (watched st) with
      | .next t => (t.base 1).stage == st + 1 && (t.core 5).awaitAdmit | _ => false) = true
    ∧ (match exec (.watchFire 1) (watched 3) with | .next t => t.sxt.bootStep == 6 && t.sxt.warm | _ => false) = true := by decide +kernel
theorem witness_WatchesAndTimeoutsFire_core : (busy 5 (op2 ga1)).engq 5 = [op2 ga1] ∧ (busy 5 (op2 ga1)).unstalled :=
  ⟨by decide +kernel, unstalled_run rfl⟩
theorem witness_ResetsOfTheDevice :
    up.sxt.power = true ∧ State.reset.sxt.power = false ∧ up.sxt.fwRunning = true ∧ up.sxt.lockstep = false
    ∧ ((owned up .opened).updMeadow 0 fun x => { x with port := 1 }).carriesAll 0 = false ∧ (owned up .opened).carriesAll 0 = true
    ∧ (owned up .opened).tooSoon ((owned up .opened).domainCores .heath) = false
    ∧ ((owned up .opened).updCore 5 fun k => { k with lastReset := some 0 }).tooSoon [5] = true
    ∧ ((owned up .opened).domainCores .heath).Nodup ∧ up.sxt.stemWait = [] ∧ 5 ∈ (owned up .opened).domainCores .heath
    ∧ ((owned up .opened).meadow 0).state = .opened ∧ 0 ∈ (owned up .opened).meadowIds
    ∧ 2 ≤ ((up.updSxt fun x => { x with warmTimes := [0, 0] }).sxt.warmTimes.filter fun t => up.tick < t + 2 ^ 37).length
    ∧ (atStep 3 false).sxt.bootStep = 3 ∧ up.sxt.bootStep ≠ 3 ∧ up.bootStopped = false
    ∧ (up.updSxt fun x => { x with bootCode := Code.bootHub }).bootStopped = true
    ∧ ((owned up .opened).updSxt fun x => { x with lockstep := true }).sxt.lockstep = true := by decide +kernel
theorem witness_ResetsOfTheDevice_warm : up.undelayed (up.warmReset Code.reset) :=
  undelayed_same ⟨by decide +kernel, by decide +kernel, by decide +kernel⟩
/-- A warm reset within an hour of two others benches the block. -/
theorem test_third_warm_reset : (match exec (.warmReset 0) (up.updSxt fun x => { x with warmTimes := [0, 0] }) with
    | .next t => t.sxt.benched && t.sxt.bootStep == 6 | _ => false) = true := by decide +kernel
/-- A test of a slice, with both its parts. -/
def bjob (k : Nat) (why : BistWhy) (begun : Bool) : BistJob := ⟨k, why, true, true, true, begun⟩
/-- Slice 1 under a test that runs for a reason, at step 8 of start-up for the first. -/
def tested (why : BistWhy) (more : List BistJob) : State :=
  { (owned (up.updSxt fun x => { x with bootStep := 8 }) .stopped) with bist := { Bist.zero with tests := bjob 1 why true :: more } }
/-- Saved stores of the cores of base tussock 1. -/
def withSaved (s : State) : State :=
  s.updSxt fun x => { x with saved := (coresOfBase 1).map fun n => (n, some ⟨[(0, 1)], []⟩) }
/-- A repair of base tussock 1 in a phase, its tests ended and its stores saved. -/
def inPhase (n : Nat) : State := withSaved ((owned up .stopped).updSxt fun x => { x with repair := { Repair.zero with phase := n, base := 1 } })
theorem witness_SelfTestsAndStackTrainingEnd :
    (∀ k ∈ ({ up with bist := { Bist.zero with tests := [bjob 1 .repair false] } } : State).bist.tests, k.slice = 1 → k.begun = false)
    ∧ (tested .startup []).bist.tests = [bjob 1 .startup true]
    ∧ (tested .startup []).sxt.bootStep = 8 ∧ (tested .startup []).sxt.bootCode ≠ Code.bootHub
    ∧ (tested .startup []).sxt.warm = false
    ∧ partExists 1 0 = true ∧ partExists 1 20 = true ∧ partExists 256 0 = true
    ∧ (tested .startup [bjob 2 .startup true]).bist.tests = [bjob 1 .startup true, bjob 2 .startup true]
    ∧ [bjob 2 .repair true].any (·.begun) = true ∧ (bjob 2 .startup true).why = .startup
    ∧ partSite 1 0 = some ((tested (.request true) []).siteOf 4) ∧ 4 ∈ (tested (.request true) []).sliceCores 1
    ∧ ((tested (.request true) []).meadowOf 4).isSome = true ∧ (tested (.request true) []).sxt.repairQueue = []
    ∧ (tested (.request true) []).sxt.repair.phase = 0 ∧ (tested (.request true) []).hostStream = false
    ∧ (tested (.request true) []).sxt.lockstep = false
    ∧ ((tested (.request true) []).sliceCores 1).all (fun n => !Sparse.get false (tested (.request true) []).heath.failed ((tested (.request true) []).siteOf n)) = true
    ∧ (tested (.request true) []).sxt.stemWait = [] ∧ (tested .repair []).meadowOfBase 1 = some 0
    ∧ (((withSaved (tested .repair [])).sliceCores 1).all fun n => (Sparse.get none (withSaved (tested .repair [])).sxt.saved n).isSome) = true
    ∧ (atStep 6 true).sxt.bootStep = 6 ∧ (atStep 6 true).sxt.stacksDone = false
    ∧ (List.replicate 20 (⟨0, true⟩ : StackReport)).length = (atStep 6 true).part.stacks
    ∧ (up.swarm.any fun e => e.2.st == .training || e.2.st == .retraining) = false ∧ (up.trn.lanes.any (·.2 == 1)) = false
    ∧ ((up.updTrn fun x => { x with lanes := [(2, 1)] }).trn.lanes.any (·.2 == 1)) = true
    ∧ up.pending = [] ∧ up.sxt.delayed = [] ∧ up.life ≠ .retired ∧ (inPhase 3).sxt.repair.phase = 3
    ∧ (inPhase 3).hostStream = false
    ∧ (∀ k ∈ (inPhase 3).bist.tests, k.why ≠ .repair) ∧ (inPhase 4).sxt.repair.phase = 4 ∧ (inPhase 4).sxt.repair.base = 1
    ∧ (inPhase 4).meadowOfBase 1 = some 0 ∧ (inPhase 4).sxt.stemWait = [] ∧ (inPhase 4).pending = []
    ∧ (inPhase 4).sxt.lockstep = false
    ∧ (inPhase 4).sxt.delayed = [] ∧ (inPhase 4).life ≠ .retired
    ∧ (((inPhase 4).sliceCores 1).all fun n => (Sparse.get none (inPhase 4).sxt.saved n).isSome
        && !Sparse.get false (inPhase 4).heath.failed ((inPhase 4).siteOf n)) = true ∧ (inPhase 4).sxt.repair.trunk = false := by
  decide +kernel
/-- A partition whose signature is the expected one and whose memories pass is sound, and one whose memory fails is not. -/
theorem witness_SelfTestsAndStackTrainingEnd_sound (s : State) (b p : Nat) :
    (Config.misrExpected s.sxt.fwHash (s.partKind b p) != Config.misrExpected s.sxt.fwHash (s.partKind b p)) = false
    ∧ (if (bjob 1 .startup true).memory then true else false) = true := ⟨bne_self_eq_false _, rfl⟩
/-- Package memory changed; with stack parity on. -/
def pkgWith (f : Pkg → Pkg) : State := (owned up .opened).updPkg f
/-- A delta of data sector 0 that waits, and the stack that holds its parity sector. -/
def delta1 (st : StackSt) (tr : List Nat) : State :=
  (pkgWith fun g => { g with parity := true, deltas := [⟨0, 5, none, false⟩] }).updStack (up.parityStack 0) fun x => { x with st := st, training := tr }
/-- One symbol in error, and two. -/
theorem witness_SectorsAreReadWrittenAndScrubbed_errors :
    rsRead (BitVec.ofNat 288 (255 * 2 ^ (8 * 35))) = .corrected 0 ∧ rsRead 0x0101 = .detected := by decide +kernel
theorem witness_SectorsAreReadWrittenAndScrubbed :
    up.capacity ≤ up.capacity ∧ 0x201000 < up.capacity ∧ up.pageRetired 0x201000 = false ∧ up.pkg.parity = false
    ∧ (up.stack (up.stackOf 0x201000)).st ≠ .failed ∧ up.flips (0x201000 / 32) = 0 ∧ up.pkg.retired.length < 4096
    ∧ up.mustWait 0x201000 = false ∧ up.mustWait (0x201000 / 32 * 32) = false
    ∧ (owned up .opened).meadowOf 5 = some 0 ∧ ((owned up .opened).meadow 0).state = .opened
    ∧ (0x20101F % 32 + 1 ≤ 32) ∧ up.frozenBy 0x201000 (up.meadowOf 5) = [] ∧ up.frozenBy 0x201000 none = []
    ∧ (pkgWith fun g => { g with retired := [0x20] }).pageRetired 0x201000 = true ∧ up.pkg.deltas = []
    ∧ (⟨5, 0, false⟩ : SectorReader).gen = ((owned up .opened).core 5).gen ∧ (⟨5, 1, false⟩ : SectorReader).gen ≠ ((owned up .opened).core 5).gen
    ∧ (delta1 .inService []).pkg.deltas = [⟨0, 5, none, false⟩] ∧ (delta1 .inService []).trains (up.parityStack 0) 0 = false
    ∧ (delta1 .retraining [up.channelOf 0]).trains (up.parityStack 0) 0 = true
    ∧ ((delta1 .inService []).stack (up.parityStack 0)).st ≠ .failed ∧ ((delta1 .failed []).stack (up.parityStack 0)).st = .failed
    ∧ (delta1 .failed []).trains (up.parityStack 0) 0 = false ∧ (delta1 .inService []).pflips (up.parityIx 0) = 0 := by
  decide +kernel
/-- The last byte of a sector written; the other bytes stay. -/
theorem test_sector_write : (match exec (.sectorWrite (.agent 0) 0x20101F [9]) up with
    | .next t => t.pkg.bytes == [(0x20101F, 9)] | _ => false) = true := by decide +kernel
theorem witness_StacksDegradeAndFrozenMapsRebuild :
    (19 : Nat) < up.part.stacks ∧ up.part.stacks ≤ 20 ∧ (up.stack 19).st ≠ .failed ∧ (31 : Nat) ∉ (up.stack 19).training ∧ up.sxt.bootStep ≠ 6
    ∧ 31 ∈ ((up.updStack 3 fun x => { x with st := .retraining, training := [31, 0] }).stack 3).training
    ∧ (pkgWith fun g => { g with parity := true }).pkg.parity = true ∧ (pkgWith id).pkg.parity = false
    ∧ ((pkgWith fun g => { g with parity := true }).updStack 3 fun x => { x with st := .failed, training := [] }).failedStacks ≤ 1
    ∧ 1 < ((up.updStack 2 fun x => { x with st := .failed }).updStack 3 fun x => { x with st := .failed, training := [] }).failedStacks
    ∧ ((mdw .ready id).meadow 0).state ≠ .absent ∧ ((mdw .ready fun x => { x with frozenBusy := true }).meadow 0).window = false
    ∧ ((mdw .ready fun x => { x with frozenBusy := true }).meadow 0).frozenBusy = true
    ∧ ((mdw .opened fun x => { x with frozenBusy := true }).meadow 0).window = true
    ∧ ((mdw .ready id).meadow 0).frozenBusy = false := by
  decide +kernel
/-- The scan of the table of `mapped`, none of whose reads waits. -/
theorem witness_StacksDegradeAndFrozenMapsRebuild_scan :
    let s := mapped (mdw .ready fun x => { x with frozenBusy := true }) []
    let t := (s.scanTable 0 4 0 (s.meadow 0).root []).2
    t.pkg.barred = s.pkg.barred ∧ t.pkg.blocked = s.pkg.blocked := by decide +kernel

/-! Host ports, Swarm, transport, Cicada, power and registers. -/

/-- Meadow 0 on function 3, with the first 4 MiB of package memory granted to it. -/
def granted (f : Pkg → Pkg) : State := (mapped (onFn .opened) [(0x201000, 9)]).updPkg f
/-- A doorbell packet for queue 3 of core 5: its first 8 bytes are reserved, the rest is the message (R389). -/
def ring64 : List Byte := List.replicate 64 0
theorem witness_HostReadsWritesAndDoorbells :
    (tdi .locked true).untrusted 0 3 true = true ∧ (granted id).untrusted 0 3 false = false
    ∧ (granted id).bar2Granted 0 3 0x400000 1 = false ∧ (granted id).bar2Granted 0 3 0x201000 2 = true
    ∧ (match (granted id).physGet 0x201000 2 with | ((e, d), t) => !e && d == [9, 0] && t.pkg.barred == false && t.pkg.blocked == false && t.pkg.deltas == []) = true
    ∧ (match (granted fun g => { g with flips := [(0x10080, 0x0101)] }).physGet 0x201000 2 with
      | ((e, _), t) => e && t.pkg.barred == false && t.pkg.blocked == false && t.pkg.deltas == []) = true
    ∧ (match (granted fun g => { g with retired := [0x20] }).physGet 0x201000 2 with
      | ((e, d), t) => !e && d == [0xFF, 0xFF] && t.pkg.barred == false && t.pkg.blocked == false && t.pkg.deltas == []) = true
    ∧ (granted fun g => { g with retired := [0x20] }).anyRetired 0x201000 2 = true ∧ (granted id).fnMeadow 0 3 = some 0
    ∧ 64 * (8 * 5 + 3) % 64 = 0 ∧ ring64.length = 64 ∧ fieldZero ring64 0 8 = true ∧ (granted id).meadowOf 5 = some 0
    ∧ ((granted id).meadow 0).state = .opened ∧ (granted id).doorbellsFull 0 = false ∧ ¬ 65 % 64 = 0
    ∧ 11 ≤ (granted id).sxt.bootStep ∧ (0x1FFFFE : BitVec 41).toNat + 2 ≤ 2 ^ 21 ∧ 2 ^ 21 < (0x1FFFFF : BitVec 41).toNat + 2
    ∧ up.fnMeadow 0 3 = none ∧ ((granted id).fnMeadow 0 3).isSome = true
    ∧ (((granted id).physPut 0 0x201000 [1, 2]).ownDeltas 0 (some (.port 0))).pkg.barred = (granted id).pkg.barred
    ∧ (((granted id).physPut 0 0x201000 [1, 2]).ownDeltas 0 (some (.port 0))).pkg.blocked = (granted id).pkg.blocked := by decide +kernel
/-- The BAR is between 1 GiB and 2 TiB. -/
theorem bar2_size (s : State) (p f : Nat) : 2 ^ 30 ≤ s.bar2Size p f ∧ s.bar2Size p f ≤ 2 ^ 41 := by
  refine ⟨Nat.le_max_left .., Nat.max_le.mpr ⟨by decide, ?_⟩⟩
  split <;> exact Nat.le_trans (Nat.div_le_self ..) (by decide)
/-- Two bytes inside the BAR, and two that go past its end. -/
theorem witness_HostReadsWritesAndDoorbells_size : (0x201000 : BitVec 41).toNat + 2 ≤ (granted id).bar2Size 0 3
    ∧ (granted id).bar2Size 0 3 < (0x1FFFFFFFFFF : BitVec 41).toNat + 2 :=
  ⟨Nat.le_trans (by decide) (bar2_size ..).1, Nat.lt_of_le_of_lt (bar2_size ..).2 (by decide)⟩
/-- A range that crosses the end of the grant is not granted. -/
theorem test_bar2_past_the_grant : (granted id).bar2Granted 0 3 0x3FFFFF 2 = false ∧ (granted id).bar2Granted 0 3 0x3FFFFE 2 = true := by
  decide +kernel

/-- Meadow 0 on function 3 with its host-copy ring enabled and a descriptor in flight. -/
def copying (f : Meadow → Meadow) : State :=
  (onFn .opened).updMeadow 0 fun x => f { x with hcEnable := true, hcSize := 4, hcTail := 3, hcFlight := [⟨1, 0, false⟩] }
/-- A descriptor of 32 bytes to host memory (R397), and one of 0 bytes. -/
def desc32 : List Byte := List.replicate 16 0 ++ [32] ++ List.replicate 47 0
theorem witness_HostCopiesRunAndEnd :
    ((copying id).meadow 0).state ≠ .absent ∧ 2 ^ ((copying id).meadow 0).hcSize ≤ 16 ∧ 15 < 2 ^ ((copying id).meadow 0).hcSize
    ∧ ((copying fun x => { x with hcEnable := false }).meadow 0).hcEnable = false ∧ ((copying id).meadow 0).hcFlight.length ≤ 4
    ∧ ((copying id).meadow 0).hcEnable = true ∧ (5 : Nat) ≠ ((copying id).meadow 0).hcSize
    ∧ (((copying id).meadow 0).hcFlight.find? fun e => e.ix = 2) = none
    ∧ (((copying id).meadow 0).hcFlight.find? fun e => e.ix = 1) = some ⟨1, 0, false⟩ ∧ ((copying fun x => { x with confidential := true }).meadow 0).confidential = true
    ∧ ((copying id).fn 0 3).tdi ≠ .run ∧ (copying id).hcDescOk 0 3 desc32 = true
    ∧ (copying id).hcDescOk 0 3 (List.replicate 64 0) = false
    ∧ ((copying id).hcMove 0 0 3 desc32 [] 0).2.pkg.barred = (copying id).pkg.barred
    ∧ ((copying id).hcMove 0 0 3 desc32 [] 0).2.pkg.blocked = (copying id).pkg.blocked
    ∧ ((copying id).hcMove 0 0 3 desc32 [] 0).2.pkg.deltas = (copying id).pkg.deltas
    ∧ Sparse.wf Meadow.zero (copying id).meadows = true ∧ (copying id).hcBusy 0 ≤ 16 := by
  decide +kernel
/-- Two free engines serve the rings of functions 3 and 5 in turn (R396). -/
theorem test_host_copy_engines_in_turn :
    let s := (copying id).updMeadow 1 fun x =>
      { x with state := .opened, port := 0, fn := 5, hcEnable := true, hcSize := 4, hcTail := 3 }
    let t := s.hcServe 0 2
    (t.meadow 0).hcFlight = [⟨1, 0, false⟩, ⟨0, 0, false⟩] ∧ (t.meadow 1).hcFlight = [⟨0, 0, false⟩] ∧ (t.port 0).hcTurn = 6 := by
  decide +kernel
/-- A descriptor ends with its STATUS written before its DONE. -/
theorem test_host_copy_malformed : (match exec (.hcopyComplete 0 1 (some (List.replicate 64 0)) [] 0) (copying id) with
    | .next t => t.out.take 2 == [.hostWrite 0 3 92 (natToBytes 2 Code.hostDescriptor.toNat) false, .hostWrite 0 3 94 [1] false] | _ => false) = true := by
  decide +kernel
theorem witness_PortsLinkAndFunctionsReset :
    up.sxt.power = true ∧ (6 : Fin 7).val ≠ 0 ∧ (8 : Fin 9) = 8 ∧ State.reset.sxt.power = false ∧ up.fnMeadow 0 3 = none
    ∧ (onFn .opened).fnMeadow 0 3 = some 0 ∧ ((onFn .opened).meadow 0).hcFlight = [] ∧ ((onFn .stopped).meadow 0).state = .stopped
    ∧ ((onFn .stopped).fn 0 3).tdi ≠ .run ∧ up.sxt.bootStep = 11 ∧ (atStep 5 false).sxt.bootStep ≠ 11
    ∧ ((onFn .opened).meadow 0).state ≠ .stopped ∧ (onFn .opened).sxt.lockstep = false ∧ (onFn .opened).sxt.stemWait = []
    ∧ stemPlace (onFn .opened).sxt.stemOut ⟨1, ((onFn .opened).meadow 0).top, 0, .sexton, false⟩ = true
    ∧ (onFn .opened).meadowOfTop ((onFn .opened).meadow 0).top = some 0 ∧ ((onFn .opened).meadow 0).state = .opened := by decide +kernel
/-- The reset of a function stops its meadow. -/
theorem test_function_reset_stops : (match exec (.functionLevelReset 0 (.function 3) []) (onFn .opened) with
    | .next t => (t.meadow 0).state == .stopped && t.sxt.stemOut == [⟨1, 0x1001, 0, .sexton, false⟩] | _ => false) = true := by decide +kernel

/-- A state whose requests do not wait, with no delta on its way. -/
def goesOn (t : State) : Bool := t.pkg.barred == false && t.pkg.blocked == false && t.pkg.deltas == []
/-- From one such state to another, none of a command's requests waits. -/
theorem undelayed_of_goesOn {s t : State} (h : goesOn s = true) (k : goesOn t = true) : s.undelayed t := by
  simp only [goesOn, Bool.and_eq_true, beq_iff_eq] at h k
  exact undelayed_same ⟨k.2.trans h.2.symm, k.1.1.trans h.1.1.symm, k.1.2.trans h.1.2.symm⟩
/-- Swarm port 1 in a state. -/
def swarmed (s : State) (st : SwState) (f : SwLink → SwLink) : State := s.updSw 1 fun x => f { x with st := st }
/-- A training that passes at rate 1 with seven lanes and the spare, and one that passes at no rate. -/
def trains : Training := ⟨0, true, 2, 8, [(0, false), (7, true), (8, false)]⟩
def fails : Training := ⟨0, false, 0, 8, [(0, false), (0, false), (7, true)]⟩
/-- The report of an OWNED device whose Owner registered no key that this part knows (R459): R368's digest of zeros. -/
def peerOk (d : BitVec 10) : PeerReport := ⟨List.replicate 6 0 ++ [3] ++ List.replicate 7341 0, true, d, 4⟩
theorem peerOk_length (d : BitVec 10) : (peerOk d).report.length = reportBytes := by
  simp only [peerOk, List.length_append, List.length_replicate, List.length_cons, List.length_nil, reportBytes]
/-- This device's own report and what the port does when there is none. -/
def selfReport (s : State) : List Byte := (s.freeBytes 32).2.report ((s.freeBytes 32).1 ++ [0xFF]) zero32
def spent : State := swarmed (up.updSxt fun x => { x with sigsLeft := 0 }) .admitting id
def downed (s : State) (c : Half) : State := (s.updSw 1 fun x => { x with st := .down, code := c }).swRebuild
theorem witness_SwarmPortsTrainAndAdmit :
    negotiate SwCfg.default trains = some (1, 8, true, 1) ∧ negotiate SwCfg.default fails = none
    ∧ negotiate { SwCfg.default with fec := 1 } trains = none ∧ ({ SwCfg.default with fec := 1 } : SwCfg).fec ≠ trains.fec.val
    ∧ up.hasSw 1 = true ∧ ({ up with part := .m6 } : State).hasSw 6 = false ∧ ((swarmed up .training id).sw 1).st = .training
    ∧ ((swarmed up .retraining id).sw 1).st = .retraining ∧ (swarmed up .admitting id).admits 1 = true
    ∧ (swarmed up .training id).admits 1 = false ∧ (atStep 9 true).sxt.warm = false ∧ (atStep 9 true).sxt.bootStep < 10
    ∧ (match (spent.freeBytes 32).2.identitySign (selfReport spent) with | .error _ => true | .ok _ => false) = true
    ∧ (match ((swarmed up .admitting id).freeBytes 32).2.identitySign (selfReport (swarmed up .admitting id)) with
      | .error _ => false
      | .ok (_, w) => goesOn (downed w Code.swDevice)) = true
    ∧ goesOn (downed spent Code.attSigs) = true ∧ goesOn spent = true
    ∧ goesOn (swarmed up .retraining fun x => { x with rate := 1 }).swRebuild.toStep8 = true
    ∧ goesOn (swarmed up .retraining id) = true ∧ goesOn (swarmed up .admitting id) = true
    ∧ (peerOk 5).valid = true ∧ fieldNat (peerOk 5).report 6 1 = 3
    ∧ sliceBytes (peerOk 5).report 168 32 = keyDigest (swarmed up .admitting id).keyed (swarmed up .admitting id).guard.owner
    ∧ ({ peerOk 5 with valid := false } : PeerReport).valid ≠ true ∧ (peerOk 5).device.toNat ≠ up.heath.device
    ∧ (peerOk 0).device.toNat = up.heath.device ∧ (∀ m ∈ (swarmed up .admitting id).meadowIds, (up.meadow m).swTaken = [])
    ∧ ((swarmed up .admitting fun x => { x with peerGen := some 3 }).sw 1).peerGen = some 3
    ∧ ((swarmed up .admitting id).sw 1).peerGen = none
    ∧ (3 : Half) ≠ (peerOk 5).gen := by decide +kernel

/-- The collective of TAG 8 of meadow 0 between devices 0 and 1. -/
def key8 : SwKey := ⟨0, 8, 0, 2⟩
/-- The head of a payload from device 5 for this device's meadow 0, and for device 7. -/
def head0 : SwHead := ⟨5, 0, key8, 0⟩
def head7 : SwHead := { head0 with dest := 7 }
/-- Port 1 up with peer 5 of generation 4, expecting frame 2, with frame 9 unacknowledged. -/
def linked (f : SwLink → SwLink) : State :=
  swarmed (mdw .opened id) .up fun x => f { x with peer := 5, peerGen := some 4, rxSeq := 2, unacked := [⟨9, head0, [7], true⟩] }
/-- A collective entry: SEQ, OP, MODE, FIRST, COUNT, ROOT, SRC, DEST, BYTES, note target and TAG (R375). -/
def entry (seq op first count root src dst bytes tag : Nat) : List Byte :=
  natToBytes 4 seq ++ [BitVec.ofNat 8 op, 0, 0, 0] ++ natToBytes 2 first ++ natToBytes 2 count ++ natToBytes 2 root ++ [0, 0]
    ++ natToBytes 8 src ++ natToBytes 8 dst ++ natToBytes 8 bytes ++ [5, 0, 3, 0] ++ natToBytes 4 tag ++ List.replicate 16 0
/-- A broadcast from this device, 0, to device 1, of the 32 bytes at 0x1000 to 0x2000. -/
def bcast : List Byte := entry 1 4 0 2 0 0x1000 0x2000 32 8
/-- A send to device 1. -/
def sending : List Byte := entry 1 5 0 2 1 0x1000 0x2000 32 8
/-- Meadow 0 has taken a collective; port 1 leads to device 1. -/
def taken (k : SwTaken) : State :=
  mapped ((linked fun x => { x with peer := 1 }).updMeadow 0 fun x => { x with swTaken := [k], swIdx := 1, swSeq := 2 }) []
/-- A collective as it is when taken. -/
def fresh (e : List Byte) : SwTaken := ⟨0, e, false, false, false, none⟩
def retrained (s : State) : State :=
  (s.updSw 1 fun x => { x with st := .retraining, retrains := satInc x.retrains, failRun := 0 }).swRebuild
theorem witness_SwarmFramesAreAnswered :
    up.hasSw 1 = true ∧ (up.sw 1).st ≠ .up ∧ ((linked id).sw 1).st = .up ∧ ((linked id).sw 1).peerGen ≠ some 5
    ∧ ((linked id).sw 1).peerGen = some 4 ∧ ((linked id).sw 1).failRun < 15
    ∧ 15 ≤ ((linked fun x => { x with failRun := 15 }).sw 1).failRun
    ∧ 1 < ((linked id).sw 1).rxSeq ∧ ((linked id).sw 1).rxSeq ≤ 2 ∧ 2 ∉ ((linked id).sw 1).rxSeen
    ∧ 4 ∈ ((linked fun x => { x with rxSeen := [4] }).sw 1).rxSeen ∧ head0.dest.toNat = (linked id).heath.device
    ∧ head7.dest.toNat ≠ (linked id).heath.device
    ∧ (((linked id).sw 1).unacked.find? fun u => u.seq = 9) = some ⟨9, head0, [7], true⟩
    ∧ (((linked id).sw 1).unacked.find? fun u => u.seq = 8) = none ∧ ((linked id).sw 1).unacked ≠ []
    ∧ ((linked fun x => { x with unacked := [] }).sw 1).unacked = []
    ∧ goesOn (linked id) = true ∧ goesOn (retrained (linked id)) = true ∧ goesOn (linked id).swRebuild = true
    ∧ goesOn (taken (fresh sending)) = true ∧ goesOn ((taken { fresh sending with lost := true }).swNext 0) = true
    ∧ swKey 0 sending = key8 ∧ (5 : BitVec 10).toNat ≠ (linked id).heath.device ∧ (linked id).swRoute 5 = [1]
    ∧ (linked id).swRoute 6 = [] ∧ (0 : BitVec 10).toNat = (linked id).heath.device := by decide +kernel
/-- A payload with the tag of the link key, and one with another. -/
theorem witness_SwarmFramesAreAnswered_data (key c : List Byte) (g : Half) (seq : Nat) :
    let nonce := natToBytes 12 (Config.linkNonce g.toNat seq).toNat
    (gcmOpen key nonce [] c (gcmTag key nonce [] c)).isSome = true ∧ gcmOpen key nonce [] c ((gcmTag key nonce [] c).map (· + 1)) = none :=
  ⟨gcm_opens .., gcm_refuses _ _ _ _ (natToBytes_length ..)⟩

/-- Meadow 0's ring at 0x1000, package memory at 0x201000, holds an entry for its expected SEQ. -/
def posted (e : List Byte) : State :=
  mapped ((linked fun x => { x with peer := 1 }).updMeadow 0 fun x => { x with swRing := 0x1000, swSize := 4, swSeq := 1 })
    (((upFrom 0 64).map fun i => (0x201000 + i, e.getD i 0)).filter fun c => c.2 ≠ 0)
/-- Device 1's side of the broadcast. -/
def side (b : Dword) (bad : Bool) : Member := ⟨1, 4, 0, 0, b, bad⟩
theorem witness_CollectivesAreTakenAndCompleted :
    ((linked id).meadow 0).state.isStopped = false ∧ ((mdw .stopped id).meadow 0).state.isStopped = true ∧ ((mdw .stopped id).meadow 0).state ≠ .absent
    ∧ bitsOf (4 * 2 ^ 48 + 8) 11 0 ≠ 0 ∧ bitsOf (4 * 2 ^ 48) 51 48 = 4 ∧ bitsOf (12 * 2 ^ 48 + 4096) 51 48 = 12
    ∧ bitsOf (13 * 2 ^ 48) 51 48 = 13
    ∧ ((mdw .stopped id).meadow 0).epochOpen = false ∧ ((posted bcast).meadow 0).epochOpen = true
    ∧ ((posted bcast).meadow 0).swSeq = 1
    ∧ ((posted bcast).meadow 0).swTaken = [] ∧ goesOn (posted bcast) = true
    ∧ (match (posted bcast).mreadAll 0 (((posted bcast).meadow 0).swRing + 64 * ((posted bcast).meadow 0).swIdx) 64 with
      | (.ok e, t) => e == bcast && fieldNat e 0 4 == 1 && goesOn ((t.updMeadow 0 fun x => { x with
          swTaken := x.swTaken ++ [fresh e], swIdx := (x.swIdx + 1) % 2 ^ x.swSize, swSeq := x.swSeq + 1 }).swNext 0)
      | _ => false) = true
    ∧ (match (posted (entry 2 4 0 2 0 0 0 0 0)).mreadAll 0 0x1000 64 with | (.ok e, t) => fieldNat e 0 4 ≠ 1 && goesOn t | _ => false) = true
    ∧ (match ((mdw .opened fun x => { x with swRing := 0x1000 })).mreadAll 0 0x1000 64 with | (.error _, t) => goesOn t | _ => false) = true := by
  decide +kernel
/-- A descriptor of an OP that is not listed; a broadcast whose members are reached, or not, or which has failed. -/
theorem witness_CollectivesAreTakenAndCompleted_turns :
    ((taken (fresh bcast)).meadow 0).swTaken = [fresh bcast] ∧ (taken (fresh bcast)).swDescOk (entry 1 9 0 2 0 0 0 0 0) = false
    ∧ (taken (fresh bcast)).swDescOk bcast = true ∧ { fresh bcast with dup := true }.dup = true
    ∧ { fresh bcast with lost := true }.lost = true
    ∧ ((taken (fresh bcast)).meadow 0).epochFailed = false ∧ ((mdw .failed id).meadow 0).epochFailed = true
    ∧ swPeers bcast 0 = [1] ∧ (taken (fresh bcast)).swRoute 1 = [1]
    ∧ ((taken (fresh bcast)).updSw 1 fun x => { x with st := .down }).swRoute 1 = []
    ∧ { fresh bcast with begun := true }.begun = true ∧ (fresh bcast).begun = false
    ∧ [side 32 true].any (·.failed) = true ∧ [side 32 false].any (·.failed) = false
    ∧ (∀ p ∈ swPeers bcast 0, ∃ y ∈ [side 32 false], y.device.toNat = p)
    ∧ [side 64 false].all (swAgrees bcast 0) = false ∧ [side 32 false].all (swAgrees bcast 0) = true
    ∧ goesOn (taken (fresh bcast)) = true ∧ goesOn ((taken (fresh bcast)).swNext 0) = true
    ∧ goesOn (((taken (fresh sending)).collectiveFails 0 Code.swPeerFailed).swNext 0) = true
    ∧ goesOn (((taken (fresh bcast)).collectiveDone 0 Code.swMismatch).swNext 0) = true := by decide +kernel
/-- The root reads its source, sends it, and, its parts known, writes its own destination. -/
theorem witness_CollectivesAreTakenAndCompleted_run :
    let k : SwTaken := { fresh bcast with begun := true }
    let own := List.replicate 32 (0 : Byte)
    (match (taken k).mreadAll 0 (fieldNat bcast 16 8) (swSrcLen bcast 0) with
      | (.ok src, t) =>
        let mine := t.updMeadow 0 fun x => { x with swTaken := { k with own := some (swShare bcast 0 src) } :: x.swTaken.drop 1 }
        goesOn (((swPeers bcast 0).foldl (fun t p => t.swSendTo (swKey 0 bcast) p (swShare bcast p src)) mine).collectiveEnd 0)
      | _ => false) = true
    ∧ goesOn ((taken { k with own := some own }).collectiveEnd 0) = true
    ∧ ((taken { k with own := some own }).meadow 0).swPart (swKey 0 bcast) bcast 1 = some [] ∧ [own, []].length = fieldNat bcast 10 2
    ∧ (match (taken { k with own := some own }).mwriteAll 2 0 (fieldNat bcast 24 8) (swResult bcast [own, []]) with
      | (.ok _, _) => true | _ => false) = true := by decide +kernel

/-- Lanes 0 and 1 enabled and up; the ring is region 0 of 4 MiB, and meadow 0 carries the transport. -/
def trn (f : Trn → Trn) : State :=
  { (mapped (onFn .opened) []) with
    heath := { (mapped (onFn .opened) []).heath with trn := ⟨3, 2, 0, 0, 0x0A000001, 0x2EC0, 0x2EC1⟩ },
    trn := f { Trn.zero with lanes := [(0, 2), (1, 2)] } }
/-- A mode of 16 by 2 pixels of 16 bits: 64 bytes a frame, one packet (R408). -/
def m16 : TrnMode := ⟨0x01100007, 16, 2, 1000, 1, 1, 256⟩
/-- A session in a state. -/
def session (st : TrnState) (out : Bool) (f : Trn → Trn) : State :=
  trn fun x => f { x with st := st, filmOut := out, session := 77, mode := m16, slots := 63, txSeq := 4 }
/-- A HELLO with one mode (R409), of a pixel format. -/
def hello (pixel width : Nat) : List Byte :=
  [0, 1] ++ List.replicate 14 0 ++ natToBytes 4 pixel ++ natToBytes 2 width ++ natToBytes 2 2 ++ natToBytes 4 1000 ++ natToBytes 2 1 ++ natToBytes 2 1
    ++ natToBytes 2 256 ++ List.replicate 14 0
theorem witness_TransportSessionsBeginAndEnd :
    (trn id).laneUp 0 = true ∧ (atStep 9 true).sxt.bootStep ≠ 11 ∧ (trn id).sxt.bootStep = 11 ∧ helloOk (hello 0x01100007 16) = true
    ∧ helloOk [0, 1] = false ∧ (session .running false id).trn.st ≠ .idle ∧ (session .running false id).trn.st ≠ .ended
    ∧ (trn id).trn.st = .idle ∧ (match (trn id).chooseMode (hello 0x01100007 16) with | .ok (i, m) => i == 0 && m == m16 | _ => false) = true
    ∧ (match (trn id).chooseMode (hello 1 16) with | .error c => c == Code.trnFormat | _ => false) = true
    ∧ (77 : Word).toNat = (session .running false id).trn.session ∧ (78 : Word).toNat ≠ (session .running false id).trn.session
    ∧ (session .pausing true id).trn.filmOut = true ∧ (session .pausing true id).trn.st = .pausing
    ∧ (session .running false id).trn.filmOut = false
    ∧ ((session .running false fun x => { x with reqs := [⟨4, [], 7⟩] }).trn.reqs.find? fun r => r.seq = (4 : Word).toNat) = some ⟨4, [], 7⟩
    ∧ (⟨4, [], 8⟩ : MmpReq).isRefuse = false ∧ goesOn (session .running false id) = true
    ∧ goesOn ((session .running false id).endSession 7) = true
    ∧ goesOn ((session .running false id).finishAll.updTrn fun x => { x with st := .paused, sending := false }) = true
    ∧ (session .running false id).laneUp 0 = true ∧ (session .running false id).trn.st ≠ .ended
    ∧ (session .running true id).trn.filmOut = true
    ∧ (match (trn id).chooseMode (hello 0x01100007 16) with
      | .ok (i, m) => goesOn ((trn id).acceptHello ⟨0, 1, 0⟩ (hello 0x01100007 16) i m) | _ => false) = true := by decide +kernel
/-- The session's number is never zero. -/
theorem test_hello : (match exec (.hello 0 ⟨0, 1, 0⟩ (hello 0x01100007 16)) (trn id) with
    | .next t => t.trn.st == .accepted && t.trn.slots == 63 | _ => false) = true := by decide +kernel

/-- An ingest that runs, with the frame of block 5 open. -/
def frame5 : TrnFrame := ⟨5, 0, 0, [], [], 1⟩
def ingest (hi : Option Nat) : State := session .running false fun x =>
  { x with frames := [frame5], nextCount := 1, hiLine := hi }
/-- HOST_COUNT in the ring header is 1, and PORT_COUNT 0: a frame is published. -/
def published (s : State) : State := s.updPkg fun g => { g with bytes := (0, 1) :: g.bytes }
theorem witness_TransportFramesArrive :
    Sparse.get 0 (trn id).trn.lanes 3 = 0 ∧ Sparse.get 0 (trn id).trn.lanes 1 ≠ 0 ∧ (trn id).laneUp 1 = true ∧ (trn id).laneUp 2 = false
    ∧ (0x0A000001 : Word).toNat = (trn id).heath.trn.ipv4 ∧ (trn id).trn.ingesting = false ∧ (ingest none).trn.ingesting = true
    ∧ (0x01100008 : Word).toNat ≠ m16.pixel ∧ (0x01100007 : Word).toNat = m16.pixel ∧ (16 : Word).toNat = m16.width
    ∧ (2 : Word).toNat = m16.height
    ∧ (session .running false id).trn.frames = []
    ∧ 5 ∉ (session .running false id).trn.finished ∧ 5 ∉ (session .running false id).trn.discarded
    ∧ goesOn (session .running false id) = true
    ∧ goesOn ((session .running false id).gvspIn (.leader 5 true 0x01100007 16 2)) = true
    ∧ goesOn ((session .running false fun x => { x with nextCount := 63 }).gvspIn (.leader 5 true 0x01100007 16 2)) = true
    ∧ goesOn ((ingest (some 3)).gvspIn (.payload 5 1 (List.replicate 64 0))) = true
    ∧ goesOn ((ingest none).gvspIn (.trailer 5 2)) = true
    ∧ 4 ∈ (session .running false fun x => { x with finished := [4] }).trn.finished ∧ (4 : Dword).toNat < frame5.block
    ∧ (∀ g ∈ (session .running false fun x => { x with discarded := [4] }).trn.frames, g.block ≠ 4)
    ∧ goesOn (ingest none).readHostCount = true
    ∧ (session .accepted true fun x => { x with runDue := true }).trn.portCount
      < (published (session .accepted true fun x => { x with runDue := true })).readHostCount.trn.hostCount
    ∧ goesOn (published (session .accepted true fun x => { x with runDue := true })).readHostCount.sendRun = true
    ∧ (session .running false id).readHostCount.trn.hostCount + (session .running false id).trn.slots - (session .running false id).trn.nextCount ≠ 0
    ∧ (session .running false fun x => { x with nextCount := 63 }).readHostCount.trn.hostCount + 63 - 63 = 0
    ∧ (1 : Word) ≠ 0 ∧ (1 : Word).toNat ≤ m16.packets
    ∧ (List.replicate 64 (0 : Byte)).length = min m16.packet (m16.frame - ((1 : Word).toNat - 1) * m16.packet)
    ∧ ¬ (2 : Word).toNat ≤ m16.packets ∧ (ingest (some 3)).trn.frames = [frame5] ∧ frame5.block = (5 : Dword).toNat
    ∧ frame5.next = (1 : Word).toNat
    ∧ (1 : Word).toNat ∉ frame5.got ∧ m16.lastLine 5 1 = 11 ∧ 3 < m16.lastLine 5 1 + 256
    ∧ max ((ingest (some 3)).trn.hiLine.getD 0) 11 < 5 * m16.height + m16.height - 1 + 256
    ∧ (5 : Dword).toNat ∉ (ingest (some 3)).trn.discarded ∧ (trn id).trn.st = .idle ∧ (ingest none).trn.st ≠ .idle
    ∧ (ingest none).trn.st ≠ .ended
    ∧ (ingest none).trn.runDue = false
    ∧ (session .accepted true fun x => { x with runDue := true }).trn.runDue = true := by decide +kernel
/-- A later packet of an open frame is late when its line's window has closed: two packets of a frame 300 lines high. -/
def tall : State := session .running false fun x =>
  { x with mode := { m16 with height := 300 }, frames := [frame5], nextCount := 1, hiLine := some 1764 }
theorem witness_TransportFramesArrive_late :
    let m := tall.trn.mode
    tall.trn.frames = [frame5] ∧ (1 : Word).toNat ≤ m.packets ∧ 256 = min m.packet (m.frame - ((1 : Word).toNat - 1) * m.packet)
    ∧ tall.trn.hiLine = some 1764 ∧ m.lastLine 5 1 + 256 ≤ 1764 ∧ 1764 < 5 * m.height + m.height - 1 + 256 := by decide +kernel
theorem witness_TransportRunsPausesAndSends :
    (trn id).trnPort 1 = false ∧ (trn id).trnPort 0 = true ∧ (trn id).trn.st ≠ .accepted ∧ (trn id).trn.st ≠ .paused
    ∧ (session .paused false id).trn.st = .paused ∧ (session .accepted true id).trn.filmOut = true
    ∧ (session .accepted true id).readHostCount.trn.hostCount ≤ (session .accepted true id).trn.portCount
    ∧ (session .accepted true id).trn.portCount < (published (session .accepted true id)).readHostCount.trn.hostCount
    ∧ (session .running true id).trn.st = .running ∧ (session .running true id).trn.sending = false
    ∧ (session .running true fun x => { x with sending := true }).trn.sending = true
    ∧ 0 + 1 ≠ m16.height ∧ (1 : Nat) ≠ 0 ∧ 1 + 1 = m16.height ∧ goesOn (session .accepted true id).readHostCount = true
    ∧ goesOn (published (session .accepted true id)).readHostCount.sendRun = true
    ∧ goesOn ((session .running false id).trnEnd 0) = true
    ∧ goesOn ((session .running true fun x => { x with sending := true }).sendLine 0) = true
    ∧ goesOn ((session .running true fun x => { x with sending := true, outLine := 1 }).sendLine 0) = true := by decide +kernel
/-- A frame that nothing has published goes out as a GAP frame, and PAUSE is sent (R422). -/
theorem test_gap_frame : (match exec (.lineSend 0) (session .running true fun x => { x with sending := true }) with
    | .next t => t.trn.st == .pausing && t.trn.outGap && t.trn.outLine == 1 && t.trn.outVoid == 1 | _ => false) = true := by decide +kernel

/-- Meadow 0 owns pipes 0 and 2, whose rings lie at 0x1000 and hold an entry. -/
def piped (j : Option CicJob) (en : Bool) (e : List Byte) : State :=
  let s := mapped ((onFn .opened).updMeadow 0 fun x => { x with cicRing := [(0, 4 * 2 ^ 48 + 0x1000 + en.toNat * 2 ^ 52)] })
    (((upFrom 0 64).map fun i => (0x201000 + i, e.getD i 0)).filter fun c => c.2 ≠ 0)
  (s.updPipe 0 fun x => { x with owner := some 0, job := j, seq := 1 }).updPipe 2 fun x => { x with owner := some 0, job := j }
/-- An entry for the expected SEQ, one whose reserved bytes are not zero, and an encode entry with 4,096 bytes of output. -/
def oddEntry : List Byte := natToBytes 4 1 ++ List.replicate 60 0xFF
def encEntry : List Byte := natToBytes 4 1 ++ [1, 0, 0, 0] ++ List.replicate 20 0 ++ natToBytes 4 4096 ++ List.replicate 32 0
/-- A context with a largest QP of 51, for pictures of no sample or of 64 by 64 samples. -/
def context (w : Nat) : List Byte :=
  [0x11, 93, 0, 1, 8, 0, 0, 0] ++ natToBytes 2 w ++ natToBytes 2 w ++ [0, 0, 51, 0] ++ List.replicate 368 0
/-- A job of a meadow whose memory is nowhere granted. -/
def job (w : Nat) (fallback : Bool) : CicJob :=
  ⟨0, encEntry, 0x1000, context w, [0, 30, 0xFF] ++ List.replicate 5 0 ++ List.replicate 8 0xFF ++ List.replicate 48 0, false, [], 0, fallback, false⟩
def coding (j : CicJob) : State :=
  ((onFn .opened).updPipe 0 fun x => { x with owner := some 0, job := some j }).updPipe 2 fun x => { x with owner := some 0, job := some j }

/-! Where no region is granted, no access of an agent reaches package memory, whatever its bytes. -/

theorem no_walk {s : State} (h : s.heath.regions = []) (m va : Nat) : ∃ c, s.walk none m va = (.error c, s) := by
  unfold State.walk
  split
  · exact ⟨_, rfl⟩
  · exact ⟨Code.notGranted, by simp [State.walkFrom, State.granted, h]⟩
/-- No region is granted, and a pipe's walker holds no leaf. -/
def Bare (n : Nat) (s : State) : Prop := s.heath.regions = [] ∧ (s.pipe n).leaves = []
theorem no_cicPut {s : State} {n : Nat} (h : Bare n s) (m va : Nat) (b : List Byte) : (s.cicPut n m va b).2 = s := by
  obtain ⟨c, e⟩ := no_walk h.1 m va
  have w : s.mwalk (some n) m va = (.error c, s) := by simp only [State.mwalk, h.2, List.find?_nil, e]
  unfold State.cicPut
  cases sectorsOf va b.length with
  | zero => rfl
  | succ k => unfold State.mwrite; rw [w]; split <;> rfl
theorem no_cicWrites {s : State} {n : Nat} (h : Bare n s) (m : Nat) (l : List (Nat × List Byte)) : (s.cicWrites n m l).2 = s := by
  have go : ∀ (l : List (Nat × List Byte)) (r : Res Bool), r.2 = s → (l.foldl (fun r a => match r with
      | (.error e, t) => (.error e, t)
      | (.ok f, t) =>
        match t.cicPut n m a.1 a.2 with
        | (.error e, u) => (.error e, u)
        | (.ok g, u) => (.ok (f || g), u)) r).2 = s := by
    intro l
    induction l with
    | nil => exact fun _ h => h
    | cons a l ih =>
      intro r k
      refine ih _ ?_
      match r, k with
      | (.error _, t), k => exact k
      | (.ok f, t), k =>
        subst k
        have w : (t.cicPut n m a.1 a.2).2 = t := no_cicPut h ..
        dsimp only
        split <;> rename_i q <;> rw [q] at w <;> exact w
  exact go l _ rfl
theorem cicDone_pkg {s : State} {n : Nat} (h : Bare n s) (j : CicJob) (c : Half) (r k f : Nat) :
    (s.cicDone n j c r k f).pkg = s.pkg := by
  have w (a : Nat) (b : List Byte) : (s.cicPut n j.meadow a b).2 = s := no_cicPut h ..
  unfold State.cicDone
  dsimp only
  rw [w, w]
  split
  · rename_i u e
    rw [State.updPipe_pkg]
    unfold State.hubNote at e
    split at e
    · cases e
    · split at e
      · cases e
      · injection e with e; subst e; rfl
  · rfl
theorem encEmit_pkg {s : State} {n : Nat} (h : Bare n s) (j : CicJob) (o : EncOutcome) : (s.encEmit n j o).pkg = s.pkg := by
  have w := no_cicWrites h j.meadow
  unfold State.encEmit
  dsimp only
  split <;> rename_i q <;> have v := congrArg Prod.snd q <;> rw [w] at v <;> dsimp only at v <;> subst v <;> exact cicDone_pkg h ..
theorem decEmit_pkg {s : State} {n : Nat} (h : Bare n s) (j : CicJob) (l : List Frame) (o : DecOutcome) :
    (s.decEmit n j l o).pkg = s.pkg := by
  have w := no_cicWrites h j.meadow
  unfold State.decEmit
  split
  · exact cicDone_pkg h ..
  · split
    · exact cicDone_pkg h ..
    · dsimp only
      split <;> rename_i q <;> have v := congrArg Prod.snd q <;> rw [w] at v <;> dsimp only at v <;> subst v <;> exact cicDone_pkg h ..
/-- Whatever the coder makes of an attempt or a unit, no request waits. -/
theorem witness_CicadaJobsAreTakenAndEnd_outcome (j k : CicJob) (o : EncOutcome) (l : List Frame) (d : DecOutcome) (fits : Bool) :
    (coding j).undelayed ((coding j).encEmit 0 j o)
    ∧ (coding j).undelayed (if fits = true then (coding j).encEmit 0 j o else (coding j).updPipe 0 fun x => { x with job := some k })
    ∧ (coding j).undelayed ((coding j).fresh.2.decEmit 2 k l d) := by
  have b0 : Bare 0 (coding j) := ⟨rfl, rfl⟩
  have e : (coding j).undelayed ((coding j).encEmit 0 j o) := undelayed_same (State.still_of_pkg (encEmit_pkg b0 ..))
  refine ⟨e, ?_, undelayed_same (State.still_of_pkg (decEmit_pkg (n := 2) ⟨rfl, rfl⟩ ..))⟩
  split
  · exact e
  · exact undelayed_same (State.still_of_pkg rfl)
theorem witness_CicadaJobsAreTakenAndEnd :
    (up.pipe 0).owner = none ∧ ((coding (job 0 false)).pipe 0).job = some (job 0 false)
    ∧ ((piped none true []).pipe 0).owner = some 0 ∧ ((piped none true []).pipe 0).job = none
    ∧ bitOf (((piped none false []).meadow 0).cicReg 0) 52 = false ∧ bitOf (((piped none true []).meadow 0).cicReg 0) 52 = true
    ∧ Sparse.get false (piped none true []).power.throttled 262 = false ∧ ((piped none true []).meadow 0).state ≠ .absent
    ∧ Sparse.get false ((piped none true []).updPower fun x => { x with throttled := [(262, true)] }).power.throttled 262 = true
    ∧ (match (piped none true oddEntry).cicRead true 0 0 2 (bitsOf (((piped none true oddEntry).meadow 0).cicReg 0) 47 0) 64 with
      | (.ok (bad, e), t) => !bad && fieldNat e 0 4 == 1 && goesOn ((t.updPipe 0 fun x =>
          { x with idx := (x.idx + 1) % 2 ^ bitsOf (((piped none true oddEntry).meadow 0).cicReg 0) 51 48, seq := x.seq + 1 }).cicTake 0 0 e 0x1000 bad)
      | _ => false) = true
    ∧ goesOn (piped none true oddEntry) = true ∧ ((piped none true oddEntry).updPipe 0 fun x => { x with leaves := [] }) = piped none true oddEntry
    ∧ (match (piped none true []).cicRead true 0 0 2 0x1000 64 with | (.ok (_, e), t) => fieldNat e 0 4 ≠ 1 && goesOn t | _ => false) = true
    ∧ (match (coding (job 0 false)).encReads 0 (job 0 false) with | (.ok i, t) => i.ctx == context 0 && t == coding (job 0 false) | _ => false) = true
    ∧ (match (coding (job 64 false)).encReads 0 (job 64 false) with
      | (.error c, t) => goesOn (coding (job 64 false)) && goesOn (if c = Code.uncorrectable then t.cicLost 0 (job 64 false) else t.cicFail 0 (job 64 false) c) | _ => false) = true
    ∧ (job 0 true).fallback = true ∧ (job 0 false).fallback = false
    ∧ placePictures (context 0) [] [] = some ⟨context 0, [], [], none, 0⟩
    ∧ placePictures (context 0) [] [⟨.frame [], [], [], 16, [], 0, ⟨0, false, false, false, 0⟩, []⟩] = none
    ∧ ((piped none true []).pipe 0).owner ≠ some 1
    ∧ (((piped none true []).meadow 0).cicReg 0) % 2 ^ 52 ≠ (5 * 2 ^ 48 + 2 ^ 52) % 2 ^ 52
    ∧ 4 ≤ bitsOf (10 * 2 ^ 48 + 2 ^ 52) 51 48 ∧ bitsOf (10 * 2 ^ 48 + 2 ^ 52) 51 48 ≤ 10
    ∧ (10 * 2 ^ 48 + 2 ^ 52) % 4096 = 0 := by decide +kernel
/-- A decode of an empty unit reads it and the marked entries of its pool, of which there are none. -/
def unit0 : CicJob := { job 0 false with entry := natToBytes 4 1 ++ List.replicate 60 0 }
theorem witness_CicadaJobsAreTakenAndEnd_decode :
    (match (coding unit0).cicGet 2 unit0.meadow (fieldNat unit0.entry 16 8) (fieldNat unit0.entry 24 4) with
      | (.ok (_, b), t) => b.isEmpty && (match t.decReads 2 unit0 (upFrom 0 16) with | (.ok _, w) => w == coding unit0 | _ => false)
      | _ => false) = true
    ∧ ((coding unit0).pipe 2).job = some unit0 ∧ fieldNat (context 0) 12 1 = 0 ∧ fieldNat (job 0 false).ctrl 1 1 ≤ 51
    ∧ fieldNat (context 0) 14 1 = 51 := by decide +kernel

/-- Readings of ten rails at their nominal voltages, with rail 7 at a voltage. -/
def readings (v : Half) : List RailReading :=
  (([800, 800, 800, 800, 750, 800, 800] ++ [v] ++ [850, 1800]).map fun u => ⟨u, 100, 0, false⟩)
/-- Base tussock 1 of meadow 0 may gate, or is gated. -/
def gating (on : Bool) : State :=
  { (mdw .ready id) with heath := { (mdw .ready id).heath with autogate := [(1, true)] } }.updBase 1 fun b => { b with gated := on, idleGate := on }
theorem witness_PowerAndTemperatureAreHeld :
    let breach (l : List RailReading) : Bool := (upFrom 0 10).any fun i => railBreaks i (l.getD i ⟨0, 0, 3, false⟩)
    up.sxt.power = true ∧ (readings 750).length = 10 ∧ breach (readings 734) = true ∧ breach (readings 735) = false ∧ breach (readings 765) = false
    ∧ breach (readings 766) = true ∧ State.reset.sxt.power = false ∧ 400 ≤ up.part.watts ∧ (399 : Nat) < 400
    ∧ up.part.watts < up.part.watts + 1
    ∧ up.sxt.fwRunning = true ∧ up.sxt.lockstep = false ∧ (gating false).gateOk 1 = true ∧ (gating false).meadowOfBase 1 = some 0
    ∧ (gating true).gateOk 1 = false ∧ ((gating true).base 1).gated = true ∧ ((gating true).base 1).idleGate = true
    ∧ 1520 ≤ (1520 : BitVec 16).toInt ∧ (1472 : BitVec 16).toInt ≤ 1472 ∧ 1760 ≤ (1760 : BitVec 16).toInt
    ∧ (0xFF00 : BitVec 16).toInt < 1760
    ∧ Sparse.get false up.power.stretched 4 = false
    ∧ Sparse.get false (up.updPower fun x => { x with stretched := [(4, true)] }).power.stretched 4 = true
    ∧ jtagHolds up.jtag = false ∧ jtagHolds (.extest 0 0) = true ∧ up.life ≠ .vendorTest
    ∧ (up.updSxt fun x => { x with lcBits := 1 }).life = .vendorTest ∧ (upFrom 0 10).all (fun i => !(up.rail i).fault) = true
    ∧ ((up.updRail 6 fun x => { x with controlled := true }).rail 6).controlled = true := by decide +kernel
/-- The hub's cap counts down from the target once per sample over it (R520). -/
theorem test_cap : (Power.enforce { State.reset.power with cap := 400 } 4000001).target = 575
    ∧ (Power.enforce { State.reset.power with cap := 400 } 4000000).target = 600 := by decide +kernel
theorem witness_RegistersReadAndWrite :
    (0x20104 : BitVec 24).toNat % 8 = 4 ∧ (0x20102 : BitVec 24).toNat % 4 ≠ 0 ∧ (tdi .locked true).untrusted 0 3 true = true
    ∧ (onFn .opened).bar0Untrusted 0 3 0x20104 true = false ∧ (onFn .opened).untrusted 0 3 false = false
    ∧ (onFn .opened).fnMeadow 0 3 = some 0
    ∧ (3 : FnIx).val ≠ 0 ∧ up.fnMeadow 0 3 = none := by decide +kernel
/-- An aligned access of two bytes has no effect (R528). -/
theorem test_register_width :
    (match exec (.registerWrite 0 0 0x160098 2 5 false) up with | .next t => t.power.tempSel | _ => 9) = 0
    ∧ (match exec (.registerWrite 0 0 0x160098 8 5 false) up with | .next t => t.power.tempSel | _ => 9) = 5 := by decide +kernel
theorem witness_OnlyARailBreachStopsTheBlock :
    (match step { up with pending := [.powerSample (readings 734)] } with | .fault .railBreach => true | _ => false) = true := by decide +kernel
theorem witness_IdleStep : up.pending = [] ∧ up.life ≠ .retired := by decide +kernel
theorem witness_MemoryFusesAndQueueAreKept :
    (match step { up with pending := [.sectorWrite (.agent 0) 0x20101F [9], .gate 1] } with
      | .next t => t.pending == [.gate 1] && t.tick == up.tick | _ => false) = true := by decide +kernel

/-- A copy of core 5 to core 6, its answer, and a lookup of core 5. -/
def copied (a : Option Bool) (g : Half) : State :=
  (owned (at5 { busy 4 (op2 (line [0x10004])) with gen := g, rcopies := [⟨0, none, 0, 6, 6, 0, .xy, false, [(64, [7])], false, a⟩], lookup := .pending [] }) .opened).updBase 1
    fun b => { b with gated := false, lookupQ := [5] }
theorem witness_RemoteCopiesAndLookups :
    let r : RCopy := ⟨0, none, 0, 6, 6, 0, .xy, false, [(64, [7])], false, none⟩
    ((copied none 0).core 5).rcopies = [r] ∧ r.answer = none ∧ (copied none 0).dropAt r.dst r.site r.gen = none
    ∧ ((copied none 0).updBase 1 fun b => { b with gated := true }).dropAt r.dst r.site r.gen = some .gated
    ∧ ((copied (some false) 0).core 5).rcopies = [{ r with answer := some false }] ∧ r.igen = ((copied (some false) 0).core 5).gen
    ∧ r.igen ≠ ((copied (some false) 1).core 5).gen ∧ r.relay = none
    ∧ ((copied (some false) 0).core 5).engq 4 = [op2 (line [0x10004])]
    ∧ (op2 (line [0x10004])).started = true ∧ (op2 (line [0x10004])).seq = r.seq ∧ (op2 (line [0x10004])).err = 0
    ∧ lineBits (op2 (line [0x10004])).desc 0 4 4 = 0 ∧ ((copied none 0).base 1).lookupQ = [5]
    ∧ ((copied none 0).core 5).lookup = .pending []
    ∧ lookupOk [] = false ∧ { r with writes := [] }.writes = [] ∧ ((copied none 0).core 5).engq 4 = [op2 (line [0x10004])]
    ∧ (running.engq 4).any (fun o => o.seq == r.seq) = false ∧ lineBits (line [0x10014]) 0 4 4 = 1
    ∧ (((copied none 0).updBase 1 fun x => { x with lookupQ := [] }).lookup 5 0 []).2.pkg.barred = (copied none 0).pkg.barred
    ∧ (((copied none 0).updBase 1 fun x => { x with lookupQ := [] }).lookup 5 0 []).2.pkg.blocked = (copied none 0).pkg.blocked := by
  decide +kernel
theorem test_remote_write : (coreAfter (exec (.remoteWrite 5) (copied none 0)) 6).near = [(64, 7)] := by decide +kernel

/-! Terms that are not well formed: one for each check. -/

def rail0 : RailReading := ⟨800, 0, 0, false⟩
theorem test_ill_formed :
    ([.bistComplete 1 [⟨0, 0, false⟩, ⟨0, 0, true⟩] false, .sectorWrite (.agent 0) 0 [], .sectorWrite (.agent 0) 31 [1, 2],
      .bar2Read 0 3 ⟨.bar2, 0⟩ 0 false, .bar2Write 0 3 0 [] false, .bar2Write 0 3 0 (List.replicate 513 0) false, .doorbell 0 3 0 [] false,
      .linkTraining 0 0 8 false false, .linkTraining 0 6 3 false false, .powerSample (List.replicate 9 rail0),
      .registerWrite 0 0 0 0 0 false, .readClear 0 0 0 0 false,
      .collectiveComplete 0 [side 0 false, side 0 true]] : List Instr).all (fun i => !i.wellFormed) = true := by decide +kernel
theorem test_well_formed :
    ([.bar2Read 0 3 ⟨.bar4, 0⟩ 4096 false, .bar2Write 0 3 0 (List.replicate 512 0) false, .linkTraining 0 6 4 false false, .powerSample (List.replicate 10 rail0),
      .registerWrite 0 0 4 4 0 false, .readClear 0 0 2 1 false, .sectorWrite (.agent 0) 31 [1]] : List Instr).all (·.wellFormed) = true := by decide +kernel
/-- The table gives no row any bits, so no word spells a command. -/
theorem test_no_word_spells_a_command : decodeTableWord 16 0x1234 = none ∧ up.withFetchWord 16 0x1234 = up := ⟨rfl, rfl⟩

end Sys2Proof.Tests
end

/-!
What a refused engine issue does: its status in g[DST], the next instruction, and nothing else (R8, R99, R105).
-/

namespace Sys2Proof.Machine

open Sys2Proof

/-! Steps 1 and 2 of R105. -/

section

variable {c : Core} {e : Nat} {f : Fields} {d : Line}

theorem issueHead_tokenBusy (ht : c.token f.tok.toNat ≠ .free) : issueHead c e f d = some Code.tokenBusy := by
  simp [issueHead, firstFail, firstSome, need, ht]

theorem issueHead_engine (ht : c.token f.tok.toNat = .free) (he : lineBits d 0 3 0 ≠ e) :
    issueHead c e f d = some Code.engine := by
  simp [issueHead, firstFail, firstSome, need, ht, he]

theorem issueHead_passes (ht : c.token f.tok.toNat = .free) (he : lineBits d 0 3 0 = e) : issueHead c e f d = none := by
  simp [issueHead, firstFail, firstSome, need, ht, he]

end

/-! The bodies of the issues, where they refuse. -/

section

variable {s : State} {n : Nat} {f : Fields} {code : Half}

/-- A core that issues is not held, so that an instruction's release of it adds nothing to its status. -/
theorem State.release_status (h : s.issues n) :
    (s.release n).status n f code = s.nextWith n fun k => k.setG f.dst.toNat (code.setWidth 64) := by
  obtain ⟨hrun, hpc⟩ := h
  rw [State.release_run (Core.issuing_run hrun)]
  exact State.status_updCore (f := id) hpc fun _ => rfl

theorem issueBody_head {e : Nat} {op : HeldOp} {check : State → Nat → Line → Option Half} (h : s.issues n)
    (hh : issueHead (s.core n) e f ((s.core n).dr f.sa.toNat) = some code) :
    issueBody e op check n f s = s.nextWith n fun k => k.setG f.dst.toNat (code.setWidth 64) := by
  simp only [issueBody, hh, State.release_status h]

/-- The check comes before the look at the engine's queue (log entry 25). -/
theorem issueBody_check {e : Nat} {op : HeldOp} {check : State → Nat → Line → Option Half} (h : s.issues n)
    (hh : issueHead (s.core n) e f ((s.core n).dr f.sa.toNat) = none)
    (hc : check s n ((s.core n).dr f.sa.toNat) = some code) :
    issueBody e op check n f s = s.nextWith n fun k => k.setG f.dst.toNat (code.setWidth 64) := by
  simp only [issueBody, hh, hc, State.release_status h]

theorem mmBody_head (h : s.issues n) (hh : issueHead (s.core n) 1 f ((s.core n).dr f.sa.toNat) = some code) :
    mmBody n f s = s.nextWith n fun k => k.setG f.dst.toNat (code.setWidth 64) := by
  simp only [mmBody, hh, State.release_status h]

end

/-! The instructions, where they refuse. -/

/-- An MM that is refused before its bound read has made no request that could wait. -/
theorem execMm_head {s : State} {c : CoreIx} {f : Fields} {code : Half} (h : s.issues c) (hl : issueLegal f = true)
    (hw : s.spells c 0x40 f) (hh : issueHead (s.core c) 1 f ((s.core c).dr f.sa.toNat) = some code) :
    execMm c f s = .next (s.nextWith c fun k => k.setG f.dst.toNat (code.setWidth 64)) := by
  rw [execMm, State.cu_legal h.1 hw hl, mmBody_head h hh]
  exact attempt_same _ (State.still_of_pkg rfl)

/-- What VX, SF, CP, GA and NZ refuse, in the order of R105: each is `issueBody` with its engine and its check. -/
theorem cu_issueBody_refused {s : State} {n : Nat} {f : Fields} (h : s.issues n) (hl : issueLegal f = true) (w : BitVec 8)
    (e : Nat) (op : HeldOp) (check : State → Nat → Line → Option Half) :
    let d := (s.core n).dr f.sa.toNat
    let issue : Out := s.cu n w f (issueLegal f) (issueBody e op check n f)
    let out (code : Half) : Out := .next (s.nextWith n fun k => k.setG f.dst.toNat (code.setWidth 64))
    (s.spells n w f →
      ((s.core n).token f.tok.toNat ≠ .free → issue = out Code.tokenBusy)
      ∧ ((s.core n).token f.tok.toNat = .free → lineBits d 0 3 0 ≠ e → issue = out Code.engine))
    ∧ (s.spells n w f → (s.core n).token f.tok.toNat = .free → lineBits d 0 3 0 = e →
      ∀ code, check s n d = some code → issue = out code) := by
  intro d issue out
  have runs (hw : s.spells n w f) : issue = .next (issueBody e op check n f s) := State.cu_legal h.1 hw hl
  refine ⟨fun hw => ⟨fun ht => ?_, fun ht he => ?_⟩, fun hw ht he code hc => ?_⟩
  · exact (runs hw).trans (congrArg _ (issueBody_head h (issueHead_tokenBusy ht)))
  · exact (runs hw).trans (congrArg _ (issueBody_head h (issueHead_engine ht he)))
  · exact (runs hw).trans (congrArg _ (issueBody_check h (issueHead_passes ht he) hc))

/-- Settles O17: MM by steps 1 and 2 alone, the other five by the body that they share. -/
theorem engineIssueRefused : Obligations.EngineIssueRefused := by
  unfold Obligations.EngineIssueRefused
  intro c f s h hl
  refine ⟨fun hw => ⟨fun ht => ?_, fun ht he => ?_⟩, ?_, ?_, ?_, ?_, ?_⟩
  · exact execMm_head h hl hw (issueHead_tokenBusy ht)
  · exact execMm_head h hl hw (issueHead_engine ht he)
  · exact cu_issueBody_refused h hl 0x41 2 .vx fun _ _ d => vxCheck d
  · exact cu_issueBody_refused h hl 0x42 3 .sf fun _ _ d => sfCheck d
  · exact cu_issueBody_refused h hl 0x43 4 .cp cpCheck
  · exact cu_issueBody_refused h hl 0x44 5 .ga fun _ _ d => gaCheck d
  · exact cu_issueBody_refused h hl 0x45 6 .nz fun _ _ d => nzCheck d

end Sys2Proof.Machine

/-!
How a message is injected, arrives, is answered and resent (R334 to R341).
-/

namespace Sys2Proof.Machine

open Sys2Proof

/-- A command none of whose requests waits has its effect, its deltas no longer its own. -/
theorem attempt_next {s t : State} (c : Instr) (b : t.pkg.barred = s.pkg.barred) (k : t.pkg.blocked = s.pkg.blocked) :
    s.attempt c (.next t) = .next (s.sentFrom t) := by
  rw [State.attempt, orHold_next c b k]

/-! An interface's messages are no part of package memory or of a meadow. -/

section

variable (s : State) (i : Iface)

@[simp] theorem State.setMsgs_pkg (w u : List Msg) : (s.setMsgs i w u).pkg = s.pkg := by cases i <;> rfl

@[simp] theorem State.setMsgs_meadowOf (w u : List Msg) (n : Nat) : (s.setMsgs i w u).meadowOf n = s.meadowOf n := by
  cases i <;> rfl

@[simp] theorem State.markMsg_pkg (q : Nat) (was st : MsgSt) : (s.markMsg i q was st).pkg = s.pkg := State.setMsgs_pkg ..

@[simp] theorem State.markMsg_meadowOf (q : Nat) (was st : MsgSt) (n : Nat) :
    (s.markMsg i q was st).meadowOf n = s.meadowOf n := State.setMsgs_meadowOf ..

end

/-! Which waiting message is injected (R340, R390; log entry 20). -/

theorem hasPlace_taken {l : List Msg} {m : Msg} (h : ∃ u ∈ l, u.global = m.global) : hasPlace l m = false := by
  obtain ⟨u, hu, e⟩ := h
  have hall : (l.all fun u => u.global ≠ m.global) = false := by
    rw [List.all_eq_false]; exact ⟨u, hu, by simp [e]⟩
  rw [hasPlace, hall, Bool.false_and]

theorem hasPlace_free {l : List Msg} {m : Msg} (h : ∀ u ∈ l, u.global ≠ m.global)
    (room : m.kind ≠ 2 ∨ (l.filter fun u => u.kind = 2 && u.origin = m.origin).length < 256) : hasPlace l m = true := by
  have hall : (l.all fun u => u.global ≠ m.global) = true := by simpa using h
  rw [hasPlace, hall, Bool.true_and]
  simpa using room

/-- The first message with a place goes, where those before it have none. -/
theorem pickMsg_first {late : Msg → Bool} {l pre post : List Msg} {m : Msg} (hpre : ∀ x ∈ pre, ∃ u ∈ l, u.global = x.global)
    (place : hasPlace l m = true) (now : late m = false) : pickMsg late l (pre ++ m :: post) = some (m, pre ++ post) := by
  induction pre with
  | nil => simp [pickMsg, place, now]
  | cons x r ih =>
    have hx : hasPlace l x = false := hasPlace_taken (hpre x (by simp))
    have hr := ih fun y hy => hpre y (by simp [hy])
    simp [pickMsg, hx, hr]

/-- Only a doorbell waits for a BAR2 write (R391). -/
theorem State.behindWrite_other {s : State} {m : Msg} (h : m.kind ≠ 2) : s.behindWrite m = false := by
  simp [State.behindWrite, h]

/-! Injection (R115, R334, R340). -/

/-- The messages of its present generation that a core has injected and that are unacknowledged (R340). -/
def Core.mine (c : Core) : List Msg := c.unacked.filter fun u => u.igen == c.gen

/-- A core whose message `m` has gone, `rest` being those that still wait; its token or copy has not gone on yet. -/
def State.injected (s : State) (c : CoreIx) (m : Msg) (rest : List Msg) : State :=
  s.updCore c fun n => { n with sendq := rest, unacked := n.unacked ++ [s.resolve (.core c) m] }

section

variable {s : State} {c : CoreIx} {m : Msg} {rest : List Msg} {k : Nat}
  (free : (s.core c).stopped = false) (few : (s.core c).mine.length < 16)
  (pick : pickMsg s.behindWrite (s.core c).mine (s.core c).sendq = some (m, rest))

include free few pick

/-- A core that may inject, injects the message picked. -/
theorem execMessageInject_core : execMessageInject (.core c) s = s.attempt (.messageInject (.core c)) (.next (
    let t := match m.cp with
      | some k => (s.injected c m rest).updSeqOp c 4 k fun o => { o with noted := true }
      | none => s.injected c m rest
    match m.tok with | some k => t.tokenDone c k Code.ok | none => t)) := by
  have go : ¬ (!s.mayInject (.core c) ∨ ((Iface.core c) ≠ .hub ∧ 16 ≤ (s.core c).mine.length)) := by
    simpa [State.mayInject, free] using few
  unfold execMessageInject
  refine congrArg (fun t => s.attempt _ (.next t)) ((if_neg go).trans ?_)
  change (match pickMsg s.behindWrite (s.core c).mine (s.core c).sendq with | none => _ | some (m, r) => _) = _
  rw [pick]
  rfl

/-- The token of a SEND becomes DONE. -/
theorem execMessageInject_token (ht : m.tok = some k) (hc : m.cp = none) : execMessageInject (.core c) s
    = s.attempt (.messageInject (.core c)) (.next ((s.injected c m rest).tokenDone c k Code.ok)) := by
  rw [execMessageInject_core free few pick, ht, hc]

/-- The note of a copy counts as sent. -/
theorem execMessageInject_note (ht : m.tok = none) (hc : m.cp = some k) : execMessageInject (.core c) s
    = s.attempt (.messageInject (.core c))
        (.next ((s.injected c m rest).updSeqOp c 4 k fun o => { o with noted := true })) := by
  rw [execMessageInject_core free few pick, ht, hc]

end

/-- The hub injects the doorbell picked. -/
theorem execMessageInject_hub {s : State} {m : Msg} {rest : List Msg}
    (pick : pickMsg s.behindWrite s.hub.unacked s.hub.doorbells = some (m, rest)) : execMessageInject .hub s
      = .next (s.updHub fun h => { h with doorbells := rest, unacked := h.unacked ++ [s.resolve .hub m] }) := by
  have all : ((s.unacked .hub).filter fun _ => true) = s.hub.unacked := List.filter_eq_self.mpr fun _ _ => rfl
  have go : ¬ (!s.mayInject .hub ∨ (Iface.hub ≠ .hub ∧ 16 ≤ s.hub.unacked.length)) := by simp [State.mayInject]
  refine Eq.trans ?_ (attempt_same (s := s) (.messageInject .hub) (State.still_of_pkg rfl))
  refine congrArg (fun t => s.attempt _ (.next t)) ?_
  simp only [all]
  refine (if_neg go).trans ?_
  change (match pickMsg s.behindWrite s.hub.unacked s.hub.doorbells with | none => _ | some (m, r) => _) = _
  rw [pick]
  rfl

/-! Arrival (R28, R338, R339). -/

section

variable {s : State} {i : Iface} {q : QueueIx} {m : Msg}

/-- The entry of a message behind the last of its queue. -/
def State.enqueued (s : State) (q : QueueIx) (m : Msg) : State :=
  let r := (s.core m.dst).ring m.queue
  s.updCore m.dst fun c =>
    (c.nearWrite (s.queueRing q + 64 * ((r.head + r.count) % s.queueDepth q)) (lineBytes m.entry)).setRing m.queue
      ⟨r.head, r.count + 1⟩

variable (flies : s.findMsg i q (· == .flying) = some m)

include flies

theorem execMessageArrival_drop {w : DropWhy} (hd : s.dropAt m.dst m.site m.gen = some w) :
    execMessageArrival i q s = .next ((s.countDrop w).markMsg i q .flying .dropped) := by
  simp only [execMessageArrival, flies, hd]
  exact attempt_same _ (State.still_of_pkg (State.markMsg_pkg ..))

theorem execMessageArrival_accept (hd : s.dropAt m.dst m.site m.gen = none)
    (room : ((s.core m.dst).ring m.queue).count < s.queueDepth q) : execMessageArrival i q s
      = s.attempt (.messageArrival i q) (.next (((s.enqueued q m).markMsg i q .flying .accepted).offer m.dst)) := by
  simp only [execMessageArrival, flies, hd, if_pos room]
  rfl

theorem execMessageArrival_bounce {w : Nat} (hd : s.dropAt m.dst m.site m.gen = none)
    (full : s.queueDepth q ≤ ((s.core m.dst).ring m.queue).count) (hw : s.meadowOf m.dst = some w) :
    execMessageArrival i q s
      = .next ((s.markMsg i q .flying .bounced).updMeadow w fun x => { x with bounces := satInc x.bounces }) := by
  simp only [execMessageArrival, flies, hd, if_neg (Nat.not_lt.mpr full), State.markMsg_meadowOf, hw]
  exact attempt_same _ (State.still_of_pkg (State.markMsg_pkg ..))

end

/-! The answer (R339, R340, R484). -/

/-- The message of a core to a queue, in a state, is taken away. -/
def State.dismissed (s : State) (c : CoreIx) (q : QueueIx) (st : MsgSt) : State :=
  s.updCore c fun n => { n with unacked := eraseFirst (fun x => x.global = q && x.st = st) n.unacked }

/-- What an answer does at a core's interface. -/
theorem execMessageResponse_core {s : State} {c : CoreIx} {q : QueueIx} {m : Msg}
    (answered : s.findMsg (.core c) q (fun st => st == .accepted || st == .dropped || st == .bounced) = some m) :
    execMessageResponse (.core c) q s = .next (
      if m.igen ≠ (s.core c).gen then (s.dismissed c q m.st).updHub fun h => { h with lateDrops := satInc h.lateDrops }
      else if m.st = .bounced then s.markMsg (.core c) q .bounced .held else s.dismissed c q m.st) := by
  have gone : s.setMsgs (.core c) (s.waiting (.core c))
      (eraseFirst (fun x => x.global = q && x.st = m.st) (s.unacked (.core c))) = s.dismissed c q m.st := rfl
  simp only [execMessageResponse, answered, gone, bne_iff_ne, reduceCtorEq, and_false, if_false]

/-! Another try (R341). -/

section

variable {s : State} {i : Iface} {q : QueueIx} {m : Msg} (held : s.findMsg i q (· == .held) = some m)

include held

theorem execMessageResend_flies (may : s.mayInject i = true) (stays : s.abandoned i m = false) :
    execMessageResend i q s = .next (s.markMsg i q .held .flying) := by
  simp [execMessageResend, may, held, stays]

theorem execMessageResend_waits (h : s.mayInject i = false ∨ s.abandoned i m = true) : execMessageResend i q s = .next s := by
  rcases h with no | gone
  · simp [execMessageResend, no]
  · simp [execMessageResend, held, gone]

end

/-- Settles O29, command by command. -/
theorem messagesInjectedDeliveredAndAnswered : Obligations.MessagesInjectedDeliveredAndAnswered := by
  unfold Obligations.MessagesInjectedDeliveredAndAnswered
  intro i c q m pre post s sent mine goes
  refine ⟨?inject, ?ring, ?arrive, ?answer, ?resend⟩
  case inject =>
    intro free few waits hpre new kind k fly t
    have pick : pickMsg s.behindWrite (s.core c).mine (s.core c).sendq = some (m, pre ++ post) := by
      rw [waits]
      exact pickMsg_first hpre (hasPlace_free new (.inl kind)) (State.behindWrite_other kind)
    refine ⟨fun k ht hc hb hk => ?_, fun k ht hc hb hk => ?_⟩
    · exact (execMessageInject_token free few pick ht hc).trans (attempt_next _ hb hk)
    · exact (execMessageInject_note free few pick ht hc).trans (attempt_next _ hb hk)
  case ring =>
    intro waits hpre new now few
    refine execMessageInject_hub ?_
    rw [waits]
    exact pickMsg_first hpre (hasPlace_free new (.inr few)) now
  case arrive =>
    intro flies r
    refine ⟨fun w hd => ?_, fun hd room hb hk => ?_, fun w hd full hw => ?_⟩
    · exact execMessageArrival_drop flies hd
    · exact (execMessageArrival_accept flies hd room).trans (attempt_next _ hb hk)
    · exact execMessageArrival_bounce flies hd full hw
  case answer =>
    intro answered gone
    have run := execMessageResponse_core answered
    refine ⟨fun old => ?_, fun now st => ?_, fun now st => ?_⟩
    · exact run.trans (congrArg _ (if_pos old))
    · exact run.trans (congrArg _ ((if_neg fun old => old now).trans (if_neg st)))
    · exact run.trans (congrArg _ ((if_neg fun old => old now).trans (if_pos st)))
  case resend =>
    intro held
    exact ⟨execMessageResend_flies held, execMessageResend_waits held⟩

end Sys2Proof.Machine

/-!
Power samples, set points, gating, thermal limits and the JTAG port (R508 to R526).
-/

namespace Sys2Proof.Machine

open Sys2Proof

/-! What a sample makes of a rail (R514 to R517). -/

/-- The reading of a rail in a sample is a breach of R514 where `railsBreak` finds one. -/
theorem railsBreak_iff (l : List RailReading) :
    railsBreak l = true ↔ ∃ i, i < 10 ∧ railBreaks i (railReading l i) = true := by
  simp [railsBreak, mem_upFrom]

theorem Rail.read_eq (x : Rail) (r : RailReading) : x.read r =
    if x.fault = true ∨ r.misses.val = 3 ∨ r.fault = true then ⟨x.mv, 0, 0, false, true, Code.pwrRail⟩
    else ⟨x.mv, r.volts.toNat, r.amps.toNat, true, false, Code.ok⟩ := by
  have silent : (!railAnswers r) = true ↔ r.misses.val = 3 := by
    have := r.misses.isLt
    simp only [railAnswers, Bool.not_eq_true', decide_eq_false_iff_not]; omega
  unfold Rail.read
  simp only [silent]
  rfl

@[simp] theorem State.sampleOnce_power (s : State) (k : Nat) : (s.sampleOnce k).power = s.power := by
  unfold State.sampleOnce; split <;> simp only [State.pmbus, State.emit_power]

@[simp] theorem State.takeRail_power (s : State) (k : Nat) : (s.takeRail k).power = s.power := by
  unfold State.takeRail; dsimp only; split <;> simp only [State.pmbus, State.emit_power]

/-- However often it is attempted, a sample's transactions leave the rails as they were. -/
theorem State.attempts_power (k : Nat) (l : List Nat) (s : State) :
    (l.foldl (fun t _ => t.sampleOnce k) s).power = s.power := by
  induction l generalizing s with
  | nil => rfl
  | cons _ r ih => exact (ih _).trans (sampleOnce_power s k)

theorem State.rail_of_power {s t : State} (h : t.power = s.power) (i : Nat) : t.rail i = s.rail i := by
  unfold State.rail; rw [h]

/-- A sample of one rail changes that rail's registers alone. -/
theorem State.sampleRail_rail (s : State) (k : Nat) (r : RailReading) (i : Nat) :
    (s.sampleRail k r).rail i = if k = i then (s.rail k).read r else s.rail i := by
  have tried := State.rail_of_power (State.attempts_power k (upFrom 0 (min 3 (r.misses.val + 1))) s)
  unfold State.sampleRail
  dsimp only
  split
  · rw [State.rail_of_power (takeRail_power ..), State.updRail_rail, tried, tried]
  · rw [State.updRail_rail, tried, tried]

/-- A sample of several rails, each named once. -/
theorem State.sampleRails_rail (f : Nat → RailReading) (i : Nat) (l : List Nat) (once : l.Nodup) (s : State) :
    (l.foldl (fun t k => t.sampleRail k (f k)) s).rail i = if i ∈ l then (s.rail i).read (f i) else s.rail i := by
  induction l generalizing s with
  | nil => rfl
  | cons k r ih =>
    obtain ⟨new, once⟩ := List.nodup_cons.mp once
    refine (ih once _).trans ?_
    rw [State.sampleRail_rail]
    by_cases hk : k = i
    · subst hk; simp [new]
    · simp [hk, Ne.symm hk]

/-! Set points (R512, R515). -/

/-- Sexton sets this rail: it is an AVS rail, and under control. -/
def State.sets (s : State) (k : Nat) : Bool := (avsOf k).isSome && (s.rail k).controlled

theorem State.setRail_rail (s : State) (k i : Nat) :
    (s.setRail k).rail i = if k = i ∧ s.sets k = true then { s.rail i with mv := s.setPoint i } else s.rail i := by
  unfold State.setRail State.sets
  dsimp only
  split
  next b z hz =>
    split
    next h =>
      rw [State.emit_rail, State.updRail_rail]
      by_cases hk : k = i
      · subst hk; simp_all
      · simp [hk]
    next h =>
      split
      next hi =>
        obtain ⟨rfl, hi⟩ := hi
        have same : (s.rail k).mv = s.setPoint k := by simp_all
        rw [← same]
      next => rfl
  next hz => simp [hz]

/-- `t` is `s` but for registers of rails and what is sent out. -/
def State.RailsOnly (s t : State) : Prop := ∃ r o, t = { s with power := { s.power with rails := r }, out := o }

theorem State.RailsOnly.trans {s t u : State} (a : s.RailsOnly t) (b : t.RailsOnly u) : s.RailsOnly u := by
  obtain ⟨_, _, rfl⟩ := a
  obtain ⟨r, o, rfl⟩ := b
  exact ⟨r, o, rfl⟩

namespace State.RailsOnly

variable {s t : State} (h : s.RailsOnly t)

include h

theorem bases : t.bases = s.bases := by obtain ⟨_, _, rfl⟩ := h; rfl
theorem heath : t.heath = s.heath := by obtain ⟨_, _, rfl⟩ := h; rfl
theorem sxt : t.sxt = s.sxt := by obtain ⟨_, _, rfl⟩ := h; rfl
theorem target : t.power.target = s.power.target := by obtain ⟨_, _, rfl⟩ := h; rfl
theorem temps : t.power.temps = s.power.temps := by obtain ⟨_, _, rfl⟩ := h; rfl
theorem thermtrip : t.power.thermtrip = s.power.thermtrip := by obtain ⟨_, _, rfl⟩ := h; rfl

/-- Of the rails, a set point asks only which are at fault. -/
theorem setPoint (fault : ∀ i, (t.rail i).fault = (s.rail i).fault) (k : Nat) : t.setPoint k = s.setPoint k := by
  have base (b : Nat) : t.base b = s.base b := by unfold State.base; rw [h.bases]
  have mhz : t.coreMhz = s.coreMhz := by
    funext n; unfold State.coreMhz; rw [h.heath, h.sxt, h.target, base, fault]
  have mv : t.baseMv = s.baseMv := by
    funext b; unfold State.baseMv; rw [h.heath, mhz]
  unfold State.setPoint
  simp only [base, mv]

end State.RailsOnly

theorem State.setRail_only (s : State) (k : Nat) : s.RailsOnly (s.setRail k) := by
  unfold State.setRail
  dsimp only
  split
  · split
    · exact ⟨_, _, rfl⟩
    · exact ⟨_, _, rfl⟩
  · exact ⟨_, _, rfl⟩

theorem State.setRail_sets (s : State) (k i : Nat) : (s.setRail k).sets i = s.sets i := by
  unfold State.sets
  rw [State.setRail_rail]
  split <;> rfl

theorem State.setRail_setPoint (s : State) (k i : Nat) : (s.setRail k).setPoint i = s.setPoint i := by
  refine (s.setRail_only k).setPoint (fun j => ?_) i
  rw [setRail_rail]
  split <;> rfl

/-- After the rails of a list have been set, those that Sexton sets stand at the set points they had before. -/
theorem State.setList_rail (i : Nat) (l : List Nat) (s : State) : (l.foldl State.setRail s).rail i =
    if i ∈ l ∧ s.sets i = true then { s.rail i with mv := s.setPoint i } else s.rail i := by
  induction l generalizing s with
  | nil => simp
  | cons k r ih =>
    refine (ih _).trans ?_
    rw [setRail_sets, setRail_setPoint, setRail_rail]
    by_cases hs : s.sets i = true
    · by_cases hk : k = i
      · subst hk; simp [hs]
      · simp [hk, Ne.symm hk]
    · have : ¬ (k = i ∧ s.sets k = true) := by rintro ⟨rfl, h⟩; exact hs h
      simp [hs, this]

theorem State.setList_only (l : List Nat) (s : State) : s.RailsOnly (l.foldl State.setRail s) := by
  induction l generalizing s with
  | nil => exact ⟨_, _, rfl⟩
  | cons k r ih => exact (setRail_only s k).trans (ih _)

theorem State.setRails_only (s : State) : s.RailsOnly s.setRails := setList_only _ s

theorem State.setRails_eq (s : State) :
    s.setRails = { s with power := { s.power with rails := s.setRails.power.rails }, out := s.setRails.out } := by
  obtain ⟨r, o, e⟩ := s.setRails_only
  rw [e]

/-- A rail under control stands at its set point (R512, R515). -/
theorem State.setRails_mv {s : State} {i : Nat} (avs : i < 4 ∨ i = 6) (on : (s.rail i).controlled = true) :
    (s.setRails.rail i).mv = s.setPoint i := by
  have mem : i ∈ [0, 1, 2, 3, 6] := by simp only [List.mem_cons, List.not_mem_nil, or_false]; omega
  have sets : s.sets i = true := by
    have : (avsOf i).isSome = true := by unfold avsOf; split <;> simp_all
    simp [State.sets, on, this]
  unfold State.setRails
  rw [setList_rail, if_pos ⟨mem, sets⟩]

/-- The range of a set point: from 650 mV, or on the hub's rail from 700 mV, to 900 mV (R512). -/
theorem State.setPoint_range (s : State) (i : Nat) :
    (i < 4 → 650 ≤ s.setPoint i) ∧ (i = 6 → 700 ≤ s.setPoint i) ∧ s.setPoint i ≤ 900 := by
  unfold State.setPoint
  dsimp only
  split <;> omega

/-! Heat: what Sexton's STOPs leave of power and of thermal targets. -/

/-- Power and the thermal targets of the base tussocks are as they were. -/
structure State.SameHeat (s t : State) : Prop where
  power : t.power = s.power
  thermal : ∀ b, (t.base b).thermal = (s.base b).thermal

namespace State.SameHeat

variable {s t : State}

theorem refl (s : State) : s.SameHeat s := ⟨rfl, fun _ => rfl⟩

theorem trans {u : State} (a : s.SameHeat t) (b : t.SameHeat u) : s.SameHeat u :=
  ⟨b.power.trans a.power, fun i => (b.thermal i).trans (a.thermal i)⟩

theorem of_eq (power : t.power = s.power) (bases : t.bases = s.bases) : s.SameHeat t :=
  ⟨power, fun b => by unfold State.base; rw [bases]⟩

theorem foldl {β : Type} {f : State → β → State} (h : ∀ (u : State) x, u.SameHeat (f u x)) (l : List β) (s : State) :
    s.SameHeat (l.foldl f s) := by
  induction l generalizing s with
  | nil => exact refl s
  | cons x r ih => exact (h s x).trans (ih _)

theorem updCores (s : State) (l : List Nat) (f : Core → Core) : s.SameHeat (s.updCores l f) := of_eq (by simp) (by simp)

theorem updMeadow (s : State) (m : Nat) (f : Meadow → Meadow) : s.SameHeat (s.updMeadow m f) := of_eq rfl rfl

theorem updSxt (s : State) (f : Sexton → Sexton) : s.SameHeat (s.updSxt f) := of_eq rfl rfl

theorem updBase (s : State) (b : Nat) {f : Base → Base} (h : ∀ x, (f x).thermal = x.thermal) : s.SameHeat (s.updBase b f) := by
  refine ⟨rfl, fun i => ?_⟩
  rw [State.updBase_base]
  split
  · subst_vars; exact h _
  · rfl

theorem updBases (s : State) (l : List Nat) {f : Base → Base} (h : ∀ x, (f x).thermal = x.thermal) :
    s.SameHeat (s.updBases l f) := foldl (fun u b => updBase u b h) l s

theorem raise (s : State) (p f v : Nat) : s.SameHeat (s.raise p f v) := by
  rw [State.raise_eq]; exact of_eq rfl rfl

theorem failEpoch (s : State) (m : Nat) (code : Half) : s.SameHeat (s.failEpoch m code) := by
  rw [State.failEpoch_eq]; exact of_eq rfl rfl

theorem stopMeadow (s : State) (m : Nat) : s.SameHeat (s.stopMeadow m) := by
  have cores : s.SameHeat (s.stopCores (s.meadowCores m)) := updCores ..
  unfold State.stopMeadow
  dsimp only
  split
  · exact (cores.trans (updMeadow ..)).trans (raise ..)
  · exact (cores.trans (updMeadow ..)).trans (raise ..)
  · exact (cores.trans (updMeadow ..)).trans (raise ..)
  · exact cores.trans (updMeadow ..)
  · exact cores.trans (updMeadow ..)
  · exact refl s
  · exact refl s

theorem clear (s : State) (l : List Nat) : s.SameHeat (s.updBases l Base.clear) := updBases s l fun _ => rfl

theorem forgetMeadow (s : State) (l : List Nat) (m : Nat) :
    s.SameHeat ((s.updBases l Base.clear).updMeadow m Meadow.forget) :=
  (clear s l).trans (updMeadow ..)

theorem resetDomain (s : State) (d : Domain) (code : Half) : s.SameHeat (s.resetDomain d code) := by
  have fails (ms l : List Nat) : s.SameHeat ((ms.foldl (fun u m => u.failEpoch m code) s).resetCores l) :=
    (foldl (fun u m => failEpoch u m code) ms s).trans (updCores ..)
  have whole (ms l k : List Nat) (f : Core → Core) (g : Hub → Hub) : s.SameHeat
      (((ms.foldl (fun u m => (u.updBases (s.meadowBases m) Base.clear).updMeadow m Meadow.forget)
        ((ms.foldl (fun u m => u.failEpoch m code) s).resetCores l)).updCores k f).updHub g) :=
    ((fails ms l).trans (foldl (fun u m => forgetMeadow u _ m) ms _)).trans ((updCores ..).trans (of_eq rfl rfl))
  unfold State.resetDomain
  cases d with
  | core n => exact (updCores s ..).trans (updBase _ _ fun _ => rfl)
  | tussock id => exact (fails ..).trans (clear ..)
  | meadow m => exact (fails ..).trans (forgetMeadow ..)
  | heath => exact whole ..
  | warm => exact whole ..

theorem stemReset (s : State) (id : Nat) : s.SameHeat (s.stemReset id).2 := by
  unfold State.stemReset
  dsimp only
  split
  · exact of_eq rfl rfl
  · exact resetDomain ..

theorem watchCommand (s : State) (l : List Nat) (arg : Nat) : s.SameHeat (s.watchCommand l arg) := by
  have sets : s.SameHeat (match bitsOf arg 3 0 with
    | 0 => s.updCores (l.flatMap coresOfBase) fun c => { c with progress := false }
    | 1 => s.updBases l fun b => { b with watchSuspended := true }
    | 2 => s.updBases l fun b => { b with watchSuspended := false }
    | _ => s) := by
    split
    · exact updCores ..
    · exact updBases _ _ fun _ => rfl
    · exact updBases _ _ fun _ => rfl
    · exact refl s
  unfold State.watchCommand
  dsimp only
  split
  · exact sets.trans (of_eq rfl rfl)
  · exact sets

theorem applyStem (s : State) (c : StemCmd) : s.SameHeat (s.applyStem c).2 := by
  have stop : s.SameHeat (match s.meadowOfTop c.target with
    | some m => s.stopMeadow m
    | none => s.stopCores ((s.coresOf c.target).getD [])) := by
    split
    · exact stopMeadow ..
    · exact updCores ..
  unfold State.applyStem
  dsimp only
  split
  · exact stop
  · split
    · exact (updCores ..).trans (of_eq rfl rfl)
    · exact stop.trans (of_eq rfl rfl)
  · exact stemReset ..
  · dsimp only
    split
    · exact refl s
    · exact updMeadow ..
  · exact watchCommand ..
  · exact refl s

theorem pumpStem (fuel : Nat) (s : State) : s.SameHeat (State.pumpStem fuel s) := by
  induction fuel generalizing s with
  | zero => exact refl s
  | succ n ih =>
    unfold State.pumpStem
    split
    · exact refl s
    · split
      · exact refl s
      · exact (((updSxt ..).trans (applyStem ..)).trans (updSxt ..)).trans (ih _)

theorem stopAll (s : State) : s.SameHeat s.stopAll :=
  foldl (fun u m => (updSxt u fun x => { x with stemWait := x.stemWait ++ [⟨1, (u.meadow m).top, 0, .sexton, false⟩] }).trans
    (pumpStem 4 _)) _ s

end State.SameHeat

/-! A temperature of a base tussock (R524, R525). -/

theorem State.thermtrip_power (s : State) : s.thermtrip.power = { s.power with thermtrip := true } := by
  unfold State.thermtrip; dsimp only; split <;> rfl

theorem State.thermtrip_base (s : State) (b : Nat) : s.thermtrip.base b = s.base b := by
  unfold State.thermtrip; dsimp only; split <;> rfl

/-- The thermal target of a base tussock after a reading. -/
def throttleTo (c : Int) (f : Nat) : Nat := if 1520 ≤ c then max 200 (f - 25) else if c ≤ 1472 then min 650 (f + 25) else f

/-- A reading's step of a base tussock's throttle. -/
def State.throttleAt (s : State) (b : Nat) (c : Int) : State :=
  if 1520 ≤ c then s.throttleStep b true else if c ≤ 1472 then s.throttleStep b false else s

theorem State.throttleAt_spec (s : State) {b : Nat} (hb : b < 256) (c : Int) :
    (s.throttleAt b c).power.temps = s.power.temps ∧ (s.throttleAt b c).power.thermtrip = s.power.thermtrip
      ∧ ((s.throttleAt b c).base b).thermal = throttleTo c (s.base b).thermal := by
  have step (on : Bool) : (s.throttleStep b on).power.temps = s.power.temps
      ∧ (s.throttleStep b on).power.thermtrip = s.power.thermtrip
      ∧ ((s.throttleStep b on).base b).thermal
        = if on then max 200 ((s.base b).thermal - 25) else min 650 ((s.base b).thermal + 25) := by
    unfold State.throttleStep
    simp only [if_pos hb]
    exact ⟨rfl, rfl, by rw [State.updPower_base, State.updBase_base_same]⟩
  unfold State.throttleAt throttleTo
  split
  · exact step true
  · split
    · exact step false
    · exact ⟨rfl, rfl, rfl⟩

/-- A temperature of a base tussock recorded, its throttle moved, and the set points written. -/
def State.heated (s : State) (b : Nat) (c : Int) : State :=
  ((s.updPower fun y => { y with temps := Sparse.put 0 y.temps b c }).throttleAt b c).setRails

theorem State.heated_spec (s : State) {b : Nat} (hb : b < 256) (c : Int) :
    Sparse.get 0 (s.heated b c).power.temps b = c ∧ (s.heated b c).power.thermtrip = s.power.thermtrip
      ∧ ((s.heated b c).base b).thermal = throttleTo c (s.base b).thermal := by
  obtain ⟨temps, off, thermal⟩ := (s.updPower fun y => { y with temps := Sparse.put 0 y.temps b c }).throttleAt_spec hb c
  have set := State.setRails_only ((s.updPower fun y => { y with temps := Sparse.put 0 y.temps b c }).throttleAt b c)
  unfold State.heated
  refine ⟨?_, ?_, ?_⟩
  · rw [set.temps, temps, State.updPower_power, Sparse.get_put_same]
  · rw [set.thermtrip, off, State.updPower_power]
  · rw [State.base, set.bases, ← State.base, thermal, State.updPower_base]

/-- At the trip temperature Sexton stops every meadow and asserts THERMTRIP_L (R525). -/
def State.tripsAt (s : State) (c : Int) : State := if 1760 ≤ c then s.stopAll.thermtrip else s

theorem State.tripsAt_spec (s : State) (c : Int) :
    (s.tripsAt c).power.temps = s.power.temps ∧ (∀ b, ((s.tripsAt c).base b).thermal = (s.base b).thermal)
      ∧ (1760 ≤ c → (s.tripsAt c).power.thermtrip = true)
      ∧ (c < 1760 → (s.tripsAt c).power.thermtrip = s.power.thermtrip) := by
  have stopped := State.SameHeat.stopAll s
  unfold State.tripsAt
  split
  next hot =>
    refine ⟨?_, fun b => ?_, fun _ => ?_, fun cool => absurd hot (by omega)⟩
    · rw [State.thermtrip_power, stopped.power]
    · rw [State.thermtrip_base, stopped.thermal]
    · rw [State.thermtrip_power]
  next cool => exact ⟨rfl, fun _ => rfl, fun hot => absurd hot cool, fun _ => rfl⟩

/-- What a temperature of a base tussock does while the firmware runs. -/
theorem execThermalSample_base {s : State} (b : BaseIx) (x : BitVec 16) (fw : s.sxt.fwRunning = true) :
    execThermalSample ⟨b, by omega⟩ x s = .next ((s.heated b x.toInt).tripsAt x.toInt) := by
  have hb := b.isLt
  have sensor : s.hasSensor b = true := decide_eq_true (by omega)
  have limits : sensorLimits b = (1520, 1760) := by simp [sensorLimits, hb]
  have near : b.val < 263 := by omega
  have read : ¬ ((!s.hasSensor b) = true ∨ (!s.sxt.fwRunning) = true) := by simp [sensor, fw]
  unfold execThermalSample
  refine congrArg _ ((if_neg read).trans ?_)
  simp only [limits, State.refreshStep, if_pos near]
  rfl

theorem execThermalSample_heat {s : State} (b : BaseIx) (x : BitVec 16) (fw : s.sxt.fwRunning = true) :
    ∃ t, execThermalSample ⟨b, by omega⟩ x s = .next t ∧ Sparse.get 0 t.power.temps b = x.toInt
      ∧ (t.base b).thermal = throttleTo x.toInt (s.base b).thermal
      ∧ (1760 ≤ x.toInt → t.power.thermtrip = true) ∧ (x.toInt < 1760 → t.power.thermtrip = s.power.thermtrip) := by
  obtain ⟨temps, off, thermal⟩ := s.heated_spec b.isLt x.toInt
  obtain ⟨sameTemps, sameThermal, hot, cool⟩ := (s.heated b x.toInt).tripsAt_spec x.toInt
  exact ⟨_, execThermalSample_base b x fw, by rw [sameTemps, temps], by rw [sameThermal, thermal], hot,
    fun h => (cool h).trans off⟩

/-! The JTAG port (R500, R526). -/

/-- The output pins at the levels of a boundary-scan register, in the order of log entry 50. -/
def pinLevels (y : BitVec 17) : List Output :=
  [.pin .thermtripL (y.getLsbD 4), .pin .pmbScl (y.getLsbD 5), .pin .pmbSda (y.getLsbD 6), .pin .avs0Clk (y.getLsbD 8),
    .pin .avs0Data (y.getLsbD 9), .pin .avs1Clk (y.getLsbD 11), .pin .avs1Data (y.getLsbD 12)]

theorem State.drivePins_eq (s : State) : s.drivePins = { s with out := s.out ++ pinLevels s.bscan } := by
  simp [State.drivePins, State.emit, pinLevels]

section

variable {s : State} (own : jtagHolds s.jtag = false)

include own

/-- Where boundary scan does not hold the pins, an instruction sends nothing to THERMTRIP_L of its own accord. -/
theorem jtag_pins (i : Jtag) (t u : State) : (if (jtagHolds s.jtag && !jtagHolds i) = true then t else u) = u := by
  simp [own]

theorem execJtagInstruction_idcode :
    execJtagInstruction .idcode s = .next ({ s with jtag := .idcode }.emit (.tdo s.idcode)) := by
  simp only [execJtagInstruction, jtag_pins own]

theorem execJtagInstruction_bypass : execJtagInstruction .bypass s = .next ({ s with jtag := .bypass }.emit (.tdo 0)) := by
  simp only [execJtagInstruction, jtag_pins own]

theorem execJtagInstruction_sample (pins load : BitVec 17) : execJtagInstruction (.sample pins load) s = .next { s with
    jtag := .sample pins load, bscan := load, out := s.out ++ [.tdo pins.toNat] } := by
  simp only [execJtagInstruction, jtag_pins own]
  rfl

theorem execJtagInstruction_extest (pins load : BitVec 17) : execJtagInstruction (.extest pins load) s = .next { s with
    jtag := .extest pins load, bscan := load, out := s.out ++ pinLevels s.bscan ++ [.tdo pins.toNat] ++ pinLevels load } := by
  simp only [execJtagInstruction, jtag_pins own, State.drivePins_eq]
  rfl

theorem execJtagInstruction_scan_off (r : ScanReg) (w : Option Dword) (h : s.life ≠ .vendorTest) :
    execJtagInstruction (.scan r w) s = .next ({ s with jtag := .bypass }.emit (.tdo 0)) := by
  simp only [execJtagInstruction, if_neg h, jtag_pins own]

theorem execJtagInstruction_scan_on (r : ScanReg) (w : Option Dword) (h : s.life = .vendorTest) :
    execJtagInstruction (.scan r w) s = .next (State.scanReg { s with jtag := .scan r w } r w) := by
  simp only [execJtagInstruction, if_pos h, jtag_pins own]

end

/-- The device's own level returns to THERMTRIP_L where boundary scan lets the pins go. -/
theorem execJtagInstruction_bypass_release {s : State} (held : jtagHolds s.jtag = true) :
    execJtagInstruction .bypass s
      = .next (({ s with jtag := .bypass }.emit (.pin .thermtripL (!s.power.thermtrip))).emit (.tdo 0)) := by
  have go : (jtagHolds s.jtag && !jtagHolds .bypass) = true := by rw [held]; rfl
  exact congrArg (fun t : State => Host.Outcome.next (t.emit (.tdo 0))) (if_pos go)

/-! A sample of the ten rails (R514, R517). -/

/-- The ten rails sampled. -/
def State.sampled (s : State) (l : List RailReading) : State :=
  (upFrom 0 10).foldl (fun t k => t.sampleRail k (railReading l k)) s

theorem execPowerSample_off {l : List RailReading} {s : State} (down : s.sxt.power = false) :
    execPowerSample l s = .next s := by
  simp [execPowerSample, down]

section

variable {l : List RailReading} {s : State} (up : s.sxt.power = true) (ten : l.length = 10)

include up ten

theorem execPowerSample_breach (breach : railsBreak l = true) : execPowerSample l s = .fault .railBreach := by
  simp [execPowerSample, up, ten, breach]

variable (sound : railsBreak l = false)

include sound

theorem execPowerSample_idle (fw : s.sxt.fwRunning = false) : execPowerSample l s = .next s := by
  simp [execPowerSample, up, ten, sound, fw]

theorem execPowerSample_runs (fw : s.sxt.fwRunning = true) : execPowerSample l s = .next
    ((s.sampled l).updPower fun x =>
      { x.enforce (s.sampled l).packagePower with alert := x.alert && l.any (·.fault) }).setRails := by
  have read : ¬ ((!s.sxt.power) = true ∨ l.length ≠ 10) := by simp [up, ten]
  have whole : ¬ railsBreak l = true := by simp [sound]
  have on : ¬ (!s.sxt.fwRunning) = true := by simp [fw]
  exact (if_neg read).trans ((if_neg whole).trans (if_neg on))

end

/-- The registers of each rail after a sample. -/
theorem State.sampled_rail (s : State) (l : List RailReading) {i : Nat} (h : i < 10) :
    (s.sampled l).rail i = (s.rail i).read (railReading l i) := by
  have mem : i ∈ upFrom 0 10 := (mem_upFrom ..).mpr (by omega)
  exact (sampleRails_rail _ i _ (by decide) s).trans (if_pos mem)

/-! The cap, alerts and gating (R516 to R523). -/

theorem execPwrCapWrite_eq (p : PortIx) (v : Word) (s : State) : execPwrCapWrite p v s = .next (
    if bitsOf v.toNat 15 0 < 400 ∨ s.part.watts < bitsOf v.toNat 15 0 then s.refuseWrite p 0 Code.pwrCapRange 0x160088
    else s.updPower fun x => { x with cap := bitsOf v.toNat 15 0 }) := rfl

theorem execSmbalert_eq {s : State} (k : Fin 10) (fault : Bool) (fw : s.sxt.fwRunning = true) :
    let t := (s.updPower fun y => { y with alert := true }).emit (.pmbus (0x10 + 12 * s.power.strap + k) .statusWord)
    execSmbalert k fault s = .next (if fault then t.updRail k Rail.fails else t) := by
  have on : ¬ (!s.sxt.fwRunning) = true := by simp [fw]
  exact congrArg _ (if_neg on)

theorem execGate_idle {s : State} {b : BaseIx} {m : Nat} (step : s.sxt.lockstep = false) (idle : s.gateOk b = true)
    (owner : s.meadowOfBase b = some m) :
    execGate b s = .next (((s.gateBase b).updBase b fun x => { x with idleGate := true }).loseStores m 16) := by
  simp [execGate, step, idle, owner]

theorem execGate_busy {s : State} {b : BaseIx} (busy : s.gateOk b = false) : execGate b s = .next s := by
  simp [execGate, busy]

theorem execGateReturn_gated {s : State} {b : BaseIx} (step : s.sxt.lockstep = false) (gated : (s.base b).gated = true)
    (idle : (s.base b).idleGate = true) :
    execGateReturn b s = .next ((s.returnBase b).issueAdmits (coresOfBase b) .sexton) := by
  simp [execGateReturn, step, gated, idle]

/-- A comparator trips THERMTRIP_L, on the pin unless JTAG holds it (R525, R526). -/
theorem execComparatorThermtrip_eq {s : State} (up : s.sxt.power = true) : execComparatorThermtrip s = .next (
    let t := s.updPower fun y => { y with thermtrip := true }
    if jtagHolds s.jtag then t else t.emit (.pin .thermtripL false)) :=
  congrArg _ (if_pos up)

/-- Settles O56, command by command. -/
theorem powerAndTemperatureAreHeld : Obligations.PowerAndTemperatureAreHeld := by
  unfold Obligations.PowerAndTemperatureAreHeld
  intro l p v k b x z part slice pins load w s rail breach read watts alerted isl trip
  have sound (h : ¬ breach) : railsBreak l = false := by
    simpa using fun e => h ((railsBreak_iff l).mp e)
  refine ⟨?sample, ?points, ?down, ?cap, ?capRange, ?alert, ?gate, ?busy, ?back, ?thermal, ?osc, ?droop, ?again, ?recover,
    ?trip, ?tripHeld, ?jtag, ?release⟩
  case sample =>
    intro up ten
    refine ⟨fun h => ?_, fun h off => ?_, fun h fw => ⟨?_, fun i hi => ?_⟩⟩
    · exact execPowerSample_breach up ten ((railsBreak_iff l).mpr h)
    · exact execPowerSample_idle up ten (sound h) off
    · exact execPowerSample_runs up ten (sound h) fw
    · exact (s.sampled_rail l hi).trans (Rail.read_eq ..)
  case points => exact fun t => ⟨fun i => t.setRails_mv, t.setPoint_range, t.setRails_eq⟩
  case down => exact execPowerSample_off
  case cap =>
    intro low high
    exact (execPwrCapWrite_eq p v s).trans (congrArg _ (if_neg (by omega)))
  case capRange =>
    intro out
    exact (execPwrCapWrite_eq p v s).trans (congrArg _ (if_pos out))
  case alert => exact fun fw => ⟨execSmbalert_eq k false fw, execSmbalert_eq k true fw⟩
  case gate => exact fun m => execGate_idle
  case busy => exact execGate_busy
  case back => exact execGateReturn_gated
  case thermal => exact execThermalSample_heat b x
  case osc =>
    intro up
    exact congrArg _ (if_neg (by simp [up]))
  case droop =>
    intro steady
    exact congrArg _ (if_neg (by simp [steady]))
  case again =>
    intro stretched
    exact congrArg _ (if_pos stretched)
  case recover => rfl
  case trip =>
    intro up own
    exact (execComparatorThermtrip_eq up).trans (congrArg _ (if_neg (by simp [own])))
  case tripHeld =>
    intro up held
    exact (execComparatorThermtrip_eq up).trans (congrArg _ (if_pos held))
  case jtag =>
    intro own
    refine ⟨?_, ?_, ?_, ?_, fun r off => ?_, fun on => ⟨?_, ?_⟩⟩
    · exact execJtagInstruction_idcode own
    · exact execJtagInstruction_bypass own
    · exact execJtagInstruction_sample own pins load
    · exact execJtagInstruction_extest own pins load
    · exact execJtagInstruction_scan_off own r w off
    · exact (execJtagInstruction_scan_on own _ w on).trans (by cases w <;> rfl)
    · exact (execJtagInstruction_scan_on own _ w on).trans (by cases w <;> rfl)
  case release => exact execJtagInstruction_bypass_release

end Sys2Proof.Machine

/-!
What leaves Sexton's own records as they are: package memory at work, stops and failures of meadows, teardown, and whatever else an
accepted stream or a RETIRE brings about (R41, R57, R451, R453).
-/

namespace Sys2Proof.Machine

open Sys2Proof

/-! Work in package memory that touches nothing else. -/

/-- `t` is `s` but for package memory, and there the key slots are as they were. -/
def State.PkgOnly (s t : State) : Prop := ∃ p : Pkg, p.keys = s.pkg.keys ∧ t = { s with pkg := p }

namespace State.PkgOnly

variable {s t u : State}

theorem refl (s : State) : s.PkgOnly s := ⟨s.pkg, rfl, rfl⟩

theorem trans (a : s.PkgOnly t) (b : t.PkgOnly u) : s.PkgOnly u := by
  obtain ⟨p, hp, rfl⟩ := a
  obtain ⟨q, hq, rfl⟩ := b
  exact ⟨q, hq.trans hp, rfl⟩

theorem foldl {β : Type} {f : State → β → State} (h : ∀ (u : State) x, u.PkgOnly (f u x)) (l : List β) (s : State) :
    s.PkgOnly (l.foldl f s) := by
  induction l generalizing s with
  | nil => exact refl s
  | cons x r ih => exact (h s x).trans (ih _)

theorem sxt (h : s.PkgOnly t) : t.sxt = s.sxt := by obtain ⟨_, _, rfl⟩ := h; rfl
theorem qorf (h : s.PkgOnly t) : t.qorf = s.qorf := by obtain ⟨_, _, rfl⟩ := h; rfl
theorem free (h : s.PkgOnly t) : t.free = s.free := by obtain ⟨_, _, rfl⟩ := h; rfl
theorem keys (h : s.PkgOnly t) : t.pkg.keys = s.pkg.keys := by obtain ⟨_, hk, rfl⟩ := h; exact hk

theorem updPkg (s : State) (f : Pkg → Pkg) (h : (f s.pkg).keys = s.pkg.keys) : s.PkgOnly (s.updPkg f) := ⟨_, h, rfl⟩

theorem updStack (s : State) (k : Nat) (f : Stack → Stack) : s.PkgOnly (s.updStack k f) := updPkg s _ rfl
theorem setFlips (s : State) (sec : Nat) (x : BitVec 288) : s.PkgOnly (s.setFlips sec x) := updPkg s _ rfl
theorem setPflips (s : State) (pix : Nat) (x : BitVec 288) : s.PkgOnly (s.setPflips pix x) := updPkg s _ rfl
theorem putBlock (s : State) (k : Key) (blk : Nat) (b : List Byte) : s.PkgOnly (s.putBlock k blk b) := updPkg s _ rfl
theorem turnBlock (s : State) (blk : Nat) (x : List Byte) : s.PkgOnly (s.turnBlock blk x) := putBlock ..
theorem countCorrected (s : State) (k : Nat) : s.PkgOnly (s.countCorrected k) := updStack ..
theorem wait (s : State) : s.PkgOnly s.wait := updPkg s _ rfl

theorem claimBlock (s : State) (k : Key) (blk : Nat) : s.PkgOnly (s.claimBlock k blk) := by
  unfold State.claimBlock
  split
  · exact updPkg s _ rfl
  · split
    · exact refl s
    · exact putBlock ..

theorem pkgPut (s : State) (a : Nat) (b : List Byte) : s.PkgOnly (s.pkgPut a b) := by
  unfold State.pkgPut
  exact (foldl (fun _ _ => claimBlock ..) _ s).trans (updPkg _ _ rfl)

theorem absorb (s : State) (sec : Nat) (x : BitVec 288) : s.PkgOnly (s.absorb sec x) := by
  have turned (b : List Byte) : s.PkgOnly (((s.setFlips sec 0).turnBlock (2 * sec) (b.take 16)).turnBlock (2 * sec + 1)
      (sliceBytes b 16 16)) := ((setFlips ..).trans (turnBlock ..)).trans (turnBlock ..)
  unfold State.absorb
  dsimp only
  split
  · exact setFlips ..
  · split
    · exact (turned _).trans (setPflips ..)
    · exact turned _

theorem readOwn {sec : Nat} (e : s.readOwn sec = some t) : s.PkgOnly t := by
  unfold State.readOwn at e
  split at e
  · cases e; exact refl s
  · split at e
    · cases e; exact absorb ..
    · cases e; exact (absorb ..).trans (countCorrected ..)
    · cases e

theorem readParity {pix : Nat} (e : s.readParity pix = some t) : s.PkgOnly t := by
  unfold State.readParity at e
  split at e
  · cases e; exact refl s
  · split at e
    · cases e; exact refl s
    · cases e; exact (setPflips ..).trans (countCorrected ..)
    · cases e

theorem readMates (l : List Nat) (s : State) : s.PkgOnly (s.readMates l).2 := by
  induction l generalizing s with
  | nil => exact refl s
  | cons sec r ih =>
    unfold State.readMates
    split
    next e => exact (readOwn e).trans (ih _)
    next => exact refl s

theorem landDelta (s : State) (d : Delta) : s.PkgOnly (s.landDelta d) := by
  unfold State.landDelta
  dsimp only
  split
  · exact refl s
  · split
    next e => exact readParity e
    next => exact updStack ..

theorem settle (s : State) (p : Delta → Bool) : s.PkgOnly (s.settle p) := by
  unfold State.settle
  dsimp only
  split
  · exact wait s
  · exact (updPkg s _ rfl).trans (foldl landDelta _ _)

theorem settleOwn (s : State) (pa : Nat) : s.PkgOnly (s.settleOwn pa) := by
  unfold State.settleOwn
  split
  · exact settle ..
  · exact refl s

theorem store (s : State) (pa : Nat) (b : List Byte) : s.PkgOnly (s.store pa b) := by
  have put : s.PkgOnly ((s.pkgPut pa b).setFlips (pa / 32) 0) := (pkgPut ..).trans (setFlips ..)
  unfold State.store
  dsimp only
  split
  · exact put
  · split
    · exact put.trans (setPflips ..)
    · exact put.trans (updPkg _ _ rfl)

theorem settledFrom (s t : State) : t.PkgOnly (s.settledFrom t) := by
  unfold State.settledFrom
  split
  · exact refl t
  · exact settle ..

theorem sentFrom (s t : State) : t.PkgOnly (s.sentFrom t) := by
  unfold State.sentFrom
  split
  · exact refl t
  · exact updPkg t _ rfl

theorem completed (s t : State) : t.PkgOnly (s.completed t) := (settledFrom s t).trans (sentFrom ..)

end State.PkgOnly

/-! The deltas of a command take effect whatever Sexton holds meanwhile. -/

section

variable (s t : State) (f : Sexton → Sexton)

theorem State.readParity_updSxt (pix : Nat) : (s.updSxt f).readParity pix = (s.readParity pix).map (·.updSxt f) := by
  have same : (s.updSxt f).pflips pix = s.pflips pix := rfl
  unfold State.readParity
  rw [same]
  split
  · rfl
  · split <;> rfl

theorem State.landDelta_updSxt (d : Delta) : (s.updSxt f).landDelta d = (s.landDelta d).updSxt f := by
  have lost : ((s.updSxt f).stack ((s.updSxt f).parityStack (32 * d.sector))).st
      = (s.stack (s.parityStack (32 * d.sector))).st := rfl
  have pix : (s.updSxt f).parityIx (32 * d.sector) = s.parityIx (32 * d.sector) := rfl
  unfold State.landDelta
  dsimp only
  rw [lost, pix, readParity_updSxt]
  split
  · rfl
  · cases s.readParity (s.parityIx (32 * d.sector)) <;> rfl

theorem State.landDeltas_updSxt (l : List Delta) (s : State) :
    l.foldl State.landDelta (s.updSxt f) = (l.foldl State.landDelta s).updSxt f := by
  induction l generalizing s with
  | nil => rfl
  | cons d r ih => rw [List.foldl_cons, landDelta_updSxt, ih]; rfl

theorem State.settle_updSxt (p : Delta → Bool) : (s.updSxt f).settle p = (s.settle p).updSxt f := by
  unfold State.settle
  dsimp only
  refine Eq.trans ?_ (apply_ite (State.updSxt · f) _ _ _).symm
  refine congrArg (ite _ _) ?_
  exact State.landDeltas_updSxt f _ (s.updPkg fun x => { x with deltas := x.deltas.filter fun d => !p d })

theorem settledFrom_updSxt : s.settledFrom (t.updSxt f) = (s.settledFrom t).updSxt f := by
  unfold State.settledFrom
  rw [State.settle_updSxt]
  exact (apply_ite (State.updSxt · f) _ _ _).symm

/-- What Sexton writes into its own registers delays no request. -/
theorem undelayed_updSxt (h : s.undelayed t) : s.undelayed (t.updSxt f) := by
  unfold State.undelayed
  rw [settledFrom_updSxt]
  exact h

end

/-! What Sexton records. -/

/-- What Sexton has recorded in `s` stands in `t`: the record of the streams in force, the fuses, the journal and the step of
start-up. A key slot holds what it held, or a key that the random number generator has made since. -/
structure State.SameRecords (s t : State) : Prop where
  qorf : t.qorf = s.qorf
  lcBits : t.sxt.lcBits = s.sxt.lcBits
  journal : t.sxt.journal = s.sxt.journal
  bootStep : t.sxt.bootStep = s.sxt.bootStep
  free : s.free ≤ t.free
  keys : ∀ k, t.slotKey k = s.slotKey k ∨ ∃ n, s.free ≤ n ∧ t.slotKey k = .random (n + 1)

/-- The state that a rebuild leaves, however it ends. -/
def Rebuilt.state : Rebuilt → State
  | .done t => t
  | .data _ t => t
  | .parity t => t

namespace State.SameRecords

variable {s t u : State}

theorem trans (a : s.SameRecords t) (b : t.SameRecords u) : s.SameRecords u := by
  refine ⟨b.qorf.trans a.qorf, b.lcBits.trans a.lcBits, b.journal.trans a.journal, b.bootStep.trans a.bootStep,
    Nat.le_trans a.free b.free, fun k => ?_⟩
  rcases b.keys k with same | ⟨n, hn, new⟩
  · rw [same]; exact a.keys k
  · exact .inr ⟨n, Nat.le_trans a.free hn, new⟩

/-- Sexton, the settings record, the count of free values and the key slots left as they are. -/
theorem of_eq (qorf : t.qorf = s.qorf) (sxt : t.sxt = s.sxt) (free : t.free = s.free) (keys : t.pkg.keys = s.pkg.keys) :
    s.SameRecords t :=
  ⟨qorf, by rw [sxt], by rw [sxt], by rw [sxt], Nat.le_of_eq free.symm, fun k => .inl (by unfold State.slotKey; rw [keys])⟩

theorem refl (s : State) : s.SameRecords s := of_eq rfl rfl rfl rfl

theorem of_pkgOnly (h : s.PkgOnly t) : s.SameRecords t := of_eq h.qorf h.sxt h.free h.keys

theorem foldl {β : Type} {f : State → β → State} (h : ∀ (u : State) x, u.SameRecords (f u x)) (l : List β) (s : State) :
    s.SameRecords (l.foldl f s) := by
  induction l generalizing s with
  | nil => exact refl s
  | cons x r ih => exact (h s x).trans (ih _)

/-! Updates of one unit. -/

theorem updCore (s : State) (n : Nat) (f : Core → Core) : s.SameRecords (s.updCore n f) := of_eq rfl rfl rfl rfl
theorem updCores (s : State) (l : List Nat) (f : Core → Core) : s.SameRecords (s.updCores l f) :=
  of_eq (by simp) (by simp) (by simp) (by simp)
theorem updBase (s : State) (b : Nat) (f : Base → Base) : s.SameRecords (s.updBase b f) := of_eq rfl rfl rfl rfl
theorem updBases (s : State) (l : List Nat) (f : Base → Base) : s.SameRecords (s.updBases l f) :=
  foldl (fun u b => updBase u b f) l s
theorem updMeadow (s : State) (m : Nat) (f : Meadow → Meadow) : s.SameRecords (s.updMeadow m f) := of_eq rfl rfl rfl rfl
theorem updTrn (s : State) (f : Trn → Trn) : s.SameRecords (s.updTrn f) := of_eq rfl rfl rfl rfl
theorem updSw (s : State) (n : Nat) (f : SwLink → SwLink) : s.SameRecords (s.updSw n f) := of_eq rfl rfl rfl rfl
theorem updPipe (s : State) (n : Nat) (f : Pipe → Pipe) : s.SameRecords (s.updPipe n f) := of_eq rfl rfl rfl rfl

theorem updSxt (s : State) (f : Sexton → Sexton) (lc : (f s.sxt).lcBits = s.sxt.lcBits)
    (journal : (f s.sxt).journal = s.sxt.journal) (step : (f s.sxt).bootStep = s.sxt.bootStep) :
    s.SameRecords (s.updSxt f) := ⟨rfl, lc, journal, step, Nat.le_refl _, fun _ => .inl rfl⟩

theorem raise (s : State) (p f v : Nat) : s.SameRecords (s.raise p f v) := by
  rw [State.raise_eq]; exact of_eq rfl rfl rfl rfl

theorem freshKey (s : State) (slot : Nat) : s.SameRecords (s.freshKey slot) := by
  refine ⟨rfl, rfl, rfl, rfl, Nat.le_succ _, fun k => ?_⟩
  have read : (s.freshKey slot).slotKey k = if slot = k then .random (s.free + 1) else s.slotKey k :=
    Sparse.get_put (.random 0) s.pkg.keys slot k (.random (s.free + 1))
  rw [read]
  split
  · exact .inr ⟨s.free, Nat.le_refl _, rfl⟩
  · exact .inl rfl

theorem freeBytes (s : State) (k : Nat) : s.SameRecords (s.freeBytes k).2 :=
  ⟨rfl, rfl, rfl, rfl, Nat.le_add_right .., fun _ => .inl rfl⟩

/-! Stops, failures and stem commands (R342, R354, R361, R480). -/

theorem failEpoch (s : State) (m : Nat) (code : Half) : s.SameRecords (s.failEpoch m code) := by
  rw [State.failEpoch_eq]; exact of_eq rfl rfl rfl rfl

theorem stopMeadow (s : State) (m : Nat) : s.SameRecords (s.stopMeadow m) := by
  have marked (f : Meadow → Meadow) : s.SameRecords ((s.stopCores (s.meadowCores m)).updMeadow m f) :=
    (updCores ..).trans (updMeadow ..)
  unfold State.stopMeadow
  dsimp only
  split
  · exact (marked _).trans (raise ..)
  · exact (marked _).trans (raise ..)
  · exact (marked _).trans (raise ..)
  · exact marked _
  · exact marked _
  · exact refl s
  · exact refl s

theorem bench (s : State) (cause : Half) : s.SameRecords (s.bench cause) := by
  have marked : s.SameRecords (s.updSxt fun x =>
      { x with benched := true, cause := if x.benched ∧ x.cause ≠ Code.benched then x.cause else cause }) :=
    updSxt s _ rfl rfl rfl
  unfold State.bench
  dsimp only
  split
  · exact marked
  · exact marked.trans (foldl stopMeadow _ _)

theorem resetDomain (s : State) (d : Domain) (code : Half) : s.SameRecords (s.resetDomain d code) := by
  have forgotten (u : State) (l : List Nat) (m : Nat) : u.SameRecords ((u.updBases l Base.clear).updMeadow m Meadow.forget) :=
    (updBases ..).trans (updMeadow ..)
  have failed (ms l : List Nat) : s.SameRecords ((ms.foldl (fun u m => u.failEpoch m code) s).resetCores l) :=
    (foldl (fun u m => failEpoch u m code) ms s).trans (updCores ..)
  have whole (ms l k : List Nat) (f : Core → Core) (g : Hub → Hub) : s.SameRecords
      (((ms.foldl (fun u m => (u.updBases (s.meadowBases m) Base.clear).updMeadow m Meadow.forget)
        ((ms.foldl (fun u m => u.failEpoch m code) s).resetCores l)).updCores k f).updHub g) :=
    ((failed ms l).trans (foldl (fun u m => forgotten u _ m) ms _)).trans ((updCores ..).trans (of_eq rfl rfl rfl rfl))
  unfold State.resetDomain
  cases d with
  | core n => exact (updCores s ..).trans (updBase ..)
  | tussock id => exact (failed ..).trans (updBases ..)
  | meadow m => exact (failed ..).trans (forgotten ..)
  | heath => exact whole ..
  | warm => exact whole ..

theorem stemReset (s : State) (id : Nat) : s.SameRecords (s.stemReset id).2 := by
  unfold State.stemReset
  dsimp only
  split
  · dsimp only; exact updSxt s _ rfl rfl rfl
  · exact resetDomain ..

theorem watchCommand (s : State) (l : List Nat) (arg : Nat) : s.SameRecords (s.watchCommand l arg) := by
  have sets : s.SameRecords (match bitsOf arg 3 0 with
    | 0 => s.updCores (l.flatMap coresOfBase) fun c => { c with progress := false }
    | 1 => s.updBases l fun b => { b with watchSuspended := true }
    | 2 => s.updBases l fun b => { b with watchSuspended := false }
    | _ => s) := by
    split
    · exact updCores ..
    · exact updBases ..
    · exact updBases ..
    · exact refl s
  unfold State.watchCommand
  dsimp only
  split
  · exact sets.trans (of_eq rfl rfl rfl rfl)
  · exact sets

theorem applyStem (s : State) (c : StemCmd) : s.SameRecords (s.applyStem c).2 := by
  have stop : s.SameRecords (match s.meadowOfTop c.target with
    | some m => s.stopMeadow m
    | none => s.stopCores ((s.coresOf c.target).getD [])) := by
    split
    · exact stopMeadow ..
    · exact updCores ..
  unfold State.applyStem
  dsimp only
  split
  · exact stop
  · split
    · exact (updCores ..).trans (of_eq rfl rfl rfl rfl)
    · exact stop.trans (of_eq rfl rfl rfl rfl)
  · exact stemReset ..
  · dsimp only
    split
    · exact refl s
    · exact updMeadow ..
  · exact watchCommand ..
  · exact refl s

theorem pumpStem (fuel : Nat) (s : State) : s.SameRecords (State.pumpStem fuel s) := by
  induction fuel generalizing s with
  | zero => exact refl s
  | succ n ih =>
    unfold State.pumpStem
    split
    · exact refl s
    · split
      · exact refl s
      · exact (((updSxt _ _ rfl rfl rfl).trans (applyStem ..)).trans (updSxt _ _ rfl rfl rfl)).trans (ih _)

theorem issueStem (s : State) (c : StemCmd) : s.SameRecords (s.issueStem c) :=
  (updSxt s _ rfl rfl rfl).trans (pumpStem ..)

theorem issueAdmits (s : State) (l : List Nat) (by_ : StemBy) : s.SameRecords (s.issueAdmits l by_) :=
  (updSxt s _ rfl rfl rfl).trans (pumpStem ..)

theorem sendStop (s : State) (m : Nat) : s.SameRecords (s.sendStop m) := issueStem ..

/-! Writes to package memory by the transport port, up to the end of its session (R310 to R319, R410). -/

theorem retire (s : State) (pa : Nat) : s.SameRecords (s.retire pa) := by
  unfold State.retire
  split
  · exact refl s
  · split
    · exact of_eq rfl rfl rfl rfl
    · exact bench ..

theorem uncorrectableAt (s : State) (pa : Nat) : s.SameRecords (s.uncorrectableAt pa) := by
  have counted (k : Nat) (f : Stack → Stack) : s.SameRecords (s.updStack k f) := of_pkgOnly (.updStack ..)
  unfold State.uncorrectableAt
  dsimp only
  split
  · exact counted ..
  · exact (counted ..).trans (retire ..)

theorem rebuild (s : State) (sec : Nat) : s.SameRecords (s.rebuild sec).state := by
  unfold State.rebuild
  dsimp only
  split
  next q t e => exact of_pkgOnly (by have := PkgOnly.readMates (s.stripeMates (32 * sec)) s; rwa [e] at this)
  next t e =>
    have mates : s.PkgOnly t := by have := PkgOnly.readMates (s.stripeMates (32 * sec)) s; rwa [e] at this
    split
    next => exact of_pkgOnly mates
    next p => exact of_pkgOnly ((mates.trans (.readParity p)).trans (.absorb ..))

theorem rebuildFails (s : State) (pa : Nat) (r : Rebuilt) : r.state.SameRecords (s.rebuildFails pa r) := by
  unfold State.rebuildFails
  cases r with
  | done t => exact refl t
  | data q t => exact uncorrectableAt ..
  | parity t =>
    dsimp only
    split
    · exact (of_pkgOnly (.updStack ..)).trans (retire ..)
    · exact uncorrectableAt ..

theorem serve (s : State) (pa : Nat) : s.SameRecords (s.serve pa).2 := by
  have built := rebuild s (pa / 32)
  have failed := built.trans (rebuildFails s pa _)
  unfold State.serve
  dsimp only
  split
  · split
    · split
      next t e => rwa [e] at built
      next => exact failed
    · exact uncorrectableAt ..
  · split
    next e => exact of_pkgOnly (.readOwn e)
    next =>
      split
      · split
        next t e => rw [e] at built; exact built.trans (of_pkgOnly (.countCorrected ..))
        next => exact failed
      · exact uncorrectableAt ..

theorem readFirst (s : State) (pa : Nat) (whole : Bool) : s.SameRecords (s.readFirst pa whole).2 := by
  have mates := PkgOnly.readMates (s.stripeMates pa) s
  unfold State.readFirst
  split
  · exact refl s
  · split
    · split
      next e => rw [e] at mates; exact of_pkgOnly mates
      next e => rw [e] at mates; exact (of_pkgOnly mates).trans (uncorrectableAt ..)
    · exact serve ..

theorem writeSec (s : State) (pa : Nat) (b : List Byte) : s.SameRecords (s.writeSec pa b).2 := by
  have read := (of_pkgOnly (.settleOwn s pa)).trans (readFirst (s.settleOwn pa) pa (pa % 32 = 0 && b.length = 32))
  unfold State.writeSec
  split
  · exact of_pkgOnly (.wait s)
  · split
    next e => rw [e] at read; exact read.trans (of_pkgOnly (.store ..))
    next e => rwa [e] at read

theorem agentWrite (s : State) (agent pa : Nat) (b : List Byte) (via : Option Nat) :
    s.SameRecords (s.agentWrite agent pa b via) := by
  unfold State.agentWrite
  extract_lets ms
  split
  · exact of_eq rfl rfl rfl rfl
  · split
    · exact foldl (fun _ _ => updMeadow ..) _ s
    · exact writeSec ..

theorem physWrite (agent fuel pa : Nat) (b : List Byte) (s : State) : s.SameRecords (s.physWrite agent fuel pa b) := by
  induction fuel generalizing s pa b with
  | zero => exact refl s
  | succ n ih =>
    unfold State.physWrite
    split
    · exact refl s
    · exact (agentWrite ..).trans (ih ..)

theorem ringPut (s : State) (a : Nat) (b : List Byte) : s.SameRecords (s.ringPut a b) := physWrite ..

theorem raisePortCount (s : State) : s.SameRecords s.raisePortCount := (updTrn s _).trans (ringPut ..)

theorem hubNote {core queue : Nat} {u : NoteOf} {payload : List Byte} (e : s.hubNote core queue u payload = some t) :
    s.SameRecords t := by
  unfold State.hubNote at e
  split at e
  · cases e
  · split at e
    · cases e
    · cases e; exact of_eq rfl rfl rfl rfl

theorem frameNote (s : State) (frame slot flags missing : Nat) : s.SameRecords (s.frameNote frame slot flags missing) := by
  unfold State.frameNote
  split
  · exact refl s
  · dsimp only
    split
    next e => exact hubNote e
    next => exact updTrn ..

theorem finishFrame (s : State) (f : TrnFrame) : s.SameRecords (s.finishFrame f) :=
  ((((ringPut ..).trans (raisePortCount _)).trans (updTrn ..))).trans (frameNote ..)

theorem endSession (s : State) (code : Half) : s.SameRecords (s.endSession code) := by
  have finished : s.SameRecords (if s.trn.filmOut then s else s.finishAll) := by
    split
    · exact refl s
    · exact foldl finishFrame _ s
  unfold State.endSession
  split
  · exact refl s
  · exact finished.trans (updTrn ..)

/-! Teardown and the settings of a stream (R31, R57, R349, R362, R462). -/

theorem gateBase (s : State) (b : Nat) : s.SameRecords (s.gateBase b) := (updCores ..).trans (updBase ..)
theorem returnBase (s : State) (b : Nat) : s.SameRecords (s.returnBase b) := (updCores ..).trans (updBase ..)
theorem loseStores (s : State) (m k : Nat) : s.SameRecords (s.loseStores m k) := updMeadow ..

theorem teardown (s : State) (m slot : Nat) (bases : List Nat) : s.SameRecords (s.teardown m slot bases) := by
  have ended : s.SameRecords (if s.heath.trn.lanes ≠ 0 ∧ s.heath.trn.meadow = m then s.endSession Code.ok else s) := by
    split
    · exact endSession ..
    · exact refl s
  have abandoned (u : State) : u.SameRecords (u.abandonJobs m) := foldl (fun _ _ => updPipe ..) _ u
  unfold State.teardown
  exact (((ended.trans (abandoned _)).trans (freshKey ..)).trans
    (foldl (fun _ _ => (gateBase ..).trans (updCores ..)) bases _)).trans (updMeadow ..)

theorem random128 (s : State) : s.SameRecords s.random128.2 := freeBytes s 16

theorem putSettings (s t : State) : t.SameRecords (s.putSettings t).2 := by
  unfold State.putSettings
  dsimp only
  refine ((((foldl (fun u m => teardown u m _ []) _ t).trans (foldl (fun u c => ?owner) _ _)).trans
    (foldl (fun u n => ?moved) _ _)).trans (foldl (fun u m => ?made) _ _)).trans (foldl (fun u m => ?kept) _ _)
  case owner =>
    split
    · exact (gateBase ..).trans (updCores ..)
    · exact ((returnBase ..).trans (updCores ..)).trans (updBase ..)
  case moved =>
    split
    · split
      · exact updCore ..
      · exact (updCore ..).trans (loseStores ..)
    · exact updCore ..
  case made => exact ((freshKey ..).trans (random128 _)).trans (updMeadow ..)
  case kept =>
    split
    · exact refl u
    · exact freshKey ..

/-! The rest of an acceptance (R473, R477, R491) and of RETIRE (R451). -/

theorem cicOwners (s : State) : s.SameRecords s.cicOwners := foldl (fun _ _ => updPipe ..) _ s
theorem swApply (s : State) : s.SameRecords s.swApply := foldl (fun _ _ => updSw ..) _ s
theorem trnApply (s : State) : s.SameRecords s.trnApply := by unfold State.trnApply; exact updTrn ..

theorem failStopped (s : State) (ms : List Nat) : s.SameRecords (s.failStopped ms) := by
  refine foldl (fun u m => ?_) ms s
  split
  · exact failEpoch ..
  · exact refl u

theorem destroyKeys (s : State) : s.SameRecords s.destroyKeys := foldl freshKey _ s

theorem retireSweep (s : State) : s.SameRecords s.retireSweep := by
  unfold State.retireSweep
  split
  · exact refl s
  · exact foldl (fun _ _ => teardown ..) _ s

end State.SameRecords

end Sys2Proof.Machine

/-!
How Sexton ends a command of a mailbox, and what a guard request does (R446 to R448, R451, R464 to R466).
-/

namespace Sys2Proof.Machine

open Sys2Proof

/-! A command of a mailbox, handled and ended (R446 to R448, R471). -/

/-- Sexton handles the command: its row has its effect. -/
theorem State.Handles.onMail {s : State} {p op : Nat} {j : MailJob} (h : s.Handles p op j) (f : MailJob → State) :
    s.onMail p op f = f j := by
  have mine : ¬ j.op ≠ op := fun other => other h.same
  have runs : ¬ ((!s.sxt.fwRunning) = true ∧ op ≠ 1) := by
    rintro ⟨off, other⟩
    rcases h.running with on | one
    · simp [on] at off
    · exact other one
  unfold State.onMail
  rw [h.job]
  exact (if_neg mine).trans (if_neg runs)

@[simp] theorem State.mailEnd_ready (s : State) (p : Nat) (e : Half) (r : Nat) :
    ((s.mailEnd p e r).mbox p).ready = some (e, BitVec.ofNat 64 r) := by
  simp [State.mailEnd, State.updMbox, State.mbox, State.updSxt]

/-- An agent's command that ends a mailbox command and delays no request is complete. -/
theorem attemptWhole_mailEnd (c : Instr) {s t : State} (p : Nat) (e : Half) (r : Nat) (h : s.undelayed t) :
    s.attemptWhole c (.next (t.mailEnd p e r)) = .next (s.completed (t.mailEnd p e r)) :=
  attemptWhole_undelayed c (undelayed_updSxt s t _ h)

theorem completed_mailEnd_ready (s t : State) (p : Nat) (e : Half) (r : Nat) :
    ((s.completed (t.mailEnd p e r)).mbox p).ready = some (e, BitVec.ofNat 64 r) := by
  unfold State.mbox
  rw [(State.PkgOnly.completed s _).sxt]
  exact State.mailEnd_ready ..

/-- Neither the end of a mailbox command nor what its writes still bring about changes what Sexton has recorded. -/
theorem State.SameRecords.finished (s t : State) (p : Nat) (e : Half) (r : Nat) :
    t.SameRecords (s.completed (t.mailEnd p e r)) :=
  (State.SameRecords.updSxt t _ rfl rfl rfl).trans (.of_pkgOnly (.completed s (t.mailEnd p e r)))

/-! Guard requests (R464 to R466). -/

/-- The state in which an accepted guard request's SERIAL is taken. -/
def State.serialTaken (s : State) (b : List Byte) : State :=
  { s with qorf := { s.qorf with serial := BitVec.ofNat 32 (gSerial b), anyAccepted := true } }

section

variable {s : State} {p op : Nat} {j : MailJob} {b : List Byte} {bound : Bool} {f : MailJob → List Byte → State → State}
  (h : s.Handles p 3 j) (idle : s.sxt.repair.phase ≠ 4) (len : b.length = j.arg 1) (own : gOp b = op)

include h idle len own

/-- What the row of a request's own OP makes of it. -/
theorem State.guardRow_own : s.guardRow p op (some b) bound f =
    match s.gCheck b bound with | some c => s.mailEnd p c 0 | none => f j b (s.serialTaken b) := by
  have mine : ¬ (gOp b ≠ op ∧ guardOps.contains (gOp b) = true) := fun c => c.1 own
  unfold State.guardRow
  rw [h.onMail]
  exact (if_neg idle).trans ((if_neg mine).trans (if_neg fun other => other len))

/-- The first check that fails ends the request, and nothing else changes. -/
theorem State.guardRow_refused {e : Half} (bad : s.gCheck b bound = some e) :
    s.guardRow p op (some b) bound f = s.mailEnd p e 0 := by
  rw [State.guardRow_own h idle len own, bad]

/-- A request that passes its checks takes its SERIAL, then its effect. -/
theorem State.guardRow_accepted (good : s.gCheck b bound = none) :
    s.guardRow p op (some b) bound f = f j b (s.serialTaken b) := by
  rw [State.guardRow_own h idle len own, good]

/-- The same of a row that waits for no request. -/
theorem guardRow_next :
    (∀ e, s.gCheck b bound = some e → (.next (s.guardRow p op (some b) bound f) : Out) = .next (s.mailEnd p e 0))
    ∧ (s.gCheck b bound = none → (.next (s.guardRow p op (some b) bound f) : Out) = .next (f j b (s.serialTaken b))) :=
  ⟨fun _ bad => congrArg _ (State.guardRow_refused h idle len own bad),
    fun good => congrArg _ (State.guardRow_accepted h idle len own good)⟩

end

/-! RETIRE's effect (R451). -/

/-- A fresh key stays one, or gives way to one that is fresher. -/
theorem State.SameRecords.fresh {s t : State} (h : s.SameRecords t) {a k : Nat} (le : a ≤ s.free)
    (new : ∃ n, a ≤ n ∧ s.slotKey k = .random (n + 1)) : ∃ n, a ≤ n ∧ t.slotKey k = .random (n + 1) := by
  rcases h.keys k with same | ⟨n, hn, e⟩
  · rwa [same]
  · exact ⟨n, Nat.le_trans le hn, e⟩

theorem State.freshKey_slotKey (s : State) (k : Nat) : (s.freshKey k).slotKey k = .random (s.free + 1) :=
  Sparse.get_put_same (.random 0) s.pkg.keys k (.random (s.free + 1))

/-- Every slot of a list is filled with a key that was free before. -/
theorem State.freshKeys_slotKey {k : Nat} (l : List Nat) (hk : k ∈ l) (s : State) :
    ∃ n, s.free ≤ n ∧ (l.foldl State.freshKey s).slotKey k = .random (n + 1) := by
  induction l generalizing s with
  | nil => simp at hk
  | cons x r ih =>
    have one : s.SameRecords (s.freshKey x) := .freshKey s x
    have rest : (s.freshKey x).SameRecords (r.foldl State.freshKey (s.freshKey x)) := .foldl State.SameRecords.freshKey r _
    rcases List.mem_cons.mp hk with rfl | hr
    · exact rest.fresh one.free ⟨s.free, Nat.le_refl _, s.freshKey_slotKey k⟩
    · obtain ⟨n, hn, e⟩ := ih hr (s.freshKey x)
      exact ⟨n, Nat.le_trans one.free hn, e⟩

theorem State.destroyKeys_slotKey (s : State) {k : Nat} (hk : k < 64) :
    ∃ n, s.free ≤ n ∧ s.destroyKeys.slotKey k = .random (n + 1) :=
  State.freshKeys_slotKey _ ((mem_upFrom ..).mpr (by omega)) s

/-- RETIRE burns its bit, and every key slot holds a fresh random key; nothing else that Sexton records changes. -/
theorem State.retireNow_spec (s : State) : s.burnLife.SameRecords s.retireNow
    ∧ ∀ k, k < 64 → ∃ n, s.free ≤ n ∧ s.retireNow.slotKey k = .random (n + 1) := by
  have stopped := State.SameRecords.foldl State.SameRecords.sendStop s.burnLife.meadowIds s.burnLife
  have destroyed := stopped.trans (.destroyKeys _)
  refine ⟨destroyed.trans (.retireSweep _), fun k hk => ?_⟩
  obtain ⟨n, hn, e⟩ := State.destroyKeys_slotKey (s.burnLife.meadowIds.foldl State.sendStop s.burnLife) hk
  exact (State.SameRecords.retireSweep _).fresh destroyed.free ⟨n, Nat.le_trans stopped.free hn, e⟩

theorem execRetire_spec {p : PortIx} {j : MailJob} {b : List Byte} {s : State} (h : s.Handles p 3 j)
    (idle : s.sxt.repair.phase ≠ 4) (len : b.length = j.arg 1) (own : gOp b = 2) (good : s.gCheck b true = none)
    (free : s.undelayed (s.serialTaken b).retireNow) :
    ∃ t, execRetire p (some b) s = .next t ∧ t.sxt.lcBits = (s.serialTaken b).burnLife.sxt.lcBits
      ∧ t.sxt.journal = s.sxt.journal ∧ (t.mbox p).ready = some (Code.ok, 0) ∧ t.qorf = (s.serialTaken b).qorf
      ∧ ∀ k, k < 64 → ∃ n, s.free ≤ n ∧ t.slotKey k = .random (n + 1) := by
  obtain ⟨same, fresh⟩ := (s.serialTaken b).retireNow_spec
  have kept := same.trans (State.SameRecords.finished s _ p Code.ok 0)
  refine ⟨_, ?_, kept.lcBits, kept.journal, completed_mailEnd_ready .., kept.qorf, fun k hk => ?_⟩
  · unfold execRetire
    rw [State.guardRow_accepted h idle len own good]
    exact attemptWhole_mailEnd _ _ _ _ free
  · exact (State.SameRecords.finished s _ p Code.ok 0).fresh same.free (fresh k hk)

/-- A RETIRE that fails a check has no request that could wait. -/
theorem execRetire_refused {p : PortIx} {j : MailJob} {b : List Byte} {s : State} (h : s.Handles p 3 j)
    (idle : s.sxt.repair.phase ≠ 4) (len : b.length = j.arg 1) (own : gOp b = 2) {e : Half} (bad : s.gCheck b true = some e) :
    execRetire p (some b) s = .next (s.mailEnd p e 0) := by
  unfold execRetire
  rw [State.guardRow_refused h idle len own bad]
  exact attemptWhole_same _ (State.still_of_pkg rfl)

/-- Settles O34, OP by OP. -/
theorem guardRequestsTakeEffect : Obligations.GuardRequestsTakeEffect := by
  unfold Obligations.GuardRequestsTakeEffect
  intro p j b cert s h idle len u burn add rows
  refine ⟨?set, ?retire, ?ret, ?provision, ?certify, ?entry⟩
  case set => exact fun own => guardRow_next h idle len own
  case retire => exact fun own => ⟨fun e => execRetire_refused h idle len own, execRetire_spec h idle len own⟩
  case ret => exact fun own => guardRow_next h idle len own
  case provision => exact fun own => guardRow_next h idle len own
  case certify => exact fun own => guardRow_next h idle len own
  case entry => exact fun own => guardRow_next h idle len own

end Sys2Proof.Machine

/-!
How FIRMWARE_LOAD starts the firmware and STREAM_LOAD puts a stream in force (R44, R63, R454, R471, R476).
-/

namespace Sys2Proof.Machine

open Sys2Proof

/-! A refusal at a step of start-up that waits for the host (R471, R476). -/

theorem State.bootRefuse_waits {s : State} (code : Half) (h : s.sxt.bootStep = 5 ∨ s.sxt.bootStep = 9) :
    s.bootRefuse code = s.updSxt fun x => { x with bootCode := code, waiting := true } := if_pos h

theorem State.bootRefuse_other {s : State} (code : Half) (h : ¬ (s.sxt.bootStep = 5 ∨ s.sxt.bootStep = 9)) :
    s.bootRefuse code = s := if_neg h

/-! Firmware (R454 to R456, R473). -/

/-- The firmware of an image runs; its identity and the links have not begun. -/
def State.fwTaken (s : State) (b : List Byte) : State :=
  { s.updSxt fun x =>
      { x with
        svn := if bitOf (fieldNat b 9 1) 0 then max x.svn (fieldNat b 8 1) else x.svn, fwRunning := true,
        fwHash := sha256 (b.take (64 + fieldNat b 4 4)), kem := s.free } with
    free := s.free + 1568 }

/-- No leaf of the identity's first level is left to a cold start (R456, R457). -/
abbrev State.leafless (s : State) : Prop := s.life = .blank ∨ s.life = .vendorTest ∨ 32768 ≤ s.sxt.leaves

theorem State.makeIdentity_leafless {s : State} (h : s.leafless) :
    s.makeIdentity = s.updSxt fun x => { x with bootLeaf := none, sigsLeft := 0, idTree := none } := if_pos h

theorem State.makeIdentity_leaf {s : State} (h : ¬ s.leafless) : ∃ k, s.makeIdentity.sxt =
    { s.sxt with idTree := some k, leaves := s.sxt.leaves + 1, bootLeaf := some s.sxt.leaves, sigsLeft := 1024 } :=
  ⟨_, congrArg State.sxt (if_neg h)⟩

theorem State.swStart_sxt (s : State) : s.swStart.sxt = s.sxt := by
  unfold State.swStart
  exact List.foldlRecOn (motive := fun t : State => t.sxt = s.sxt) _ _ rfl fun _ ht _ _ => ht

theorem State.startLinks_sxt (s : State) : s.startLinks.sxt =
    { s.sxt with bootStep := 6, waiting := false, bootCode := Code.ok, stacksDone := false } := by
  unfold State.startLinks
  dsimp only
  split
  · exact State.swStart_sxt _
  · exact State.swStart_sxt _

theorem execFirmwareLoad_off {p : PortIx} {j : MailJob} {s : State} (h : s.Handles p 1 j)
    (late : s.sxt.fwRunning = true ∨ s.sxt.bootStep ≠ 5) (d : Option (List Byte)) :
    execFirmwareLoad p d s = .next (s.mailEnd p Code.sxtOp 0) := by
  unfold execFirmwareLoad
  rw [h.onMail]
  exact congrArg _ (if_pos late)

section

variable {p : PortIx} {j : MailJob} {s : State} (h : s.Handles p 1 j) (off : s.sxt.fwRunning = false)
  (step : s.sxt.bootStep = 5)

include h off step

theorem execFirmwareLoad_none : execFirmwareLoad p none s
    = .next ((s.mailEnd p Code.sxtDma 0).updSxt fun x => { x with waiting := true }) := by
  have waits : ¬ (s.sxt.fwRunning = true ∨ s.sxt.bootStep ≠ 5) := by simp [off, step]
  unfold execFirmwareLoad
  rw [h.onMail]
  exact congrArg _ (if_neg waits)

/-- The checks of an image, in their order. -/
theorem execFirmwareLoad_some (b : List Byte) : execFirmwareLoad p (some b) s = .next (
    if (!fwFormatOk s.part b) = true then (s.mailEnd p Code.fwFormat 0).bootRefuse Code.fwFormat
    else if (!s.gnoelliaSigns (b.drop (64 + fieldNat b 4 4)) (b.take (64 + fieldNat b 4 4))) = true then
      (s.mailEnd p Code.fwSignature 0).bootRefuse Code.fwSignature
    else if fieldNat b 8 1 < s.sxt.svn then (s.mailEnd p Code.fwRollback 0).bootRefuse Code.fwRollback
    else (s.fwTaken b).makeIdentity.startLinks.mailEnd p Code.ok 0) := by
  have waits : ¬ (s.sxt.fwRunning = true ∨ s.sxt.bootStep ≠ 5) := by simp [off, step]
  unfold execFirmwareLoad
  rw [h.onMail]
  exact congrArg _ (if_neg waits)

end

/-- What an image that starts leaves of Sexton. -/
theorem State.fwStarted_spec (s : State) (b : List Byte) :
    let x := (s.fwTaken b).makeIdentity.startLinks.sxt
    x.fwRunning = true ∧ x.bootStep = 6 ∧ x.fwHash = sha256 (b.take (64 + fieldNat b 4 4))
      ∧ x.svn = (if bitOf (fieldNat b 9 1) 0 then max s.sxt.svn (fieldNat b 8 1) else s.sxt.svn)
      ∧ x.idTree.isSome = x.bootLeaf.isSome
      ∧ (if s.leafless then x.bootLeaf = none ∧ x.leaves = s.sxt.leaves
        else x.bootLeaf = some s.sxt.leaves ∧ x.leaves = s.sxt.leaves + 1 ∧ x.sigsLeft = 1024) := by
  have same : (s.fwTaken b).leafless ↔ s.leafless := Iff.rfl
  dsimp only
  rw [State.startLinks_sxt]
  by_cases none : s.leafless
  · rw [State.makeIdentity_leafless (same.mpr none), if_pos none]
    exact ⟨rfl, rfl, rfl, rfl, rfl, rfl, rfl⟩
  · obtain ⟨k, leaf⟩ := State.makeIdentity_leaf (mt same.mp none)
    rw [leaf, if_neg none]
    exact ⟨rfl, rfl, rfl, rfl, rfl, rfl, rfl, rfl⟩

/-! Acceptance of a stream (R41, R45, R63, R477). -/

/-- The record of the streams in force after an accepted stream, over the record `x` (R41). -/
def QOk.record (q : QOk) (x : Qorf) : Qorf :=
  { x with
    code := Code.ok, word := 0, serial := BitVec.ofNat 32 q.serial, anyAccepted := true,
    fullSerial := if q.full then BitVec.ofNat 32 q.serial else x.fullSerial,
    fullDigest := if q.full then q.digest else x.fullDigest,
    partials := if q.full then List.replicate 32 0 else sha256 (x.partials ++ q.digest),
    held := if q.full then [q.bytes] else x.held ++ [q.bytes] }

theorem State.acceptGuard_qorf (s : State) (r : QRec) : (s.acceptGuard r).qorf = s.qorf := by
  have registered (g : Guard) : (s.registerGuard g).qorf = s.qorf := by
    unfold State.registerGuard
    split <;> rfl
  unfold State.acceptGuard
  dsimp only
  split
  · rfl
  · exact registered _
  · exact registered _

theorem State.bootDone_spec (s : State) : s.bootDone.qorf = s.qorf ∧ s.bootDone.sxt.bootStep = 11 := by
  have raised := (State.SameRecords.raise (s.updSxt fun x => { x with bootStep := 11, waiting := false, bootCode := Code.ok })
    0 0 12).trans (.raise _ 1 0 12)
  exact ⟨raised.qorf, raised.bootStep⟩

theorem State.startAdmission_spec (s : State) :
    s.startAdmission.qorf = s.qorf ∧ 10 ≤ s.startAdmission.sxt.bootStep := by
  unfold State.startAdmission
  extract_lets t
  split
  · exact ⟨rfl, Nat.le_refl _⟩
  · split
    · obtain ⟨qorf, step⟩ := t.bootDone_spec
      exact ⟨qorf, by rw [step]; decide⟩
    · have sent := State.SameRecords.issueAdmits t t.startCores .startup
      exact ⟨sent.qorf, Nat.le_of_eq sent.bootStep.symm⟩

/-- The settings, the guard state and the record of an accepted stream in force; what follows from them is still to come. -/
def State.recorded (s : State) (q : QOk) : State :=
  let t := (s.putSettings q.set).2
  let t := match q.guard with | some r => t.acceptGuard r | none => t
  State.cicOwners { t with qorf := q.record t.qorf }

theorem State.recorded_qorf (s : State) (q : QOk) : (s.recorded q).qorf = q.record q.set.qorf := by
  have set := (State.SameRecords.putSettings s q.set).qorf
  have guarded : (match q.guard with
      | some r => (s.putSettings q.set).2.acceptGuard r
      | none => (s.putSettings q.set).2).qorf = q.set.qorf := by
    split
    · exact (State.acceptGuard_qorf _ _).trans set
    · exact set
  exact (State.SameRecords.cicOwners _).qorf.trans (congrArg q.record guarded)

theorem State.acceptQorf_eq (s : State) (q : QOk) (admits : Option StemBy) : s.acceptQorf q admits =
    let t := s.recorded q
    if q.full then
      let u : State := { t with power := { t.power with cap := t.heath.cap.getD t.part.watts } }
      u.swApply.trnApply.startAdmission
    else
      let u := t.failStopped (s.meadowIds.filter fun m => bitOf q.scope m)
      match admits with | some by_ => u.issueAdmits (s.putSettings q.set).1 by_ | none => u := rfl

/-- The record of the streams in force after an acceptance; a full stream begins admission. -/
theorem State.acceptQorf_spec (s : State) (q : QOk) (admits : Option StemBy) :
    (s.acceptQorf q admits).qorf = q.record q.set.qorf ∧ (q.full = true → 10 ≤ (s.acceptQorf q admits).sxt.bootStep) := by
  rw [State.acceptQorf_eq, ← s.recorded_qorf q]
  generalize s.recorded q = t
  dsimp only
  split
  next full =>
    have capped : t.SameRecords { t with power := { t.power with cap := t.heath.cap.getD t.part.watts } } := .of_eq rfl rfl rfl rfl
    have applied := (capped.trans (.swApply _)).trans (.trnApply _)
    exact ⟨(State.startAdmission_spec _).1.trans applied.qorf, fun _ => (State.startAdmission_spec _).2⟩
  next partly =>
    have failed := State.SameRecords.failStopped t (s.meadowIds.filter fun m => bitOf q.scope m)
    refine ⟨?_, fun full => absurd full partly⟩
    split
    · exact (failed.trans (.issueAdmits ..)).qorf
    · exact failed.qorf

/-! STREAM_LOAD (R44, R63, R448, R476). -/

theorem State.updSxt_congr {s : State} {f g : Sexton → Sexton} (h : f s.sxt = g s.sxt) : s.updSxt f = s.updSxt g := by
  unfold State.updSxt; rw [h]

/-- Step 9 of start-up waits for the host again; at any other step nothing waits (R476). -/
theorem State.updSxt_waiting_or_step9 (s : State) : (s.updSxt fun x => { x with waiting := x.waiting || x.bootStep == 9 }) =
    if s.sxt.bootStep = 9 then s.updSxt fun x => { x with waiting := true } else s := by
  split
  next at9 => exact State.updSxt_congr (congrArg (fun w => { s.sxt with waiting := w }) (by simp [at9]))
  next other =>
    have same : (s.sxt.waiting || s.sxt.bootStep == 9) = s.sxt.waiting := by simp [other]
    exact (State.updSxt_congr (g := id) (congrArg (fun w => { s.sxt with waiting := w }) same)).trans rfl

/-- The stream's words copied into Sexton's reserved area (R40). -/
def State.copied (s : State) (b : List Byte) : State := { s with qorf := { s.qorf with copy := b } }

/-- The checks of a stream, one submitted before step 9 being checked as at that step (R45, R476). -/
def State.checkCopied (s : State) (j : MailJob) (b : List Byte) : Except QErr QOk :=
  ((s.copied b).updSxt fun x => { x with bootStep := if j.step < 9 then j.step else x.bootStep }).checkStream (j.arg 1) b

/-- A stream that fails a check, with its code and the word at fault. -/
def State.streamFailed (s : State) (p : PortIx) (b : List Byte) (e : Half) (w : Nat) : State :=
  let t := s.copied b
  { t with qorf := { t.qorf with code := e, word := w } }.mailEnd p e 0

section

variable {p : PortIx} {j : MailJob} {b : List Byte} {s : State} (h : s.Handles p 2 j)

include h

theorem execStreamLoad_busy (busy : s.sxt.repair.phase = 4) (d : Option (List Byte)) :
    execStreamLoad p d s = .next (s.mailEnd p Code.qBusy 0) := by
  unfold execStreamLoad
  rw [h.onMail]
  exact (congrArg (fun t => s.attemptWhole _ (.next t)) (if_pos busy)).trans (attemptWhole_same _ (State.still_of_pkg rfl))

variable (idle : s.sxt.repair.phase ≠ 4)

include idle

theorem execStreamLoad_none : execStreamLoad p none s
    = .next ((s.mailEnd p Code.sxtDma 0).updSxt fun x => { x with waiting := x.waiting || x.bootStep == 9 }) := by
  unfold execStreamLoad
  rw [h.onMail]
  exact (congrArg (fun t => s.attemptWhole _ (.next t)) (if_neg idle)).trans (attemptWhole_same _ (State.still_of_pkg rfl))

theorem execStreamLoad_some : execStreamLoad p (some b) s = s.attemptWhole (.streamLoad p (some b)) (.next (
    match s.checkCopied j b with
    | .error (e, w) => (s.streamFailed p b e w).bootRefuse e
    | .ok q => ((s.copied b).acceptQorf q (some .sexton)).mailEnd p Code.ok q.serial)) := by
  unfold execStreamLoad
  rw [h.onMail]
  exact congrArg (fun t => s.attemptWhole _ (.next t)) (if_neg idle)

theorem execStreamLoad_error {e : Half} {w : Nat} (bad : s.checkCopied j b = .error (e, w)) :
    execStreamLoad p (some b) s = .next ((s.streamFailed p b e w).bootRefuse e) := by
  have pkg : ((s.streamFailed p b e w).bootRefuse e).pkg = s.pkg := by
    unfold State.bootRefuse
    split <;> rfl
  rw [execStreamLoad_some h idle, bad]
  exact attemptWhole_same _ (State.still_of_pkg pkg)

theorem execStreamLoad_ok {q : QOk} (good : s.checkCopied j b = .ok q)
    (free : s.undelayed ((s.copied b).acceptQorf q (some .sexton))) : execStreamLoad p (some b) s
      = .next (s.completed (((s.copied b).acceptQorf q (some .sexton)).mailEnd p Code.ok q.serial)) := by
  rw [execStreamLoad_some h idle, good]
  exact attemptWhole_mailEnd _ _ _ _ free

end

/-- Settles O33: an image and then a stream, refused at each check and accepted. -/
theorem firmwareAndStreamsAreLoaded : Obligations.FirmwareAndStreamsAreLoaded := by
  unfold Obligations.FirmwareAndStreamsAreLoaded
  intro p j b s refused svn n signed
  refine ⟨execFirmwareLoad_off, fun h off step => ?firmware, fun h => ?stream⟩
  case firmware =>
    have run := execFirmwareLoad_some h off step b
    have refuse (e : Half) : (.next ((s.mailEnd p e 0).bootRefuse e) : Out) = refused e :=
      congrArg _ (State.bootRefuse_waits (s := s.mailEnd p e 0) e (.inl step))
    have formed (good : fwFormatOk s.part b = true) : ¬ (!fwFormatOk s.part b) = true := by simp [good]
    have signs (sign : signed = true) : ¬ (!signed) = true := by simp [sign]
    refine ⟨execFirmwareLoad_none h off step, fun bad => ?_, fun good bad => ?_, fun good sign low => ?_,
      fun good sign high => ?_⟩
    · exact run.trans ((congrArg _ (if_pos (by simp [bad]))).trans (refuse _))
    · exact run.trans ((congrArg _ ((if_neg (formed good)).trans
        (if_pos (show (!signed) = true by simp [bad])))).trans (refuse _))
    · exact run.trans ((congrArg _ ((if_neg (formed good)).trans
        ((if_neg (signs sign)).trans (if_pos low)))).trans (refuse _))
    · obtain ⟨fw, at6, hash, version, tree, leaf⟩ := s.fwStarted_spec b
      exact ⟨_, run.trans (congrArg _ ((if_neg (formed good)).trans
        ((if_neg (signs sign)).trans (if_neg (Nat.not_lt.mpr high))))), fw, at6, hash, version,
        State.mailEnd_ready .., tree, leaf⟩
  case stream =>
    intro kept check failed
    refine ⟨fun d busy => execStreamLoad_busy h busy d, fun idle not5 not9 => ⟨?_, fun e w bad => ?_⟩,
      fun idle at9 => ⟨?_, fun e w bad => ?_⟩, fun q idle good free => ?_⟩
    · exact (execStreamLoad_none h idle).trans (congrArg _ ((State.updSxt_waiting_or_step9 _).trans (if_neg not9)))
    · exact (execStreamLoad_error h idle bad).trans (congrArg _ (State.bootRefuse_other e (not_or.mpr ⟨not5, not9⟩)))
    · exact (execStreamLoad_none h idle).trans (congrArg _ ((State.updSxt_waiting_or_step9 _).trans (if_pos at9)))
    · exact (execStreamLoad_error h idle bad).trans (congrArg _ (State.bootRefuse_waits e (.inr at9)))
    · obtain ⟨record, admission⟩ := State.acceptQorf_spec (s.copied b) q (some .sexton)
      have kept := State.SameRecords.finished s ((s.copied b).acceptQorf q (some .sexton)) p Code.ok q.serial
      have qorf := kept.qorf.trans record
      refine ⟨_, execStreamLoad_ok h idle good free, completed_mailEnd_ready .., ?_⟩
      rw [qorf, kept.bootStep]
      refine ⟨rfl, rfl, rfl, rfl, ?_⟩
      split
      next full => simp [QOk.record, full, admission full]
      next partly => simp [QOk.record, partly]

end Sys2Proof.Machine

/-!
The 16 lanes of a vector register, and what a lane-wise instruction of a row step leaves of its core (R140 to R142, R145, R146).
-/

namespace Sys2Proof.Machine

open Sys2Proof

/-! Lanes written and read (R140, R141). -/

/-- The first `k` lanes as one number. -/
def laneSum (f : Nat → Nat) (k : Nat) : Nat := (List.range k).foldl (fun a j => a + f j % 2 ^ 32 * 2 ^ (32 * j)) 0

theorem laneSum_succ (f : Nat → Nat) (k : Nat) : laneSum f (k + 1) = laneSum f k + f k % 2 ^ 32 * 2 ^ (32 * k) := by
  simp [laneSum, List.range_succ]

theorem laneSum_lt (f : Nat → Nat) (k : Nat) : laneSum f k < 2 ^ (32 * k) := by
  induction k with
  | zero => simp [laneSum]
  | succ k ih =>
    have digit : f k % 2 ^ 32 + 1 ≤ 2 ^ 32 := Nat.mod_lt _ (by decide)
    calc laneSum f (k + 1) < (f k % 2 ^ 32 + 1) * 2 ^ (32 * k) := by
          rw [laneSum_succ, Nat.add_mul, Nat.one_mul, Nat.add_comm]
          exact Nat.add_lt_add_left ih _
      _ ≤ 2 ^ 32 * 2 ^ (32 * k) := Nat.mul_le_mul_right _ digit
      _ = 2 ^ (32 * (k + 1)) := by rw [← Nat.pow_add]; congr 1; omega

/-- Each lane is a digit of the number: the lanes above it do not reach it, and those below it are shifted out. -/
theorem laneSum_digit (f : Nat → Nat) {k j : Nat} (h : j < k) : laneSum f k / 2 ^ (32 * j) % 2 ^ 32 = f j % 2 ^ 32 := by
  induction k with
  | zero => omega
  | succ k ih =>
    rw [laneSum_succ]
    rcases Nat.lt_succ_iff_lt_or_eq.mp h with below | rfl
    · have above : f k % 2 ^ 32 * 2 ^ (32 * k) = 2 ^ (32 * j) * (2 ^ 32 * (f k % 2 ^ 32 * 2 ^ (32 * (k - j - 1)))) := by
        rw [show 32 * k = 32 * j + (32 + 32 * (k - j - 1)) by omega, Nat.pow_add, Nat.pow_add, Nat.mul_left_comm,
          Nat.mul_left_comm (f k % 2 ^ 32)]
      rw [above, Nat.add_mul_div_left _ _ (Nat.two_pow_pos _), Nat.add_mul_mod_self_left, ih below]
    · rw [Nat.add_mul_div_right _ _ (Nat.two_pow_pos _), Nat.div_eq_of_lt (laneSum_lt f j), Nat.zero_add, Nat.mod_mod]

theorem toNat_ofLanes (f : Nat → Nat) : (ofLanes f).toNat = laneSum f 16 := by
  have whole {w k : Nat} (h : 32 * k ≤ w) : (BitVec.ofNat w (laneSum f k)).toNat = laneSum f k := by
    rw [BitVec.toNat_ofNat]
    exact Nat.mod_eq_of_lt (Nat.lt_of_lt_of_le (laneSum_lt f k) (Nat.pow_le_pow_right (by decide) h))
  exact whole (k := 16) (by decide)

theorem laneOf_ofLanes (f : Nat → Nat) {j : Nat} (h : j < 16) : laneOf (ofLanes f) j = f j % 2 ^ 32 := by
  unfold laneOf lineWord bitsOf
  rw [toNat_ofLanes, Nat.shiftRight_eq_div_pow, show 32 * j + 31 + 1 - 32 * j = 32 by omega, laneSum_digit f h]

theorem laneOf_pair (f : Nat → Nat) {j : Nat} (h : j < 16) :
    laneOf (ofLanes f) j + laneOf (ofLanes fun j => f j / 2 ^ 32) j * 2 ^ 32 = f j % 2 ^ 64 := by
  rw [laneOf_ofLanes _ h, laneOf_ofLanes _ h, Nat.mul_comm, ← Nat.mod_mul, ← Nat.pow_add]

theorem Core.setLanes_false (c : Core) (r : Nat) (f : Nat → Nat) : c.setLanes false r f = c.setV r (ofLanes f) :=
  if_neg Bool.false_ne_true

theorem Core.setLanes_true (c : Core) (r : Nat) (f : Nat → Nat) : c.setLanes true r f =
    (c.setV (2 * (r / 2)) (ofLanes f)).setV (2 * (r / 2) + 1) (ofLanes fun j => f j / 2 ^ 32) := if_pos rfl

theorem Core.lane_false (c : Core) (r j : Nat) : c.lane false r j = laneOf (c.vr r) j := if_neg Bool.false_ne_true

theorem Core.lane_true (c : Core) (r j : Nat) : c.lane true r j =
    laneOf (c.vr (2 * (r / 2))) j + laneOf (c.vr (2 * (r / 2) + 1)) j * 2 ^ 32 := if_pos rfl

@[simp] theorem Core.setLanes_near (c : Core) (w : Bool) (r : Nat) (f : Nat → Nat) : (c.setLanes w r f).near = c.near := by
  cases w with
  | false => rw [Core.setLanes_false, Core.setV_near]
  | true => rw [Core.setLanes_true, Core.setV_near, Core.setV_near]

/-- A lane reads what was written, to the width of the register or of the pair. -/
theorem Core.lane_setLanes (c : Core) (w : Bool) (r : Nat) (f : Nat → Nat) {j : Nat} (h : j < 16) :
    (c.setLanes w r f).lane w r j = f j % 2 ^ (if w then 64 else 32) := by
  cases w with
  | false => rw [if_neg Bool.false_ne_true, Core.setLanes_false, Core.lane_false, Core.setV_vr_same, laneOf_ofLanes f h]
  | true =>
    have apart : 2 * (r / 2) + 1 ≠ 2 * (r / 2) := Nat.succ_ne_self _
    rw [if_pos rfl, Core.setLanes_true, Core.lane_true, Core.setV_vr_ne _ _ apart, Core.setV_vr_same, Core.setV_vr_same,
      laneOf_pair f h]

theorem Core.lane_of_v {c k : Core} (h : c.v = k.v) (w : Bool) (r j : Nat) : c.lane w r j = k.lane w r j := by
  unfold Core.lane Core.vr
  rw [h]

/-! The row step of the sweep in force (R142, R185). -/

theorem Core.putOp_eng (c : Core) (e : Nat) (o : EngOp) : ∃ q, c.putOp e o = { c with eng := q } := by
  unfold Core.putOp
  split
  next => exact ⟨_, rfl⟩
  next => exact ⟨c.eng, rfl⟩

/-- Whatever an engine's running operation becomes, its core changes in its engines alone. -/
theorem State.updOp_eng (s : State) (n e : Nat) (f : EngOp → EngOp) :
    ∃ q, s.updOp n e f = s.updCore n fun k => { k with eng := q } := by
  unfold State.updOp
  cases running : (s.core n).running e with
  | none => exact ⟨(s.core n).eng, State.updCore_congr (by rw [running])⟩
  | some o =>
    obtain ⟨q, put⟩ := (s.core n).putOp_eng e (f o)
    exact ⟨q, State.updCore_congr (by rw [running, ← put])⟩

/-- A core as the instruction at the position of operation `o` in its sweep finds it. -/
def EngOp.rowCore (o : EngOp) (sw : Sweep) (k : Core) : Core :=
  if o.ip = 0 then rowStart k sw (sw.step o.tile o.row) else k

/-- What a row step does before its instruction concerns a statistic slot alone. -/
theorem EngOp.rowCore_slots (o : EngOp) (sw : Sweep) (k : Core) : ∃ l, o.rowCore sw k = { k with slots := l } := by
  unfold EngOp.rowCore rowStart
  split
  · split
    · exact ⟨_, rfl⟩
    · exact ⟨k.slots, rfl⟩
  · exact ⟨k.slots, rfl⟩

/-- A core after instruction `op` at that position, which reads the system registers in state `s`. -/
def State.rowResult (s : State) (n : Nat) (o : EngOp) (sw : Sweep) (op : TOp) (f : TFields) (k : Core) : Core :=
  tileCore (o.rowCore sw k) sw (sw.step o.tile o.row) (fun ix => (s.sysreg n ix).toNat % 2 ^ 32) op f

section

variable {s : State} {n e : Nat} {o : EngOp} {sw : Sweep} {op : TOp} {f : TFields}

/-- Within a sweep, and at the end of a VX operation's, what follows an instruction is a new position of its operation. -/
theorem State.sweepStep_updOp (on : sw.after o.tile o.row o.ip ≠ none ∨ o.stage = .vx) :
    ∃ g, s.sweepStep n e o sw op f = (s.updCore n (s.rowResult n o sw op f)).updOp n e g := by
  unfold State.sweepStep
  extract_lets st t
  split
  next => exact ⟨_, rfl⟩
  next last =>
    have vx : o.stage = .vx := on.resolve_left fun more => more last
    exact ⟨fun o => { o with stage := .work, vdone := true }, by unfold State.sweepEnd; rw [vx]; rfl⟩

variable (h : s.AtRow n e o sw op f) (on : sw.after o.tile o.row o.ip ≠ none ∨ o.stage = .vx)

include h on

/-- The next instruction of a program has its effect on the core, and the sweep moves on. -/
theorem State.AtRow.tile :
    ∃ q, s.tile n op f = s.updCore n fun k => { s.rowResult n o sw op f k with eng := q } := by
  have runs : s.tile n op f = s.sweepStep n e o sw op f := by
    simp only [State.tile, h.sweeping, h.sweep, h.next, if_true]
  obtain ⟨g, moved⟩ := State.sweepStep_updOp (s := s) (n := n) (e := e) (op := op) (f := f) on
  obtain ⟨q, engines⟩ := State.updOp_eng (s.updCore n (s.rowResult n o sw op f)) n e g
  exact ⟨q, by rw [runs, moved, engines, State.updCore_updCore]⟩

/-- An instruction of a row step asks nothing of package memory. -/
theorem State.AtRow.attempt (i : Instr) : s.attempt i (.next (s.tile n op f)) = .next (s.tile n op f) := by
  obtain ⟨q, step⟩ := h.tile on
  exact attempt_same i (State.still_of_pkg (by rw [step]; rfl))

/-- An instruction that writes `g` of VA, VB and VC to VD does so in each lane, and writes no near store. -/
theorem State.AtRow.lanewise {i : Instr} (arm : exec i s = s.attempt i (.next (s.tile n op f))) (g : Nat → Nat → Nat → Nat)
    (body : ∀ k st sys, tileCore k sw st sys op f = k.setLanes f.w f.vd.toNat fun j =>
      g (k.lane f.w f.va.toNat j) (k.lane f.w f.vb.toNat j) (k.lane f.w f.vc.toNat j)) :
    ∃ t, exec i s = .next t ∧ (t.core n).near = (s.core n).near ∧ ∀ j, j < 16 → (t.core n).lane f.w f.vd.toNat j
      = g ((s.core n).lane f.w f.va.toNat j) ((s.core n).lane f.w f.vb.toNat j) ((s.core n).lane f.w f.vc.toNat j)
        % 2 ^ (if f.w then 64 else 32) := by
  obtain ⟨q, step⟩ := h.tile on
  obtain ⟨l, found⟩ := o.rowCore_slots sw (s.core n)
  refine ⟨_, arm.trans (h.attempt on i), ?_, fun j lane => ?_⟩
  · simp [step, State.rowResult, body, found]
  · rw [step, State.updCore_core_same, State.rowResult, body, found]
    exact (Core.lane_of_v rfl ..).trans (Core.lane_setLanes _ _ _ _ lane)

end

/-! The instructions (R145, R146). -/

/-- A comparison's mask is of VD's width; a NaN operand orders with nothing, so that its mask is zero. -/
theorem cmpLanes_eq (k : Core) (f : TFields) (p : Ordering → Bool) : cmpLanes k f p = k.setLanes f.w f.vd.toNat fun j =>
    if (cmpF (wf f.w) (k.lane f.w f.va.toNat j) (k.lane f.w f.vb.toNat j)).any p then 2 ^ (if f.w then 64 else 32) - 1
    else 0 := by
  refine congrArg (k.setLanes f.w f.vd.toNat) (funext fun j => ?_)
  dsimp only
  generalize cmpF (wf f.w) (k.lane f.w f.va.toNat j) (k.lane f.w f.vb.toNat j) = order
  cases order with
  | none => rfl
  | some o => cases f.w <;> rfl

theorem selLanes_eq (k : Core) (sw : Sweep) (st : Step) (sys : Nat → Nat) (f : TFields) :
    tileCore k sw st sys .sel f = k.setLanes f.w f.vd.toNat fun j =>
      (k.lane f.w f.va.toNat j &&& k.lane f.w f.vc.toNat j)
        ||| (k.lane f.w f.vb.toNat j &&& (k.lane f.w f.vc.toNat j ^^^ (2 ^ (if f.w then 64 else 32) - 1))) := by
  have ones : maskIf f.w true = 2 ^ (if f.w then 64 else 32) - 1 := by cases f.w <;> rfl
  rw [← ones]
  rfl

/-- Settles O24: each instruction writes its operation of VA, VB and VC lane by lane. -/
theorem tileLaneArithmetic : Obligations.TileLaneArithmetic := by
  unfold Obligations.TileLaneArithmetic
  intro c f s e o sw k m width lane holds
  have lanewise {i : Instr} {op : TOp} {g : Nat → Nat → Nat → Nat} (arm : exec i s = s.attempt i (.next (s.tile c op f)))
      (body : ∀ k st sys, tileCore k sw st sys op f = k.setLanes f.w f.vd.toNat fun j =>
        g (k.lane f.w f.va.toNat j) (k.lane f.w f.vb.toNat j) (k.lane f.w f.vc.toNat j)) : lane i op g :=
    fun h on => h.lanewise on arm g body
  clear_value lane
  refine ⟨?add, ?sub, ?mul, ?fma, ?min, ?max, ?ceq, ?clt, ?cle, ?and, ?or, ?xor, ?sel⟩
  case add => exact lanewise rfl fun _ _ _ => rfl
  case sub => exact lanewise rfl fun _ _ _ => rfl
  case mul => exact lanewise rfl fun _ _ _ => rfl
  case fma => exact lanewise rfl fun _ _ _ => rfl
  case min => exact lanewise rfl fun _ _ _ => rfl
  case max => exact lanewise rfl fun _ _ _ => rfl
  case ceq => exact lanewise rfl fun k _ _ => cmpLanes_eq k f (· == .eq)
  case clt => exact lanewise rfl fun k _ _ => cmpLanes_eq k f (· == .lt)
  case cle => exact lanewise rfl fun k _ _ => cmpLanes_eq k f (· != .gt)
  case and => exact lanewise rfl fun _ _ _ => rfl
  case or => exact lanewise rfl fun _ _ _ => rfl
  case xor => exact lanewise rfl fun _ _ _ => rfl
  case sel => exact lanewise rfl fun k st sys => selLanes_eq k sw st sys f

end Sys2Proof.Machine

/-!
What the array leaves in its cells and in the near store, and how MM_COMPLETE ends an operation (R79, R82, R100, R124, R127, R136).
-/

namespace Sys2Proof.Machine

open Sys2Proof

/-! The outputs and their cells (R127). -/

theorem EngOp.mem_outs (o : EngOp) (m n : Nat) : (m, n) ∈ o.outs ↔ m < o.em ∧ n < o.en := by
  simp only [EngOp.outs, List.mem_flatMap, List.mem_map, List.mem_range, Prod.mk.injEq]
  constructor
  · rintro ⟨_, hm, _, hn, rfl, rfl⟩
    exact ⟨hm, hn⟩
  · rintro ⟨hm, hn⟩
    exact ⟨m, hm, n, hn, rfl, rfl⟩

/-- Different outputs have different cells. -/
theorem EngOp.cellIx_inj (o : EngOp) {m n i j : Nat} (hn : n < o.en) (hj : j < o.en) (h : o.cellIx m n = o.cellIx i j) :
    m = i ∧ n = j := by
  have place : o.en * m + n = o.en * i + j := by unfold EngOp.cellIx at h; omega
  have row {a b : Nat} (hb : b < o.en) : (o.en * a + b) / o.en = a := by
    rw [Nat.mul_add_div (Nat.zero_lt_of_lt hb), Nat.div_eq_of_lt hb, Nat.add_zero]
  have rows : m = i := by rw [← row (a := m) hn, place, row hj]
  subst rows
  exact ⟨rfl, Nat.add_left_cancel place⟩

/-- No output's cell is another's, so that each is written once. -/
theorem EngOp.cells_nodup (o : EngOp) : (o.outs.map fun p => o.cellIx p.1 p.2).Nodup := by
  rw [EngOp.outs, List.Nodup, List.pairwise_map, List.pairwise_flatMap]
  refine ⟨fun m _ => ?row, List.nodup_range.imp_of_mem fun {m i} _ _ apart => ?rows⟩
  case row =>
    refine List.pairwise_map.mpr (List.nodup_range.imp_of_mem fun {n j} hn hj apart same => ?_)
    exact apart (o.cellIx_inj (List.mem_range.mp hn) (List.mem_range.mp hj) same).2
  case rows =>
    intro p hp q hq same
    obtain ⟨n, hn, rfl⟩ := List.mem_map.mp hp
    obtain ⟨j, hj, rfl⟩ := List.mem_map.mp hq
    exact apart (o.cellIx_inj (List.mem_range.mp hn) (List.mem_range.mp hj) same).1

/-! A pass over the cells of the outputs: each receives what `g` makes of it and of the near store. -/

/-- The cells `ix` of the outputs of a list, each replaced in turn. -/
def Core.passCells (c : Core) (ix : Nat × Nat → Nat) (g : Core → Nat × Nat → Cell → Cell) (l : List (Nat × Nat)) : Core :=
  l.foldl (fun k p => k.setCell (ix p) (g k p (k.cell (ix p)))) c

section

variable (ix : Nat × Nat → Nat) (g : Core → Nat × Nat → Cell → Cell)

/-- A pass changes cells alone. -/
theorem Core.passCells_cells (l : List (Nat × Nat)) (c : Core) :
    ∃ z, c.passCells ix g l = { c with cells := z } := by
  induction l generalizing c with
  | nil => exact ⟨c.cells, rfl⟩
  | cons p l ih => exact ih (c.setCell (ix p) (g c p (c.cell (ix p))))

theorem Core.passCells_cell_ne (l : List (Nat × Nat)) (c : Core) {i : Nat} (h : i ∉ l.map ix) :
    (c.passCells ix g l).cell i = c.cell i := by
  induction l generalizing c with
  | nil => rfl
  | cons p l ih =>
    rw [List.map_cons, List.mem_cons, not_or] at h
    obtain ⟨other, rest⟩ := h
    exact (ih _ rest).trans (Core.setCell_cell_ne _ _ (Ne.symm other))

/-- What a pass leaves in an output's cell, where `g` reads nothing of the core but its near store. -/
theorem Core.passCells_cell (near : ∀ k c : Core, k.near = c.near → g k = g c) (l : List (Nat × Nat)) (c : Core)
    (once : (l.map ix).Nodup) {p : Nat × Nat} (h : p ∈ l) : (c.passCells ix g l).cell (ix p) = g c p (c.cell (ix p)) := by
  induction l generalizing c with
  | nil => cases h
  | cons q l ih =>
    rw [List.map_cons, List.nodup_cons] at once
    obtain ⟨first, rest⟩ := once
    let t := c.setCell (ix q) (g c q (c.cell (ix q)))
    show (t.passCells ix g l).cell (ix p) = g c p (c.cell (ix p))
    rcases List.mem_cons.mp h with rfl | later
    · exact (Core.passCells_cell_ne ix g l t first).trans (Core.setCell_cell_same ..)
    · have other : ix q ≠ ix p := fun same => first (same ▸ List.mem_map_of_mem later)
      rw [ih t rest later, near t c rfl, Core.setCell_cell_ne _ _ other]

end

/-! The products of an operation without a plan (R79, R82, R133). -/

theorem EngOp.startCell_of_near (o : EngOp) {k c : Core} (h : k.near = c.near) : o.startCell k = o.startCell c := by
  unfold EngOp.startCell
  rw [h]

theorem EngOp.dot_of_near (o : EngOp) {k c : Core} (h : k.near = c.near) : o.dot k = o.dot c := by
  unfold EngOp.dot Core.elem
  rw [h]

theorem EngOp.initCells_cells (o : EngOp) (c : Core) : ∃ z, o.initCells c = { c with cells := z } :=
  c.passCells_cells (fun p => o.cellIx p.1 p.2) (fun k p => o.startCell k p.1 p.2) o.outs

theorem EngOp.sumSlice_cells (o : EngOp) (k0 ks : Nat) (c : Core) : ∃ z, o.sumSlice k0 ks c = { c with cells := z } :=
  c.passCells_cells (fun p => o.cellIx p.1 p.2) (fun k p => o.dot k p.1 p.2 k0 ks) o.outs

theorem EngOp.initCells_cell (o : EngOp) (c : Core) {m n : Nat} (hm : m < o.em) (hn : n < o.en) :
    (o.initCells c).cell (o.cellIx m n) = o.startCell c m n (c.cell (o.cellIx m n)) :=
  Core.passCells_cell (fun p => o.cellIx p.1 p.2) (fun k p => o.startCell k p.1 p.2)
    (fun _ _ h => by rw [o.startCell_of_near h]) o.outs c o.cells_nodup ((o.mem_outs m n).mpr ⟨hm, hn⟩)

theorem EngOp.sumSlice_cell (o : EngOp) (k0 ks : Nat) (c : Core) {m n : Nat} (hm : m < o.em) (hn : n < o.en) :
    (o.sumSlice k0 ks c).cell (o.cellIx m n) = o.dot c m n k0 ks (c.cell (o.cellIx m n)) :=
  Core.passCells_cell (fun p => o.cellIx p.1 p.2) (fun k p => o.dot k p.1 p.2 k0 ks)
    (fun _ _ h => by rw [o.dot_of_near h]) o.outs c o.cells_nodup ((o.mem_outs m n).mpr ⟨hm, hn⟩)

/-- Every product of the operation, summed into the cells it starts from. -/
def EngOp.products (o : EngOp) (c : Core) : Core := o.sumSlice 0 o.ek (o.initCells c)

theorem EngOp.products_cells (o : EngOp) (c : Core) : ∃ z, o.products c = { c with cells := z } := by
  obtain ⟨y, start⟩ := o.initCells_cells c
  obtain ⟨z, sum⟩ := o.sumSlice_cells 0 o.ek (o.initCells c)
  exact ⟨z, sum.trans (by rw [start])⟩

theorem EngOp.products_cell (o : EngOp) (c : Core) {m n : Nat} (hm : m < o.em) (hn : n < o.en) :
    (o.products c).cell (o.cellIx m n) = o.dot c m n 0 o.ek (o.startCell c m n (c.cell (o.cellIx m n))) := by
  have near : (o.initCells c).near = c.near := by
    obtain ⟨y, start⟩ := o.initCells_cells c
    rw [start]
  rw [EngOp.products, o.sumSlice_cell _ _ _ hm hn, o.initCells_cell c hm hn, o.dot_of_near near]

/-- A drain changes the near store alone. -/
theorem EngOp.drainAll_near (o : EngOp) (c : Core) : o.drainAll c = { c with near := (o.drainAll c).near } := by
  unfold EngOp.drainAll
  exact List.foldlRecOn (motive := fun k : Core => k = { c with near := k.near }) _ _ rfl fun k hk p _ => by
    rw [hk]; rfl

/-! An operation that ends (R100, R103). -/

section

variable (s : State) (n e : Nat) (o : EngOp) (r : List EngOp) (code : Half) (f : Core → Core)

@[simp] theorem State.finished_engq : ((s.finished n e o r code f).core n).engq e = r := by
  rw [State.finished, State.updCore_core_same]
  exact Core.setEngq_engq_same ..

@[simp] theorem State.finished_token : ((s.finished n e o r code f).core n).token o.tok = .done code := by
  rw [State.finished, State.updCore_core_same]
  exact Core.setTok_token_same ((f (s.core n)).setEngq e r) o.tok (.done code)

@[simp] theorem State.finished_near : ((s.finished n e o r code f).core n).near = (f (s.core n)).near := by
  rw [State.finished, State.updCore_core_same]
  rfl

@[simp] theorem State.finished_cell (i : Nat) : ((s.finished n e o r code f).core n).cell i = (f (s.core n)).cell i := by
  rw [State.finished, State.updCore_core_same]
  rfl

theorem State.finished_still : s.still (s.finished n e o r code f) := State.still_of_pkg rfl

theorem State.finished_core_ne {i : Nat} (h : i ≠ n) : (s.finished n e o r code f).core i = s.core i :=
  State.updCore_core_ne _ _ (Ne.symm h)

end

/-- Nothing but a stalled instruction is tried again. -/
theorem State.resume_unstalled {s : State} {n : Nat} (h : (s.core n).unstalled) : s.resume n = s := by
  unfold State.resume
  split
  next op f held => exact absurd held (h op f)
  next => rfl

theorem State.complete_unstalled {s : State} {n e : Nat} {o : EngOp} {r : List EngOp} (code : Half)
    (head : (s.core n).engq e = o :: r) (h : (s.core n).unstalled) : s.complete n e code = s.finished n e o r code id := by
  have same : (s.updCore n fun k => k.setEngq e r).tokenDone n o.tok code = (s.finished n e o r code id).resume n := by
    rw [State.tokenDone, State.updCore_updCore]
    rfl
  unfold State.complete
  rw [head]
  refine same.trans (State.resume_unstalled ?_)
  rw [State.finished, State.updCore_core_same]
  exact h

theorem Core.running_head {c : Core} {e : Nat} {o : EngOp} {r : List EngOp} (head : c.engq e = o :: r)
    (on : o.started = true) : c.running e = some o := by
  unfold Core.running
  rw [head]
  exact if_pos on

theorem Core.setEngq_setEngq (c : Core) (e : Nat) (p q : List EngOp) : (c.setEngq e p).setEngq e q = c.setEngq e q :=
  congrArg (fun l => { c with eng := l }) (Sparse.put_put ..)

theorem Core.putOp_head {c : Core} {e : Nat} {o p : EngOp} {r : List EngOp} (head : c.engq e = o :: r) :
    c.putOp e p = c.setEngq e (p :: r) := by
  unfold Core.putOp
  rw [head]

theorem State.updOp_head {s : State} {n e : Nat} {o : EngOp} {r : List EngOp} (f : EngOp → EngOp)
    (head : (s.core n).engq e = o :: r) (on : o.started = true) :
    s.updOp n e f = s.updCore n fun k => k.setEngq e (f o :: r) := by
  refine State.updCore_congr ?_
  simp only [Core.running_head head on, Core.putOp_head head]

section

variable {s : State} {n : Nat} {o : EngOp} {r : List EngOp}

/-- No sweep runs while the stage of an operation is the array's work. -/
theorem State.runSweeps_work {e seq : Nat} (head : (s.core n).engq e = o :: r) (on : o.started = true)
    (work : o.stage = .work) (k : Nat) : s.runSweeps n e seq k = s := by
  cases k with
  | zero => rfl
  | succ k =>
    have none : o.sweep = none := by unfold EngOp.sweep; rw [work]
    simp only [State.runSweeps, Core.running_head head on, none, ite_self]

/-- An operation whose products are summed ends, after its drain where it has one (R136). -/
theorem State.finishVector_summed (head : (s.core n).engq 1 = o :: r) (on : o.started = true) (work : o.stage = .work)
    (summed : o.summed = true) (sent : s.acking n o.seq = false) : s.finishVector n 1 =
      (if lineBits o.desc 0 8 8 = 1 && o.plan.isEmpty && !o.hasEpi then s.updCore n o.drainAll else s).complete n 1 o.err := by
  simp [State.finishVector, head, on, Core.running_head head on, State.runSweeps_work head on work, work, summed, sent]

/-- MM_COMPLETE starts an operation that has not been started, and goes on with it as started. -/
theorem State.finishVector_start {p : EngOp} (head : (s.core n).engq 1 = o :: r) (off : o.started = false)
    (started : ((s.startVector n 1 o).core n).engq 1 = p :: r) (on : p.started = true) (seq : p.seq = o.seq)
    (sweeps : p.sweeps = o.sweeps) : s.finishVector n 1 = (s.startVector n 1 o).finishVector n 1 := by
  simp [State.finishVector, head, off, started, on, seq, sweeps]

end

/-! An operation without a chain, a plan or a tile queue (R103, R124). -/

/-- The operation as the array runs it, without tile programs. -/
def EngOp.begun (o : EngOp) : EngOp := { o with started := true, words := [] }

/-- The operation with every product in its cells, and no tile program to run. -/
def EngOp.added (o : EngOp) : EngOp := { o with summed := true, vdone := true }

/-- A core with the operation begun ahead of those behind it, and its products formed. -/
def EngOp.multiplied (o : EngOp) (r : List EngOp) (k : Core) : Core := o.begun.products (k.setEngq 1 (o.begun :: r))

theorem EngOp.multiplied_cells (o : EngOp) (r : List EngOp) (k : Core) :
    ∃ z, o.multiplied r k = { k.setEngq 1 (o.begun :: r) with cells := z } :=
  o.begun.products_cells (k.setEngq 1 (o.begun :: r))

theorem EngOp.multiplied_cell (o : EngOp) (r : List EngOp) (k : Core) {m n : Nat} (hm : m < o.em) (hn : n < o.en) :
    (o.multiplied r k).cell (o.cellIx m n) = o.dot k m n 0 o.ek (o.startCell k m n (k.cell (o.cellIx m n))) :=
  o.begun.products_cell (k.setEngq 1 (o.begun :: r)) hm hn

section

variable {s : State} {n : Nat} {o : EngOp} {r : List EngOp} (head : (s.core n).engq 1 = o :: r)

include head

theorem State.afterProducts_plain (on : o.started = true) (epi : o.hasEpi = false) :
    s.afterProducts n = s.updCore n fun k => k.setEngq 1 (o.added :: r) := by
  have none : ¬ ({ o with summed := true } : EngOp).hasEpi = true := fun has => Bool.false_ne_true (epi.symm.trans has)
  exact (State.updOp_head _ head on).trans (State.updCore_congr (congrArg (fun p => Core.setEngq _ 1 (p :: r)) (if_neg none)))

theorem State.arrayStart_plain (on : o.started = true) (chain : o.chain = 0) (plan : o.plan = []) (queue : o.isAq = false) :
    s.arrayStart n o = s.updCore n fun k => (o.products k).setEngq 1 (o.added :: r) := by
  have pair : o.isPair = false := by simp [EngOp.isPair, chain]
  have epi : o.hasEpi = false := by simp [EngOp.hasEpi, chain]
  have runs : s.arrayStart n o = (s.updCore n o.products).afterProducts n := by
    simp only [State.arrayStart, plan, queue, pair, List.isEmpty_nil, Bool.not_true, Bool.false_eq_true, if_false]
    rfl
  obtain ⟨z, cells⟩ := o.products_cells (s.core n)
  have still : ((s.updCore n o.products).core n).engq 1 = o :: r := by
    rw [State.updCore_core_same, cells]
    exact head
  rw [runs, State.afterProducts_plain still on epi, State.updCore_updCore]

theorem State.startVector_plain (chain : o.chain = 0) (err : o.err = 0) (runs : (s.core n).stopped = false) :
    s.startVector n 1 o = (s.updCore n fun k => k.setEngq 1 (o.begun :: r)).arrayStart n o.begun := by
  have program : o.hasProgram 1 = false := by simp [EngOp.hasProgram, chain]
  have programs : o.programs 1 = [] := by simp [EngOp.programs, chain]
  have check : o.check 1 (s.core n) = none := by rw [EngOp.check, programs]; rfl
  have pro : o.hasPro = false := by simp [EngOp.hasPro, chain]
  have first (t : State) (h : t = s.updCore n fun k => k.setEngq 1 (o.begun :: r)) :
      (t.core n).running 1 = some o.begun := by
    rw [h, State.updCore_core_same]
    exact Core.running_head (Core.setEngq_engq_same ..) rfl
  unfold State.startVector
  rw [if_neg (by simp [runs, program])]
  extract_lets c words t
  have queued : t = s.updCore n fun k => k.setEngq 1 (o.begun :: r) := by
    refine State.updCore_congr ?_
    simp only [program, words, programs, List.map_nil]
    exact Core.putOp_head head
  simp only [c, check, err, pro, first t queued]
  exact congrArg (State.arrayStart · n o.begun) queued

/-- MM_COMPLETE of an operation that has not been started and has no drain. -/
theorem State.finishVector_plain (free : (s.core n).unstalled) (chain : o.chain = 0) (plan : o.plan = [])
    (work : o.stage = .work) (queue : o.isAq = false) (sent : s.acking n o.seq = false) (off : o.started = false)
    (err : o.err = 0) (runs : (s.core n).stopped = false) (keep : lineBits o.desc 0 8 8 = 0) :
    s.finishVector n 1 = s.finished n 1 o r 0 (o.multiplied r) := by
  have begun : ((s.updCore n fun k => k.setEngq 1 (o.begun :: r)).core n).engq 1 = o.begun :: r := by
    rw [State.updCore_core_same, Core.setEngq_engq_same]
  have start : s.startVector n 1 o = s.updCore n fun k => (o.multiplied r k).setEngq 1 (o.begun.added :: r) := by
    rw [State.startVector_plain head chain err runs, State.arrayStart_plain begun rfl chain plan queue,
      State.updCore_updCore]
    rfl
  have core : (s.startVector n 1 o).core n = (o.multiplied r (s.core n)).setEngq 1 (o.begun.added :: r) := by
    rw [start, State.updCore_core_same]
  obtain ⟨z, cells⟩ := o.multiplied_cells r (s.core n)
  have first : ((s.startVector n 1 o).core n).engq 1 = o.begun.added :: r := by rw [core, Core.setEngq_engq_same]
  have unstalled : ((s.startVector n 1 o).core n).unstalled := by
    rw [core, cells]
    exact free
  have acked : (s.startVector n 1 o).acking n o.seq = false := by
    rw [start]
    exact sent
  have undrained : ¬ (lineBits o.begun.added.desc 0 8 8 = 1 && o.begun.added.plan.isEmpty && !o.begun.added.hasEpi) = true := by
    simp [EngOp.added, EngOp.begun, keep]
  calc s.finishVector n 1
    _ = (s.startVector n 1 o).finishVector n 1 := State.finishVector_start head off first rfl rfl rfl
    _ = (s.startVector n 1 o).complete n 1 o.err := by
      rw [State.finishVector_summed first rfl work rfl acked, if_neg undrained]
      rfl
    _ = (s.startVector n 1 o).finished n 1 o.begun.added r o.err id := State.complete_unstalled _ first unstalled
    _ = s.finished n 1 o r 0 (o.multiplied r) := by
      rw [start, State.finished, State.updCore_updCore, err]
      exact State.updCore_congr (by simp only [id, Core.setEngq_setEngq]; rfl)

end

/-- Settles O19: the start forms the products cell by cell, and a drain writes the near store alone. -/
theorem matrixProductsSummed : Obligations.MatrixProductsSummed := by
  unfold Obligations.MatrixProductsSummed
  intro c s o r head free chain plan work queue sent
  have next {n : Nat} {code : Half} {f : Core → Core} (ends : s.finishVector c 1 = s.finished n 1 o r code f) :
      exec (.mmComplete c) s = .next (s.finished n 1 o r code f) := by
    show (.next (s.orHold (.mmComplete c) (s.finishVector c 1)) : Out) = _
    rw [ends, orHold_same _ (State.finished_still ..)]
  refine ⟨fun off err runs _ keep => ?sum, fun on summed drain => ?drain⟩
  case sum =>
    obtain ⟨z, cells⟩ := o.multiplied_cells r (s.core c)
    refine ⟨_, next (State.finishVector_plain head free chain plan work queue sent off err runs keep),
      State.finished_engq .., State.finished_token .., ?_, rfl, fun _ other => State.finished_core_ne _ _ _ _ _ _ _ other,
      fun m n hm hn => ?_⟩
    · rw [State.finished_near, cells]
      rfl
    · rw [State.finished_cell]
      exact o.multiplied_cell r (s.core c) hm hn
  case drain =>
    have epi : o.hasEpi = false := by simp [EngOp.hasEpi, chain]
    have drained := o.drainAll_near (s.core c)
    have first : ((s.updCore c o.drainAll).core c).engq 1 = o :: r := by
      rw [State.updCore_core_same, drained]
      exact head
    have unstalled : ((s.updCore c o.drainAll).core c).unstalled := by
      rw [State.updCore_core_same, drained]
      exact free
    refine next ?_
    calc s.finishVector c 1
      _ = (s.updCore c o.drainAll).complete c 1 o.err := by
        rw [State.finishVector_summed head on work summed sent, if_pos (by simp [drain, plan, epi])]
      _ = (s.updCore c o.drainAll).finished c 1 o r o.err id := State.complete_unstalled _ first unstalled
      _ = s.finished c 1 o r o.err fun k => { k with near := (o.drainAll k).near } := by
        rw [State.finished, State.updCore_updCore]
        exact State.updCore_congr (by simp only [id, ← drained])

end Sys2Proof.Machine

/-!
Elements written one after another to a near store, and what each of their places reads then (R10, R148).
-/

namespace Sys2Proof

/-! A store after a write: the bytes elsewhere. -/

/-- What is read depends on the bytes read alone. -/
theorem Mem.read_congr {m m' : Mem} {a n : Nat} (h : ∀ x, a ≤ x → x < a + n → Mem.byte m x = Mem.byte m' x) :
    Mem.read m a n = Mem.read m' a n := by
  induction n generalizing a with
  | zero => rfl
  | succ n ih =>
    rw [Mem.read, Mem.read, h a (Nat.le_refl a) (by omega), ih fun x low high => h x (by omega) (by omega)]

theorem Mem.read_write_out (m : Mem) {a x n : Nat} {l : List Byte} (h : x + n ≤ a ∨ a + l.length ≤ x) :
    Mem.read (Mem.write m a l) x n = Mem.read m x n :=
  Mem.read_congr fun y low high => Mem.byte_write_out m a y l (by omega)

/-! Several writes in turn. -/

/-- Bytes `b j` written at `place j`, for each `j` below `n` in turn. -/
def Mem.writeEach (m : Mem) (place : Nat → Nat) (b : Nat → List Byte) (n : Nat) : Mem :=
  (List.range n).foldl (fun m j => Mem.write m (place j) (b j)) m

section

variable (m : Mem) (place : Nat → Nat) (b : Nat → List Byte)

theorem Mem.writeEach_succ (n : Nat) :
    Mem.writeEach m place b (n + 1) = Mem.write (Mem.writeEach m place b n) (place n) (b n) := by
  simp [Mem.writeEach, List.range_succ]

/-- A byte of none of the places reads as before. -/
theorem Mem.byte_writeEach_out {n x : Nat} (h : ∀ j, j < n → x < place j ∨ place j + (b j).length ≤ x) :
    Mem.byte (Mem.writeEach m place b n) x = Mem.byte m x := by
  induction n with
  | zero => rfl
  | succ n ih =>
    rw [Mem.writeEach_succ, Mem.byte_write_out _ _ _ _ (h n (Nat.lt_succ_self n)),
      ih fun j below => h j (Nat.lt_succ_of_lt below)]

/-- Where each place ends before the next begins, each reads as written. -/
theorem Mem.read_writeEach (apart : ∀ i j, i < j → place i + (b i).length ≤ place j) {n j : Nat} (h : j < n) :
    Mem.read (Mem.writeEach m place b n) (place j) (b j).length = b j := by
  induction n with
  | zero => omega
  | succ n ih =>
    rw [Mem.writeEach_succ]
    rcases Nat.lt_succ_iff_lt_or_eq.mp h with earlier | rfl
    · rw [Mem.read_write_out _ (.inl (apart j n earlier)), ih earlier]
    · exact Mem.read_write ..

/-- The same of numbers of one size. -/
theorem Mem.nat_writeEach (size : Nat) (code : Nat → Nat) (apart : ∀ i j, i < j → place i + size ≤ place j) {n j : Nat}
    (h : j < n) : Mem.nat (Mem.writeEach m place (fun j => natToBytes size (code j)) n) (place j) size = code j % 256 ^ size := by
  have written := Mem.read_writeEach m place (fun j => natToBytes size (code j))
    (fun i j before => by rw [natToBytes_length]; exact apart i j before) h
  rw [natToBytes_length] at written
  rw [Mem.nat, written, bytesToNat_natToBytes]

end

end Sys2Proof

namespace Sys2Proof.Machine

open Sys2Proof

/-- Writes to the near store of a core in turn change that store alone. -/
theorem Core.foldl_nearWrite (c : Core) (place : Nat → Nat) (b : Nat → List Byte) (n : Nat) :
    (List.range n).foldl (fun k j => k.nearWrite (place j) (b j)) c
      = { c with near := Mem.writeEach c.near place b n } := by
  induction n with
  | zero => rfl
  | succ n ih => rw [List.range_succ, List.foldl_append, ih, Mem.writeEach_succ]; rfl

@[simp] theorem lineBytes_length (l : Line) : (lineBytes l).length = 64 := natToBytes_length ..

/-- A line written reads back. -/
theorem read_write_lineBytes (m : Mem) (a : Nat) (l : Line) : Mem.read (Mem.write m a (lineBytes l)) a 64 = lineBytes l := by
  have back := Mem.read_write m a (lineBytes l)
  rwa [lineBytes_length] at back

end Sys2Proof.Machine

/-!
What every tile-program instruction leaves of its core, and where it leaves its sweep (R142, R145, R171, R187).
-/

namespace Sys2Proof.Machine

open Sys2Proof

/-! The part of a core that a tile program works on. -/

/-- `k` is core `c` but for its vector registers, near store, matrix cells and statistic slots. -/
def Core.TileOnly (c k : Core) : Prop :=
  ∃ v near cells slots, k = { c with v := v, near := near, cells := cells, slots := slots }

namespace Core.TileOnly

variable {c k : Core}

theorem refl (c : Core) : c.TileOnly c := ⟨c.v, c.near, c.cells, c.slots, rfl⟩

theorem setV (h : c.TileOnly k) (r : Nat) (x : Line) : c.TileOnly (k.setV r x) := by
  obtain ⟨v, near, cells, slots, rfl⟩ := h
  exact ⟨_, near, cells, slots, rfl⟩

theorem setLanes (h : c.TileOnly k) (w : Bool) (r : Nat) (g : Nat → Nat) : c.TileOnly (k.setLanes w r g) := by
  cases w with
  | false => exact h.setV ..
  | true => exact (h.setV ..).setV ..

theorem setSlot (h : c.TileOnly k) (r : Nat) (x : Slot) : c.TileOnly (k.setSlot r x) := by
  obtain ⟨v, near, cells, slots, rfl⟩ := h
  exact ⟨v, near, cells, _, rfl⟩

theorem setCell (h : c.TileOnly k) (i : Nat) (x : Cell) : c.TileOnly (k.setCell i x) := by
  obtain ⟨v, near, cells, slots, rfl⟩ := h
  exact ⟨v, near, _, slots, rfl⟩

theorem nearWrite (h : c.TileOnly k) (a : Nat) (b : List Byte) : c.TileOnly (k.nearWrite a b) := by
  obtain ⟨v, near, cells, slots, rfl⟩ := h
  exact ⟨v, _, cells, slots, rfl⟩

theorem foldl {g : Core → Nat → Core} (step : ∀ k j, c.TileOnly k → c.TileOnly (g k j)) (l : List Nat) (h : c.TileOnly k) :
    c.TileOnly (l.foldl g k) :=
  List.foldlRecOn l g h fun k hk j _ => step k j hk

theorem ite {p : Prop} [Decidable p] {a b : Core} (yes : c.TileOnly a) (no : c.TileOnly b) :
    c.TileOnly (if p then a else b) := by
  split <;> assumption

end Core.TileOnly

/-- Every instruction writes vector registers, near store, cells and slots alone. -/
theorem tileCore_tileOnly (c : Core) (sw : Sweep) (st : Step) (sys : Nat → Nat) (op : TOp) (f : TFields) :
    c.TileOnly (tileCore c sw st sys op f) := by
  have same := Core.TileOnly.refl c
  cases op with
  | nop => exact same
  | add | sub | mul | fma | min | max | ceq | clt | cle | sel | and | or | xor | imm | sys | idx | sfn | cldg =>
    exact same.setLanes ..
  | ldx =>
    unfold tileCore
    dsimp only
    split <;> exact same.setLanes ..
  | ldy | ldz =>
    unfold tileCore
    dsimp only
    split
    · exact same.setLanes ..
    · exact same
  | cvt =>
    unfold tileCore
    dsimp only
    split <;> exact same.setLanes ..
  | lds => exact .ite ((same.setV ..).setV ..) (same.setV ..)
  | sts => exact .ite (same.nearWrite ..) (same.nearWrite ..)
  | sto | cfeed => exact .foldl (fun _ _ h => h.nearWrite ..) _ same
  | cscale => exact .foldl (fun _ _ h => h.setCell ..) _ same
  | rscale => exact .ite (.foldl (fun _ _ h => h.setCell ..) _ same) (same.setSlot ..)
  | rclr | rsl | rldr | raddr => exact same.setSlot ..
  | rsx =>
    unfold tileCore
    dsimp only
    split <;> exact same.setSlot ..
  | rmean | rvar => exact .ite (same.setLanes ..) ((same.setSlot ..).setLanes ..)
  | rsmax => exact (same.setSlot ..).setLanes ..
  | rprob => exact .ite (same.setLanes ..) ((same.setSlot ..).setLanes ..)
  | rdiv | rdfr =>
    refine Core.TileOnly.setLanes ?_ ..
    exact .ite same (same.setSlot ..)
  | rstr => exact .ite (same.nearWrite ..) same

theorem State.rowResult_tileOnly (s : State) (n : Nat) (o : EngOp) (sw : Sweep) (op : TOp) (f : TFields) (k : Core) :
    k.TileOnly (s.rowResult n o sw op f k) := by
  obtain ⟨l, found⟩ := o.rowCore_slots sw k
  obtain ⟨v, near, cells, slots, result⟩ := tileCore_tileOnly (o.rowCore sw k) sw (sw.step o.tile o.row)
    (fun ix => (s.sysreg n ix).toNat % 2 ^ 32) op f
  exact ⟨v, near, cells, slots, result.trans (by rw [found])⟩

/-! The place after an instruction (R142). -/

/-- Operation `o` after the instruction at its position: at the next position of its sweep. At the end of a VX operation's sweep
its tile program has finished and it waits for its completion. -/
def EngOp.moved (o : EngOp) (sw : Sweep) : EngOp :=
  match sw.after o.tile o.row o.ip with
  | some (a, b, k) => { o with tile := a, row := b, ip := k }
  | none => { o with stage := .work, vdone := true }

theorem EngOp.moved_some {o : EngOp} {sw : Sweep} {a b k : Nat} (h : sw.after o.tile o.row o.ip = some (a, b, k)) :
    o.moved sw = { o with tile := a, row := b, ip := k } := by
  rw [EngOp.moved, h]

theorem EngOp.moved_none {o : EngOp} {sw : Sweep} (h : sw.after o.tile o.row o.ip = none) :
    o.moved sw = { o with stage := .work, vdone := true } := by
  rw [EngOp.moved, h]

/-- What an instruction makes of its operation is `moved`, case by case. -/
theorem EngOp.eq_moved {o p : EngOp} {sw : Sweep} (on : sw.after o.tile o.row o.ip ≠ none ∨ o.stage = .vx)
    (last : sw.after o.tile o.row o.ip = none → o.stage = .vx → p = { o with stage := .work, vdone := true })
    (more : ∀ a b k, sw.after o.tile o.row o.ip = some (a, b, k) → p = { o with tile := a, row := b, ip := k }) :
    p = o.moved sw := by
  cases place : sw.after o.tile o.row o.ip with
  | none => exact (last place (on.resolve_left fun going => going place)).trans (EngOp.moved_none place).symm
  | some next =>
    obtain ⟨a, b, k⟩ := next
    exact (more a b k place).trans (EngOp.moved_some place).symm

/-- The operation whose tile program is in a sweep runs. -/
theorem Core.running_of_sweeping {c : Core} {e : Nat} {o : EngOp} (h : c.sweeping = some (e, o)) : c.running e = some o := by
  obtain ⟨i, _, found⟩ := List.exists_of_findSome?_eq_some h
  split at found
  next p runs =>
    split at found
    · cases found
    · cases found
      exact runs
  next => cases found

theorem Core.started_of_running {c : Core} {e : Nat} {o : EngOp} (h : c.running e = some o) : o.started = true := by
  unfold Core.running at h
  split at h
  next p q head =>
    split at h
    next on => cases h; exact on
    next => cases h
  next => cases h

section

variable {s : State} {n e : Nat} {o : EngOp} {sw : Sweep} {op : TOp} {f : TFields} {r : List EngOp}

/-- A row step is its instruction's effect, and its operation moved on. -/
theorem State.sweepStep_moved (on : sw.after o.tile o.row o.ip ≠ none ∨ o.stage = .vx) (started : o.started = true)
    (head : (s.core n).engq e = o :: r) :
    s.sweepStep n e o sw op f = s.updCore n fun k => (s.rowResult n o sw op f k).setEngq e (o.moved sw :: r) := by
  have first : ((s.updCore n (s.rowResult n o sw op f)).core n).engq e = o :: r := by
    obtain ⟨v, near, cells, slots, result⟩ := s.rowResult_tileOnly n o sw op f (s.core n)
    rw [State.updCore_core_same, result]
    exact head
  have moves (g : EngOp → EngOp) : (s.updCore n (s.rowResult n o sw op f)).updOp n e g
      = s.updCore n fun k => (s.rowResult n o sw op f k).setEngq e (g o :: r) := by
    rw [State.updOp_head g first started, State.updCore_updCore]
  unfold State.sweepStep
  extract_lets st t
  split
  next goes =>
    rw [EngOp.moved_some goes]
    exact moves _
  next ends =>
    have vx : o.stage = .vx := on.resolve_left fun going => going ends
    rw [EngOp.moved_none ends, State.sweepEnd, vx]
    exact moves _

/-- The next instruction of a program, as one step of the machine: its core alone changes, and of it the part that a tile program
works on and the operation's position. -/
theorem State.AtRow.exec_moved (h : s.AtRow n e o sw op f) (on : sw.after o.tile o.row o.ip ≠ none ∨ o.stage = .vx)
    (head : (s.core n).engq e = o :: r) {i : Instr} (arm : exec i s = s.attempt i (.next (s.tile n op f))) :
    exec i s = .next (s.updCore n fun k => (s.rowResult n o sw op f k).setEngq e (o.moved sw :: r)) := by
  have started := Core.started_of_running (Core.running_of_sweeping h.sweeping)
  have runs : s.tile n op f = s.sweepStep n e o sw op f := by
    simp only [State.tile, h.sweeping, h.sweep, h.next, if_true]
  rw [arm, h.attempt on i, runs, State.sweepStep_moved on started head]

end

/-- Settles O23: by `tileCore_tileOnly`, an instruction of whatever opcode keeps the scalar state of its core. -/
theorem tileInstructionIsOneRowStep : Obligations.TileInstructionIsOneRowStep := by
  unfold Obligations.TileInstructionIsOneRowStep
  intro c f s e o sw r head steps
  have holds {i : Instr} {op : TOp} (arm : exec i s = s.attempt i (.next (s.tile c op f))) : steps i op := by
    intro h p last more on
    obtain ⟨v, near, cells, slots, result⟩ := s.rowResult_tileOnly c o sw op f (s.core c)
    refine ⟨_, h.exec_moved on head arm, ?_, rfl, fun _ other => State.updCore_core_ne _ _ (Ne.symm other), ?_⟩
    · rw [State.updCore_core_same, Core.setEngq_engq_same, EngOp.eq_moved on last more]
    · rw [State.updCore_core_same, result]
      exact ⟨rfl, rfl, rfl, rfl, rfl, rfl, rfl⟩
  clear_value steps
  and_intros <;> exact holds rfl

end Sys2Proof.Machine

/-!
Loads, stores, immediates, indices, conversions and special functions in one row step (R143 to R148, R154).
-/

namespace Sys2Proof.Machine

open Sys2Proof

/-! The instructions whose effect depends on an input, a field or the near store. -/

/-- The address of active lane `j` in the output row of a row step (R148). -/
def Sweep.outAt (sw : Sweep) (st : Step) (j : Nat) : Nat :=
  sw.outAddr + sw.outPitch * st.p + sw.outFmt.size * (st.col + j - sw.col0)

/-- The elements of a row step lie in its output row one after another (R142). -/
theorem Sweep.outAt_apart (sw : Sweep) (t r : Nat) {i j : Nat} (h : i < j) :
    sw.outAt (sw.step t r) i + sw.outFmt.size ≤ sw.outAt (sw.step t r) j := by
  have first : sw.col0 ≤ (sw.step t r).col := Nat.le_add_right ..
  unfold Sweep.outAt
  rw [Nat.add_assoc, ← Nat.mul_succ]
  exact Nat.add_le_add_left (Nat.mul_le_mul_left _ (by omega)) _

section

variable (c : Core) (sw : Sweep) (st : Step) (sys : Nat → Nat) {f : TFields} {t : Tens}

theorem tileCore_ldx_some (x : sw.x = some t) : tileCore c sw st sys .ldx f = loadTens c sw st f t := by
  simp only [tileCore, x]

theorem tileCore_ldx_none (x : sw.x = none) :
    tileCore c sw st sys .ldx f = loadRow c sw st f sw.dfmt sw.dscale (sw.drained c st.p) := by
  simp only [tileCore, x]

theorem tileCore_ldy_some (y : sw.y = some t) : tileCore c sw st sys .ldy f = loadTens c sw st f t := by
  simp only [tileCore, y]

theorem tileCore_ldz_some (z : sw.z = some t) : tileCore c sw st sys .ldz f = loadTens c sw st f t := by
  simp only [tileCore, z]

theorem tileCore_sto : tileCore c sw st sys .sto f = { c with
    near := Mem.writeEach c.near (sw.outAt st) (fun j => natToBytes sw.outFmt.size
      (storeElem (wf f.w) sw.outFmt sw.outScale sw.rd (c.lane f.w f.va.toNat j))) st.act } :=
  Core.foldl_nearWrite ..

theorem tileCore_lds (w : f.w = false) :
    tileCore c sw st sys .lds f = c.setV f.vd.toNat (c.nearLine (sw.scratch + 64 * f.imm.toNat)) :=
  if_neg (Bool.eq_false_iff.mp w)

theorem tileCore_sts (w : f.w = false) :
    tileCore c sw st sys .sts f = c.nearWrite (sw.scratch + 64 * f.imm.toNat) (lineBytes (c.vr f.va.toNat)) :=
  if_neg (Bool.eq_false_iff.mp w)

theorem tileCore_cvt_zero (m : f.imm = 0) : tileCore c sw st sys .cvt f
    = c.setLanes true f.vd.toNat fun j => l32ToL64 (c.lane false f.va.toNat j) := by
  simp only [tileCore, m]; rfl

theorem tileCore_cvt_one (m : f.imm = 1) : tileCore c sw st sys .cvt f
    = c.setLanes false f.vd.toNat fun j => l64ToL32 sw.rd (c.lane true f.va.toNat j) := by
  simp only [tileCore, m]; rfl

theorem tileCore_cvt_two (m : f.imm = 2) : tileCore c sw st sys .cvt f
    = c.setLanes false f.vd.toNat fun j => widenShort .s16 .l32 0 (toShort .s16 .l32 0 (c.lane false f.va.toNat j)) := by
  simp only [tileCore, m]; rfl

theorem tileCore_cvt_three (m : f.imm = 3) : tileCore c sw st sys .cvt f
    = c.setLanes false f.vd.toNat fun j => widenShort .s8 .l32 0 (toShort .s8 .l32 0 (c.lane false f.va.toNat j)) := by
  simp only [tileCore, m]; rfl

end

/-- A register's lanes take the low 32 bits of what is written. -/
theorem Core.setLanes_mod (c : Core) (r : Nat) (g : Nat → Nat) :
    (c.setLanes false r fun j => g j % 2 ^ 32) = c.setLanes false r g := by
  simp only [Core.setLanes_false, ofLanes, Nat.mod_mod]

/-- Core `n` after an instruction in a row step of operation `o`, where its statistic slots were `l` before it. -/
def State.rowOut (s : State) (n : Nat) (o : EngOp) (sw : Sweep) (op : TOp) (f : TFields) (l : Sparse Slot) : Core :=
  tileCore { s.core n with slots := l } sw (sw.step o.tile o.row) (fun ix => (s.sysreg n ix).toNat % 2 ^ 32) op f

section

variable {s : State} {n e : Nat} {o : EngOp} {sw : Sweep} {op : TOp} {f : TFields} {i : Instr}
variable (h : s.AtRow n e o sw op f) (on : sw.after o.tile o.row o.ip ≠ none ∨ o.stage = .vx)
variable (arm : exec i s = s.attempt i (.next (s.tile n op f)))

include h on arm

/-- What holds of a core after an instruction, whatever its slots were before and whatever its engines are after. -/
theorem State.AtRow.effect {P : Core → Prop} (holds : ∀ l q, P { s.rowOut n o sw op f l with eng := q }) :
    ∃ t, exec i s = .next t ∧ P (t.core n) := by
  obtain ⟨q, step⟩ := h.tile on
  obtain ⟨l, found⟩ := o.rowCore_slots sw (s.core n)
  refine ⟨_, arm.trans (h.attempt on i), ?_⟩
  rw [step, State.updCore_core_same, State.rowResult, found]
  exact holds l q

/-- An instruction that writes VD, or the pair of VD, lane by lane writes no near store. -/
theorem State.AtRow.fills {w : Bool} {g : Nat → Nat}
    (body : ∀ l, s.rowOut n o sw op f l = ({ s.core n with slots := l } : Core).setLanes w f.vd.toNat g) :
    ∃ t, exec i s = .next t ∧ (t.core n).near = (s.core n).near
      ∧ ∀ j, j < 16 → (t.core n).lane w f.vd.toNat j = g j % 2 ^ (if w then 64 else 32) :=
  h.effect on arm (P := fun k => k.near = (s.core n).near
      ∧ ∀ j, j < 16 → k.lane w f.vd.toNat j = g j % 2 ^ (if w then 64 else 32)) fun l q => by
    rw [body l]
    exact ⟨Core.setLanes_near .., fun j lane => (Core.lane_of_v rfl ..).trans (Core.lane_setLanes _ _ _ _ lane)⟩

end

/-- Settles O25: each clause is one branch of the instructions' effect on a core. -/
theorem tileLoadsStoresAndConversions : Obligations.TileLoadsStoresAndConversions := by
  unfold Obligations.TileLoadsStoresAndConversions
  intro c f s e o sw k st at_ lanes row out
  have effect {i : Instr} {op : TOp} {P : Core → Prop} (arm : exec i s = s.attempt i (.next (s.tile c op f)))
      (holds : ∀ l q, P { s.rowOut c o sw op f l with eng := q }) : at_ i op P := fun h on => h.effect on arm holds
  have fills {i : Instr} {op : TOp} {w : Bool} {g : Nat → Nat} (arm : exec i s = s.attempt i (.next (s.tile c op f)))
      (body : ∀ l, s.rowOut c o sw op f l = ({ k with slots := l } : Core).setLanes w f.vd.toNat g) :
      at_ i op (lanes w g) := fun h on => h.fills on arm body
  clear_value at_
  refine ⟨?nop, fun t x => ?ldx, fun t y => ?ldy, fun t z => ?ldz, fun x => ?drained, ?sto, fun w => ?lds, fun w => ?sts,
    ?imm, ?sys, ?idx, fun m => ?widen, fun m => ?narrow, fun m => ?short, fun m => ?byte, ?sfn⟩
  case nop => exact effect rfl fun _ _ => ⟨rfl, rfl⟩
  case ldx => exact fills rfl fun _ => tileCore_ldx_some _ _ _ _ x
  case ldy => exact fills rfl fun _ => tileCore_ldy_some _ _ _ _ y
  case ldz => exact fills rfl fun _ => tileCore_ldz_some _ _ _ _ z
  case drained => exact fills rfl fun _ => tileCore_ldx_none _ _ _ _ x
  case sto =>
    refine effect rfl fun l q => ?_
    have apart (i j : Nat) (before : i < j) : out i + sw.outFmt.size ≤ out j := sw.outAt_apart _ _ before
    rw [State.rowOut, tileCore_sto]
    refine ⟨rfl, fun j active => Mem.nat_writeEach _ _ _ _ apart active, fun x outside => ?_⟩
    exact Mem.byte_writeEach_out _ _ _ fun j active => by rw [natToBytes_length]; exact outside j active
  case lds =>
    refine effect rfl fun l q => ?_
    have line (a : Nat) : ({ k with slots := l } : Core).nearLine a = k.nearLine a := rfl
    rw [State.rowOut, tileCore_lds _ _ _ _ w, line]
    generalize k.nearLine _ = x
    exact ⟨rfl, rfl⟩
  case sts =>
    refine effect rfl fun l q => ?_
    rw [State.rowOut, tileCore_sts _ _ _ _ w]
    refine ⟨rfl, read_write_lineBytes .., fun x outside => ?_⟩
    exact Mem.byte_write_out _ _ _ _ (by rw [lineBytes_length]; exact outside)
  case imm => exact fills rfl fun _ => rfl
  case sys => exact fills rfl fun _ => Core.setLanes_mod ..
  case idx => exact fills rfl fun _ => rfl
  case widen => exact fills rfl fun _ => tileCore_cvt_zero _ _ _ _ m
  case narrow => exact fills rfl fun _ => tileCore_cvt_one _ _ _ _ m
  case short => exact fills rfl fun _ => tileCore_cvt_two _ _ _ _ m
  case byte => exact fills rfl fun _ => tileCore_cvt_three _ _ _ _ m
  case sfn => exact fills rfl fun _ => rfl

end Sys2Proof.Machine

/-!
The instructions of chained operations: the gate row, the feed row, the scaling of the second operation's cells and the deferred
correction (R171, R176, R181, R182, R200, R205).
-/

namespace Sys2Proof.Machine

open Sys2Proof

/-! The statistic slot of the current row (R184, R185). -/

@[simp] theorem Core.setSlot_slot_same (c : Core) (r : Nat) (x : Slot) : (c.setSlot r x).slot r = x := Sparse.get_put_same ..

/-- An instruction finds its row's slot EMPTY at the first row step of its row, and elsewhere as the core holds it. -/
theorem EngOp.rowCore_slot (s : State) (n : Nat) (o : EngOp) (sw : Sweep) :
    (o.rowCore sw (s.core n)).slot (sw.step o.tile o.row).row = s.slotSeen n o sw := by
  unfold EngOp.rowCore rowStart State.slotSeen
  by_cases first : o.ip = 0
  · by_cases empty : (sw.step o.tile o.row).col = 0 ∧ sw.kind ≠ .epi2
    · rw [if_pos first, if_pos empty, if_pos ⟨first, empty⟩, Core.setSlot_slot_same]
    · rw [if_pos first, if_neg empty, if_neg fun both => empty both.2]
  · rw [if_neg first, if_neg fun both => first both.1]

/-- What holds of a core after an instruction that reads its row's slot: among the slots `l` before it stands the one it sees. -/
theorem State.AtRow.effect_seen {s : State} {n e : Nat} {o : EngOp} {sw : Sweep} {op : TOp} {f : TFields} {i : Instr}
    (h : s.AtRow n e o sw op f) (on : sw.after o.tile o.row o.ip ≠ none ∨ o.stage = .vx)
    (arm : exec i s = s.attempt i (.next (s.tile n op f))) {P : Core → Prop}
    (holds : ∀ l q, ({ s.core n with slots := l } : Core).slot (sw.step o.tile o.row).row = s.slotSeen n o sw →
      P { s.rowOut n o sw op f l with eng := q }) : ∃ t, exec i s = .next t ∧ P (t.core n) := by
  obtain ⟨q, step⟩ := h.tile on
  obtain ⟨l, found⟩ := o.rowCore_slots sw (s.core n)
  have seen := o.rowCore_slot s n sw
  refine ⟨_, arm.trans (h.attempt on i), ?_⟩
  rw [step, State.updCore_core_same, State.rowResult, found]
  rw [found] at seen
  exact holds l q seen

/-! A row of cells shifted right (R182, R200). -/

/-- The `n` cells from `base`, each divided by 2^d toward minus infinity. -/
def Core.shrCells (c : Core) (base n d : Nat) : Core :=
  (List.range n).foldl (fun k i => k.setCell (base + i) ((k.cell (base + i)).shr d)) c

theorem Core.shrCells_succ (c : Core) (base n d : Nat) : c.shrCells base (n + 1) d =
    (c.shrCells base n d).setCell (base + n) (((c.shrCells base n d).cell (base + n)).shr d) := by
  simp [Core.shrCells, List.range_succ]

@[simp] theorem Core.shrCells_near (c : Core) (base n d : Nat) : (c.shrCells base n d).near = c.near := by
  induction n with
  | zero => rfl
  | succ n ih => rw [Core.shrCells_succ, Core.setCell_near, ih]

/-- Each cell of the row is shifted once, for no index comes twice; the others stay. -/
theorem Core.shrCells_cell (c : Core) (base n d x : Nat) :
    (c.shrCells base n d).cell x = if base ≤ x ∧ x < base + n then (c.cell x).shr d else c.cell x := by
  induction n with
  | zero => exact (if_neg (by omega)).symm
  | succ n ih =>
    rw [Core.shrCells_succ]
    by_cases last : base + n = x
    · subst last
      rw [Core.setCell_cell_same, ih, if_neg (by omega), if_pos (by omega)]
    · have within : (base ≤ x ∧ x < base + n) = (base ≤ x ∧ x < base + (n + 1)) := propext (by omega)
      simp only [Core.setCell_cell_ne _ _ last, ih, within]

/-! The instructions. -/

/-- The first cell of the second operation's current row (R181). -/
def Sweep.cellRow (sw : Sweep) (st : Step) : Nat := sw.cell2 + sw.n2 * (st.row % 16)

/-- The address of active lane `j` in the feed block's current row (R181). -/
def Sweep.feedAt (sw : Sweep) (st : Step) (j : Nat) : Nat :=
  sw.feed.addr + 32 * sw.feed.stride * (st.row % 16) + sw.feed.f.size * (sw.feedCol + j)

theorem Sweep.feedAt_apart (sw : Sweep) (st : Step) {i j : Nat} (h : i < j) :
    sw.feedAt st i + sw.feed.f.size ≤ sw.feedAt st j := by
  unfold Sweep.feedAt
  rw [Nat.add_assoc, ← Nat.mul_succ]
  exact Nat.add_le_add_left (Nat.mul_le_mul_left _ (by omega)) _

section

variable (c : Core) (sw : Sweep) (st : Step) (sys : Nat → Nat) (f : TFields)

theorem tileCore_cfeed : tileCore c sw st sys .cfeed f = { c with
    near := Mem.writeEach c.near (sw.feedAt st) (fun j => natToBytes sw.feed.f.size
      (toShort sw.feed.f .l32 sw.feed.scale (c.lane false f.va.toNat j))) st.act } :=
  Core.foldl_nearWrite ..

theorem tileCore_cscale :
    tileCore c sw st sys .cscale f = c.shrCells (sw.cellRow st) sw.n2 (f.imm.toNat % 64) := rfl

theorem tileCore_rscale (kind : (c.slot st.row).kind = .softmax) :
    tileCore c sw st sys .rscale f = c.shrCells (sw.cellRow st) sw.n2 (c.slot st.row).shift := if_pos kind

theorem tileCore_rscale_refused (kind : (c.slot st.row).kind ≠ .softmax) :
    tileCore c sw st sys .rscale f = c.setSlot st.row (c.slot st.row).bad := if_neg kind

/-- RDFR writes every lane of VD, an inactive one from the cell and the bytes that the same sums name (log entry 69); where its
slot is not EXACT it sets NAN in the slot as well (R186). -/
theorem tileCore_rdfr : ∃ l, tileCore c sw st sys .rdfr f = ({ c with slots := l } : Core).setLanes f.w f.vd.toNat fun j =>
    rdfrLane (c.slot st.row) sw (wf f.w) (sw.cell c st.p (st.col + j))
      (Mem.nat c.near (32 * f.imm.toNat + 22 * (st.col + j)) 22) sw.sum (c.lane f.w f.va.toNat j) := by
  by_cases kind : (c.slot st.row).kind = .exact
  · exact ⟨c.slots, congrArg (Core.setLanes · f.w f.vd.toNat _) (if_pos kind)⟩
  · exact ⟨_, congrArg (Core.setLanes · f.w f.vd.toNat _) (if_neg kind)⟩

end

/-- Settles O27: each clause is the instruction's effect on a core, with the slot that its row step sees. -/
theorem chainInstructions : Obligations.ChainInstructions := by
  unfold Obligations.ChainInstructions
  intro c f s e o sw more k st slot at_ lanes base scaled feed
  have seen {i : Instr} {op : TOp} {P : Core → Prop} (arm : exec i s = s.attempt i (.next (s.tile c op f)))
      (holds : ∀ l q, ({ k with slots := l } : Core).slot st.row = slot → P { s.rowOut c o sw op f l with eng := q }) :
      at_ i op P := fun h => h.effect_seen (.inl more) arm holds
  have shifts {i : Instr} {op : TOp} {d : Nat} (arm : exec i s = s.attempt i (.next (s.tile c op f)))
      (body : ∀ l, ({ k with slots := l } : Core).slot st.row = slot →
        s.rowOut c o sw op f l = ({ k with slots := l } : Core).shrCells base sw.n2 d) : at_ i op (scaled d) := by
    refine seen arm fun l q same => ?_
    rw [body l same]
    exact ⟨Core.shrCells_near .., fun x => Core.shrCells_cell { k with slots := l } ..⟩
  have fills {i : Instr} {op : TOp} {g : Nat → Nat} (arm : exec i s = s.attempt i (.next (s.tile c op f)))
      (body : ∀ l, s.rowOut c o sw op f l = ({ k with slots := l } : Core).setLanes f.w f.vd.toNat g) :
      at_ i op (fun n => n.near = k.near ∧ lanes g n) := fun h => h.fills (.inl more) arm body
  clear_value at_
  refine ⟨?cldg, ?cfeed, ?cscale, fun kind => ?rscale, fun kind => ?refused, ?rdfr⟩
  case cldg => exact fills rfl fun _ => rfl
  case cfeed =>
    refine seen rfl fun l q _ => ?_
    have apart (i j : Nat) (before : i < j) : feed i + sw.feed.f.size ≤ feed j := sw.feedAt_apart st before
    rw [State.rowOut, tileCore_cfeed]
    refine ⟨rfl, fun j active => Mem.nat_writeEach _ _ _ _ apart active, fun x outside => ?_⟩
    exact Mem.byte_writeEach_out _ _ _ fun j active => by rw [natToBytes_length]; exact outside j active
  case cscale => exact shifts rfl fun _ _ => tileCore_cscale ..
  case rscale =>
    refine shifts rfl fun l same => ?_
    rw [← same] at kind ⊢
    exact tileCore_rscale _ _ _ _ _ kind
  case refused =>
    refine seen rfl fun l q same => ?_
    rw [← same] at kind ⊢
    rw [State.rowOut, tileCore_rscale_refused _ _ _ _ _ kind]
    exact ⟨Core.setSlot_slot_same .., rfl⟩
  case rdfr =>
    refine seen rfl fun l q same => ?_
    obtain ⟨after, result⟩ := tileCore_rdfr { k with slots := l } sw st (fun ix => (s.sysreg c ix).toNat % 2 ^ 32) f
    rw [State.rowOut, result]
    refine ⟨Core.setLanes_near .., fun j lane => ?_⟩
    refine (Core.lane_of_v rfl ..).trans ((Core.lane_setLanes _ _ _ _ lane).trans ?_)
    rw [same]
    rfl

end Sys2Proof.Machine

/-!
The row-statistics instructions: the slot of the current row after each, what VD receives, and the record that RSTR stores
(R184 to R201).
-/

namespace Sys2Proof.Machine

open Sys2Proof

/-! Records, and the slots of a core whose lanes are written (R141, R196). -/

/-- A record is 64 bytes, whatever the kind of its slot. -/
@[simp] theorem slotRecord_length (x : Slot) : (slotRecord x).length = 64 := by
  unfold slotRecord
  cases x.kind <;> simp only [List.length_append, natToBytes_length]

/-- A record written reads back. -/
theorem read_write_slotRecord (m : Mem) (a : Nat) (x : Slot) : Mem.read (Mem.write m a (slotRecord x)) a 64 = slotRecord x := by
  have back := Mem.read_write m a (slotRecord x)
  rwa [slotRecord_length] at back

@[simp] theorem Core.setLanes_slots (c : Core) (w : Bool) (r : Nat) (g : Nat → Nat) : (c.setLanes w r g).slots = c.slots := by
  cases w with
  | false => rw [Core.setLanes_false, Core.setV_slots]
  | true => rw [Core.setLanes_true, Core.setV_slots, Core.setV_slots]

theorem Core.slot_of_slots {c k : Core} (h : c.slots = k.slots) (r : Nat) : c.slot r = k.slot r := by
  unfold Core.slot
  rw [h]

/-! Each instruction, where the slot of its row is `x`. -/

section

variable {c : Core} {sw : Sweep} {st : Step} {sys : Nat → Nat} {f : TFields} {x : Slot}

theorem tileCore_rsx_some (seen : c.slot st.row = x) {t : Tens} (input : sw.x = some t) : tileCore c sw st sys .rsx f
    = c.setSlot st.row (slotRsx x t.f t.scale ((List.range st.act).map fun j => c.elem t st.row (st.col + j))) := by
  simp only [tileCore, input, seen]

theorem tileCore_rsl (seen : c.slot st.row = x) : tileCore c sw st sys .rsl f
    = c.setSlot st.row (slotRsl x ((List.range st.act).map fun j => c.lane false f.va.toNat j)) := by
  rw [← seen]
  rfl

theorem tileCore_rmean_summed (seen : c.slot st.row = x) (kind : x.kind = .exact ∨ x.kind = .wide) :
    tileCore c sw st sys .rmean f = c.setLanes f.w f.vd.toNat fun _ => slotMean x (wf f.w) sw.rd := by
  subst seen
  exact if_pos kind

theorem tileCore_rmean_refused (seen : c.slot st.row = x) (kind : ¬ (x.kind = .exact ∨ x.kind = .wide)) :
    tileCore c sw st sys .rmean f = (c.setSlot st.row x.bad).setLanes f.w f.vd.toNat fun _ => (wf f.w).nan := by
  subst seen
  exact if_neg kind

theorem tileCore_rvar_summed (seen : c.slot st.row = x) (kind : x.kind = .exact ∨ x.kind = .wide) :
    tileCore c sw st sys .rvar f = c.setLanes f.w f.vd.toNat fun _ => slotVar x (wf f.w) sw.rd := by
  subst seen
  exact if_pos kind

theorem tileCore_rvar_refused (seen : c.slot st.row = x) (kind : ¬ (x.kind = .exact ∨ x.kind = .wide)) :
    tileCore c sw st sys .rvar f = (c.setSlot st.row x.bad).setLanes f.w f.vd.toNat fun _ => (wf f.w).nan := by
  subst seen
  exact if_neg kind

/-- RDIV leaves a SOFTMAX slot as it was and sets NAN in any other; both ways VD takes the quotients by the slot that it read,
which are NaN where that is not SOFTMAX (R186, R201). -/
theorem tileCore_rdiv (seen : c.slot st.row = x) :
    ∃ l, ({ c with slots := l } : Core).slot st.row = (if x.kind = .softmax then x else x.bad)
      ∧ tileCore c sw st sys .rdiv f = ({ c with slots := l } : Core).setLanes f.w f.vd.toNat
          fun j => slotDiv x (wf f.w) sw.rd (c.lane f.w f.va.toNat j) := by
  subst seen
  by_cases kind : (c.slot st.row).kind = .softmax
  · rw [if_pos kind]
    exact ⟨c.slots, rfl, congrArg (Core.setLanes · f.w f.vd.toNat _) (if_pos kind)⟩
  · rw [if_neg kind]
    exact ⟨_, Core.setSlot_slot_same c .., congrArg (Core.setLanes · f.w f.vd.toNat _) (if_neg kind)⟩

theorem tileCore_rsmax (seen : c.slot st.row = x) {p : Slot × List Nat}
    (taken : slotRsmax x f.set ((List.range st.act).map fun j => c.lane false f.va.toNat j) = p) :
    tileCore c sw st sys .rsmax f = (c.setSlot st.row p.1).setLanes false f.vd.toNat
      fun j => if j < st.act then widenShort .s16 .l32 0 (p.2.getD j 0) else 0 := by
  simp only [tileCore, seen, taken]

theorem tileCore_rprob_softmax (seen : c.slot st.row = x) (kind : x.kind = .softmax) :
    tileCore c sw st sys .rprob f = c.setLanes false f.vd.toNat
      fun j => if j < st.act then probLane f.set false x.ref (c.lane false f.va.toNat j) else 0 := by
  subst seen
  exact if_pos kind

/-- The active lanes' canonical NaN is a choice of the model (log entry 69). -/
theorem tileCore_rprob_refused (seen : c.slot st.row = x) (kind : x.kind ≠ .softmax) :
    tileCore c sw st sys .rprob f = (c.setSlot st.row x.bad).setLanes false f.vd.toNat
      fun j => if j < st.act then Fmt.l32.nan else 0 := by
  subst seen
  exact if_neg kind

/-- RSTR writes the record of its row in the last row step of the row alone, and nothing but the record (R196). -/
theorem tileCore_rstr (seen : c.slot st.row = x) : ∃ m, tileCore c sw st sys .rstr f = { c with near := m }
    ∧ (sw.allCols ≤ st.col + 16 → Mem.read m (64 * (f.imm.toNat + st.row)) 64 = slotRecord x)
    ∧ ∀ y, (sw.allCols ≤ st.col + 16 → y < 64 * (f.imm.toNat + st.row) ∨ 64 * (f.imm.toNat + st.row) + 64 ≤ y) →
        Mem.byte m y = Mem.byte c.near y := by
  subst seen
  by_cases last : sw.allCols ≤ st.col + 16
  · refine ⟨_, if_pos last, fun _ => read_write_slotRecord .., fun y outside => ?_⟩
    exact Mem.byte_write_out _ _ _ _ (by rw [slotRecord_length]; exact outside last)
  · exact ⟨c.near, if_neg last, fun ends => absurd ends last, fun _ _ => rfl⟩

theorem tileCore_raddr (seen : c.slot st.row = x) : tileCore c sw st sys .raddr f
    = c.setSlot st.row (slotAddRecord x (Mem.read c.near (64 * (f.imm.toNat + st.row)) 64)) := by
  rw [← seen]
  rfl

end

/-! In a row step of a sweep (R142, R185). -/

section

variable {s : State} {n e : Nat} {o : EngOp} {sw : Sweep} {op : TOp} {f : TFields} {i : Instr} {x : Slot}
variable (h : s.AtRow n e o sw op f) (on : sw.after o.tile o.row o.ip ≠ none ∨ o.stage = .vx)
variable (arm : exec i s = s.attempt i (.next (s.tile n op f)))

include h on arm

/-- An instruction whose only effect is to make the slot of its row `x` writes no near store. -/
theorem State.AtRow.marks
    (body : ∀ l, ({ s.core n with slots := l } : Core).slot (sw.step o.tile o.row).row = s.slotSeen n o sw →
      s.rowOut n o sw op f l = ({ s.core n with slots := l } : Core).setSlot (sw.step o.tile o.row).row x) :
    ∃ t, exec i s = .next t ∧ (t.core n).slot (sw.step o.tile o.row).row = x ∧ (t.core n).near = (s.core n).near :=
  h.effect_seen on arm (P := fun k => k.slot (sw.step o.tile o.row).row = x ∧ k.near = (s.core n).near) fun l q seen => by
    rw [body l seen]
    exact ⟨Core.setSlot_slot_same .., rfl⟩

/-- An instruction that leaves `x` in the slot of its row and writes VD, or the pair of VD, lane by lane. -/
theorem State.AtRow.marks_fills {w : Bool} {g : Nat → Nat}
    (body : ∀ l, ({ s.core n with slots := l } : Core).slot (sw.step o.tile o.row).row = s.slotSeen n o sw →
      ∃ m, ({ s.core n with slots := m } : Core).slot (sw.step o.tile o.row).row = x
        ∧ s.rowOut n o sw op f l = ({ s.core n with slots := m } : Core).setLanes w f.vd.toNat g) :
    ∃ t, exec i s = .next t
      ∧ ((t.core n).slot (sw.step o.tile o.row).row = x ∧ (t.core n).near = (s.core n).near)
      ∧ ∀ j, j < 16 → (t.core n).lane w f.vd.toNat j = g j % 2 ^ (if w then 64 else 32) :=
  h.effect_seen on arm (P := fun k => (k.slot (sw.step o.tile o.row).row = x ∧ k.near = (s.core n).near)
      ∧ ∀ j, j < 16 → k.lane w f.vd.toNat j = g j % 2 ^ (if w then 64 else 32)) fun l q seen => by
    obtain ⟨m, marked, filled⟩ := body l seen
    rw [filled]
    refine ⟨⟨?_, Core.setLanes_near ..⟩, fun j lane => (Core.lane_of_v rfl ..).trans (Core.lane_setLanes _ _ _ _ lane)⟩
    exact (Core.slot_of_slots (Core.setLanes_slots ..) _).trans marked

end

/-- Settles O26: each clause is the instruction's effect on a core whose row holds the slot that its row step sees. That RPROB and
RSMAX give the canonical NaN where they refuse the slot is the model's choice, log entry 69. -/
theorem rowStatistics : Obligations.RowStatistics := by
  unfold Obligations.RowStatistics
  intro c f s e o sw k st slot rec_ act at_ lanes holds
  have seen {i : Instr} {op : TOp} {P : Core → Prop} (arm : exec i s = s.attempt i (.next (s.tile c op f)))
      (ends : ∀ l q, ({ k with slots := l } : Core).slot st.row = slot → P { s.rowOut c o sw op f l with eng := q }) :
      at_ i op P := fun h on => h.effect_seen on arm ends
  have marks {i : Instr} {op : TOp} {x : Slot} (arm : exec i s = s.attempt i (.next (s.tile c op f)))
      (body : ∀ l, ({ k with slots := l } : Core).slot st.row = slot →
        s.rowOut c o sw op f l = ({ k with slots := l } : Core).setSlot st.row x) : at_ i op (holds x) :=
    fun h on => h.marks on arm body
  have fills {i : Instr} {op : TOp} {x : Slot} {w : Bool} {g : Nat → Nat}
      (arm : exec i s = s.attempt i (.next (s.tile c op f)))
      (body : ∀ l, ({ k with slots := l } : Core).slot st.row = slot →
        ∃ m, ({ k with slots := m } : Core).slot st.row = x
          ∧ s.rowOut c o sw op f l = ({ k with slots := m } : Core).setLanes w f.vd.toNat g) :
      at_ i op (fun n => holds x n ∧ lanes w g n) := fun h on => h.marks_fills on arm body
  have writes {i : Instr} {op : TOp} {x : Slot} {w : Bool} {g : Nat → Nat}
      (arm : exec i s = s.attempt i (.next (s.tile c op f)))
      (body : ∀ l, ({ k with slots := l } : Core).slot st.row = slot →
        s.rowOut c o sw op f l = (({ k with slots := l } : Core).setSlot st.row x).setLanes w f.vd.toNat g) :
      at_ i op (fun n => holds x n ∧ lanes w g n) :=
    fills arm fun l same => ⟨_, Core.setSlot_slot_same { k with slots := l } .., body l same⟩
  clear_value at_
  refine ⟨?rclr, fun t input => ?rsx, ?rsl, fun kind => ⟨?rmean, ?rvar⟩, fun notExact notWide => ⟨?rmeanBad, ?rvarBad⟩,
    ?rdiv, ?rsmax, fun kind => ?rprob, fun kind => ?rprobBad, ?rstr, ?rldr, ?raddr⟩
  case rclr => exact marks rfl fun _ _ => rfl
  case rsx => exact marks rfl fun _ same => tileCore_rsx_some same input
  case rsl => exact marks rfl fun _ same => tileCore_rsl same
  case rmean => exact fills rfl fun l same => ⟨l, same, tileCore_rmean_summed same kind⟩
  case rvar => exact fills rfl fun l same => ⟨l, same, tileCore_rvar_summed same kind⟩
  case rmeanBad => exact writes rfl fun _ same => tileCore_rmean_refused same (not_or.mpr ⟨notExact, notWide⟩)
  case rvarBad => exact writes rfl fun _ same => tileCore_rvar_refused same (not_or.mpr ⟨notExact, notWide⟩)
  case rdiv => exact fills rfl fun _ same => tileCore_rdiv same
  case rsmax => exact writes rfl fun _ same => tileCore_rsmax same rfl
  case rprob => exact fills rfl fun l same => ⟨l, same, tileCore_rprob_softmax same kind⟩
  case rprobBad => exact writes rfl fun _ same => tileCore_rprob_refused same kind
  case rstr =>
    refine seen rfl fun l q same => ?_
    obtain ⟨m, result, stored, kept⟩ :=
      tileCore_rstr (sw := sw) (f := f) (sys := fun ix => (s.sysreg c ix).toNat % 2 ^ 32) same
    rw [State.rowOut, result]
    exact ⟨same, stored, kept⟩
  case rldr => exact marks rfl fun _ _ => rfl
  case raddr => exact marks rfl fun _ same => tileCore_raddr same

end Sys2Proof.Machine

/-!
Right after reset: every sparse table of the state is empty, so that each entry reads its default (R271, R348, R365, R490, R524).
-/

namespace Sys2Proof.Machine

open Sys2Proof

theorem reset_memoryWf : State.reset.memoryWf := rfl

@[simp] theorem reset_core (n : Nat) : State.reset.core n = Core.zero := rfl
@[simp] theorem reset_meadow (m : Nat) : State.reset.meadow m = Meadow.zero := rfl
@[simp] theorem reset_stack (k : Nat) : State.reset.stack k = Stack.zero := rfl
@[simp] theorem reset_sw (n : Nat) : State.reset.sw n = SwLink.zero := rfl
@[simp] theorem reset_pipe (n : Nat) : State.reset.pipe n = Pipe.zero := rfl
@[simp] theorem reset_mbox (p : Nat) : State.reset.mbox p = Mailbox.zero := rfl
@[simp] theorem reset_port (p : Nat) : State.reset.port p = Port.zero := rfl
@[simp] theorem reset_fn (p f : Nat) : State.reset.fn p f = HostFn.zero := rfl

/-- The registers of a core after reset read 0. -/
theorem Core.zero_registers (r : Nat) : Core.zero.gr r = 0 ∧ Core.zero.dr r = 0 ∧ Core.zero.vr r = 0 :=
  ⟨ite_self _, rfl, rfl⟩

/-- The tokens, engines, queues and matrix cells of a core after reset are free, empty or clear. -/
theorem Core.zero_units (t : Nat) : Core.zero.token t = .free ∧ Core.zero.engq t = [] ∧ Core.zero.ring t = ⟨0, 0⟩
    ∧ Core.zero.cell t = Cell.zero := ⟨rfl, rfl, rfl, rfl⟩

theorem Meadow.zero_seq (j : Nat) : Meadow.zero.seq j = Seq.zero := rfl

/-- Settles O60: the units read their state after reset. -/
theorem resetLeavesWhatTheRulesSay : Obligations.ResetLeavesWhatTheRulesSay := by
  unfold Obligations.ResetLeavesWhatTheRulesSay
  dsimp only
  refine ⟨reset_memoryWf, rfl, rfl, rfl, rfl, rfl, rfl, rfl, rfl, rfl, rfl, fun n => ?_⟩
  rw [reset_core, reset_meadow, reset_stack, reset_sw, reset_pipe, reset_mbox, reset_port]
  refine ⟨rfl, Core.zero_registers, Core.zero_units, rfl, rfl, rfl, rfl, fun j => ?_, rfl, rfl, rfl, rfl, rfl, rfl,
    fun f => ?_⟩
  · rw [Meadow.zero_seq]; rfl
  · rw [reset_fn]; exact ⟨rfl, rfl, rfl⟩

end Sys2Proof.Machine

/-!
Contexts started, entries of a schedule read, and jobs switched by the host (R271 to R273, R277, R355 to R361, R388).
-/

namespace Sys2Proof.Machine

open Sys2Proof

/-! Whether a request is delayed depends on package memory alone. -/

/-- Two states with the same package memory of the same part. -/
structure State.PkgAlike (s t : State) : Prop where
  pkg : t.pkg = s.pkg
  part : t.part = s.part

namespace State.PkgAlike

variable {s t : State}

theorem updMeadow (s : State) (m : Nat) (f : Meadow → Meadow) : s.PkgAlike (s.updMeadow m f) := ⟨rfl, rfl⟩

theorem raise (s : State) (p f v : Nat) : s.PkgAlike (s.raise p f v) := by
  rw [State.raise_eq]
  exact ⟨rfl, rfl⟩

theorem trans {u : State} (a : s.PkgAlike t) (b : t.PkgAlike u) : s.PkgAlike u := ⟨b.pkg.trans a.pkg, b.part.trans a.part⟩

theorem parityStack (h : s.PkgAlike t) (pa : Nat) : t.parityStack pa = s.parityStack pa := by
  unfold State.parityStack; rw [h.part]

theorem parityIx (h : s.PkgAlike t) (pa : Nat) : t.parityIx pa = s.parityIx pa := by
  unfold State.parityIx; rw [h.part]

theorem stack (h : s.PkgAlike t) (k : Nat) : t.stack k = s.stack k := by
  unfold State.stack; rw [h.pkg]

theorem trains (h : s.PkgAlike t) (k pa : Nat) : t.trains k pa = s.trains k pa := by
  unfold State.trains State.channelOf; rw [h.stack, h.pkg, h.part]

theorem updPkg (h : s.PkgAlike t) (f : Pkg → Pkg) : (s.updPkg f).PkgAlike (t.updPkg f) :=
  ⟨congrArg f h.pkg, h.part⟩

theorem updStack (h : s.PkgAlike t) (k : Nat) (f : Stack → Stack) : (s.updStack k f).PkgAlike (t.updStack k f) := by
  unfold State.updStack; rw [h.stack]; exact h.updPkg _

theorem setPflips (h : s.PkgAlike t) (pix : Nat) (x : BitVec 288) : (s.setPflips pix x).PkgAlike (t.setPflips pix x) :=
  h.updPkg _

theorem pflips (h : s.PkgAlike t) (pix : Nat) : t.pflips pix = s.pflips pix := by
  unfold State.pflips; rw [h.pkg]

theorem dataOf (h : s.PkgAlike t) (pix : Nat) : t.dataOf pix = s.dataOf pix := by
  unfold State.dataOf; rw [h.part]

/-- A parity sector is read in both, with the same effect, or in neither. -/
theorem readParity (h : s.PkgAlike t) (pix : Nat) : Option.Rel State.PkgAlike (s.readParity pix) (t.readParity pix) := by
  unfold State.readParity
  rw [h.pflips, h.dataOf, h.parityStack]
  split
  · exact .some h
  · split
    · exact .some h
    · exact .some ((h.setPflips _ _).updStack _ _)
    · exact .none

theorem landDelta (h : s.PkgAlike t) (d : Delta) : (s.landDelta d).PkgAlike (t.landDelta d) := by
  unfold State.landDelta
  dsimp only
  rw [h.parityStack, h.parityIx, h.stack]
  split
  · exact h
  · have read := h.readParity (s.parityIx (32 * d.sector))
    revert read
    generalize s.readParity _ = a
    generalize t.readParity _ = b
    rintro (same | _)
    · exact same
    · exact h.updStack _ _

theorem landDeltas (h : s.PkgAlike t) (l : List Delta) : (l.foldl State.landDelta s).PkgAlike (l.foldl State.landDelta t) := by
  induction l generalizing s t with
  | nil => exact h
  | cons d r ih => exact ih (h.landDelta d)

theorem settle (h : s.PkgAlike t) (p : Delta → Bool) : (s.settle p).PkgAlike (t.settle p) := by
  have trained : (fun d : Delta => t.trains (t.parityStack (32 * d.sector)) (32 * d.sector))
      = fun d : Delta => s.trains (s.parityStack (32 * d.sector)) (32 * d.sector) := by
    funext d; rw [h.parityStack, h.trains]
  unfold State.settle
  dsimp only
  rw [h.pkg, trained]
  split
  · exact h.updPkg _
  · exact (h.updPkg _).landDeltas _

theorem settledFrom (h : s.PkgAlike t) (a : State) : (a.settledFrom s).PkgAlike (a.settledFrom t) := by
  unfold State.settledFrom
  rw [h.pkg]
  split
  · exact h
  · exact h.settle _

/-- A command's own work outside package memory delays none of its requests. -/
theorem undelayed {a : State} (h : s.PkgAlike t) (free : a.undelayed s) : a.undelayed t := by
  unfold State.undelayed
  rw [(h.settledFrom a).pkg]
  exact free

end State.PkgAlike

/-- A command of an agent that ends in an update of a meadow is complete. -/
theorem attemptWhole_updMeadow (c : Instr) {s t : State} (m : Nat) (f : Meadow → Meadow) (free : s.undelayed t) :
    s.attemptWhole c (.next (t.updMeadow m f)) = .next (s.completed (t.updMeadow m f)) :=
  attemptWhole_undelayed c ((State.PkgAlike.updMeadow t m f).undelayed free)

/-! Rows that are the host's writes (R388). -/

section

variable {s : State} {m : Nat} (off : Nat) (f : State → State)

theorem hostRow_may (may : s.hostMay m) : s.hostRow m off f = f s := by
  refine if_neg ?_
  rintro ⟨here, refused⟩
  rcases may with absent | trusted
  · exact here absent
  · rw [trusted] at refused; exact Bool.noConfusion refused

theorem not_absent_of_denied (denied : ¬ s.hostMay m) : (s.meadow m).state ≠ .absent := (not_or.mp denied).1

theorem hostRow_denied (denied : ¬ s.hostMay m) : s.hostRow m (mdwOff off) f = s.hostDenied m off := by
  obtain ⟨here, refused⟩ := not_or.mp denied
  exact if_pos ⟨here, Bool.not_eq_false _ ▸ refused⟩

end

theorem seqOff_eq (j : Nat) : seqOff j 8 = mdwOff (0x1008 + 0x80 * j) := by
  unfold seqOff; congr 1; omega

/-! START of a context (R271, R277, R529). -/

section

variable {s : State} {m j : Nat}

/-- The context keeps the code, and the function the write that was refused. -/
def State.seqRefused (s : State) (m j : Nat) (c : Half) : State :=
  (s.updMeadow m (·.updSeq j fun q => { q with code := c })).refuseWrite (s.meadow m).port (s.meadow m).fn c (seqOff j 8)

theorem seqRefused_eq (c : Half) : s.seqRefused m j c = (s.updMeadow m (·.updSeq j fun q => { q with code := c })).refuseWrite
    (s.meadow m).port (s.meadow m).fn c (0x21008 + 0x80 * j) := by
  have place : seqOff j 8 = 0x21008 + 0x80 * j := by unfold seqOff mdwOff; omega
  rw [State.seqRefused, place]

theorem seqStart_busy (busy : ((s.meadow m).seq j).state = .running ∨ ((s.meadow m).seq j).state = .waiting) :
    s.seqStart m j = s.seqRefused m j Code.seqBusy := if_pos busy

theorem not_busy_of_rests {q : Seq} (rests : q.state = .idle ∨ q.state = .stopped) :
    ¬ (q.state = .running ∨ q.state = .waiting) := by
  rcases rests with h | h <;> rw [h] <;> decide

theorem seqStart_setup (rests : ((s.meadow m).seq j).state = .idle ∨ ((s.meadow m).seq j).state = .stopped)
    (bad : ((s.meadow m).seq j).steps = 0 ∨ 4096 < ((s.meadow m).seq j).steps ∨ ((s.meadow m).seq j).schedule % 64 ≠ 0) :
    s.seqStart m j = s.seqRefused m j Code.seqSetup := (if_neg (not_busy_of_rests rests)).trans (if_pos bad)

theorem seqStart_accepted (rests : ((s.meadow m).seq j).state = .idle ∨ ((s.meadow m).seq j).state = .stopped)
    (least : 1 ≤ ((s.meadow m).seq j).steps) (most : ((s.meadow m).seq j).steps ≤ 4096)
    (aligned : ((s.meadow m).seq j).schedule % 64 = 0) : s.seqStart m j = s.updMeadow m (·.updSeq j fun q =>
      { q with
        state := .waiting, step := 0, frame := q.first, framesDone := 0, code := 0, runSchedule := q.schedule,
        runSteps := q.steps, entry := none, ahead := none }) :=
  (if_neg (not_busy_of_rests rests)).trans (if_neg (by omega))

end

/-- START that R388 lets through. -/
theorem execSeqStart_may {s t : State} {m : MeadowIx} {j : JobIx} (may : s.hostMay m) (here : (s.meadow m).state ≠ .absent)
    (effect : s.seqStart m j = t) : execSeqStart m j s = .next t := by
  unfold execSeqStart
  rw [if_neg here, hostRow_may _ _ may, effect]

theorem execSeqStart_denied {s : State} {m : MeadowIx} (j : JobIx) (denied : ¬ s.hostMay m) :
    execSeqStart m j s = .next (s.hostDenied m (0x1008 + 0x80 * j.val)) := by
  unfold execSeqStart
  rw [if_neg (not_absent_of_denied denied), seqOff_eq, hostRow_denied _ _ denied]

/-! The reads of a schedule (R272, R273). -/

/-- An entry for step `i`, with its reserved bytes zero (R272). -/
def EntryFor (b : List Byte) (i : Nat) : Prop := fieldNat b 0 2 = i ∧ fieldZero b 2 2 = true ∧ fieldZero b 20 44 = true

section

variable {s t : State} {m j i : Nat} {b : List Byte} {c : Half}

theorem readEntry_failed (read : s.mreadAll m (((s.meadow m).seq j).runSchedule + 64 * i) 64 = (.error c, t)) :
    s.readEntry m j i = (.error Code.seqScheduleRead, t) := by
  unfold State.readEntry; rw [read]

theorem readEntry_refused (read : s.mreadAll m (((s.meadow m).seq j).runSchedule + 64 * i) 64 = (.ok b, t))
    (bad : ¬ EntryFor b i) : s.readEntry m j i = (.error Code.seqEntry, t) := by
  unfold State.readEntry
  rw [read]
  refine if_pos ?_
  by_cases step : fieldNat b 0 2 = i
  · refine .inr ?_
    cases low : fieldZero b 2 2 with
    | false => exact .inl rfl
    | true =>
      cases high : fieldZero b 20 44 with
      | false => exact .inr rfl
      | true => exact absurd ⟨step, low, high⟩ bad
  · exact .inl step

theorem readEntry_read (read : s.mreadAll m (((s.meadow m).seq j).runSchedule + 64 * i) 64 = (.ok b, t))
    (good : EntryFor b i) : s.readEntry m j i = (.ok b, t) := by
  obtain ⟨step, low, high⟩ := good
  unfold State.readEntry
  rw [read]
  exact if_neg (by simp [step, low, high])

end

section

variable {s t : State} {m : MeadowIx} {j : JobIx} {b : List Byte} {c : Half} (free : s.undelayed t)

include free

/-- The read for the step that the context waits for stops it. -/
theorem execScheduleRead_stops (waits : ((s.meadow m).seq j).state = .waiting) (unread : ((s.meadow m).seq j).entry = none)
    (read : s.readEntry m j ((s.meadow m).seq j).step = (.error c, t)) : execScheduleRead m j s
      = .next (s.completed (t.updMeadow m (·.updSeq j fun q => { q with state := .stopped, code := c }))) := by
  unfold execScheduleRead
  dsimp only
  rw [if_pos ⟨waits, by rw [unread]; rfl⟩, read]
  exact attemptWhole_updMeadow _ _ _ free

theorem execScheduleRead_entry (waits : ((s.meadow m).seq j).state = .waiting) (unread : ((s.meadow m).seq j).entry = none)
    (read : s.readEntry m j ((s.meadow m).seq j).step = (.ok b, t)) : execScheduleRead m j s
      = .next (s.completed (t.updMeadow m (·.updSeq j fun q => { q with entry := some b }))) := by
  unfold execScheduleRead
  dsimp only
  rw [if_pos ⟨waits, by rw [unread]; rfl⟩, read]
  exact attemptWhole_updMeadow _ _ _ free

theorem execScheduleRead_ahead (runs : ((s.meadow m).seq j).state = .running) (unread : ((s.meadow m).seq j).ahead = none)
    (more : ((s.meadow m).seq j).step + 1 < ((s.meadow m).seq j).runSteps)
    (read : s.readEntry m j (((s.meadow m).seq j).step + 1) = (.ok b, t)) : execScheduleRead m j s
      = .next (s.completed (t.updMeadow m (·.updSeq j fun q => { q with ahead := some b }))) := by
  unfold execScheduleRead
  dsimp only
  rw [if_neg (by rw [runs]; simp), if_pos ⟨runs, by rw [unread]; rfl, more⟩, read]
  exact attemptWhole_updMeadow _ _ _ free

end

/-! SWITCH (R357 to R359, R361). -/

section

variable {s : State} {m next : Nat}

/-- A switch to the resident job itself is none. -/
theorem beginSwitch_resident (res : (s.meadow m).resident = some next) :
    s.beginSwitch m next = s.updMeadow m fun x => { x with switchReq := false } := by
  unfold State.beginSwitch
  simp only [res, if_pos]

theorem beginSwitch_saves {r : Nat} (res : (s.meadow m).resident = some r) (other : r ≠ next) :
    s.beginSwitch m next = s.updMeadow m fun x =>
      { x with state := .switching, switchReq := false, switchPhase := .saving next (x.seq r).save } := by
  unfold State.beginSwitch
  simp only [res, if_neg other]

theorem beginSwitch_loads {back : MState} (res : (s.meadow m).resident = none) (was : (s.meadow m).state = back) :
    s.beginSwitch m next = s.updMeadow m fun x =>
      { x with
        state := .switching, switchReq := false,
        switchPhase := .loading next back (x.seq next).program (x.seq next).save } := by
  subst was
  unfold State.beginSwitch
  simp only [res]
  rfl

/-- A SWITCH that is due is acted on where the meadow is READY. -/
theorem readyHook_due (ready : (s.meadow m).state = .ready) (due : (s.meadow m).switchReq = true) :
    s.readyHook m = s.beginSwitch m (s.meadow m).nextJob := if_pos ⟨ready, due⟩

theorem readyHook_rests (rests : (s.meadow m).switchReq = false) : s.readyHook m = s :=
  if_neg fun both => Bool.noConfusion (rests.symm.trans both.2)

theorem shownState_eq (h : (s.meadow m).state ≠ .ready) : s.shownState m = (s.meadow m).state :=
  if_neg fun both => h both.1

theorem ready_of_shownState (h : s.shownState m = .ready) : (s.meadow m).state = .ready := by
  unfold State.shownState at h
  split at h
  · cases h
  · exact h

/-- SWITCH registered: NEXT_JOB, and that it is not yet acted on. -/
def State.switchDue (s : State) (m next : Nat) : State :=
  s.updMeadow m fun x => { x with nextJob := next, switchReq := true }

@[simp] theorem switchDue_meadow :
    (s.switchDue m next).meadow m = { s.meadow m with nextJob := next, switchReq := true } := State.updMeadow_meadow_same ..

theorem switchWrite_outOfRange (bad : s.shownState m = .absent ∨ (s.meadow m).jobs < next) :
    s.switchWrite m next = s.updMeadow m fun x => { x with code := Code.jobRange } := if_pos bad

theorem switch_inRange {st : MState} (shown : s.shownState m = st) (here : st ≠ .absent) (inRange : next ≤ (s.meadow m).jobs) :
    ¬ (s.shownState m = .absent ∨ (s.meadow m).jobs < next) := by
  rintro (absent | beyond)
  · exact here (shown.symm.trans absent)
  · exact Nat.not_lt.mpr inRange beyond

theorem switchWrite_ready (shown : s.shownState m = .ready) (inRange : next ≤ (s.meadow m).jobs) :
    s.switchWrite m next = (s.switchDue m next).beginSwitch m next := by
  have ready := ready_of_shownState shown
  have hook : (s.switchDue m next).readyHook m = (s.switchDue m next).beginSwitch m next := by
    rw [readyHook_due] <;> rw [switchDue_meadow]
    exact ready
  refine (if_neg (switch_inRange shown (by decide) inRange)).trans ?_
  rw [ready]
  exact hook

theorem switchWrite_opened (opened : (s.meadow m).state = .opened) (inRange : next ≤ (s.meadow m).jobs) :
    s.switchWrite m next = s.switchDue m next := by
  have shown := shownState_eq (by rw [opened]; decide)
  refine (if_neg (switch_inRange (shown.trans opened) (by decide) inRange)).trans ?_
  rw [opened]
  rfl

theorem switchWrite_stopped (stopped : (s.meadow m).state = .stopped) (res : (s.meadow m).resident = none)
    (inRange : next ≤ (s.meadow m).jobs) : s.switchWrite m next = (s.switchDue m next).beginSwitch m next := by
  have shown := shownState_eq (by rw [stopped]; decide)
  refine (if_neg (switch_inRange (shown.trans stopped) (by decide) inRange)).trans ?_
  rw [stopped]
  exact if_pos (by rw [res]; rfl)

/-! What a SWITCH that is acted on at once makes of the meadow. -/

theorem switchDue_saves {r : Nat} (res : (s.meadow m).resident = some r) (other : r ≠ next) :
    (s.switchDue m next).beginSwitch m next = s.updMeadow m fun x =>
      { x with
        nextJob := next, switchReq := false, state := .switching, switchPhase := .saving next (x.seq r).save } := by
  rw [beginSwitch_saves (r := r) (by rw [switchDue_meadow]; exact res) other]
  exact State.updMeadow_updMeadow ..

theorem switchDue_resident (res : (s.meadow m).resident = some next) :
    (s.switchDue m next).beginSwitch m next = s.updMeadow m fun x => { x with nextJob := next, switchReq := false } := by
  rw [beginSwitch_resident (by rw [switchDue_meadow]; exact res)]
  exact State.updMeadow_updMeadow ..

theorem switchDue_loads {back : MState} (res : (s.meadow m).resident = none) (was : (s.meadow m).state = back) :
    (s.switchDue m next).beginSwitch m next = s.updMeadow m fun x =>
      { x with
        nextJob := next, switchReq := false, state := .switching,
        switchPhase := .loading next back (x.seq next).program (x.seq next).save } := by
  rw [beginSwitch_loads (back := back) (by rw [switchDue_meadow]; exact res) (by rw [switchDue_meadow]; exact was)]
  exact State.updMeadow_updMeadow ..

end

/-- SWITCH that R388 lets through. -/
theorem execSwitch_may {s t : State} {m : MeadowIx} {next : JobIx} (may : s.hostMay m) (effect : s.switchWrite m next = t) :
    execSwitch m next s = .next t := by
  unfold execSwitch
  rw [hostRow_may _ _ may, effect]

theorem execSwitch_denied {s : State} {m : MeadowIx} (next : JobIx) (denied : ¬ s.hostMay m) :
    execSwitch m next s = .next (s.hostDenied m 0) := by
  unfold execSwitch
  rw [hostRow_denied _ _ denied]

/-- Settles O38: the context's or the meadow's state picks the branch of each row. -/
theorem sequencersStartAndJobsSwitch : Obligations.SequencersStartAndJobsSwitch := by
  unfold Obligations.SequencersStartAndJobsSwitch
  intro m j next b c s t
  refine ⟨fun denied => ⟨execSeqStart_denied j denied, execSwitch_denied next denied⟩,
    fun may here => ⟨fun busy => ?busy, fun rests bad => ?setup, fun rests least most aligned => ?start⟩,
    fun waits unread free => ⟨fun read => ?fails, fun read bad => ?refused, fun read good => ?entry⟩,
    fun runs unread more step low high read free => ?ahead, fun may bad => ?range,
    fun may inRange shown => ⟨fun r res other => ?save, fun res => ?same, fun res => ?load⟩,
    fun may inRange opened => ?opened, fun may inRange stopped res => ?stopped⟩
  case busy => exact execSeqStart_may may here ((seqStart_busy busy).trans (seqRefused_eq _))
  case setup => exact execSeqStart_may may here ((seqStart_setup rests bad).trans (seqRefused_eq _))
  case start => exact execSeqStart_may may here (seqStart_accepted rests least most aligned)
  case fails => exact execScheduleRead_stops free waits unread (readEntry_failed read)
  case refused => exact execScheduleRead_stops free waits unread (readEntry_refused read bad)
  case entry => exact execScheduleRead_entry free waits unread (readEntry_read read good)
  case ahead => exact execScheduleRead_ahead free runs unread more (readEntry_read read ⟨step, low, high⟩)
  case range => exact execSwitch_may may (switchWrite_outOfRange bad)
  case save => exact execSwitch_may may ((switchWrite_ready shown inRange).trans (switchDue_saves res other))
  case same => exact execSwitch_may may ((switchWrite_ready shown inRange).trans (switchDue_resident res))
  case load =>
    exact execSwitch_may may ((switchWrite_ready shown inRange).trans (switchDue_loads res (ready_of_shownState shown)))
  case opened => exact execSwitch_may may (switchWrite_opened opened inRange)
  case stopped =>
    exact execSwitch_may may ((switchWrite_stopped stopped res inRange).trans (switchDue_loads res stopped))

end Sys2Proof.Machine

/-!
What the end of a boundary, or of the drain of a failed epoch, makes of a meadow and of its cores (R271, R352 to R361, R490).
-/

namespace Sys2Proof.Machine

open Sys2Proof

/-! Updates that are the same done twice, of cores that a list may name more than once. -/

theorem State.updCores_core_idem {f : Core → Core} (idem : ∀ c, f (f c) = f c) {n : Nat} {l : List Nat} (mem : n ∈ l)
    (s : State) : (s.updCores l f).core n = f (s.core n) := by
  induction l generalizing s with
  | nil => cases mem
  | cons a r ih =>
    by_cases later : n ∈ r
    · refine (ih later (s.updCore a f)).trans ?_
      rw [State.updCore_core]
      split
      next same => rw [same, idem]
      next => rfl
    · obtain rfl : n = a := (List.mem_cons.mp mem).resolve_right later
      exact (State.updCores_core_out f n r _ later).trans (State.updCore_core_same ..)

theorem Core.clear_clear (c : Core) : c.clear.clear = c.clear := rfl

/-! What leaves the meadows and Sexton as they are. -/

/-- `t` is `s` but for cores, base tussocks, hub, transport port, pipes and interrupts. -/
structure State.SameMeadows (s t : State) : Prop where
  meadows : t.meadows = s.meadows
  heath : t.heath = s.heath
  sxt : t.sxt = s.sxt

namespace State.SameMeadows

variable {s t u : State}

theorem refl (s : State) : s.SameMeadows s := ⟨rfl, rfl, rfl⟩

theorem trans (a : s.SameMeadows t) (b : t.SameMeadows u) : s.SameMeadows u :=
  ⟨b.meadows.trans a.meadows, b.heath.trans a.heath, b.sxt.trans a.sxt⟩

theorem meadow (h : s.SameMeadows t) (m : Nat) : t.meadow m = s.meadow m := by
  unfold State.meadow; rw [h.meadows]

theorem foldl {β : Type} {f : State → β → State} (h : ∀ (u : State) x, u.SameMeadows (f u x)) (l : List β) (s : State) :
    s.SameMeadows (l.foldl f s) := by
  induction l generalizing s with
  | nil => exact refl s
  | cons x r ih => exact (h s x).trans (ih _)

theorem noteDropped (s : State) (k : Msg) : s.SameMeadows (s.noteDropped k) := by
  unfold State.noteDropped
  split
  · exact refl s
  · split <;> exact ⟨rfl, rfl, rfl⟩

theorem updCores (s : State) (l : List Nat) (f : Core → Core) : s.SameMeadows (s.updCores l f) :=
  ⟨State.updCores_meadows .., State.updCores_heath .., State.updCores_sxt ..⟩

theorem updBase (s : State) (b : Nat) (f : Base → Base) : s.SameMeadows (s.updBase b f) := ⟨rfl, rfl, rfl⟩

theorem updHub (s : State) (f : Hub → Hub) : s.SameMeadows (s.updHub f) := ⟨rfl, rfl, rfl⟩

/-- Base tussocks updated one after another, each by what the state holds then. -/
theorem updBaseEach (f : State → Nat → Base → Base) (l : List Nat) (s : State) :
    s.SameMeadows (l.foldl (fun u b => u.updBase b (f u b)) s) := foldl (fun u b => updBase u b (f u b)) l s

theorem raise (s : State) (p f v : Nat) : s.SameMeadows (s.raise p f v) := by
  rw [State.raise_eq]; exact ⟨rfl, rfl, rfl⟩

end State.SameMeadows

@[simp] theorem raiseM_meadow (s : State) (m v i : Nat) : (s.raiseM m v).meadow i = s.meadow i :=
  (State.SameMeadows.raise ..).meadow i

/-! What leaves the cores as they are. -/

theorem cores_foldl {β : Type} {f : State → β → State} (h : ∀ (u : State) x, (f u x).cores = u.cores) (l : List β)
    (s : State) : (l.foldl f s).cores = s.cores := by
  induction l generalizing s with
  | nil => rfl
  | cons x r ih => exact (ih _).trans (h s x)

theorem updBaseEach_cores (f : State → Nat → Base → Base) (l : List Nat) (s : State) :
    (l.foldl (fun u b => u.updBase b (f u b)) s).cores = s.cores :=
  cores_foldl (f := fun u b => u.updBase b (f u b)) (fun _ _ => rfl) l s

theorem core_of_cores {s t : State} (h : t.cores = s.cores) (n : Nat) : t.core n = s.core n := by
  unfold State.core; rw [h]

theorem noteDropped_cores (s : State) (k : Msg) : (s.noteDropped k).cores = s.cores := by
  unfold State.noteDropped
  split
  · rfl
  · split <;> rfl

theorem raiseM_cores (s : State) (m v : Nat) : (s.raiseM m v).cores = s.cores := by
  unfold State.raiseM; rw [State.raise_eq]

theorem beginSwitch_cores (s : State) (m next : Nat) : (s.beginSwitch m next).cores = s.cores := by
  unfold State.beginSwitch
  dsimp only
  split
  · rfl
  · split <;> rfl

theorem readyHook_cores (s : State) (m : Nat) : (s.readyHook m).cores = s.cores := by
  unfold State.readyHook
  dsimp only
  split
  · exact beginSwitch_cores ..
  · rfl

theorem recordStep_cores (s : State) (m : Nat) : (s.recordStep m).cores = s.cores := by
  unfold State.recordStep
  dsimp only
  split
  · rfl
  · split
    · rfl
    · split
      · rfl
      · exact raiseM_cores ..

theorem endRepair_cores (s : State) (m : Nat) : (s.endRepair m).cores = s.cores := by
  unfold State.endRepair
  split <;> rfl

theorem afterBoundary_cores (s : State) (m : Nat) : (s.afterBoundary m).cores = s.cores := by
  unfold State.afterBoundary
  dsimp only
  split
  · exact raiseM_cores ..
  · split
    · exact beginSwitch_cores ..
    · split
      · rfl
      · split
        · split
          · exact beginSwitch_cores ..
          · rfl
        · rfl

/-! Step 4 of the boundary (R352, R413, R434). -/

/-- Every core of the meadow is cleared, STOP apart, and no other core differs. -/
def State.Cleared (s : State) (m : Nat) (u : State) : Prop :=
  (∀ n ∈ s.meadowCores m, ∃ h, u.core n = { (s.core n).clear with stopped := h })
    ∧ ∀ n, n ∉ s.meadowCores m → u.core n = s.core n

namespace State.Cleared

variable {s t u : State} {m : Nat}

theorem of_cores (h : s.Cleared m t) (same : u.cores = t.cores) : s.Cleared m u := by
  obtain ⟨within, beyond⟩ := h
  refine ⟨fun n mem => ?_, fun n out => ?_⟩ <;> rw [core_of_cores same]
  · exact within n mem
  · exact beyond n out

/-- The cores of a meadow cleared, whatever else differs. -/
theorem updCores (same : t.cores = s.cores) : s.Cleared m (t.updCores (s.meadowCores m) Core.clear) := by
  refine ⟨fun n mem => ⟨(s.core n).stopped, ?_⟩, fun n out => ?_⟩
  · rw [State.updCores_core_idem Core.clear_clear mem, core_of_cores same]
    rfl
  · rw [State.updCores_core_out _ _ _ _ out, core_of_cores same]

/-- A restart ends a STOP of the meadow's cores. -/
theorem restart (h : s.Cleared m t) : s.Cleared m (t.updCores (s.meadowCores m) fun c => { c with stopped := false }) := by
  obtain ⟨within, beyond⟩ := h
  refine ⟨fun n mem => ⟨false, ?_⟩, fun n out => ?_⟩
  · obtain ⟨stop, cleared⟩ := within n mem
    have once := State.updCores_core_idem (f := fun c : Core => { c with stopped := false }) (fun _ => rfl) mem t
    exact once.trans (by rw [cleared])
  · rw [State.updCores_core_out _ _ _ _ out, beyond n out]

end State.Cleared

/-- A meadow whose step 4 is done, with `k` messages and entries discarded (R341). -/
def Meadow.cleared (x : Meadow) (k : Nat) : Meadow := { x with discarded := satInc x.discarded k, drained := true }

section

variable (s : State) (m : Nat)

/-- The notes of the hub's that the boundary abandons are counted, and nothing else. -/
theorem notesDropped_same (l : List Msg) :
    s.SameMeadows (l.foldl (fun t x => if s.meadowOf x.dst = some m then t.noteDropped x else t) s)
    ∧ (l.foldl (fun t x => if s.meadowOf x.dst = some m then t.noteDropped x else t) s).cores = s.cores := by
  refine ⟨State.SameMeadows.foldl (fun u x => ?_) l s, cores_foldl (fun u x => ?_) l s⟩ <;> split
  · exact State.SameMeadows.noteDropped ..
  · exact State.SameMeadows.refl u
  · exact noteDropped_cores ..
  · rfl

/-- All that the boundary clears outside the meadow's own registers, and then those. -/
theorem boundaryClear_splits :
    ∃ u k, s.SameMeadows u ∧ s.Cleared m u ∧ s.boundaryClear m = u.updMeadow m (·.cleared k) := by
  obtain ⟨dropped, cores⟩ := notesDropped_same s m (s.hub.unacked ++ s.hub.doorbells)
  unfold State.boundaryClear
  dsimp only
  refine ⟨_, _, ?_, ?_, rfl⟩
  · exact (dropped.trans (.updHub ..)).trans ((State.SameMeadows.updCores ..).trans (.updBaseEach (fun _ _ => Base.clear) ..))
  · exact (State.Cleared.updCores (t := State.updHub _ _) cores).of_cores (updBaseEach_cores (fun _ _ => Base.clear) ..)

end

/-! What a meadow keeps where its state and its switch move (R357 to R361). -/

/-- `y` is `x` but for the state, the STOP that is due and the switch. -/
def Meadow.Moved (x y : Meadow) : Prop :=
  ∃ st was due req phase,
    y = { x with state := st, stopWas := was, stopDue := due, switchReq := req, switchPhase := phase }

namespace Meadow.Moved

variable {x y z : Meadow}

theorem refl (x : Meadow) : x.Moved x := ⟨_, _, _, _, _, rfl⟩

theorem trans (a : x.Moved y) (b : y.Moved z) : x.Moved z := by
  obtain ⟨_, _, _, _, _, rfl⟩ := a
  obtain ⟨_, _, _, _, _, rfl⟩ := b
  exact ⟨_, _, _, _, _, rfl⟩

theorem count (h : x.Moved y) : y.count = x.count := by obtain ⟨_, _, _, _, _, rfl⟩ := h; rfl
theorem attempts (h : x.Moved y) : y.attempts = x.attempts := by obtain ⟨_, _, _, _, _, rfl⟩ := h; rfl
theorem seq (h : x.Moved y) (j : Nat) : y.seq j = x.seq j := by obtain ⟨_, _, _, _, _, rfl⟩ := h; rfl

end Meadow.Moved

section

variable {s : State} {m : Nat}

/-- An update of a meadow that moves it. -/
theorem moved_updMeadow {f : Meadow → Meadow} (h : (s.meadow m).Moved (f (s.meadow m))) :
    (s.meadow m).Moved ((s.updMeadow m f).meadow m) := by
  rw [State.updMeadow_meadow_same]; exact h

theorem beginSwitch_moved (next : Nat) : (s.meadow m).Moved ((s.beginSwitch m next).meadow m) := by
  unfold State.beginSwitch
  dsimp only
  split
  · exact moved_updMeadow ⟨_, _, _, _, _, rfl⟩
  · split
    · exact moved_updMeadow ⟨_, _, _, _, _, rfl⟩
    · exact moved_updMeadow ⟨_, _, _, _, _, rfl⟩

/-! The decision at a boundary's completion (R357, R361). -/

theorem afterBoundary_moved : (s.meadow m).Moved ((s.afterBoundary m).meadow m) := by
  have ready : (s.meadow m).Moved ((s.updMeadow m fun x => { x with state := .ready }).meadow m) :=
    moved_updMeadow ⟨_, _, _, _, _, rfl⟩
  unfold State.afterBoundary
  dsimp only
  split
  · rw [raiseM_meadow]
    exact moved_updMeadow ⟨_, _, _, _, _, rfl⟩
  · split
    · exact ready.trans (beginSwitch_moved _)
    · split
      · exact ready
      · split
        · split
          · exact ready.trans (beginSwitch_moved _)
          · exact ready
        · exact ready

theorem afterBoundary_stops (due : (s.meadow m).stopDue = true) : (s.afterBoundary m).meadow m
    = { s.meadow m with state := .stopped, stopWas := .ready, stopDue := false } := by
  unfold State.afterBoundary
  dsimp only
  rw [if_pos due, raiseM_meadow, State.updMeadow_meadow_same]

/-- Without a STOP, a SWITCH and a time slice the meadow is READY. -/
theorem afterBoundary_ready (due : (s.meadow m).stopDue = false) (req : (s.meadow m).switchReq = false)
    (whole : (s.meadow m).slice = 0) : s.afterBoundary m = s.updMeadow m fun x => { x with state := .ready } := by
  unfold State.afterBoundary
  dsimp only
  rw [if_neg (by rw [due]; decide), if_neg (by rw [req]; decide)]
  split
  · rfl
  · exact if_neg fun sliced => sliced.1 whole

/-! The boundary recorded for the sequencer (R271, R352). -/

/-- Only the contexts of the meadow differ. -/
theorem recordStep_seqs : ∃ l, (s.recordStep m).meadow m = { s.meadow m with seqs := l } := by
  unfold State.recordStep
  dsimp only
  split
  · exact ⟨_, rfl⟩
  · split
    · exact ⟨_, rfl⟩
    · split
      · exact ⟨_, State.updMeadow_meadow_same ..⟩
      · exact ⟨_, (raiseM_meadow ..).trans (State.updMeadow_meadow_same ..)⟩

theorem Meadow.updSeq_seq_same (x : Meadow) (j : Nat) (f : Seq → Seq) : (x.updSeq j f).seq j = f (x.seq j) :=
  Sparse.get_put_same ..

variable {j : Nat} (res : (s.meadow m).resident = some j) (own : (s.meadow m).openedByHost = false)
  (runs : ((s.meadow m).seq j).state = .running)

include res own runs

theorem recordStep_next (more : ((s.meadow m).seq j).step + 1 < ((s.meadow m).seq j).runSteps) :
    ((s.recordStep m).meadow m).seq j = { (s.meadow m).seq j with
      state := .waiting, step := ((s.meadow m).seq j).step + 1, entry := ((s.meadow m).seq j).ahead, ahead := none } := by
  unfold State.recordStep
  simp only [res]
  rw [if_neg (by simp [own, runs]), if_pos more, if_pos runs, State.updMeadow_meadow_same, Meadow.updSeq_seq_same]

theorem recordStep_wraps (last : ((s.meadow m).seq j).runSteps ≤ ((s.meadow m).seq j).step + 1) :
    ((s.recordStep m).meadow m).seq j = { (s.meadow m).seq j with
      state := .waiting, step := 0, frame := ((s.meadow m).seq j).frame + 1,
      framesDone := ((s.meadow m).seq j).framesDone + 1, entry := none, ahead := none } := by
  unfold State.recordStep
  simp only [res]
  rw [if_neg (by simp [own, runs]), if_neg (Nat.not_lt.mpr last), if_pos runs, raiseM_meadow, State.updMeadow_meadow_same,
    Meadow.updSeq_seq_same]

end

/-! The end of a boundary (R352, R354). -/

section

variable {s : State} {m : Nat} (drained : s.meadowDrained m = true)

/-- A meadow whose boundary is counted. -/
def Meadow.counted (x : Meadow) : Meadow := { x with count := x.count + 1, attempts := 0, sliceDone := x.sliceDone + 1 }

theorem drainEnd_waits (busy : s.meadowDrained m = false) : s.drainEnd m = s := if_pos (by rw [busy]; rfl)

include drained

/-- The boundary's clears and count, and then its decisions. -/
theorem drainEnd_boundary (ends : (s.meadow m).state = .boundary) : ∃ u k, s.Cleared m u
    ∧ u.meadow m = ((s.meadow m).cleared k).counted ∧ s.drainEnd m = ((u.recordStep m).endRepair m).afterBoundary m := by
  obtain ⟨t, k, same, clear, splits⟩ := boundaryClear_splits s m
  have stages := State.SameMeadows.updBaseEach (fun u b y => { y with stage := u.firstStage b }) (s.meadowBases m)
  unfold State.drainEnd
  simp only [drained, ends, splits, Bool.not_true, Bool.false_eq_true, if_false]
  refine ⟨_, k, ?_, ?_, rfl⟩
  · exact clear.of_cores (updBaseEach_cores (fun u b y => { y with stage := u.firstStage b }) ..)
  · rw [(stages _).meadow, State.updMeadow_meadow_same, State.updMeadow_meadow_same, same.meadow]
    rfl

/-- The drain of a failed epoch: its clears, and then the decision on its replay. -/
theorem drainEnd_failed (failed : (s.meadow m).state = .failed) (first : (s.meadow m).drained = false) : ∃ u k, s.Cleared m u
    ∧ u.meadow m = (s.meadow m).cleared k ∧ u.sxt = s.sxt ∧ u.meadowCores m = s.meadowCores m
    ∧ s.drainEnd m = u.decideReplay m := by
  obtain ⟨t, k, same, clear, splits⟩ := boundaryClear_splits s m
  have meadow : (t.updMeadow m (·.cleared k)).meadow m = (s.meadow m).cleared k := by
    rw [State.updMeadow_meadow_same, same.meadow]
  unfold State.drainEnd
  simp only [drained, failed, first, splits, Bool.not_true, Bool.false_eq_true, if_false]
  refine ⟨t.updMeadow m (·.cleared k), k, clear.of_cores rfl, meadow, same.sxt, ?_, rfl⟩
  unfold State.meadowCores State.coresOf State.rect
  rw [meadow, State.updMeadow_heath, same.heath]
  rfl

end

/-! The decision on a replay (R490). -/

section

variable {s u : State} {m : Nat}

theorem restartEpoch_cores :
    (s.restartEpoch m).cores = (s.updCores (s.meadowCores m) fun c => { c with stopped := false }).cores :=
  readyHook_cores ..

/-- Whatever is decided, the cores stay cleared. -/
theorem State.Cleared.decideReplay (h : s.Cleared m u) (same : u.meadowCores m = s.meadowCores m) :
    s.Cleared m (u.decideReplay m) := by
  have restarted : s.Cleared m (u.restartEpoch m) := by
    refine h.restart.of_cores ?_
    rw [restartEpoch_cores, same]
  unfold State.decideReplay
  dsimp only
  split
  · exact h
  · split
    · exact restarted
    · split
      · split
        · exact restarted
        · exact h
      · split
        · exact h
        · exact h.of_cores (raiseM_cores ..)

theorem restartEpoch_ready (req : (s.meadow m).switchReq = false) :
    (s.restartEpoch m).meadow m = { s.meadow m with state := .ready, replay := true, replayDue := false } := by
  unfold State.restartEpoch
  dsimp only
  rw [readyHook_rests (by rw [State.updMeadow_meadow_same, State.updCores_meadow]; exact req), State.updMeadow_meadow_same,
    State.updCores_meadow]

variable (idle : s.sxt.repair.phase = 0) (asked : (s.meadow m).replayDue = false)

include idle asked

theorem decideReplay_restarts (below : (s.meadow m).attempts < (s.meadow m).limit) (auto : (s.meadow m).auto = true) :
    s.decideReplay m = s.restartEpoch m := by
  unfold State.decideReplay
  dsimp only
  rw [if_neg fun repairing => repairing.1 idle, if_neg (by rw [asked]; decide), if_pos below, if_pos auto]

theorem decideReplay_rests (below : (s.meadow m).attempts < (s.meadow m).limit) (auto : (s.meadow m).auto = false) :
    s.decideReplay m = s := by
  unfold State.decideReplay
  dsimp only
  rw [if_neg fun repairing => repairing.1 idle, if_neg (by rw [asked]; decide), if_pos below, if_neg (by rw [auto]; decide)]

theorem decideReplay_limit (reached : (s.meadow m).limit ≤ (s.meadow m).attempts) :
    (s.decideReplay m).meadow m = { s.meadow m with code := Code.replayLimit } := by
  unfold State.decideReplay
  dsimp only
  rw [if_neg fun repairing => repairing.1 idle, if_neg (by rw [asked]; decide), if_neg (Nat.not_lt.mpr reached)]
  split
  next already => rw [← already]
  next => rw [raiseM_meadow, State.updMeadow_meadow_same]

end

/-! The end of a save and of a load (R356, R358 to R361, R460). -/

section

variable {s t : State} {m : MeadowIx} {next area table : Nat} {back : MState} {b : List Byte} {c : Half}
variable (on : s.allOn m = true) (switching : (s.meadow m).state = .switching) (free : s.undelayed t)

/-- The end of a switch that neither a STOP nor another SWITCH waits for. -/
theorem endSwitch_back {m : Nat} (due : (s.meadow m).stopDue = false) (req : (s.meadow m).switchReq = false) :
    s.endSwitch m back = s.updMeadow m fun x => { x with state := back, switchPhase := .none } := by
  unfold State.endSwitch
  dsimp only
  rw [if_neg (by rw [due]; decide)]
  exact readyHook_rests (by rw [State.updMeadow_meadow_same]; exact req)

include on switching free

theorem execJobSaveDone_saved {j : Nat} (phase : (s.meadow m).switchPhase = .saving next area)
    (res : (s.meadow m).resident = some j)
    (saved : s.saveJob m area nearSectors deepSectors 0 (s.meadowCores m) = (.ok (), t)) :
    execJobSaveDone m s = .next (s.completed (t.updMeadow m fun x =>
      { x with
        resident := none, replay := false, switchPhase := .loading next .ready (x.seq next).program (x.seq next).save,
        seqs := (x.updSeq j fun q => if q.state = .running then { q with state := .waiting } else q).seqs })) := by
  unfold execJobSaveDone
  dsimp only
  rw [if_neg (by rw [on]; decide), switching, phase, res]
  dsimp only
  rw [saved]
  exact attemptWhole_updMeadow _ _ _ free

theorem execJobLoadDone_loaded (phase : (s.meadow m).switchPhase = .loading next back table area)
    (loaded : s.loadJob m table area next nearSectors deepSectors 0 (s.meadowCores m) [] = (.ok b, t))
    (due : (t.meadow m).stopDue = false) (req : (t.meadow m).switchReq = false) :
    execJobLoadDone m s = .next (s.completed (t.updMeadow m fun x =>
      { x with
        resident := some next, sliceDone := 0, jobHash := Sparse.put 0 x.jobHash next (bytesToBe (sha256 b)),
        state := back, switchPhase := .none })) := by
  unfold execJobLoadDone
  dsimp only
  rw [if_neg (by rw [on]; decide), switching, phase]
  dsimp only
  rw [loaded]
  dsimp only
  rw [endSwitch_back (by rw [State.updMeadow_meadow_same]; exact due) (by rw [State.updMeadow_meadow_same]; exact req),
    State.updMeadow_updMeadow]
  exact attemptWhole_updMeadow _ _ _ free

theorem execJobLoadDone_failed (phase : (s.meadow m).switchPhase = .loading next back table area)
    (failed : s.loadJob m table area next nearSectors deepSectors 0 (s.meadowCores m) [] = (.error c, t)) :
    execJobLoadDone m s = .next (s.completed ((t.updMeadow m fun x =>
      { x with
        state := .stopped, stopWas := .ready, code := c, resident := none, switchPhase := .none,
        stopDue := false }).raiseM m 8)) := by
  unfold execJobLoadDone
  dsimp only
  rw [if_neg (by rw [on]; decide), switching, phase]
  dsimp only
  rw [failed]
  exact attemptWhole_undelayed _ (((State.PkgAlike.updMeadow ..).trans (.raise ..)).undelayed free)

end

/-! The statement's two ends of BOUNDARY_DRAINED. -/

section

variable {s u : State} {m k : Nat} (counted : u.meadow m = ((s.meadow m).cleared k).counted)

/-- The end of a repair is Sexton's own. -/
theorem recorded_meadow : ((u.recordStep m).endRepair m).meadow m = (u.recordStep m).meadow m := by
  unfold State.endRepair
  split <;> rfl

include counted

theorem recorded_seqs :
    ∃ l, ((u.recordStep m).endRepair m).meadow m = { ((s.meadow m).cleared k).counted with seqs := l } := by
  obtain ⟨l, seqs⟩ := recordStep_seqs (s := u) (m := m)
  exact ⟨l, by rw [recorded_meadow, seqs, counted]⟩

/-- The context that ran moves on from where it stood before the boundary. -/
theorem recorded_seq {j : Nat} (res : (s.meadow m).resident = some j) (own : (s.meadow m).openedByHost = false)
    (runs : ((s.meadow m).seq j).state = .running) :
    let q := (s.meadow m).seq j
    (q.step + 1 < q.runSteps → ((u.recordStep m).meadow m).seq j
      = { q with state := .waiting, step := q.step + 1, entry := q.ahead, ahead := none })
    ∧ (q.runSteps ≤ q.step + 1 → ((u.recordStep m).meadow m).seq j
      = { q with
          state := .waiting, step := 0, frame := q.frame + 1, framesDone := q.framesDone + 1, entry := none,
          ahead := none }) := by
  have same : (u.meadow m).seq j = (s.meadow m).seq j := by rw [counted]; rfl
  have res : (u.meadow m).resident = some j := by rw [counted]; exact res
  have own : (u.meadow m).openedByHost = false := by rw [counted]; exact own
  rw [← same] at runs ⊢
  exact ⟨recordStep_next res own runs, recordStep_wraps res own runs⟩

end

theorem execBoundaryDrained_next {s u : State} {m : MeadowIx} (ends : s.drainEnd m = u) : execBoundaryDrained m s = .next u := by
  unfold execBoundaryDrained
  rw [ends]

/-- Settles O39: step 4 of the boundary clears the cores, and each later part moves the meadow's own registers alone. -/
theorem boundariesEndAndJobsMove : Obligations.BoundariesEndAndJobsMove := by
  unfold Obligations.BoundariesEndAndJobsMove
  intro m j next b c s t
  refine ⟨fun busy => execBoundaryDrained_next (drainEnd_waits busy), fun drained ends => ?boundary,
    fun drained failed first idle asked => ?failed,
    fun area on switching phase res free saved => execJobSaveDone_saved on switching free phase res saved,
    fun back table area on switching phase free =>
      ⟨execJobLoadDone_loaded on switching free phase, execJobLoadDone_failed on switching free phase⟩⟩
  case boundary =>
    obtain ⟨u, k, clear, counted, ends⟩ := drainEnd_boundary drained ends
    obtain ⟨l, recorded⟩ := recorded_seqs counted
    have moved := afterBoundary_moved (s := (u.recordStep m).endRepair m) (m := m)
    have seq (i : Nat) : ((((u.recordStep m).endRepair m).afterBoundary m).meadow m).seq i
        = ((u.recordStep m).meadow m).seq i := by rw [moved.seq, recorded_meadow]
    refine ⟨_, execBoundaryDrained_next ends, clear.of_cores ?_, ?_, ?_, fun due => ?_, fun due req whole => ?_,
      fun res own runs more => ?_, fun res own runs last => ?_⟩
    · rw [afterBoundary_cores, endRepair_cores, recordStep_cores]
    · rw [moved.count, recorded]; rfl
    · rw [moved.attempts, recorded]; rfl
    · rw [afterBoundary_stops (by rw [recorded]; exact due)]
      exact ⟨rfl, rfl⟩
    · rw [afterBoundary_ready (by rw [recorded]; exact due) (by rw [recorded]; exact req) (by rw [recorded]; exact whole),
        State.updMeadow_meadow_same]
    · rw [seq, (recorded_seq counted res own runs).1 more]
      exact ⟨rfl, rfl, rfl⟩
    · rw [seq, (recorded_seq counted res own runs).2 last]
      exact ⟨rfl, rfl, rfl⟩
  case failed =>
    obtain ⟨u, k, clear, meadow, sxt, cores, ends⟩ := drainEnd_failed drained failed first
    have idle : u.sxt.repair.phase = 0 := by rw [sxt]; exact idle
    have asked : (u.meadow m).replayDue = false := by rw [meadow]; exact asked
    refine ⟨_, execBoundaryDrained_next ends, clear.decideReplay cores, fun below auto req => ?_, fun below auto => ?_,
      fun reached => ?_⟩
    · rw [decideReplay_restarts idle asked (by rw [meadow]; exact below) (by rw [meadow]; exact auto),
        restartEpoch_ready (by rw [meadow]; exact req)]
      exact ⟨rfl, rfl⟩
    · rw [decideReplay_rests idle asked (by rw [meadow]; exact below) (by rw [meadow]; exact auto), meadow]
      exact ⟨failed, rfl⟩
    · rw [decideReplay_limit idle asked (by rw [meadow]; exact reached), meadow]
      exact ⟨failed, rfl⟩

end Sys2Proof.Machine

/-!
Writes of STALL_CLEAR, REPLAY, RESUME and FAULT_CLEAR (R302, R490, R491, R494).
-/

namespace Sys2Proof.Machine

open Sys2Proof

/-! Rows of the meadow's block that R388 lets through, or refuses. -/

section

variable {s : State} {m : MeadowIx}

theorem execStallClear_may (may : s.hostMay m) :
    execStallClear m s = .next (s.updCores (s.meadowCores m) fun c => { c with stalls := [] }) := by
  unfold execStallClear
  rw [hostRow_may _ _ may]

theorem execStallClear_denied (denied : ¬ s.hostMay m) : execStallClear m s = .next (s.hostDenied m 0x90) := by
  unfold execStallClear
  rw [hostRow_denied _ _ denied]

theorem execReplay_may {t : State} (may : s.hostMay m) (effect : s.replay m = t) : execReplay m s = .next t := by
  unfold execReplay
  rw [hostRow_may _ _ may, effect]

theorem execReplay_denied (denied : ¬ s.hostMay m) : execReplay m s = .next (s.hostDenied m 0x40) := by
  unfold execReplay
  rw [hostRow_denied _ _ denied]

theorem execResume_may {t : State} (may : s.hostMay m) (effect : s.resumeMeadow m = t) : execResume m s = .next t := by
  unfold execResume
  rw [hostRow_may _ _ may, effect]

theorem execResume_denied (denied : ¬ s.hostMay m) : execResume m s = .next (s.hostDenied m 0x40) := by
  unfold execResume
  rw [hostRow_denied _ _ denied]

end

section

variable {s : State} {m : Nat}

/-! REPLAY (R490, R493). -/

theorem repairHolds_idle (idle : s.sxt.repair.phase = 0) : s.repairHolds m = false := by
  unfold State.repairHolds
  rw [idle]
  rfl

theorem replay_not_failed (other : (s.meadow m).state ≠ .failed) : s.replay m = s := if_pos other

theorem replay_undrained (failed : (s.meadow m).state = .failed) (undrained : (s.meadow m).drained = false) :
    s.replay m = s.updMeadow m fun x => { x with replayDue := true } :=
  (if_neg (Classical.not_not.mpr failed)).trans (if_neg fun both => Bool.noConfusion (undrained.symm.trans both.1))

theorem replay_drained (failed : (s.meadow m).state = .failed) (drained : (s.meadow m).drained = true)
    (idle : s.sxt.repair.phase = 0) : s.replay m = s.restartEpoch m :=
  (if_neg (Classical.not_not.mpr failed)).trans (if_pos ⟨drained, by rw [repairHolds_idle idle]; rfl⟩)

/-- Where no switch waits, a restart is of the cores' STOP and of the meadow's own registers. -/
theorem restartEpoch_rests (req : (s.meadow m).switchReq = false) :
    s.restartEpoch m = (s.updCores (s.meadowCores m) fun c => { c with stopped := false }).updMeadow m fun x =>
      { x with state := .ready, replay := true, replayDue := false } :=
  readyHook_rests (by rw [State.updMeadow_meadow_same, State.updCores_meadow]; exact req)

/-! RESUME (R352, R491). -/

/-- The cores of a meadow await ADMIT. -/
def State.awaiting (s : State) (m : Nat) : State := s.updCores (s.meadowCores m) fun c => { c with awaitAdmit := true }

/-- The end of a RESUME, whose state has been given back: ADMITs, and a boundary that every core has reached. -/
def State.readmitted (s t : State) (m : Nat) : State := (t.issueAdmits (s.meadowCores m) .sexton).checkBoundary m

theorem checkBoundary_eq : s.checkBoundary m =
    if (s.meadow m).state = .opened ∧ (∀ n ∈ s.meadowCores m, (s.core n).ctl = .ended) then
      s.updMeadow m fun x => { x with state := .boundary, drained := false } else s := by
  unfold State.checkBoundary
  simp only [List.all_eq_true, beq_iff_eq]

theorem resumeMeadow_not_stopped (other : (s.meadow m).state ≠ .stopped) : s.resumeMeadow m = s := if_pos (.inl other)

section

variable (stopped : (s.meadow m).state = .stopped) (sound : s.sxt.lockstep = false)

include stopped sound

/-- A stopped meadow is not kept as it is. -/
theorem resume_goes : ¬ ((s.meadow m).state ≠ .stopped ∨ s.sxt.lockstep = true) := by
  rw [stopped, sound]
  decide

theorem resumeMeadow_opened (was : (s.meadow m).stopWas = .opened) (unfailed : (s.meadow m).stopFail = 0) :
    s.resumeMeadow m = s.readmitted ((s.updMeadow m fun x => { x with state := .opened }).updCores (s.meadowCores m)
      fun c => { c with progress := false }) m := by
  unfold State.resumeMeadow
  dsimp only
  rw [if_neg (resume_goes stopped sound), if_pos ⟨was, unfailed⟩]
  rfl

theorem resumeMeadow_ready (was : (s.meadow m).stopWas = .ready) (req : (s.meadow m).switchReq = false) :
    s.resumeMeadow m = s.readmitted ((s.awaiting m).updMeadow m fun x => { x with state := .ready }) m := by
  have rests : ((s.awaiting m).updMeadow m fun x => { x with state := .ready }).readyHook m
      = (s.awaiting m).updMeadow m fun x => { x with state := .ready } :=
    readyHook_rests (by rw [State.updMeadow_meadow_same, State.awaiting, State.updCores_meadow]; exact req)
  unfold State.resumeMeadow
  dsimp only
  rw [if_neg (resume_goes stopped sound), if_neg (by rw [was]; simp), if_neg (by rw [was]; simp)]
  exact congrArg (s.readmitted · m) rests

theorem resumeMeadow_failed (was : (s.meadow m).stopWas = .failed) (undrained : (s.meadow m).drained = false) :
    s.resumeMeadow m = s.readmitted ((s.awaiting m).updMeadow m fun x =>
      { x with state := .failed, stopFail := 0, replayDue := true }) m := by
  have due : ((s.awaiting m).updMeadow m fun x => { x with state := .failed, stopFail := 0 }).replay m
      = (s.awaiting m).updMeadow m fun x => { x with state := .failed, stopFail := 0, replayDue := true } := by
    rw [replay_undrained (by rw [State.updMeadow_meadow_same])
      (by rw [State.updMeadow_meadow_same, State.awaiting, State.updCores_meadow]; exact undrained)]
    exact State.updMeadow_updMeadow ..
  unfold State.resumeMeadow
  dsimp only
  rw [if_neg (resume_goes stopped sound), if_neg (by rw [was]; simp), if_pos (.inl was)]
  exact congrArg (s.readmitted · m) due

end

end

/-- A RESUME that R388 lets through, in the statement's words. -/
theorem execResume_readmits {s t : State} {m : MeadowIx} (may : s.hostMay m) (effect : s.resumeMeadow m = s.readmitted t m) :
    execResume m s = let u := t.issueAdmits (s.meadowCores m) .sexton
      .next (if (u.meadow m).state = .opened ∧ (∀ n ∈ u.meadowCores m, (u.core n).ctl = .ended) then
        u.updMeadow m fun x => { x with state := .boundary, drained := false } else u) :=
  execResume_may may (effect.trans checkBoundary_eq)

/-! FAULT_CLEAR (R494, R529). -/

section

variable {s : State} {p : Nat}

theorem faultClear_in_service (up : s.sxt.benched = false) : s.faultClear p = s := if_pos (by rw [up]; rfl)

theorem faultClear_refused (benched : s.sxt.benched = true) (other : s.sxt.cause ≠ Code.benched) :
    s.faultClear p = s.updFn p 0 fun x => { x with writeCode := Code.benched, writeOffset := 0x100048 } :=
  (if_neg (by rw [benched]; decide)).trans (if_pos other)

theorem faultClear_clears (benched : s.sxt.benched = true) (resets : s.sxt.cause = Code.benched) (step : s.sxt.bootStep ≠ 10) :
    s.faultClear p = s.updSxt fun x => { x with benched := false, cause := 0, warmTimes := [] } :=
  (if_neg (by rw [benched]; decide)).trans ((if_neg (Classical.not_not.mpr resets)).trans (if_neg step))

end

theorem execFaultClear_next {s t : State} {p : PortIx} (effect : s.faultClear p = t) : execFaultClear p s = .next t := by
  unfold execFaultClear
  rw [effect]

/-- Settles O40: the meadow's state, and that before its STOP, pick the branch of each row. That RESUME of a FAILED meadow replays
whatever AUTO and LIMIT say is log entry 28. -/
theorem recoveryWrites : Obligations.RecoveryWrites := by
  unfold Obligations.RecoveryWrites
  intro m p s
  refine ⟨fun denied => ⟨execStallClear_denied denied, execReplay_denied denied, execResume_denied denied⟩,
    execStallClear_may, fun may other => ?kept, fun may failed drained idle req => ?restarts,
    fun may failed undrained => ?due, fun may other => ?running,
    fun may stopped sound => ⟨fun was unfailed => ?opened, fun was req => ?ready, fun was undrained => ?failed⟩,
    fun up => ?service, fun benched other => ?refused, fun benched resets step => ?cleared⟩
  case kept => exact execReplay_may may (replay_not_failed other)
  case restarts => exact execReplay_may may ((replay_drained failed drained idle).trans (restartEpoch_rests req))
  case due => exact execReplay_may may (replay_undrained failed undrained)
  case running => exact execResume_may may (resumeMeadow_not_stopped other)
  case opened => exact execResume_readmits may (resumeMeadow_opened stopped sound was unfailed)
  case ready => exact execResume_readmits may (resumeMeadow_ready stopped sound was req)
  case failed => exact execResume_readmits may (resumeMeadow_failed stopped sound was undrained)
  case service => exact execFaultClear_next (faultClear_in_service up)
  case refused => exact execFaultClear_next (faultClear_refused benched other)
  case cleared => exact execFaultClear_next (faultClear_clears benched resets step)

end Sys2Proof.Machine

/-!
The host's reads and writes of BAR2, its reads of BAR4, and doorbells (R313, R314, R387 to R390, R400, R470).
-/

namespace Sys2Proof.Machine

open Sys2Proof

/-! What leaves package memory as it is. -/

namespace State.PkgAlike

variable {s t : State}

theorem updPort (s : State) (p : Nat) (f : Port → Port) : s.PkgAlike (s.updPort p f) := ⟨rfl, rfl⟩

theorem emit (s : State) (o : Output) : s.PkgAlike (s.emit o) := ⟨rfl, rfl⟩

theorem freeBytes (s : State) (n : Nat) : s.PkgAlike (s.freeBytes n).2 := ⟨rfl, rfl⟩

theorem deny (s : State) (p f : Nat) (bar : Bar) (off : Nat) (write untrusted : Bool) :
    s.PkgAlike (s.deny p f bar off write untrusted) := (updPort ..).trans (raise ..)

theorem still (h : s.PkgAlike t) : s.still t := State.still_of_pkg h.pkg

end State.PkgAlike

/-! Accesses refused (R387, R388, R400). -/

/-- An access at `off` of the BAR numbered `bar`, refused. -/
def State.refused (s : State) (p f bar off : Nat) (write untrusted : Bool) : State :=
  (s.updPort p fun q => { q with
    denied := satInc q.denied,
    deniedLast := BitVec.ofNat 57
      (off + f * 2 ^ 48 + bar * 2 ^ 53 + write.toNat * 2 ^ 55 + untrusted.toNat * 2 ^ 56) }).raise p f 10

/-- The record holds the whole of an offset of fewer than 48 bits. -/
theorem deny_eq_refused {s : State} {p f : Nat} {bar : Bar} {write untrusted : Bool} {w : Nat} {off : BitVec w}
    (short : w ≤ 48) : s.deny p f bar off.toNat write untrusted = s.refused p f bar.num off.toNat write untrusted := by
  have whole : off.toNat % 2 ^ 48 = off.toNat :=
    Nat.mod_eq_of_lt (Nat.lt_of_lt_of_le off.isLt (Nat.pow_le_pow_right (by decide) short))
  unfold State.deny
  rw [whole]
  rfl

/-- A read's answer. -/
def State.answer (s : State) (p f : Nat) (b : List Byte) : State := s.emit (.hostData p f b)

/-! Reads (R313, R388). -/

section

variable {s t : State} {p f n : Nat} {a : BitVec 41} {ide : Bool} {d : List Byte}

theorem bar2Get_untrusted (bad : s.untrusted p f ide = true) :
    s.bar2Get p f a.toNat n ide = (s.refused p f 1 a.toNat false true).answer p f (onesBytes n) := by
  unfold State.bar2Get
  rw [if_pos bad, deny_eq_refused (by decide : 41 ≤ 48)]
  rfl

theorem bar4Get_untrusted (bad : s.untrusted p f ide = true) :
    s.bar4Get p f a.toNat n ide = (s.refused p f 2 a.toNat false true).answer p f (onesBytes n) := by
  unfold State.bar4Get
  rw [if_pos bad, deny_eq_refused (by decide : 41 ≤ 48)]
  rfl

variable (trusted : s.untrusted p f ide = false)

include trusted

theorem bar2Get_ungranted (bad : s.bar2Granted p f a.toNat n = false) :
    s.bar2Get p f a.toNat n ide = (s.refused p f 1 a.toNat false false).answer p f (onesBytes n) := by
  unfold State.bar2Get
  rw [if_neg (by rw [trusted]; decide), if_pos (by rw [bad]; rfl), deny_eq_refused (by decide : 41 ≤ 48)]
  rfl

theorem bar2Get_read (granted : s.bar2Granted p f a.toNat n = true) (read : s.physGet a.toNat n = ((false, d), t)) :
    s.bar2Get p f a.toNat n ide = (if s.anyRetired a.toNat n then t.raise p f 10 else t).answer p f d := by
  unfold State.bar2Get
  rw [if_neg (by rw [trusted]; decide), if_neg (by rw [granted]; decide), read]
  rfl

theorem bar2Get_unread (granted : s.bar2Granted p f a.toNat n = true) (read : s.physGet a.toNat n = ((true, d), t)) :
    s.bar2Get p f a.toNat n ide
      = ((t.updPort p fun q => { q with uncorrected := satInc q.uncorrected }).raise p f 10).answer p f (onesBytes n) := by
  unfold State.bar2Get
  rw [if_neg (by rw [trusted]; decide), if_neg (by rw [granted]; decide), read]
  rfl

theorem bar4Get_none (carriesNone : s.fnMeadow p f = none) :
    s.bar4Get p f a.toNat n ide = (s.refused p f 2 a.toNat false false).answer p f (onesBytes n) := by
  unfold State.bar4Get
  rw [if_neg (by rw [trusted]; decide), if_pos (by rw [carriesNone]; rfl), deny_eq_refused (by decide : 41 ≤ 48)]
  rfl

theorem bar4Get_some (carries : (s.fnMeadow p f).isSome = true) :
    s.bar4Get p f a.toNat n ide = (s.freeBytes n).2.answer p f (s.freeBytes n).1 := by
  unfold State.bar4Get
  rw [if_neg (by rw [trusted]; decide), if_neg (by rw [Option.isNone_eq_false_iff.mpr carries]; decide)]
  rfl

end

/-! What is done to a state that answers is no request of package memory. -/

theorem State.PkgAlike.refused_answer (s : State) (p f bar off : Nat) (write untrusted : Bool) (b : List Byte) :
    s.PkgAlike ((s.refused p f bar off write untrusted).answer p f b) :=
  ((updPort ..).trans (raise ..)).trans (emit ..)

theorem State.PkgAlike.read_answer (t : State) (p f : Nat) (b : List Byte) (retired : Bool) :
    t.PkgAlike ((if retired then t.raise p f 10 else t).answer p f b) := by
  split
  · exact (raise ..).trans (emit ..)
  · exact emit ..

section

variable {s t u : State} {p : PortIx} {f : FnIx} {a : BitVec 41} {n : Fin 4097} {ide : Bool}

theorem execBar2Read_beyond (beyond : s.bar2Size p f < a.toNat + n) : execBar2Read p f ⟨.bar2, a⟩ n ide s = .next s := by
  unfold execBar2Read
  dsimp only
  rw [if_pos beyond]
  exact attemptWhole_same _ (State.still_of_pkg rfl)

theorem execBar4Read_beyond (beyond : 2 ^ 21 < a.toNat + n) : execBar2Read p f ⟨.bar4, a⟩ n ide s = .next s := by
  unfold execBar2Read
  dsimp only
  rw [if_pos (show bar4Bytes < a.toNat + n from beyond)]
  exact attemptWhole_same _ (State.still_of_pkg rfl)

/-- A read of BAR2 whose memory requests `t` does not delay. -/
theorem execBar2Read_undelayed (within : a.toNat + n ≤ s.bar2Size p f) (get : s.bar2Get p f a.toNat n ide = u)
    (alike : t.PkgAlike u) (free : s.undelayed t) : execBar2Read p f ⟨.bar2, a⟩ n ide s = .next (s.completed u) := by
  unfold execBar2Read
  dsimp only
  rw [if_neg (Nat.not_lt.mpr within), get]
  exact attemptWhole_undelayed _ (alike.undelayed free)

/-- A read of BAR2 that asks nothing of package memory. -/
theorem execBar2Read_alike (within : a.toNat + n ≤ s.bar2Size p f) (get : s.bar2Get p f a.toNat n ide = u)
    (alike : s.PkgAlike u) : execBar2Read p f ⟨.bar2, a⟩ n ide s = .next u := by
  rw [execBar2Read_undelayed within get alike (undelayed_same (State.still_of_pkg rfl)),
    completed_same (congrArg Pkg.deltas alike.pkg)]

theorem execBar4Read_alike (within : a.toNat + n ≤ 2 ^ 21) (get : s.bar4Get p f a.toNat n ide = u)
    (alike : s.PkgAlike u) : execBar2Read p f ⟨.bar4, a⟩ n ide s = .next u := by
  unfold execBar2Read
  dsimp only
  rw [if_neg (show ¬ bar4Bytes < a.toNat + n from Nat.not_lt.mpr within), get]
  exact attemptWhole_same _ alike.still

end

/-! Writes (R297, R314, R388, R400). -/

section

variable {s : State} {p : PortIx} {f : FnIx} {a : BitVec 41} {b : List Byte} {ide : Bool}

/-- The bytes of a granted write stored, its deltas owned by the port. -/
def State.bar2Put (s : State) (p a : Nat) (b : List Byte) : State :=
  (s.physPut p a b).ownDeltas s.pkg.deltas.length (some (.port p))

theorem execBar2Write_beyond (beyond : s.bar2Size p f < a.toNat + b.length) : execBar2Write p f a b ide s = .next s := by
  unfold execBar2Write
  rw [if_pos beyond]
  exact attempt_same _ (State.still_of_pkg rfl)

variable (within : a.toNat + b.length ≤ s.bar2Size p f)

include within

theorem execBar2Write_untrusted (bad : s.untrusted p f ide = true) :
    execBar2Write p f a b ide s = .next (s.refused p f 1 a.toNat true true) := by
  unfold execBar2Write
  rw [if_neg (Nat.not_lt.mpr within), if_pos bad, attempt_same _ (State.PkgAlike.deny ..).still,
    deny_eq_refused (by decide : 41 ≤ 48)]
  rfl

variable (trusted : s.untrusted p f ide = false)

include trusted

theorem execBar2Write_ungranted (bad : s.bar2Granted p f a.toNat b.length = false) :
    execBar2Write p f a b ide s = .next (s.refused p f 1 a.toNat true false) := by
  unfold execBar2Write
  rw [if_neg (Nat.not_lt.mpr within), if_neg (by rw [trusted]; decide), if_pos (by rw [bad]; rfl),
    attempt_same _ (State.PkgAlike.deny ..).still, deny_eq_refused (by decide : 41 ≤ 48)]
  rfl

/-- A vector that is raised turns no request of the write away. -/
theorem execBar2Write_stores (granted : s.bar2Granted p f a.toNat b.length = true)
    (barred : (s.bar2Put p a.toNat b).pkg.barred = s.pkg.barred)
    (blocked : (s.bar2Put p a.toNat b).pkg.blocked = s.pkg.blocked) :
    execBar2Write p f a b ide s = .next (s.sentFrom (if s.writeCounted p (sectorsOf a.toNat b.length) a.toNat b
      then (s.bar2Put p a.toNat b).raise p f 10 else s.bar2Put p a.toNat b)) := by
  have same : (if s.writeCounted p (sectorsOf a.toNat b.length) a.toNat b
      then (s.bar2Put p a.toNat b).raise p f 10 else s.bar2Put p a.toNat b).pkg = (s.bar2Put p a.toNat b).pkg := by
    split
    · exact (State.PkgAlike.raise ..).pkg
    · rfl
  unfold execBar2Write
  rw [if_neg (Nat.not_lt.mpr within), if_neg (by rw [trusted]; decide), if_neg (by rw [granted]; decide)]
  exact attempt_next _ ((congrArg Pkg.barred same).trans barred) ((congrArg Pkg.blocked same).trans blocked)

end

/-! Doorbells (R389, R390, R470). -/

section

variable {s : State} {p : PortIx} {f : FnIx} {off : BitVec 21} {b : List Byte} {ide : Bool}

/-- A packet that the hub takes as a doorbell for a core of meadow `m`. -/
def State.takesDoorbell (s : State) (p off : Nat) (b : List Byte) (m : Nat) : Prop :=
  11 ≤ s.sxt.bootStep ∧ off % 64 = 0 ∧ b.length = 64 ∧ fieldZero b 0 8 = true ∧ s.meadowOf (off / 64 / 8) = some m
    ∧ (s.meadow m).state = .opened ∧ s.doorbellsFull p = false

/-- A doorbell as the hub holds it: a message of kind 2 to a queue of its core. -/
def State.holdDoorbell (s : State) (p off : Nat) (b : List Byte) : State :=
  s.updHub fun h => { h with doorbells := h.doorbells
    ++ [mkMsg (off / 64 / 8) (off / 64 / 8) (off / 64 % 8) 2 0 (p + 1) (bytesLine b) 0 none none] }

/-- The packets that are dropped are those that the hub does not take. -/
theorem drops_iff_not_takesDoorbell {off m : Nat} : (s.sxt.bootStep < 11 ∨ off % 64 ≠ 0 ∨ b.length ≠ 64 ∨ (!fieldZero b 0 8) = true
    ∨ (!(s.meadowOf (off / 64 / 8) == some m && (s.meadow m).state == .opened)) = true ∨ s.doorbellsFull p = true)
    ↔ ¬ s.takesDoorbell p off b m := by
  unfold State.takesDoorbell
  simp only [Bool.not_eq_true', Bool.and_eq_false_iff, beq_eq_false_iff_ne, Classical.not_and_iff_not_or_not,
    Bool.not_eq_true, Bool.not_eq_false, Nat.not_le, ne_eq, or_assoc]

theorem execDoorbell_untrusted (bad : s.untrusted p f ide = true) :
    execDoorbell p f off b ide s = .next (s.refused p f 2 off.toNat true true) := by
  unfold execDoorbell
  dsimp only
  rw [if_pos bad, deny_eq_refused (by decide : 21 ≤ 48)]
  rfl

variable {m : Nat} (trusted : s.untrusted p f ide = false) (carries : s.fnMeadow p f = some m)

include trusted carries

theorem execDoorbell_held (kept : s.takesDoorbell p off.toNat b m) :
    execDoorbell p f off b ide s = .next (s.holdDoorbell p off.toNat b) := by
  unfold execDoorbell
  simp only [trusted, carries]
  rw [if_neg Bool.false_ne_true, if_neg fun drop => drops_iff_not_takesDoorbell.mp drop kept]
  rfl

theorem execDoorbell_dropped (out : ¬ s.takesDoorbell p off.toNat b m) :
    execDoorbell p f off b ide s = .next (s.updPort p fun q => { q with doorbellDrops := satInc q.doorbellDrops }) := by
  unfold execDoorbell
  simp only [trusted, carries]
  rw [if_neg Bool.false_ne_true, if_pos (drops_iff_not_takesDoorbell.mpr out)]

end

/-- Settles O46: whether R388 trusts the access, and then whether it is granted, picks the branch; what a refusal or an answer adds
leaves package memory as the access left it. -/
theorem hostReadsWritesAndDoorbells : Obligations.HostReadsWritesAndDoorbells := by
  unfold Obligations.HostReadsWritesAndDoorbells
  intro p f a n b d off ide m s t
  refine ⟨rfl, execBar2Read_beyond, execBar4Read_beyond, execBar2Write_beyond,
    fun bad => ⟨fun within => ?untrusted2, fun within => ?untrusted4, fun within => ?untrustedWrite, ?untrustedDoorbell⟩,
    fun trusted => ⟨fun within bad => ?ungranted, fun within carriesNone => ?carriesNone, fun within carries => ?freeBytes,
      fun within bad => ?ungrantedWrite, fun within granted read free => ?read, fun within granted unread free => ?unread,
      fun within granted barred blocked => ?stores, fun carries => ⟨fun kept => ?held, fun out => ?dropped⟩⟩⟩
  case untrusted2 => exact execBar2Read_alike within (bar2Get_untrusted bad) (.refused_answer ..)
  case untrusted4 => exact execBar4Read_alike within (bar4Get_untrusted bad) (.refused_answer ..)
  case untrustedWrite => exact execBar2Write_untrusted within bad
  case untrustedDoorbell => exact execDoorbell_untrusted bad
  case ungranted => exact execBar2Read_alike within (bar2Get_ungranted trusted bad) (.refused_answer ..)
  case carriesNone => exact execBar4Read_alike within (bar4Get_none trusted carriesNone) (.refused_answer ..)
  case freeBytes =>
    exact execBar4Read_alike within (bar4Get_some trusted carries) ((State.PkgAlike.freeBytes ..).trans (.emit ..))
  case ungrantedWrite => exact execBar2Write_ungranted within trusted bad
  case read => exact execBar2Read_undelayed within (bar2Get_read trusted granted read) (.read_answer ..) free
  case unread =>
    exact execBar2Read_undelayed within (bar2Get_unread trusted granted unread)
      (((State.PkgAlike.updPort ..).trans (.raise ..)).trans (.emit ..)) free
  case stores => exact execBar2Write_stores within trusted granted barred blocked
  case held => exact execDoorbell_held trusted carries kept
  case dropped => exact execDoorbell_dropped trusted carries out

end Sys2Proof.Machine

/-!
What every step keeps: package memory's canonical form, the fused state, the queue and the clock (R310, R450, R453, R455, R457).
-/

namespace Sys2Proof.Machine

open Sys2Proof

/-- Every command that answers a next state keeps what no command breaks: one case for each row of the opcode table. -/
theorem keeps_exec {a s t : State} {i : Instr} (h : a.Keeps s) (e : exec i s = .next t) : a.Keeps t := by
  cases i with
  | nop => exact keeps_execNop h e
  | add => exact keeps_execAdd h e
  | sub => exact keeps_execSub h e
  | and => exact keeps_execAnd h e
  | or => exact keeps_execOr h e
  | xor => exact keeps_execXor h e
  | shl => exact keeps_execShl h e
  | shr => exact keeps_execShr h e
  | sra => exact keeps_execSra h e
  | mul => exact keeps_execMul h e
  | mulhu => exact keeps_execMulhu h e
  | slt => exact keeps_execSlt h e
  | sltu => exact keeps_execSltu h e
  | min => exact keeps_execMin h e
  | max => exact keeps_execMax h e
  | clz => exact keeps_execClz h e
  | popc => exact keeps_execPopc h e
  | lih => exact keeps_execLih h e
  | br => exact keeps_execBr h e
  | call => exact keeps_execCall h e
  | jr => exact keeps_execJr h e
  | ld => exact keeps_execLd h e
  | st => exact keeps_execSt h e
  | vld => exact keeps_execVld h e
  | vst => exact keeps_execVst h e
  | ldd => exact keeps_execLdd h e
  | std => exact keeps_execStd h e
  | dput => exact keeps_execDput h e
  | dget => exact keeps_execDget h e
  | mm => exact keeps_execMm h e
  | vx => exact keeps_execVx h e
  | sf => exact keeps_execSf h e
  | cp => exact keeps_execCp h e
  | ga => exact keeps_execGa h e
  | nz => exact keeps_execNz h e
  | send => exact keeps_execSend h e
  | recv => exact keeps_execRecv h e
  | poll => exact keeps_execPoll h e
  | wait => exact keeps_execWait h e
  | fence => exact keeps_execFence h e
  | epochEnd => exact keeps_execEpochEnd h e
  | sysrd => exact keeps_execSysrd h e
  | syswr => exact keeps_execSyswr h e
  | waitTimeout => exact keeps_execWaitTimeout h e
  | recvTimeout => exact keeps_execRecvTimeout h e
  | engineOpStart => exact keeps_execEngineOpStart h e
  | mmComplete => exact keeps_execMmComplete h e
  | vxComplete => exact keeps_execVxComplete h e
  | sfComplete => exact keeps_execSfComplete h e
  | cpComplete => exact keeps_execCpComplete h e
  | gaComplete => exact keeps_execGaComplete h e
  | nzComplete => exact keeps_execNzComplete h e
  | vnop => exact keeps_execVnop h e
  | vadd => exact keeps_execVadd h e
  | vsub => exact keeps_execVsub h e
  | vmul => exact keeps_execVmul h e
  | vfma => exact keeps_execVfma h e
  | vmin => exact keeps_execVmin h e
  | vmax => exact keeps_execVmax h e
  | vceq => exact keeps_execVceq h e
  | vclt => exact keeps_execVclt h e
  | vcle => exact keeps_execVcle h e
  | vsel => exact keeps_execVsel h e
  | vand => exact keeps_execVand h e
  | vor => exact keeps_execVor h e
  | vxor => exact keeps_execVxor h e
  | vldx => exact keeps_execVldx h e
  | vldy => exact keeps_execVldy h e
  | vldz => exact keeps_execVldz h e
  | vsto => exact keeps_execVsto h e
  | vlds => exact keeps_execVlds h e
  | vsts => exact keeps_execVsts h e
  | vimm => exact keeps_execVimm h e
  | vsys => exact keeps_execVsys h e
  | vidx => exact keeps_execVidx h e
  | vcvt => exact keeps_execVcvt h e
  | vsfn => exact keeps_execVsfn h e
  | rclr => exact keeps_execRclr h e
  | rsx => exact keeps_execRsx h e
  | rsl => exact keeps_execRsl h e
  | rmean => exact keeps_execRmean h e
  | rvar => exact keeps_execRvar h e
  | rdiv => exact keeps_execRdiv h e
  | rsmax => exact keeps_execRsmax h e
  | rprob => exact keeps_execRprob h e
  | rstr => exact keeps_execRstr h e
  | rldr => exact keeps_execRldr h e
  | raddr => exact keeps_execRaddr h e
  | rdfr => exact keeps_execRdfr h e
  | rscale => exact keeps_execRscale h e
  | cldg => exact keeps_execCldg h e
  | cfeed => exact keeps_execCfeed h e
  | cscale => exact keeps_execCscale h e
  | messageInject => exact keeps_execMessageInject h e
  | messageArrival => exact keeps_execMessageArrival h e
  | messageResponse => exact keeps_execMessageResponse h e
  | messageResend => exact keeps_execMessageResend h e
  | remoteWrite => exact keeps_execRemoteWrite h e
  | remoteAck => exact keeps_execRemoteAck h e
  | prefixLookupDone => exact keeps_execPrefixLookupDone h e
  | stemStop => exact keeps_execStop h e
  | stemIsolate => exact keeps_execIsolate h e
  | stemReset => exact keeps_execReset h e
  | stemAdmit => exact keeps_execAdmit h e
  | stemBist => exact keeps_execBist h e
  | stemWatch => exact keeps_execWatch h e
  | stemAck => exact keeps_execStemAck h e
  | stemNoAck => exact keeps_execStemNoAck h e
  | ctlStopMeadow => exact keeps_execCtlStopMeadow h e
  | ctlStopPort => exact keeps_execCtlStopPort h e
  | firmwareLoad => exact keeps_execFirmwareLoad h e
  | streamLoad => exact keeps_execStreamLoad h e
  | guardSet => exact keeps_execSet h e
  | guardRetire => exact keeps_execRetire h e
  | guardReturn => exact keeps_execReturn h e
  | guardProvision => exact keeps_execProvision h e
  | guardCertify => exact keeps_execCertify h e
  | guardTestEntry => exact keeps_execTestEntry h e
  | attest => exact keeps_execAttest h e
  | certRead => exact keeps_execCertRead h e
  | keyLoad => exact keeps_execKeyLoad h e
  | debugRead => exact keeps_execDebugRead h e
  | sextonDmaTimeout => exact keeps_execSextonDmaTimeout h e
  | spdmRequest => exact keeps_execSpdmRequest h e
  | tdiLeaveRun => exact keeps_execTdiLeaveRun h e
  | hostOpen => exact keeps_execOpen h e
  | epochOpen => exact keeps_execEpochOpen h e
  | seqStart => exact keeps_execSeqStart h e
  | scheduleRead => exact keeps_execScheduleRead h e
  | boundaryDrained => exact keeps_execBoundaryDrained h e
  | switch => exact keeps_execSwitch h e
  | jobSaveDone => exact keeps_execJobSaveDone h e
  | jobLoadDone => exact keeps_execJobLoadDone h e
  | stallClear => exact keeps_execStallClear h e
  | resume => exact keeps_execResume h e
  | replay => exact keeps_execReplay h e
  | watchFire => exact keeps_execWatchFire h e
  | memTimeout => exact keeps_execMemTimeout h e
  | heathReset => exact keeps_execHeathReset h e
  | warmReset => exact keeps_execWarmReset h e
  | faultClear => exact keeps_execFaultClear h e
  | lockstepDisagree => exact keeps_execLockstepDisagree h e
  | bistComplete => exact keeps_execBistComplete h e
  | sectorRead => exact keeps_execSectorRead h e
  | sectorWrite => exact keeps_execSectorWrite h e
  | parityDelta => exact keeps_execParityDelta h e
  | scrub => exact keeps_execScrub h e
  | laneDegrade => exact keeps_execLaneDegrade h e
  | stackRetrainDone => exact keeps_execStackRetrainDone h e
  | frozenSync => exact keeps_execFrozenSync h e
  | frozenRebuildDone => exact keeps_execFrozenRebuildDone h e
  | bar2Read => exact keeps_execBar2Read h e
  | bar2Write => exact keeps_execBar2Write h e
  | doorbell => exact keeps_execDoorbell h e
  | hcopyTail => exact keeps_execHcopyTail h e
  | hcopyEnable => exact keeps_execHcopyEnable h e
  | hcopyComplete => exact keeps_execHcopyComplete h e
  | functionLevelReset => exact keeps_execFunctionLevelReset h e
  | linkTraining => exact keeps_execLinkTraining h e
  | portTrainingDone => exact keeps_execPortTrainingDone h e
  | admission => exact keeps_execAdmission h e
  | swarmFrame => exact keeps_execSwarmFrame h e
  | swarmAckTimeout => exact keeps_execSwarmAckTimeout h e
  | swarmRetrainDone => exact keeps_execSwarmRetrainDone h e
  | swarmRingWrite => exact keeps_execSwarmRingWrite h e
  | collectivePoll => exact keeps_execCollectivePoll h e
  | collectiveComplete => exact keeps_execCollectiveComplete h e
  | arpRequest => exact keeps_execArpRequest h e
  | gvspPacket => exact keeps_execGvspPacket h e
  | hello => exact keeps_execHello h e
  | ready => exact keeps_execReady h e
  | stopped => exact keeps_execStopped h e
  | alive => exact keeps_execAlive h e
  | bye => exact keeps_execBye h e
  | mmpResend => exact keeps_execMmpResend h e
  | mmpIdleTimer => exact keeps_execMmpIdleTimer h e
  | partnerLost => exact keeps_execPartnerLost h e
  | hostCountPoll => exact keeps_execHostCountPoll h e
  | lineSend => exact keeps_execLineSend h e
  | trnRun => exact keeps_execTrnRun h e
  | trnPause => exact keeps_execTrnPause h e
  | trnEnd => exact keeps_execTrnEnd h e
  | laneStateChange => exact keeps_execLaneStateChange h e
  | cicadaPoll => exact keeps_execCicadaPoll h e
  | encodeComplete => exact keeps_execEncodeComplete h e
  | decodeComplete => exact keeps_execDecodeComplete h e
  | decodeWorkBound => exact keeps_execDecodeWorkBound h e
  | cicRingWrite => exact keeps_execCicRingWrite h e
  | powerSample => exact keeps_execPowerSample h e
  | thermalSample => exact keeps_execThermalSample h e
  | oscTrim => exact keeps_execOscTrim h e
  | supplyDroop => exact keeps_execSupplyDroop h e
  | pwrCapWrite => exact keeps_execPwrCapWrite h e
  | gate => exact keeps_execGate h e
  | gateReturn => exact keeps_execGateReturn h e
  | powerGood => exact keeps_execPowerGood h e
  | coldReset => exact keeps_execColdReset h e
  | stackTrainingDone => exact keeps_execStackTrainingDone h e
  | readClear => exact keeps_execReadClear h e
  | registerWrite => exact keeps_execRegisterWrite h e
  | illegalInstruction => exact keeps_execIllegalInstruction h e
  | mailboxCommandComplete => exact keeps_execMailboxCommandComplete h e
  | supplyRecovery => exact keeps_execSupplyRecovery h e
  | comparatorThermtrip => exact keeps_execComparatorThermtrip h e
  | smbalert => exact keeps_execSmbalert h e
  | jtagInstruction => exact keeps_execJtagInstruction h e
  | unacceptedFrame => exact keeps_execUnacceptedFrame h e

theorem step_idle {s : State} (empty : s.pending = []) : step s = .next s.idle := by unfold step; rw [empty]

theorem step_front {s : State} {i : Instr} {r : List Instr} (front : s.pending = i :: r) :
    step s = exec i { s with pending := r } := by
  unfold step; rw [front]

/-- Settles O59: an idle cycle keeps what the model's clock and the waiting commands leave of the state, a command what the rest of the
queue leaves of it. -/
theorem memoryFusesAndQueueAreKept : Obligations.MemoryFusesAndQueueAreKept := by
  unfold Obligations.MemoryFusesAndQueueAreKept
  intro s t e
  cases queue : s.pending with
  | nil =>
    cases (step_idle queue).symm.trans e
    obtain ⟨wf, part, pending, tick, -, lc, leaves, svn, journal⟩ := keeps_idle s
    exact ⟨wf, lc, leaves, svn, journal, part, pending, tick⟩
  | cons i r =>
    obtain ⟨wf, part, pending, tick, -, lc, leaves, svn, journal⟩ :=
      keeps_exec (State.Keeps.refl _) ((step_front queue).symm.trans e)
    exact ⟨wf, lc, leaves, svn, journal, part, pending, tick⟩

end Sys2Proof.Machine

/-!
A channel degraded and retrained (R306, R307), and the frozen map marked and rebuilt (R325, R326).
-/

namespace Sys2Proof.Machine

open Sys2Proof

/-! Channels of a stack. -/

section

variable {s : State} {k : StackIx} {ch : Fin 32} {r : StackReport}

/-- An update depends on its function only at the stack it changes. -/
theorem State.updStack_congr {s : State} {k : Nat} {f g : Stack → Stack} (h : f (s.stack k) = g (s.stack k)) :
    s.updStack k f = s.updStack k g := by
  unfold State.updStack; rw [h]

theorem execLaneDegrade_trains (part : k.val < s.part.stacks) (works : (s.stack k).st ≠ .failed)
    (trained : ch.val ∉ (s.stack k).training) (later : s.sxt.bootStep ≠ 6) :
    execLaneDegrade k ch s
      = .next (s.updStack k fun x => { x with st := .retraining, training := ch.val :: x.training }) :=
  congrArg _ (if_pos ⟨part, works, by simpa using trained, later⟩)

theorem execLaneDegrade_idle (h : s.part.stacks ≤ k ∨ (s.stack k).st = .failed ∨ ch.val ∈ (s.stack k).training ∨ s.sxt.bootStep = 6) :
    execLaneDegrade k ch s = .next s := by
  refine congrArg _ (if_neg fun ⟨part, works, trained, later⟩ => ?_)
  obtain beyond | failed | training | step6 := h
  · omega
  · exact works failed
  · simp [training] at trained
  · exact later step6

theorem execStackRetrainDone_idle (trained : ch.val ∉ (s.stack k).training) : execStackRetrainDone k ch r s = .next s :=
  congrArg _ (if_pos (.inl (by simpa using trained)))

/-- A report of a channel in training, outside step 6. -/
theorem execStackRetrainDone_training (training : ch.val ∈ (s.stack k).training) (later : s.sxt.bootStep ≠ 6) :
    execStackRetrainDone k ch r s = .next (
      if r.good then s.updStack k fun x =>
        let l := x.training.filter (· ≠ ch.val)
        { x with st := if l.isEmpty then .inService else .retraining, training := l, spares := r.spares }
      else
        let t := s.updStack k fun x => { x with st := .failed, training := [] }
        if !t.pkg.parity ∨ 1 < t.failedStacks then t.memoryLost else t) := by
  refine congrArg _ (if_neg ?_)
  rintro (trained | step6)
  · simp [training] at trained
  · exact later step6

theorem execStackRetrainDone_good (training : ch.val ∈ (s.stack k).training) (later : s.sxt.bootStep ≠ 6) (good : r.good = true) :
    execStackRetrainDone k ch r s = .next (s.updStack k fun x =>
      let l := x.training.filter (· ≠ ch.val)
      { x with st := if l.isEmpty then .inService else .retraining, training := l, spares := r.spares }) := by
  rw [execStackRetrainDone_training training later, if_pos good]

/-- A stack whose channel fails for good (R307, R317). -/
def State.stackDown (s : State) (k : Nat) : State := s.updStack k fun x => { x with st := .failed, training := [] }

theorem State.stackDown_parity (s : State) (k : Nat) : (s.stackDown k).pkg.parity = s.pkg.parity := rfl

theorem execStackRetrainDone_bad (training : ch.val ∈ (s.stack k).training) (later : s.sxt.bootStep ≠ 6) (bad : r.good = false) :
    execStackRetrainDone k ch r s = .next (
      if !(s.stackDown k).pkg.parity ∨ 1 < (s.stackDown k).failedStacks then (s.stackDown k).memoryLost else s.stackDown k) := by
  rw [execStackRetrainDone_training training later, if_neg (by simp [bad])]
  rfl

theorem execStackRetrainDone_rebuilt (training : ch.val ∈ (s.stack k).training) (later : s.sxt.bootStep ≠ 6) (bad : r.good = false)
    (parity : s.pkg.parity = true) (one : (s.stackDown k).failedStacks ≤ 1) :
    execStackRetrainDone k ch r s = .next (s.stackDown k) := by
  rw [execStackRetrainDone_bad training later bad, if_neg (by simp [State.stackDown_parity, parity, one])]

theorem execStackRetrainDone_lost (training : ch.val ∈ (s.stack k).training) (later : s.sxt.bootStep ≠ 6) (bad : r.good = false)
    (lost : s.pkg.parity = false ∨ 1 < (s.stackDown k).failedStacks) :
    execStackRetrainDone k ch r s = .next (s.stackDown k).memoryLost := by
  rw [execStackRetrainDone_bad training later bad, if_pos (by simpa [State.stackDown_parity] using lost)]

end

/-! The frozen map. -/

section

variable {s : State} {m : MeadowIx}

theorem execFrozenSync_may (may : s.hostMay m) (here : (s.meadow m).state ≠ .absent) :
    execFrozenSync m s = .next (s.updMeadow m fun x => { x with frozenBusy := true }) := by
  unfold execFrozenSync State.frozenSync
  rw [hostRow_may _ _ may, if_neg here]

theorem execFrozenSync_denied (denied : ¬ s.hostMay m) : execFrozenSync m s = .next (s.hostDenied m 0xD0) := by
  unfold execFrozenSync
  rw [hostRow_denied _ _ denied]

theorem execFrozenRebuildDone_rebuilds (busy : (s.meadow m).frozenBusy = true) (shut : (s.meadow m).window = false)
    {f : Sparse Bool} {t : State} (scan : s.scanTable m 4 0 (s.meadow m).root [] = (f, t))
    (barred : t.pkg.barred = s.pkg.barred) (blocked : t.pkg.blocked = s.pkg.blocked) :
    execFrozenRebuildDone m s = .next (s.sentFrom (t.updMeadow m fun x => { x with frozenMap := f, frozenBusy := false })) := by
  unfold execFrozenRebuildDone
  dsimp only
  rw [if_neg (by simp [busy, shut]), scan]
  exact congrArg _ (orHold_next _ barred blocked)

theorem execFrozenRebuildDone_idle (h : (s.meadow m).frozenBusy = false ∨ (s.meadow m).window = true) :
    execFrozenRebuildDone m s = .next s := by
  unfold execFrozenRebuildDone
  dsimp only
  rw [if_pos (by simpa using h)]
  exact congrArg _ (orHold_same _ (State.still_of_pkg rfl))

end

/-- Settles O45: the stack's state, the report and BUSY pick the branch of each row. -/
theorem stacksDegradeAndFrozenMapsRebuild : Obligations.StacksDegradeAndFrozenMapsRebuild := by
  unfold Obligations.StacksDegradeAndFrozenMapsRebuild
  intro k ch r m s
  refine ⟨execLaneDegrade_trains, execLaneDegrade_idle, execStackRetrainDone_idle,
    fun training later => ⟨fun good => ?good, fun bad => ?rebuilt, fun bad => ?lost⟩,
    execFrozenSync_may, execFrozenSync_denied, fun busy shut => ?rebuild,
    execFrozenRebuildDone_idle⟩
  case good =>
    refine (execStackRetrainDone_good training later good).trans (congrArg _ (State.updStack_congr ?_))
    simp only [List.isEmpty_iff]
  case rebuilt => exact execStackRetrainDone_rebuilt training later bad
  case lost => exact execStackRetrainDone_lost training later bad
  case rebuild =>
    generalize scan : s.scanTable m 4 0 (s.meadow m).root [] = p
    obtain ⟨f, t⟩ := p
    exact execFrozenRebuildDone_rebuilds busy shut scan

end Sys2Proof.Machine

/-!
The code of a stored sector corrects an error in any one symbol (R312).

The nonzero symbols are the powers of 2, and a product adds exponents: the syndromes of one symbol in error are then powers whose
exponents tell its place.
-/

namespace Sys2Proof

/-! Multiplication by 2 in the code's field. -/

/-- A symbol times 2. -/
def rsTwice (a : Nat) : Nat := timesX 8 0x1D a

theorem bitOf_eq_testBit (n i : Nat) : bitOf n i = n.testBit i := by
  rw [Nat.testBit_eq_decide_div_mod_eq, ← Nat.shiftRight_eq_div_pow]
  exact beq_eq_decide ..

theorem rsTwice_eq {a : Nat} (ha : a < 2 ^ 8) : rsTwice a = (2 * a) % 2 ^ 8 ^^^ (if a.testBit 7 then 0x1D else 0) := by
  unfold rsTwice timesX
  rw [bitOf_eq_testBit]
  split
  · rfl
  next low =>
    have small : a < 2 ^ 7 := Nat.lt_pow_two_of_testBit _ fun i hi => by
      obtain rfl | above := Nat.eq_or_lt_of_le hi
      · simpa using low
      · exact Nat.testBit_lt_two_pow (ha.trans_le (Nat.pow_le_pow_right (by decide) above))
    rw [Nat.xor_zero, Nat.mod_eq_of_lt (by omega)]

theorem rsTwice_lt {a : Nat} (ha : a < 2 ^ 8) : rsTwice a < 2 ^ 8 := by
  rw [rsTwice_eq ha]
  exact Nat.xor_lt_two_pow (Nat.mod_lt _ (by decide)) (by split <;> decide)

theorem rsTwice_xor {a b : Nat} (ha : a < 2 ^ 8) (hb : b < 2 ^ 8) : rsTwice (a ^^^ b) = rsTwice a ^^^ rsTwice b := by
  have double : 2 * (a ^^^ b) = 2 * a ^^^ 2 * b := by
    have := Nat.shiftLeft_xor_distrib (a := a) (b := b) (i := 1)
    simpa [Nat.shiftLeft_eq, Nat.mul_comm] using this
  rw [rsTwice_eq (Nat.xor_lt_two_pow ha hb), rsTwice_eq ha, rsTwice_eq hb, double, Nat.xor_mod_two_pow, Nat.testBit_xor]
  cases a.testBit 7 <;> cases b.testBit 7 <;> simp [Nat.xor_comm, Nat.xor_left_comm]

/-! A product with a fixed factor commutes with doubling. -/

theorem fieldMulFrom_lt {a r : Nat} (ha : a < 2 ^ 8) (b i : Nat) (hr : r < 2 ^ 8) : fieldMulFrom 8 0x1D a b i r < 2 ^ 8 := by
  induction i generalizing r with
  | zero => exact hr
  | succ i ih => exact ih (Nat.xor_lt_two_pow (rsTwice_lt hr) (by split <;> [exact ha; decide]))

theorem fieldMulFrom_twice {a r : Nat} (ha : a < 2 ^ 8) (b i : Nat) (hr : r < 2 ^ 8) :
    fieldMulFrom 8 0x1D (rsTwice a) b i (rsTwice r) = rsTwice (fieldMulFrom 8 0x1D a b i r) := by
  induction i generalizing r with
  | zero => rfl
  | succ i ih =>
    have term : (if bitOf b i then a else 0) < 2 ^ 8 := by split <;> [exact ha; decide]
    have step : timesX 8 0x1D (rsTwice r) ^^^ (if bitOf b i then rsTwice a else 0)
        = rsTwice (timesX 8 0x1D r ^^^ (if bitOf b i then a else 0)) := by
      refine Eq.trans ?_ (rsTwice_xor (rsTwice_lt hr) term).symm
      split <;> rfl
    unfold fieldMulFrom
    rw [step]
    exact ih (Nat.xor_lt_two_pow (rsTwice_lt hr) term)

theorem rsMul_twice {a : Nat} (ha : a < 2 ^ 8) (b : Nat) : rsMul (rsTwice a) b = rsTwice (rsMul a b) := by
  have zero : rsTwice 0 = 0 := by decide
  have product := fieldMulFrom_twice ha b 8 (r := 0) (by decide)
  rw [zero] at product
  exact product

theorem rsMul_zero (b : Nat) : rsMul 0 b = 0 := by
  have zero (i : Nat) : fieldMulFrom 8 0x1D 0 b i 0 = 0 := by
    induction i with
    | zero => rfl
    | succ i ih => unfold fieldMulFrom; rw [ite_self]; exact ih
  exact zero 8

/-! The powers of 2. -/

/-- 2 to the power `e`. -/
def rsPow (e : Nat) : Nat := rsTwice^[e] 1

theorem rsPow_succ (e : Nat) : rsPow (e + 1) = rsTwice (rsPow e) := Function.iterate_succ_apply' ..

theorem rsPow_lt (e : Nat) : rsPow e < 2 ^ 8 := by
  induction e with
  | zero => decide
  | succ e ih => rw [rsPow_succ]; exact rsTwice_lt ih

theorem rsMul_one : ∀ x : Fin 256, rsMul 1 x = x := by decide +kernel

/-- Powers multiply by adding their exponents. -/
theorem rsMul_rsPow (e k : Nat) : rsMul (rsPow e) (rsPow k) = rsPow (e + k) := by
  induction e with
  | zero => rw [Nat.zero_add]; exact rsMul_one ⟨_, rsPow_lt k⟩
  | succ e ih => rw [rsPow_succ, rsMul_twice (rsPow_lt e), ih, Nat.add_right_comm, rsPow_succ]

theorem rsPow_two_pow : ∀ j : Fin 4, rsPow j = 2 ^ j.val := by decide

theorem fieldPow_eq_rsPow (k : Nat) : fieldPow 8 0x1D 2 k = rsPow k := by
  induction k with
  | zero => rfl
  | succ k ih =>
    have two : rsPow 1 = 2 := by decide
    rw [fieldPow, ih, Nat.add_comm, ← rsMul_rsPow, two]
    rfl

theorem rsPow_period (e : Nat) : rsPow (e + 255) = rsPow e := by
  have turn : rsTwice^[255] 1 = 1 := by decide +kernel
  unfold rsPow
  rw [Function.iterate_add_apply, turn]

/-- Powers whose exponents differ by less than the period differ. -/
theorem rsPow_add_ne {e a b : Nat} (he : e < 255) (hab : a < b) (hb : b < 255) : rsPow (e + a) ≠ rsPow (e + b) := by
  have apart : ∀ d : Fin 254, rsPow (d + 1) ≠ 1 := by decide +kernel
  intro same
  have shifted : rsPow (510 - (e + a) + (e + a)) = rsPow (510 - (e + a) + (e + b)) := by
    rw [← rsMul_rsPow, same, rsMul_rsPow]
  have one : rsPow 510 = 1 := by rw [rsPow_period 255, rsPow_period 0]; rfl
  rw [show 510 - (e + a) + (e + a) = 510 by omega, one, show 510 - (e + a) + (e + b) = (b - a - 1 + 1) + 255 + 255 by omega,
    rsPow_period, rsPow_period] at shifted
  exact apart ⟨b - a - 1, by omega⟩ shifted.symm

theorem rsPow_add_inj {e a b : Nat} (he : e < 255) (ha : a < 255) (hb : b < 255) : rsPow (e + a) = rsPow (e + b) ↔ a = b := by
  refine ⟨fun same => ?_, fun h => h ▸ rfl⟩
  obtain lt | eq | gt := Nat.lt_trichotomy a b
  · exact absurd same (rsPow_add_ne he lt hb)
  · exact eq
  · exact absurd same.symm (rsPow_add_ne he gt ha)

theorem rsPow_ne_zero {e : Nat} (he : e < 255) : rsPow e ≠ 0 := fun zero => by
  have one : rsMul (rsPow e) (rsPow (255 - e)) = 1 := by
    rw [rsMul_rsPow, Nat.add_sub_of_le he.le, rsPow_period 0]; rfl
  rw [zero, rsMul_zero] at one
  exact Nat.zero_ne_one one

/-- Every symbol but 0 is a power of 2: the 255 powers differ. -/
theorem exists_rsPow {v : Nat} (pos : 0 < v) (hv : v < 256) : ∃ e < 255, rsPow e = v := by
  have pred (e : Fin 255) : rsPow e - 1 < 255 := by have := rsPow_lt e; omega
  have inj : Function.Injective fun e : Fin 255 => (⟨rsPow e - 1, pred e⟩ : Fin 255) := fun a b same => by
    have ha := rsPow_ne_zero a.isLt
    have hb := rsPow_ne_zero b.isLt
    have same : rsPow (0 + a) = rsPow (0 + b) := by
      rw [Nat.zero_add, Nat.zero_add]
      have := congrArg Fin.val same
      simp only at this
      omega
    exact Fin.ext ((rsPow_add_inj (by decide) a.isLt b.isLt).1 same)
  obtain ⟨e, he⟩ := Finite.surjective_of_injective inj ⟨v - 1, by omega⟩
  refine ⟨e, e.isLt, ?_⟩
  have := congrArg Fin.val he
  have := rsPow_ne_zero e.isLt
  simp only at *
  omega

/-! One symbol in error. -/

/-- The symbols of a pattern that differs from 0 in symbol `i` alone. -/
theorem natToBytes_symbol (v : Nat) (i n : Nat) (hv : v < 256) :
    natToBytes (i + (n + 1)) (v * 2 ^ (8 * i)) = List.replicate i 0 ++ BitVec.ofNat 8 v :: List.replicate n 0 := by
  have zeros (n : Nat) : natToBytes n 0 = List.replicate n 0 := by
    induction n with
    | zero => rfl
    | succ n ih => simp [natToBytes, ih, List.replicate_succ]
  induction i with
  | zero =>
    simp [natToBytes, Nat.div_eq_of_lt hv, zeros, Nat.add_comm 0]
  | succ i ih =>
    have split : v * 2 ^ (8 * (i + 1)) = 256 * (v * 2 ^ (8 * i)) := by rw [Nat.mul_succ, Nat.pow_add]; ring
    rw [Nat.add_right_comm, natToBytes, split, Nat.mul_div_cancel_left _ (by decide), ih]
    simp [List.replicate_succ, BitVec.ofNat_mul]

theorem rsSyndrome_symbol (i n e : Nat) {j : Nat} (hj : j < 4) :
    rsSyndrome (List.replicate i 0 ++ BitVec.ofNat 8 (rsPow e) :: List.replicate n 0) j = rsPow (e + n * j) := by
  have leading (i : Nat) : (List.replicate i (0 : Byte)).foldl (fun r b => rsMul r (rsPow j) ^^^ b.toNat) 0 = 0 := by
    induction i with
    | zero => rfl
    | succ i ih => simpa [List.replicate_succ, rsMul_zero] using ih
  have trailing (n e : Nat) : (List.replicate n (0 : Byte)).foldl (fun r b => rsMul r (rsPow j) ^^^ b.toNat) (rsPow e)
      = rsPow (e + n * j) := by
    induction n generalizing e with
    | zero => simp
    | succ n ih =>
      rw [List.replicate_succ, List.foldl_cons, rsMul_rsPow, Nat.succ_mul, Nat.add_comm (n * j), ← Nat.add_assoc, ← ih (e + j)]
      congr 1
      exact Nat.xor_zero _
  unfold rsSyndrome
  rw [← rsPow_two_pow ⟨j, hj⟩, List.foldl_append, leading, List.foldl_cons, rsMul_zero, Nat.zero_xor, BitVec.toNat_ofNat,
    Nat.mod_eq_of_lt (rsPow_lt e)]
  exact trailing n e

theorem rsLocate_symbol {e i : Nat} (he : e < 255) (found : rsPow e ≠ 0) (hi : i < 36) :
    rsLocate (rsPow (e + (35 - i) * 0)) (rsPow (e + (35 - i) * 1)) (rsPow (e + (35 - i) * 2)) (rsPow (e + (35 - i) * 3)) = some i := by
  have product (a k : Nat) : rsMul (rsPow (e + a)) (fieldPow 8 0x1D 2 k) = rsPow (e + (a + k)) := by
    rw [fieldPow_eq_rsPow, rsMul_rsPow, Nat.add_assoc]
  have first (k : Nat) : rsMul (rsPow e) (fieldPow 8 0x1D 2 k) = rsPow (e + k) := by rw [fieldPow_eq_rsPow, rsMul_rsPow]
  unfold rsLocate
  rw [List.find?_range_eq_some]
  refine ⟨?here, by simpa using hi, fun k hk => ?before⟩
  case here => simp [first, product, found, Nat.mul_succ]
  case before =>
    have other : rsPow (e + (35 - k)) ≠ rsPow (e + (35 - i)) := fun same => by
      have := (rsPow_add_inj he (by omega) (by omega)).1 same
      omega
    simp [first, other]

theorem toNat_ofNat_of_lt {w n : Nat} (h : n < 2 ^ w) : (BitVec.ofNat w n).toNat = n := Nat.mod_eq_of_lt h

/-- A pattern with one symbol in error is corrected, and nothing of it is left (R312). -/
theorem rsRead_symbol {i v : Nat} (hi : i < 36) (pos : 0 < v) (hv : v < 256) :
    rsRead (BitVec.ofNat 288 (v * 2 ^ (8 * i))) = .corrected 0 := by
  obtain ⟨e, he, value⟩ := exists_rsPow pos hv
  have fits : v * 2 ^ (8 * i) < 2 ^ 288 := by
    refine (Nat.mul_lt_mul_of_pos_right (show v < 2 ^ 8 from hv) (Nat.two_pow_pos _)).trans_le ?_
    rw [← Nat.pow_add]
    gcongr
    · decide
    · omega
  have symbols : symbolsOf (BitVec.ofNat 288 (v * 2 ^ (8 * i)))
      = List.replicate i 0 ++ BitVec.ofNat 8 (rsPow e) :: List.replicate (35 - i) 0 := by
    unfold symbolsOf
    rw [toNat_ofNat_of_lt fits, show 36 = i + (35 - i + 1) by omega, natToBytes_symbol v i _ hv, value]
  have syndrome {j : Nat} (hj : j < 4) : rsSyndrome (symbolsOf (BitVec.ofNat 288 (v * 2 ^ (8 * i)))) j = rsPow (e + (35 - i) * j) := by
    rw [symbols, rsSyndrome_symbol i _ e hj]
  have s0 : rsPow (e + (35 - i) * 0) = v := value
  have found : v ≠ 0 := by omega
  unfold rsRead
  simp only [syndrome (show 0 < 4 by decide), syndrome (show 1 < 4 by decide), syndrome (show 2 < 4 by decide),
    syndrome (show 3 < 4 by decide), rsLocate_symbol he (rsPow_ne_zero he) hi]
  rw [if_neg (fun clean => found (s0 ▸ clean.1)), s0, BitVec.xor_self]
  rfl

end Sys2Proof

/-!
What a sector holds after a write, and what its parity sector holds after a delta (R310, R315, R316, R327).
-/

namespace Sys2Proof

theorem getElem_upFrom (a n i : Nat) (h : i < (upFrom a n).length) : (upFrom a n)[i] = a + i := by
  induction n generalizing a i with
  | zero => simp [upFrom] at h
  | succ n ih =>
    cases i with
    | zero => rfl
    | succ i =>
      have next := ih (a + 1) i (by simpa [upFrom] using h)
      simp only [upFrom, List.getElem_cons_succ, next]
      omega

end Sys2Proof

namespace Sys2Proof.Machine

open Sys2Proof

/-! A byte read under a key (R327). -/

section

variable {s t : State} {k : Key}

theorem byteUnder_own {x : Nat} (tag : Sparse.get none s.pkg.tags (x / 16) = some k) :
    s.byteUnder k x = Mem.byte s.pkg.bytes x := by
  unfold State.byteUnder
  rw [tag]
  exact if_pos rfl

/-- A byte reads as before where its block has the same bytes under the same key. -/
theorem byteUnder_congr {x : Nat} (tag : Sparse.get none t.pkg.tags (x / 16) = Sparse.get none s.pkg.tags (x / 16))
    (bytes : ∀ y, y / 16 = x / 16 → Mem.byte t.pkg.bytes y = Mem.byte s.pkg.bytes y) : t.byteUnder k x = s.byteUnder k x := by
  have block : t.cipherBlock (x / 16) = s.cipherBlock (x / 16) := by
    unfold State.cipherBlock
    rw [tag, Mem.read_congr fun y lo hi => bytes y (by omega)]
  unfold State.byteUnder
  rw [tag, bytes x rfl, block]

/-! A block claimed for a key. -/

variable (s k)

theorem claimBlock_tag (blk i : Nat) : Sparse.get none (s.claimBlock k blk).pkg.tags i
    = if blk = i then some k else Sparse.get none s.pkg.tags i := by
  unfold State.claimBlock
  split
  · exact Sparse.get_put none s.pkg.tags blk i (some k)
  next owner tag =>
    split
    next own =>
      split
      next here => rw [← here, tag, own]
      · rfl
    · exact Sparse.get_put none s.pkg.tags blk i (some k)

theorem claimBlock_byte_out {blk x : Nat} (out : x / 16 ≠ blk) :
    Mem.byte (s.claimBlock k blk).pkg.bytes x = Mem.byte s.pkg.bytes x := by
  unfold State.claimBlock
  split
  · rfl
  · split
    · rfl
    · exact Mem.byte_write_out _ _ _ _ (by simp; omega)

/-- A claimed block holds what it read as under its key. -/
theorem claimBlock_byte_in (x : Nat) : Mem.byte (s.claimBlock k (x / 16)).pkg.bytes x = s.byteUnder k x := by
  unfold State.claimBlock
  split
  next untagged => unfold State.byteUnder; rw [untagged]; rfl
  next owner tag =>
    split
    next own => exact (byteUnder_own (own ▸ tag)).symm
    · have place : x - 16 * (x / 16) < ((upFrom (16 * (x / 16)) 16).map (s.byteUnder k)).length := by simp; omega
      have written := Mem.byte_write_in s.pkg.bytes (16 * (x / 16)) _ _ place
      rw [List.getElem_map, getElem_upFrom, show 16 * (x / 16) + (x - 16 * (x / 16)) = x by omega] at written
      exact written

/-- A claim of a block changes no byte read under its key. -/
theorem claimBlock_byteUnder (blk x : Nat) : (s.claimBlock k blk).byteUnder k x = s.byteUnder k x := by
  by_cases here : blk = x / 16
  · subst here
    rw [byteUnder_own ((claimBlock_tag ..).trans (if_pos rfl)), claimBlock_byte_in]
  · exact byteUnder_congr ((claimBlock_tag ..).trans (if_neg here)) fun y hy => claimBlock_byte_out s k (by omega)

/-- Blocks claimed for a key one after another. -/
def State.claimBlocks (s : State) (k : Key) (l : List Nat) : State := l.foldl (fun t blk => t.claimBlock k blk) s

variable {s k}

theorem claimBlocks_byteUnder (l : List Nat) (x : Nat) : (s.claimBlocks k l).byteUnder k x = s.byteUnder k x := by
  induction l generalizing s with
  | nil => rfl
  | cons blk r ih => exact (ih (s := s.claimBlock k blk)).trans (claimBlock_byteUnder ..)

theorem claimBlocks_tag {l : List Nat} {blk : Nat} (claimed : blk ∈ l ∨ Sparse.get none s.pkg.tags blk = some k) :
    Sparse.get none (s.claimBlocks k l).pkg.tags blk = some k := by
  induction l generalizing s with
  | nil => exact claimed.resolve_left (by simp)
  | cons i r ih =>
    refine ih (s := s.claimBlock k i) ?_
    rw [claimBlock_tag]
    by_cases here : i = blk
    · exact .inr (if_pos here)
    · rw [if_neg here]
      exact claimed.imp_left fun h => (List.mem_cons.1 h).resolve_left (Ne.symm here)

/-! Bytes written under the key in force. -/

/-- Bytes written after their blocks have been claimed. -/
def State.written (s : State) (a : Nat) (b : List Byte) : State := s.updPkg fun p => { p with bytes := Mem.write p.bytes a b }

theorem written_in {a i : Nat} {b : List Byte} (len : i < b.length) (tag : Sparse.get none s.pkg.tags ((a + i) / 16) = some k) :
    (s.written a b).byteUnder k (a + i) = b.getD i 0 := by
  rw [byteUnder_own (s := s.written a b) tag]
  exact (Mem.byte_write_in _ _ _ _ len).trans (List.getD_eq_getElem _ _ len).symm

/-- A byte beside those written reads as before, where every block of theirs is under its own key. -/
theorem written_out {a x : Nat} {b : List Byte} (out : x < a ∨ a + b.length ≤ x)
    (tag : ∀ i, i < b.length → Sparse.get none s.pkg.tags ((a + i) / 16) = some k) :
    (s.written a b).byteUnder k x = s.byteUnder k x := by
  by_cases shared : ∃ i, i < b.length ∧ (a + i) / 16 = x / 16
  · obtain ⟨i, len, same⟩ := shared
    have own := same ▸ tag i len
    rw [byteUnder_own own, byteUnder_own (s := s.written a b) own]
    exact Mem.byte_write_out _ _ _ _ out
  · refine byteUnder_congr rfl fun y hy => Mem.byte_write_out _ _ _ _ ?_
    by_contra within
    exact shared ⟨y - a, by omega, by rw [show a + (y - a) = y by omega, hy]⟩

/-- What package memory reads as under the key in force after a write. -/
theorem pkgPut_byteUnder (s : State) (a : Nat) (b : List Byte) :
    (∀ i, i < b.length → (s.pkgPut a b).byteUnder (s.keyAt a) (a + i) = b.getD i 0)
    ∧ ∀ x, x < a ∨ a + b.length ≤ x → (s.pkgPut a b).byteUnder (s.keyAt a) x = s.byteUnder (s.keyAt a) x := by
  have put : s.pkgPut a b = (s.claimBlocks (s.keyAt a)
      (upFrom (a / 16) (if b.isEmpty then 0 else (a + b.length - 1) / 16 + 1 - a / 16))).written a b := rfl
  have tag (i : Nat) (len : i < b.length) : Sparse.get none (s.claimBlocks (s.keyAt a)
      (upFrom (a / 16) (if b.isEmpty then 0 else (a + b.length - 1) / 16 + 1 - a / 16))).pkg.tags ((a + i) / 16)
      = some (s.keyAt a) := by
    refine claimBlocks_tag (.inl ((mem_upFrom ..).2 ?_))
    have full : b.isEmpty = false := by cases b <;> simp at len ⊢
    rw [full, if_neg (by decide)]
    omega
  rw [put]
  exact ⟨fun i len => written_in len (tag i len), fun x out => (written_out out tag).trans (claimBlocks_byteUnder ..)⟩

/-- A write of contents changes contents and the keys they are under, and nothing else. -/
def State.ContentsOnly (s t : State) : Prop := ∃ b z, t = { s with pkg := { s.pkg with bytes := b, tags := z } }

theorem claimBlock_contents (s : State) (k : Key) (blk : Nat) : s.ContentsOnly (s.claimBlock k blk) := by
  unfold State.claimBlock
  split
  · exact ⟨_, _, rfl⟩
  · split <;> exact ⟨_, _, rfl⟩

theorem claimBlocks_contents (s : State) (k : Key) (l : List Nat) : s.ContentsOnly (s.claimBlocks k l) := by
  induction l generalizing s with
  | nil => exact ⟨_, _, rfl⟩
  | cons blk r ih =>
    obtain ⟨b, z, claimed⟩ := claimBlock_contents s k blk
    obtain ⟨b', z', rest⟩ := ih (s.claimBlock k blk)
    exact ⟨b', z', rest.trans (by rw [claimed])⟩

theorem pkgPut_contents (s : State) (a : Nat) (b : List Byte) : s.ContentsOnly (s.pkgPut a b) := by
  obtain ⟨bytes, tags, claimed⟩ := claimBlocks_contents s (s.keyAt a)
    (upFrom (a / 16) (if b.isEmpty then 0 else (a + b.length - 1) / 16 + 1 - a / 16))
  exact ⟨Mem.write bytes a b, tags, congrArg (·.written a b) claimed⟩

end

/-! Deltas and parity (R315, R316). -/

theorem xorBytes_right_comm (a b c : List Byte) : xorBytes (xorBytes a b) c = xorBytes (xorBytes a c) b := by
  refine List.ext_getElem (by simp [xorBytes, Nat.min_comm c.length]) fun i _ _ => ?_
  simp only [xorBytes, List.getElem_zipWith, BitVec.xor_assoc]
  rw [BitVec.xor_comm (b[i]'_)]

theorem xorBytes_cancel {a b : List Byte} (len : a.length ≤ b.length) : xorBytes (xorBytes a b) b = a := by
  refine List.ext_getElem (by simp [xorBytes, len]) fun i _ _ => ?_
  simp [xorBytes]

/-- Bytes combined with each of a list in turn. -/
def xorAll {α : Type} (f : α → List Byte) (x : List Byte) (l : List α) : List Byte := l.foldl (fun a d => xorBytes a (f d)) x

theorem xorAll_xorBytes {α : Type} (f : α → List Byte) (x y : List Byte) (l : List α) :
    xorAll f (xorBytes x y) l = xorBytes (xorAll f x l) y := by
  induction l generalizing x with
  | nil => rfl
  | cons d r ih => simp only [xorAll, List.foldl_cons] at ih ⊢; rw [xorBytes_right_comm, ih]

theorem xorAll_length {α : Type} (f : α → List Byte) (x : List Byte) (l : List α) : (xorAll f x l).length ≤ x.length := by
  induction l generalizing x with
  | nil => exact Nat.le_refl _
  | cons d r ih => exact (ih _).trans (by simp [xorBytes])

/-- A delta that has taken effect is part of its parity sector, which holds it besides what it held. -/
theorem parityBytes_landed {s : State} {d : Delta} {l : List Delta} (oldest : s.pkg.deltas = d :: l) :
    (s.updPkg fun p => { p with deltas := l }).parityBytes (s.parityIx (32 * d.sector))
      = xorBytes (s.parityBytes (s.parityIx (32 * d.sector))) (natToBytes 32 d.change.toNat) := by
  let pix := s.parityIx (32 * d.sector)
  let f (d : Delta) : List Byte := natToBytes 32 d.change.toNat
  let x := xorAll s.cipherSector (natToBytes 32 0) (s.dataOf pix)
  let rest := l.filter fun e => s.parityIx (32 * e.sector) = pix
  have before : s.parityBytes pix = xorAll f (xorBytes x (f d)) rest := by
    unfold State.parityBytes
    rw [oldest, List.filter_cons_of_pos (by simp [pix])]
    rfl
  have short : (xorAll f x rest).length ≤ (f d).length := by
    refine (xorAll_length ..).trans ((xorAll_length ..).trans ?_)
    simp [f]
  show xorAll f x rest = xorBytes (s.parityBytes pix) (f d)
  rw [before, xorAll_xorBytes, xorBytes_cancel short]

end Sys2Proof.Machine

/-!
Sector reads, writes and scrubs with parity off, and the landing of a delta (R304, R312 to R316, R484, R486).
-/

namespace Sys2Proof.Machine

open Sys2Proof

section

variable {s t u : State} {a : Nat}

/-! Where a sector lies with parity off (R309). -/

theorem stackOf_granule {x : Nat} (plain : s.pkg.parity = false) (granule : x / 256 = a / 256) : s.stackOf x = s.stackOf a := by
  unfold State.stackOf mapPlain
  rw [plain, if_neg (by decide), if_neg (by decide), granule]

theorem channelOf_granule {x : Nat} (plain : s.pkg.parity = false) (granule : x / 256 = a / 256) : s.channelOf x = s.channelOf a := by
  unfold State.channelOf mapPlain
  rw [plain, if_neg (by decide), if_neg (by decide), granule]

/-! A sector served with parity off. -/

theorem mustWait_plain (plain : s.pkg.parity = false) : s.mustWait a = (!s.held.isEmpty || s.trains (s.stackOf a) a) := by
  unfold State.mustWait
  rw [plain, Bool.false_and, Bool.false_and, Bool.or_false]

theorem settleOwn_plain (plain : s.pkg.parity = false) : s.settleOwn a = s := by
  unfold State.settleOwn
  rw [plain, Bool.false_and, if_neg (by decide)]

theorem readSec_served {n : Nat} {b : Bool} (plain : s.pkg.parity = false) (free : s.mustWait a = false) (served : s.serve a = (b, t)) :
    s.readSec a n = (if b then .ok (t.pkgBytes a n) else .error Code.uncorrectable, t) := by
  unfold State.readSec
  rw [free, settleOwn_plain plain, served]
  cases b <;> rfl

theorem serve_read (works : (s.stack (s.stackOf a)).st ≠ .failed) (read : s.readOwn (a / 32) = some t) : s.serve a = (true, t) := by
  unfold State.serve
  dsimp only
  rw [if_neg (by simpa using works), read]

theorem serve_unread (plain : s.pkg.parity = false) (works : (s.stack (s.stackOf a)).st ≠ .failed)
    (unread : s.readOwn (a / 32) = none) : s.serve a = (false, s.uncorrectableAt a) := by
  unfold State.serve
  dsimp only
  rw [if_neg (by simpa using works), unread]
  exact if_neg (by simp [plain])

theorem readOwn_clean {sec : Nat} (clean : s.flips sec = 0) : s.readOwn sec = some s := if_pos clean

theorem flips_ne_zero {x : BitVec 288} (seen : rsRead x ≠ .clean) : x ≠ 0 := fun zero => seen (zero ▸ by decide +kernel)

theorem absorb_zero (s : State) (sec : Nat) : s.absorb sec 0 = s.setFlips sec 0 := by
  unfold State.absorb
  exact if_pos rfl

theorem readOwn_corrected {sec : Nat} (one : rsRead (s.flips sec) = .corrected 0) :
    s.readOwn sec = some ((s.setFlips sec 0).countCorrected (s.stackOf (32 * sec))) := by
  unfold State.readOwn
  rw [if_neg (flips_ne_zero (by simp [one])), one]
  simp only [absorb_zero]

theorem readOwn_detected {sec : Nat} (bad : rsRead (s.flips sec) = .detected) : s.readOwn sec = none := by
  unfold State.readOwn
  rw [if_neg (flips_ne_zero (by simp [bad])), bad]

/-- A page enters the list while there is room (R314). -/
theorem retire_room (kept : s.pageRetired a = false) (room : s.pkg.retired.length < 4096) :
    s.retire a = s.updPkg fun p => { p with retired := p.retired ++ [a / 2 ^ 16], retireLast := a / 2 ^ 16 } := by
  unfold State.retire
  rw [if_neg (by simp [kept]), if_pos room]

/-- An uncorrectable error of a stack in service counts there and retires the page (R313, R314). -/
theorem uncorrectableAt_retires (works : (s.stack (s.stackOf a)).st ≠ .failed) (kept : s.pageRetired a = false)
    (room : s.pkg.retired.length < 4096) : s.uncorrectableAt a =
      (s.updStack (s.stackOf a) fun x => { x with uncorrected := satInc x.uncorrected }).updPkg fun p =>
        { p with retired := p.retired ++ [a / 2 ^ 16], retireLast := a / 2 ^ 16 } := by
  unfold State.uncorrectableAt
  dsimp only
  rw [if_neg (by simpa using works)]
  exact retire_room kept room

/-! An access to a quiet sector (R304, R312 to R314). -/

/-- The sector of `a` lies below the capacity in a page in force and a stack that works; nothing is wrong with it, nothing waits for
it, and parity is off. -/
structure State.Quiet (s : State) (a : Nat) : Prop where
  below : a < s.capacity
  kept : s.pageRetired a = false
  plain : s.pkg.parity = false
  works : (s.stack (s.stackOf a)).st ≠ .failed
  clean : s.flips (a / 32) = 0
  free : s.mustWait (a / 32 * 32) = false

/-- The state in which an access finds `x` at the sector of `a`. -/
def State.finds (s : State) (a : Nat) (x : SectorFound) : State := (s.disturb a false x.symbols).onDie (s.stackOf a) x.onDie

/-- A correction counted at the stack of `a`. -/
def State.correctedAt (s : State) (a : Nat) : State :=
  s.updStack (s.stackOf a) fun x => { x with corrected := satInc x.corrected }

/-- An uncorrectable error counted at the stack of `a`, whose page is retired. -/
def State.retiredAt (s : State) (a : Nat) : State :=
  (s.updStack (s.stackOf a) fun x => { x with uncorrected := satInc x.uncorrected }).updPkg fun p =>
    { p with retired := p.retired ++ [a / 2 ^ 16], retireLast := a / 2 ^ 16 }

/-- `t` is `u`, and its sectors differ from what was last written as those of `s` do. -/
def State.SameErrors (s t u : State) : Prop :=
  t = { u with pkg := { u.pkg with flips := t.pkg.flips } } ∧ ∀ x, t.flips x = s.flips x

/-- What a sector lost at `a` leaves. -/
def State.LostAt (s : State) (a : Nat) (t : State) : Prop :=
  (t.stack (s.stackOf a)).uncorrected = satInc (s.stack (s.stackOf a)).uncorrected
    ∧ t.pageRetired a = true ∧ t.pkg.retireLast = a / 2 ^ 16 ∧ t.sectorBad (a / 32) = true ∧ t.pkg.bytes = s.pkg.bytes

theorem setFlips_flips (s : State) (sec i : Nat) (x : BitVec 288) :
    (s.setFlips sec x).flips i = if sec = i then x else s.flips i := Sparse.get_put 0 s.pkg.flips sec i x

@[simp] theorem setFlips_flips_same (s : State) (sec : Nat) (x : BitVec 288) : (s.setFlips sec x).flips sec = x :=
  (setFlips_flips ..).trans (if_pos rfl)

theorem setFlips_setFlips (s : State) (sec : Nat) (x y : BitVec 288) : (s.setFlips sec x).setFlips sec y = s.setFlips sec y := by
  simp [State.setFlips, Sparse.put_put]

theorem State.SameErrors.of_setFlips {sec : Nat} (flips : u.pkg.flips = s.pkg.flips) (clean : s.flips sec = 0) :
    s.SameErrors (u.setFlips sec 0) u := by
  refine ⟨by simp only [State.setFlips, State.updPkg], fun x => ?_⟩
  rw [setFlips_flips]
  split
  next here => rw [← here, clean]
  next => unfold State.flips; rw [flips]

theorem State.LostAt.of_pkg (h : s.LostAt a t) (same : u.pkg = t.pkg) : s.LostAt a u := by
  unfold State.LostAt State.stack State.pageRetired State.sectorBad State.flips at h ⊢
  rw [same]
  exact h

namespace State.Quiet

variable {e : BitVec 288} (h : s.Quiet a)

include h

theorem correctedAt : (s.correctedAt a).Quiet a := by
  have stack (k : Nat) : ((s.correctedAt a).stack k).st = (s.stack k).st
      ∧ ((s.correctedAt a).stack k).training = (s.stack k).training := by
    unfold State.correctedAt
    rw [State.updStack_stack]
    split <;> [(subst_vars; exact ⟨rfl, rfl⟩); exact ⟨rfl, rfl⟩]
  refine ⟨h.below, h.kept, h.plain, fun failed => h.works ((stack _).1.symm.trans failed), h.clean, ?_⟩
  have free := h.free
  rw [mustWait_plain h.plain] at free
  rw [mustWait_plain (s := s.correctedAt a) h.plain]
  unfold State.trains at free ⊢
  rw [(stack _).2]
  exact free

theorem finds_eq (od : Bool) : s.finds a ⟨e, od⟩ = (s.setFlips (a / 32) e).onDie (s.stackOf a) od := by
  unfold State.finds State.disturb
  dsimp only
  rw [if_neg Bool.false_ne_true, if_neg h.works, if_neg Bool.false_ne_true, h.clean]
  simp

theorem finds_symbols : s.finds a ⟨e, false⟩ = s.setFlips (a / 32) e := h.finds_eq false
theorem finds_onDie : s.finds a ⟨e, true⟩ = (s.correctedAt a).setFlips (a / 32) e := h.finds_eq true

/-! A sector read with an error pattern put into it. -/

theorem stack_sector : s.stackOf (a / 32 * 32) = s.stackOf a := stackOf_granule h.plain (by omega)

theorem readSec_eq {b : Bool} (served : (s.setFlips (a / 32) e).serve (a / 32 * 32) = (b, t)) :
    (s.setFlips (a / 32) e).readSec (a / 32 * 32) 32
      = (if b then .ok (t.pkgBytes (a / 32 * 32) 32) else .error Code.uncorrectable, t) := by
  refine readSec_served h.plain ?_ served
  rw [mustWait_plain (s := s.setFlips (a / 32) e) h.plain]
  exact (mustWait_plain h.plain).symm.trans h.free

theorem setFlips_works : ((s.setFlips (a / 32) e).stack ((s.setFlips (a / 32) e).stackOf (a / 32 * 32))).st ≠ .failed := by
  have same : (s.setFlips (a / 32) e).stackOf (a / 32 * 32) = s.stackOf a := h.stack_sector
  rw [same]
  exact h.works

theorem reads_clean : ∃ b, (s.setFlips (a / 32) 0).readSec (a / 32 * 32) 32 = (.ok b, s.setFlips (a / 32) 0) := by
  refine ⟨_, h.readSec_eq (b := true) (serve_read h.setFlips_works (readOwn_clean ?_))⟩
  rw [Nat.mul_div_cancel _ (by decide), setFlips_flips_same]

theorem reads_corrected (one : rsRead e = .corrected 0) :
    ∃ b, (s.setFlips (a / 32) e).readSec (a / 32 * 32) 32 = (.ok b, (s.correctedAt a).setFlips (a / 32) 0) := by
  refine ⟨_, h.readSec_eq (b := true) (serve_read h.setFlips_works ?_)⟩
  rw [Nat.mul_div_cancel _ (by decide), readOwn_corrected (by rw [setFlips_flips_same, one]), setFlips_setFlips, Nat.mul_comm 32]
  have same : (s.setFlips (a / 32) e).stackOf (a / 32 * 32) = s.stackOf a := h.stack_sector
  rw [same]
  rfl

theorem reads_lost (bad : rsRead e = .detected) (room : s.pkg.retired.length < 4096) :
    (s.setFlips (a / 32) e).readSec (a / 32 * 32) 32 = (.error Code.uncorrectable, (s.setFlips (a / 32) e).retiredAt a) := by
  have unread : (s.setFlips (a / 32) e).readOwn (a / 32 * 32 / 32) = none :=
    readOwn_detected (by rw [Nat.mul_div_cancel _ (by decide), setFlips_flips_same, bad])
  have page : a / 32 * 32 / 2 ^ 16 = a / 2 ^ 16 := by omega
  have kept : (s.setFlips (a / 32) e).pageRetired (a / 32 * 32) = false := by
    unfold State.pageRetired
    rw [page]
    exact h.kept
  have same : (s.setFlips (a / 32) e).stackOf (a / 32 * 32) = s.stackOf a := h.stack_sector
  have lost : (s.setFlips (a / 32) e).uncorrectableAt (a / 32 * 32) = (s.setFlips (a / 32) e).retiredAt a := by
    rw [uncorrectableAt_retires h.setFlips_works kept room, same, page]
    rfl
  have served := serve_unread (s := s.setFlips (a / 32) e) h.plain h.setFlips_works unread
  rw [lost] at served
  exact h.readSec_eq served

end State.Quiet

theorem retiredAt_lost {e : BitVec 288} (bad : rsRead e = .detected) : s.LostAt a ((s.setFlips (a / 32) e).retiredAt a) := by
  have counted : ((s.setFlips (a / 32) e).retiredAt a).stack (s.stackOf a)
      = { s.stack (s.stackOf a) with uncorrected := satInc (s.stack (s.stackOf a)).uncorrected } :=
    State.updStack_stack_same (s.setFlips (a / 32) e) (s.stackOf a) fun x => { x with uncorrected := satInc x.uncorrected }
  have listed : ((s.setFlips (a / 32) e).retiredAt a).pageRetired a = true :=
    List.contains_iff_mem.2 (List.mem_append_right _ (List.mem_singleton.2 rfl))
  have stored : ((s.setFlips (a / 32) e).retiredAt a).flips (a / 32) = e := setFlips_flips_same s (a / 32) e
  refine ⟨by rw [counted], listed, rfl, ?_, rfl⟩
  unfold State.sectorBad
  rw [stored, bad]
  simpa using flips_ne_zero (by simp [bad])


/-! Who reads (R313, R484, R486). -/

/-- A core's request that its answer still finds. -/
def State.Awaits (s : State) (r : SectorReader) : Prop := r.gen = (s.core r.core).gen ∧ r.late = false

/-- What a read leaves of its outcome for a core, or for another agent. -/
def State.replied (s : State) : Option SectorReader → Res (List Byte) → State
  | some r, x => s.memReply r x
  | none, x => x.2

variable {r : SectorReader} {q : Option SectorReader}

theorem finds_cores (s : State) (a : Nat) (x : SectorFound) : (s.finds a x).cores = s.cores := by
  unfold State.finds State.disturb State.onDie State.countCorrected
  repeat' split
  all_goals rfl

theorem finds_awaits (s : State) (a : Nat) (x : SectorFound) (r : SectorReader) : (s.finds a x).Awaits r ↔ s.Awaits r := by
  unfold State.Awaits State.core
  rw [finds_cores]

theorem memReply_awaited (awaited : s.Awaits r) (x : Res (List Byte)) : s.memReply r x = (failOnLost r.core x).2 := by
  obtain ⟨gen, late⟩ := awaited
  exact if_neg (by simp [gen, late])

theorem replied_late (late : ¬ s.Awaits r) (x : Res (List Byte)) :
    s.replied (some r) x = x.2.updHub fun h => { h with lateDrops := satInc h.lateDrops } := by
  refine if_pos ?_
  by_contra h
  simp only [not_or, not_not, Bool.not_eq_true] at h
  exact late h

theorem replied_ok (awaited : ∀ r, q = some r → s.Awaits r) (b : List Byte) (t : State) : s.replied q (.ok b, t) = t := by
  cases q with
  | none => rfl
  | some r => exact memReply_awaited (awaited r rfl) _

theorem replied_lost {m : Nat} (awaited : s.Awaits r) (owner : t.meadowOf r.core = some m) :
    s.replied (some r) (.error Code.uncorrectable, t) = t.failEpoch m Code.uncorrectable := by
  refine (memReply_awaited awaited _).trans ?_
  unfold failOnLost
  dsimp only
  rw [if_pos rfl, owner]

/-! The commands. -/

variable {pa : BitVec 48}

theorem execSectorRead_beyond {x : SectorFound} (beyond : s.capacity ≤ pa.toNat) : execSectorRead pa x q s = .next s := by
  unfold execSectorRead
  dsimp only
  rw [if_pos (.inl beyond), orHold_same _ (State.still_of_pkg rfl)]

theorem execSectorRead_quiet {x : SectorFound} {y : Res (List Byte)} (h : s.Quiet pa.toNat)
    (read : (s.finds pa.toNat x).readSec (pa.toNat / 32 * 32) 32 = y) (reply : (s.finds pa.toNat x).replied q y = t)
    (still : s.still t) : execSectorRead pa x q s = .next t := by
  have within : ¬ (s.capacity ≤ pa.toNat ∨ s.pageRetired pa.toNat = true) := by
    have := h.below
    simp [h.kept, this]
  subst read reply
  unfold execSectorRead
  dsimp only
  rw [if_neg within]
  cases q with
  | none => exact congrArg _ (orHold_same _ still)
  | some r => exact congrArg _ (orHold_same _ still)

theorem execScrub_beyond {p : Bool} {x : SectorFound} (beyond : s.capacity ≤ pa.toNat) : execScrub pa p x s = .next s := by
  unfold execScrub
  dsimp only
  rw [if_pos beyond, orHold_same _ (State.still_of_pkg rfl)]

theorem execScrub_quiet {x : SectorFound} {y : Res (List Byte)} (h : s.Quiet pa.toNat)
    (read : (s.finds pa.toNat x).readSec (pa.toNat / 32 * 32) 32 = y) (still : s.still y.2) :
    execScrub pa false x s = .next y.2 := by
  subst read
  unfold execScrub
  dsimp only
  rw [if_neg (Nat.not_le.2 h.below), if_neg Bool.false_ne_true, if_neg h.works]
  exact congrArg _ (orHold_same _ still)

/-! What an access finds and leaves where its data can be delivered. -/

/-- An access that finds `x` at the sector of `a` delivers its data, and leaves `u` with no error in the sector. -/
structure State.Delivers (s : State) (a : Nat) (x : SectorFound) (u : State) : Prop where
  read : ∃ b, (s.finds a x).readSec (a / 32 * 32) 32 = (.ok b, u.setFlips (a / 32) 0)
  still : s.still u
  flips : u.pkg.flips = s.pkg.flips

section

variable (h : s.Quiet a)

include h

theorem delivers_clean : s.Delivers a ⟨0, false⟩ s :=
  ⟨h.finds_symbols ▸ h.reads_clean, State.still_of_pkg rfl, rfl⟩

theorem delivers_onDie : s.Delivers a ⟨0, true⟩ (s.correctedAt a) :=
  ⟨h.finds_onDie ▸ h.correctedAt.reads_clean, ⟨rfl, rfl, rfl⟩, rfl⟩

theorem delivers_corrected {e : BitVec 288} (one : rsRead e = .corrected 0) : s.Delivers a ⟨e, false⟩ (s.correctedAt a) :=
  ⟨h.finds_symbols ▸ h.reads_corrected one, ⟨rfl, rfl, rfl⟩, rfl⟩

end

theorem execSectorRead_delivers {x : SectorFound} (h : s.Quiet pa.toNat) (d : s.Delivers pa.toNat x u)
    (awaited : ∀ r, q = some r → s.Awaits r) : ∃ t, execSectorRead pa x q s = .next t ∧ s.SameErrors t u := by
  obtain ⟨b, read⟩ := d.read
  have reply := replied_ok (fun r hr => (finds_awaits s pa.toNat x r).2 (awaited r hr)) b (u.setFlips (pa.toNat / 32) 0)
  exact ⟨_, execSectorRead_quiet h read reply d.still, .of_setFlips d.flips h.clean⟩

theorem execSectorRead_late {x : SectorFound} (h : s.Quiet pa.toNat) (d : s.Delivers pa.toNat x u) (late : ¬ s.Awaits r) :
    ∃ t, execSectorRead pa x (some r) s = .next t
      ∧ s.SameErrors t (u.updHub fun h => { h with lateDrops := satInc h.lateDrops }) := by
  obtain ⟨b, read⟩ := d.read
  have reply : (s.finds pa.toNat x).replied (some r) (.ok b, u.setFlips (pa.toNat / 32) 0)
      = (u.updHub fun h => { h with lateDrops := satInc h.lateDrops }).setFlips (pa.toNat / 32) 0 :=
    replied_late (fun h => late ((finds_awaits s pa.toNat x r).1 h)) _
  exact ⟨_, execSectorRead_quiet h read reply d.still, .of_setFlips d.flips h.clean⟩

theorem execScrub_delivers {x : SectorFound} (h : s.Quiet pa.toNat) (d : s.Delivers pa.toNat x u) :
    ∃ t, execScrub pa false x s = .next t ∧ s.SameErrors t u := by
  obtain ⟨b, read⟩ := d.read
  exact ⟨_, execScrub_quiet h read d.still, .of_setFlips d.flips h.clean⟩

/-! What an access that finds an uncorrectable error leaves. -/

section

variable {e : BitVec 288} (h : s.Quiet pa.toNat) (bad : rsRead e = .detected) (room : s.pkg.retired.length < 4096)

include h bad room

theorem finds_lost : (s.finds pa.toNat ⟨e, false⟩).readSec (pa.toNat / 32 * 32) 32
    = (.error Code.uncorrectable, (s.setFlips (pa.toNat / 32) e).retiredAt pa.toNat) := by
  rw [h.finds_symbols]
  exact h.reads_lost bad room

theorem execScrub_lost : ∃ t, execScrub pa false ⟨e, false⟩ s = .next t ∧ s.LostAt pa.toNat t ∧ t.meadows = s.meadows :=
  ⟨_, execScrub_quiet h (finds_lost h bad room) ⟨rfl, rfl, rfl⟩, retiredAt_lost bad, rfl⟩

theorem execSectorRead_fails {m : Nat} (owner : s.meadowOf r.core = some m) (opened : (s.meadow m).state = .opened)
    (awaited : s.Awaits r) : ∃ t, execSectorRead pa ⟨e, false⟩ (some r) s = .next t ∧ s.LostAt pa.toNat t
      ∧ (t.meadow m).state = .failed ∧ (t.meadow m).code = Code.uncorrectable := by
  let lost := (s.setFlips (pa.toNat / 32) e).retiredAt pa.toNat
  have reply : (s.finds pa.toNat ⟨e, false⟩).replied (some r) (.error Code.uncorrectable, lost)
      = lost.failEpoch m Code.uncorrectable := replied_lost ((finds_awaits s pa.toNat ⟨e, false⟩ r).2 awaited) owner
  have pkg : (lost.failEpoch m Code.uncorrectable).pkg = lost.pkg := by rw [State.failEpoch_eq]
  have still : s.still (lost.failEpoch m Code.uncorrectable) := by
    unfold State.still
    rw [pkg]
    exact ⟨rfl, rfl, rfl⟩
  exact ⟨_, execSectorRead_quiet h (finds_lost h bad room) reply still, (retiredAt_lost bad).of_pkg pkg,
    State.failEpoch_meadow _ opened⟩

theorem execSectorRead_lostLate (late : ¬ s.Awaits r) : ∃ t, execSectorRead pa ⟨e, false⟩ (some r) s = .next t
    ∧ s.LostAt pa.toNat t ∧ t.meadows = s.meadows := by
  have reply := replied_late (fun h => late ((finds_awaits s pa.toNat ⟨e, false⟩ r).1 h))
    (.error Code.uncorrectable, (s.setFlips (pa.toNat / 32) e).retiredAt pa.toNat)
  exact ⟨_, execSectorRead_quiet h (finds_lost h bad room) reply ⟨rfl, rfl, rfl⟩, (retiredAt_lost bad).of_pkg rfl, rfl⟩

end

/-! Writes (R310, R314, R316, R325). -/

theorem store_plain (plain : s.pkg.parity = false) (b : List Byte) :
    s.store a b = (s.pkgPut a b).setFlips (a / 32) 0 := by
  unfold State.store
  dsimp only
  rw [plain]
  exact if_pos rfl

theorem writeSec_plain {b : List Byte} (plain : s.pkg.parity = false) (works : (s.stack (s.stackOf a)).st ≠ .failed)
    (clean : s.flips (a / 32) = 0) (free : s.mustWait a = false) :
    s.writeSec a b = (.ok (), (s.pkgPut a b).setFlips (a / 32) 0) := by
  have first (whole : Bool) : s.readFirst a whole = (true, s) := by
    unfold State.readFirst
    rw [plain]
    cases whole
    · exact serve_read works (readOwn_clean clean)
    · rfl
  unfold State.writeSec
  rw [free, settleOwn_plain plain, first, ← store_plain plain]
  rfl

/-- What an accepted write leaves: its bytes, and nothing else that can be read. -/
theorem written_reads (s : State) (a : Nat) (b : List Byte) :
    let t := (s.pkgPut a b).setFlips (a / 32) 0
    s.still t ∧ t = { s with pkg := t.pkg } ∧ (∀ i, i < b.length → t.byteUnder (s.keyAt a) (a + i) = b.getD i 0)
      ∧ ∀ x, x < a ∨ a + b.length ≤ x → t.byteUnder (s.keyAt a) x = s.byteUnder (s.keyAt a) x := by
  intro t
  obtain ⟨bytes, tags, put⟩ := pkgPut_contents s a b
  have made : t = ({ s with pkg := { s.pkg with bytes := bytes, tags := tags } } : State).setFlips (a / 32) 0 :=
    congrArg (·.setFlips (a / 32) 0) put
  have reads := pkgPut_byteUnder s a b
  exact ⟨by rw [made]; exact ⟨rfl, rfl, rfl⟩, by rw [made]; rfl, reads.1, reads.2⟩

theorem execSectorWrite_beyond {w : Writer} {b : List Byte} (beyond : s.capacity ≤ pa.toNat) :
    execSectorWrite w pa b s = .next s := by
  unfold execSectorWrite
  dsimp only
  rw [if_pos (.inl beyond), orHold_same _ (State.still_of_pkg rfl)]

section

variable {b : List Byte} {c : CoreIx} {k : Fin 5} (below : pa.toNat < s.capacity) (some : b ≠ []) (fits : pa.toNat % 32 + b.length ≤ 32)

include below some fits

theorem write_within : ¬ (s.capacity ≤ pa.toNat ∨ b.isEmpty = true ∨ 32 < pa.toNat % 32 + b.length) := by
  rintro (beyond | empty | long)
  · omega
  · exact some (List.isEmpty_iff.1 empty)
  · omega

theorem execSectorWrite_core (still : s.still t) (effect : (if s.pageRetired pa.toNat ∨ !(s.frozenBy pa.toNat (s.meadowOf c)).isEmpty then s
      else (failOnLost c (s.writeSec pa.toNat b)).2) = t) : execSectorWrite (.core c) pa b s = .next t := by
  subst effect
  unfold execSectorWrite
  dsimp only
  rw [if_neg (write_within below some fits), orHold_same _ still]

theorem execSectorWrite_agent (still : s.still t) (effect : s.agentWrite k pa.toNat b none = t) :
    execSectorWrite (.agent k) pa b s = .next t := by
  subst effect
  unfold execSectorWrite
  dsimp only
  rw [if_neg (write_within below some fits), settledFrom_same still.1, orHold_same _ still]

theorem execSectorWrite_writes {w : Writer} (kept : s.pageRetired pa.toNat = false)
    (coreMay : ∀ x, w = .core x → s.frozenBy pa.toNat (s.meadowOf x) = []) (agentMay : ∀ x, w = .agent x → s.frozenBy pa.toNat none = [])
    (write : s.writeSec pa.toNat b = (.ok (), t)) (still : s.still t) : execSectorWrite w pa b s = .next t := by
  cases w with
  | core c =>
    refine execSectorWrite_core below some fits still ?_
    rw [if_neg (by simp [kept, coreMay c rfl]), write]
    rfl
  | agent k =>
    refine execSectorWrite_agent below some fits still ?_
    unfold State.agentWrite
    dsimp only
    rw [if_neg (by simp [kept]), agentMay k rfl, if_neg (by simp), write]

theorem execSectorWrite_retired (gone : s.pageRetired pa.toNat = true) :
    execSectorWrite (.core c) pa b s = .next s ∧ execSectorWrite (.agent k) pa b s
      = .next (s.updPkg fun p => { p with retireDrops := satInc p.retireDrops }) := by
  refine ⟨execSectorWrite_core below some fits (State.still_of_pkg rfl) (if_pos (.inl gone)),
    execSectorWrite_agent below some fits ⟨rfl, rfl, rfl⟩ ?_⟩
  unfold State.agentWrite
  dsimp only
  rw [if_pos gone]

end

/-! Deltas (R316, R317). -/

section

variable {d : Delta} {l : List Delta}

theorem execParityDelta_none (none : s.pkg.deltas = []) : execParityDelta s = .next s := by
  unfold execParityDelta
  rw [none]

variable (oldest : s.pkg.deltas = d :: l)

include oldest

theorem execParityDelta_waits (trains : s.trains (s.parityStack (32 * d.sector)) (32 * d.sector) = true) :
    execParityDelta s = .next s := by
  unfold execParityDelta
  rw [oldest]
  dsimp only
  rw [if_pos trains]

theorem execParityDelta_lands (ready : s.trains (s.parityStack (32 * d.sector)) (32 * d.sector) = false)
    (lands : (s.updPkg fun p => { p with deltas := l }).landDelta d = t) : execParityDelta s = .next t := by
  unfold execParityDelta
  rw [oldest]
  dsimp only
  rw [if_neg (by rw [ready]; decide), lands]

end

theorem landDelta_failed {d : Delta} (failed : (s.stack (s.parityStack (32 * d.sector))).st = .failed) : s.landDelta d = s := if_pos failed

theorem landDelta_clean {d : Delta} (works : (s.stack (s.parityStack (32 * d.sector))).st ≠ .failed)
    (clean : s.pflips (s.parityIx (32 * d.sector)) = 0) : s.landDelta d = s := by
  unfold State.landDelta State.readParity
  dsimp only
  rw [if_neg works, if_pos clean]

end

/-- Settles O44: what the decoder makes of the error, and who reads or writes, pick the branch of each access. -/
theorem sectorsAreReadWrittenAndScrubbed : Obligations.SectorsAreReadWrittenAndScrubbed := by
  unfold Obligations.SectorsAreReadWrittenAndScrubbed
  intro pa e b c k m w p od r s
  refine ⟨fun i v hi pos hv => rsRead_symbol hi pos hv,
    fun beyond => ⟨execSectorRead_beyond beyond, execSectorWrite_beyond beyond, execScrub_beyond beyond⟩,
    fun below kept plain works clean _ free => ?access,
    fun below some fits kept coreMay agentMay plain works clean free => ?write,
    fun below some fits gone => execSectorWrite_retired below some fits gone,
    execParityDelta_none, fun d l oldest => ⟨execParityDelta_waits oldest, fun ready failed => ?lost, fun ready works clean => ?lands⟩⟩
  case access =>
    have h : s.Quiet pa.toNat := ⟨below, kept, plain, works, clean, free⟩
    exact ⟨fun q awaited => ⟨execSectorRead_delivers h (delivers_clean h) awaited, execSectorRead_delivers h (delivers_onDie h) awaited,
        fun one => execSectorRead_delivers h (delivers_corrected h one) awaited⟩,
      fun late => execSectorRead_late h (delivers_clean h) late,
      execScrub_delivers h (delivers_clean h), execScrub_delivers h (delivers_onDie h),
      fun one => execScrub_delivers h (delivers_corrected h one),
      fun bad room => ⟨execScrub_lost h bad room, execSectorRead_fails h bad room, execSectorRead_lostLate h bad room⟩⟩
  case write =>
    obtain ⟨still, only, inside, outside⟩ := written_reads s pa.toNat b
    exact ⟨_, execSectorWrite_writes below some fits kept coreMay agentMay (writeSec_plain plain works clean free) still,
      only, inside, outside⟩
  case lost => exact execParityDelta_lands oldest ready (landDelta_failed failed)
  case lands => exact ⟨execParityDelta_lands oldest ready (landDelta_clean works clean), parityBytes_landed oldest⟩

end Sys2Proof.Machine

/-!
The end of a self-test (R474, R475, R497 to R504): what a partition leaves, the next round, and the return of a slice's cores.
-/

namespace Sys2Proof.Machine

open Sys2Proof

variable {s t u : State} {j : BistJob} {tests : List BistJob} {r : PartReport}

/-! A test taken off the front of those that run. -/

/-- A job's test is over: the jobs behind it stay, and a logic test leaves its slice's pattern generator at its end. -/
def State.testOver (s : State) (j : BistJob) (tests : List BistJob) : State :=
  { s with bist := { s.bist with
    tests := tests, prpg := if j.logic then Sparse.put 0 s.bist.prpg j.slice Config.prpgEnd else s.bist.prpg } }

theorem bistComplete_untested (b : Fin 263) (l : List PartReport) (saved : Bool)
    (waits : ∀ k ∈ s.bist.tests, k.slice = b.val → k.begun = false) : exec (.bistComplete b l saved) s = .next s := by
  have missing : (s.bist.tests.find? fun j => j.begun && j.slice = b.val) = none := by
    rw [List.find?_eq_none]
    intro k mem
    by_cases slice : k.slice = b.val
    · simp [waits k mem slice]
    · simp [slice]
  show execBistComplete b l saved s = _
  unfold execBistComplete
  rw [missing]
  exact attemptWhole_same _ (State.still_of_pkg rfl)

/-- The test at the front ends with one partition's report. -/
theorem bistComplete_ends {b : Fin 263} {saved : Bool} (front : s.bist.tests = j :: tests) (slice : j.slice = b.val)
    (begun : j.begun = true) (after : ((((s.testOver j tests).partDone j r).sliceTested j saved).bistRound) = t)
    (pkg : t.pkg = s.pkg) : exec (.bistComplete b [r] saved) s = .next t := by
  have found : (s.bist.tests.find? fun j => j.begun && j.slice = b.val) = some j := by
    rw [front, List.find?_cons, begun, slice]; simp
  show execBistComplete b [r] saved s = _
  unfold execBistComplete
  rw [found]
  subst after
  have erased : s.bist.tests.erase j = tests := by rw [front, List.erase_cons_head]
  simp only [erased, List.foldl_cons, List.foldl_nil]
  exact attemptWhole_same _ (State.still_of_pkg pkg)

/-! A partition's result (R498, R499). -/

/-- The last test of a partition. -/
def State.partTest (s : State) (slice p : Nat) : PartTest :=
  Sparse.get ⟨false, false, false, 0⟩ s.bist.parts (partKey slice p)

/-- What a report of a job's test makes of a partition's last test. -/
def State.partResult (s : State) (j : BistJob) (slice : Nat) (r : PartReport) : PartTest :=
  { tested := true,
    logicFail := if j.logic then r.signature != Config.misrExpected s.sxt.fwHash (s.partKind slice r.part)
      else (s.partTest slice r.part).logicFail,
    memoryFail := if j.memory then r.memoryFail else (s.partTest slice r.part).memoryFail,
    signature := if j.logic then r.signature else (s.partTest slice r.part).signature }

/-- A partition passes: neither part of its test has failed. -/
def PartTest.sound (x : PartTest) : Prop := x.logicFail = false ∧ x.memoryFail = false

/-- A partition's test recorded. -/
def State.recordPart (s : State) (slice p : Nat) (x : PartTest) : State :=
  { s with bist := { s.bist with parts := Sparse.put ⟨false, false, false, 0⟩ s.bist.parts (partKey slice p) x } }

@[simp] theorem State.recordPart_partTest (s : State) (slice p : Nat) (x : PartTest) :
    (s.recordPart slice p x).partTest slice p = x := Sparse.get_put_same _ _ _ _

theorem PartTest.sound_iff (x : PartTest) : x.sound ↔ (x.logicFail || x.memoryFail) = false := by
  unfold PartTest.sound; rw [Bool.or_eq_false_iff]

theorem partDone_sound {b : Nat} (slice : j.slice = b) (sound : (s.partResult j b r).sound) :
    s.partDone j r = if partExists b r.part then s.recordPart b r.part (s.partResult j b r) else s := by
  subst slice
  cases there : partExists j.slice r.part
  · exact if_pos (by rw [there]; rfl)
  · refine (if_neg (by rw [there]; decide)).trans (if_pos ?_)
    exact congrArg (!·) ((PartTest.sound_iff _).1 sound)

theorem partExists_of_site {b p site : Nat} (base : b < 256) (at_ : partSite b p = some site) : partExists b p = true := by
  simp [partExists, base, at_]

/-- A core partition that fails has its site marked failed. -/
theorem partDone_failSite {b site : Nat} (slice : j.slice = b) (base : b < 256) (at_ : partSite b r.part = some site)
    (unsound : ¬ (s.partResult j b r).sound) :
    s.partDone j r = (s.recordPart b r.part (s.partResult j b r)).failSite site := by
  subst slice
  have there := partExists_of_site base at_
  have failed : ¬ (!((s.partResult j j.slice r).logicFail || (s.partResult j j.slice r).memoryFail)) = true := by
    rw [PartTest.sound_iff] at unsound
    rwa [Bool.not_eq_true']
  refine (if_neg (by rw [there]; decide)).trans ((if_neg failed).trans ?_)
  rw [if_neg (by omega), if_neg (by omega), at_]
  rfl

theorem failSite_failed (s : State) (site : Nat) : Sparse.get false (s.failSite site).heath.failed site = true :=
  Sparse.get_put_same false s.heath.failed site true

theorem failSite_isolated (s : State) (site : Nat) : Sparse.get false (s.failSite site).heath.isolated site = true :=
  Sparse.get_put_same false s.heath.isolated site true

/-! The next round (R501). -/

theorem Bist.round_tests (b : Bist) : b.round.tests =
    if b.tests.any (·.begun) then b.tests
    else (b.tests.take 16).map (fun x => { x with begun := true }) ++ b.tests.drop 16 := by
  unfold Bist.round; split <;> rfl

theorem Bist.round_parts (b : Bist) : b.round.parts = b.parts := by unfold Bist.round; split <;> rfl

theorem bistRound_same (h : s.bist.tests = [] ∨ s.bist.tests.any (·.begun) = true) : s.bistRound = s := by
  unfold State.bistRound
  rcases h with empty | running
  · have same : s.bist.round = s.bist := by
      unfold Bist.round
      rw [empty]
      simp only [List.any_nil, Bool.false_eq_true, if_false, List.take_nil, List.map_nil, List.drop_nil, List.append_nil,
        List.filter_nil, List.foldl_nil]
      rw [← empty]
    rw [same, empty]; simp
  · rw [if_pos running]

/-- Tests begin: memory and self-test stay, no site's failure is forgotten, and an isolated site stays isolated. -/
structure State.TestsBegun (s t : State) : Prop where
  pkg : t.pkg = s.pkg
  bist : t.bist = s.bist
  failed : t.heath.failed = s.heath.failed
  isolated : ∀ k, Sparse.get false s.heath.isolated k = true → Sparse.get false t.heath.isolated k = true

namespace State.TestsBegun

theorem of_heath (pkg : t.pkg = s.pkg) (bist : t.bist = s.bist) (heath : t.heath = s.heath) : s.TestsBegun t :=
  ⟨pkg, bist, by rw [heath], fun k h => by rw [heath]; exact h⟩

theorem refl (s : State) : s.TestsBegun s := of_heath rfl rfl rfl

theorem trans (a : s.TestsBegun t) (b : t.TestsBegun u) : s.TestsBegun u :=
  ⟨b.pkg.trans a.pkg, b.bist.trans a.bist, b.failed.trans a.failed, fun k h => b.isolated k (a.isolated k h)⟩

theorem foldl {β : Type} {f : State → β → State} (h : ∀ (u : State) x, u.TestsBegun (f u x)) (l : List β) (s : State) :
    s.TestsBegun (l.foldl f s) := by
  induction l generalizing s with
  | nil => exact refl s
  | cons x r ih => exact (h s x).trans (ih _)

theorem updCores (s : State) (l : List Nat) (f : Core → Core) : s.TestsBegun (s.updCores l f) :=
  of_heath (by simp) (by simp) (by simp)

theorem updBase (s : State) (b : Nat) (f : Base → Base) : s.TestsBegun (s.updBase b f) := of_heath rfl rfl rfl

theorem failEpoch (s : State) (m : Nat) (code : Half) : s.TestsBegun (s.failEpoch m code) := by
  rw [State.failEpoch_eq]; exact of_heath rfl rfl rfl

theorem gateBase (s : State) (b : Nat) : s.TestsBegun (s.gateBase b) :=
  (updCores s (coresOfBase b) Core.erase).trans (updBase ..)

theorem saveStores (s : State) (l : List Nat) : s.TestsBegun (s.saveStores l) := of_heath rfl rfl rfl

end State.TestsBegun

theorem get_putAll_kept (m : Sparse Bool) (l : List Nat) (k : Nat) (h : Sparse.get false m k = true) :
    Sparse.get false (putAll false m l true) k = true := by
  unfold putAll
  induction l generalizing m with
  | nil => exact h
  | cons a r ih =>
    refine ih _ ?_
    rw [Sparse.get_put]
    split
    · rfl
    · exact h

theorem startTest_begun (s : State) (b : Nat) (preserve : Bool) : s.TestsBegun (s.startTest b preserve) := by
  let u : State := { s with heath := { s.heath with
    isolated := putAll false s.heath.isolated (s.sitesOf (s.sliceCores b)) true } }
  have isolated : s.TestsBegun u := ⟨rfl, rfl, rfl, fun k h => get_putAll_kept _ _ k h⟩
  unfold State.startTest
  cases preserve
  · have failed := isolated.trans (.foldl (f := fun u m => u.failEpoch m Code.reset)
      (fun u m => .failEpoch u m Code.reset) ((s.sliceCores b).filterMap s.meadowOf).eraseDups u)
    exact (failed.trans (.gateBase _ b)).trans (.updCores ..)
  · exact (isolated.trans (.saveStores u (s.sliceCores b))).trans (.updCores ..)

/-- The next round: the jobs that begin are marked, and the tests of requested slices begin. -/
theorem bistRound_begun (s : State) : ({ s with bist := s.bist.round } : State).TestsBegun s.bistRound := by
  unfold State.bistRound
  split
  next running =>
    have same : s.bist.round = s.bist := by unfold Bist.round; rw [if_pos running]
    rw [same]; exact .refl s
  next =>
    refine State.TestsBegun.foldl (fun u k => ?_) _ _
    split
    · exact startTest_begun ..
    · exact .refl u

/-! The last start-up test (R474, R475). -/

/-- At a cold start the end of a slice's test moves start-up on where it was the last, and nothing else. -/
theorem startupTested_cold (cold : s.sxt.warm = false) (slice : Nat) (saved : Bool) :
    s.startupTested slice saved =
      if s.sxt.bootStep = 8 ∧ s.sxt.bootCode ≠ Code.bootHub ∧ (s.bist.tests.all fun j => j.why != .startup) = true
      then s.step9
      else s := by
  unfold State.startupTested
  simp [cold, State.updCores]

theorem step9_cold (cold : s.sxt.warm = false) : s.step9 = s.updSxt fun x => { x with bootStep := 9, waiting := true } := by
  unfold State.step9
  simp [cold, State.updSxt]

/-- The last slice of a cold start that passes leads to step 9, where Sexton waits for the stream. -/
theorem bistComplete_lastStartup {b : Fin 263} (saved : Bool) (front : s.bist.tests = [j]) (slice : j.slice = b.val)
    (begun : j.begun = true) (why : j.why = .startup) (step : s.sxt.bootStep = 8) (hub : s.sxt.bootCode ≠ Code.bootHub)
    (cold : s.sxt.warm = false) (sound : (s.partResult j b r).sound) (there : partExists b r.part = true) :
    ∃ t, exec (.bistComplete b [r] saved) s = .next t ∧ t.partTest b r.part = s.partResult j b r ∧ t.bist.tests = []
      ∧ t.sxt.bootStep = 9 ∧ t.sxt.waiting = true := by
  let t := (s.testOver j []).recordPart b r.part (s.partResult j b r)
  have recorded : (s.testOver j []).partDone j r = t := 
    (partDone_sound (s := s.testOver j []) slice sound).trans (if_pos there)
  have next : t.sliceTested j saved = t.updSxt fun x => { x with bootStep := 9, waiting := true } := by
    unfold State.sliceTested
    rw [why]
    exact ((startupTested_cold (s := t) cold ..).trans (if_pos ⟨step, hub, rfl⟩)).trans (step9_cold (s := t) cold)
  have ended : (((s.testOver j []).partDone j r).sliceTested j saved).bistRound =
      t.updSxt fun x => { x with bootStep := 9, waiting := true } := by
    rw [recorded, next]
    exact bistRound_same (.inl rfl)
  exact ⟨_, bistComplete_ends front slice begun ended rfl, (s.testOver j []).recordPart_partTest .., rfl, rfl, rfl⟩

/-- A core partition that fails at a cold start: its site is failed and isolated, and the next round begins
where the last has ended. -/
theorem bistComplete_siteFails {b : Fin 263} (saved : Bool) {site : Nat} (front : s.bist.tests = j :: tests)
    (slice : j.slice = b.val) (begun : j.begun = true) (why : j.why = .startup) (more : ∃ k ∈ tests, k.why = .startup)
    (cold : s.sxt.warm = false) (unsound : ¬ (s.partResult j b r).sound) (base : b.val < 256)
    (at_ : partSite b r.part = some site) :
    ∃ t, exec (.bistComplete b [r] saved) s = .next t ∧ t.partTest b r.part = s.partResult j b r
      ∧ Sparse.get false t.heath.failed site = true ∧ Sparse.get false t.heath.isolated site = true
      ∧ t.bist.tests = if tests.any (·.begun) then tests
        else (tests.take 16).map (fun x => { x with begun := true }) ++ tests.drop 16 := by
  let t := ((s.testOver j tests).recordPart b r.part (s.partResult j b r)).failSite site
  have recorded : (s.testOver j tests).partDone j r = t :=
    partDone_failSite (s := s.testOver j tests) slice base at_ unsound
  have stays : ¬ (t.bist.tests.all fun j => j.why != .startup) = true := by
    obtain ⟨k, mem, startup⟩ := more
    intro all
    have := List.all_eq_true.1 all k mem
    simp [startup] at this
  have next : t.sliceTested j saved = t := by
    unfold State.sliceTested
    rw [why]
    exact (startupTested_cold (s := t) cold ..).trans (if_neg fun h => stays h.2.2)
  obtain ⟨pkg, bist, failed, isolated⟩ := bistRound_begun t
  refine ⟨t.bistRound, bistComplete_ends front slice begun (by rw [recorded, next]) pkg, ?_, ?_, ?_, ?_⟩
  · unfold State.partTest
    rw [bist]
    exact (congrArg (Sparse.get _ · _) (Bist.round_parts t.bist)).trans ((s.testOver j tests).recordPart_partTest ..)
  · rw [failed]; exact failSite_failed ..
  · exact isolated site (failSite_isolated ..)
  · rw [bist]; exact Bist.round_tests t.bist

/-- The test of a repair leaves the repair and the saved stores to Sexton's cycles. -/
theorem bistComplete_repair {b : Fin 263} (front : s.bist.tests = j :: tests) (slice : j.slice = b.val)
    (begun : j.begun = true) (why : j.why = .repair) (still : tests = [] ∨ tests.any (·.begun) = true)
    (sound : (s.partResult j b r).sound) :
    ∃ t, exec (.bistComplete b [r] true) s = .next t ∧ t.bist.tests = tests
      ∧ t.partTest b r.part = (if partExists b r.part then s.partResult j b r else s.partTest b r.part)
      ∧ t.sxt.repair = s.sxt.repair ∧ t.sxt.saved = s.sxt.saved := by
  have recorded : (s.testOver j tests).partDone j r =
      if partExists b r.part then (s.testOver j tests).recordPart b r.part (s.partResult j b r) else s.testOver j tests :=
    partDone_sound (s := s.testOver j tests) slice sound
  have next (t : State) (recorded : (s.testOver j tests).partDone j r = t) (same : t.bist.tests = tests) :
      (((s.testOver j tests).partDone j r).sliceTested j true).bistRound = t := by
    unfold State.sliceTested
    rw [recorded, why]
    exact bistRound_same (same ▸ still)
  cases there : partExists b r.part
  · exact ⟨_, bistComplete_ends front slice begun (next (s.testOver j tests) (recorded.trans (by rw [there]; rfl)) rfl) rfl,
      rfl, rfl, rfl, rfl⟩
  · exact ⟨_, bistComplete_ends front slice begun
        (next ((s.testOver j tests).recordPart b r.part (s.partResult j b r)) (recorded.trans (by rw [there]; rfl)) rfl) rfl,
      rfl, (s.testOver j tests).recordPart_partTest .., rfl, rfl⟩

end Sys2Proof.Machine

/-!
Cores return from a self-test (R493, R503, R504): their saved stores, the ADMITs sent for them, and the repair that a failed site
asks.
-/

namespace Sys2Proof.Machine

open Sys2Proof

variable {s t u : State} {j : BistJob} {tests : List BistJob} {r : PartReport}

/-! Cores with their saved stores (R31, R503). -/

/-- `t` is `s` but for base tussocks, cores and the saves of cores. -/
structure State.CoresOnly (s t : State) : Prop where
  eq : ∃ bases cores saved, t = { s with bases := bases, cores := cores, sxt := { s.sxt with saved := saved } }

namespace State.CoresOnly

theorem refl (s : State) : s.CoresOnly s := ⟨s.bases, s.cores, s.sxt.saved, rfl⟩

theorem trans (a : s.CoresOnly t) (b : t.CoresOnly u) : s.CoresOnly u := by
  obtain ⟨_, _, _, rfl⟩ := a.eq
  obtain ⟨_, _, _, rfl⟩ := b.eq
  exact ⟨_, _, _, rfl⟩

theorem updBase (s : State) (b : Nat) (f : Base → Base) : s.CoresOnly (s.updBase b f) := ⟨_, s.cores, s.sxt.saved, rfl⟩

theorem updCore (s : State) (n : Nat) (f : Core → Core) : s.CoresOnly (s.updCore n f) := ⟨s.bases, _, s.sxt.saved, rfl⟩

theorem dropSaves (s : State) (l : List Nat) : s.CoresOnly (s.dropSaves l) := ⟨s.bases, s.cores, _, rfl⟩

theorem foldl {β : Type} {f : State → β → State} (h : ∀ (u : State) x, u.CoresOnly (f u x)) (l : List β) (s : State) :
    s.CoresOnly (l.foldl f s) := by
  induction l generalizing s with
  | nil => exact refl s
  | cons x r ih => exact (h s x).trans (ih _)

theorem tick (h : s.CoresOnly t) : t.tick = s.tick := by obtain ⟨_, _, _, rfl⟩ := h.eq; rfl
theorem bist (h : s.CoresOnly t) : t.bist = s.bist := by obtain ⟨_, _, _, rfl⟩ := h.eq; rfl
theorem pkg (h : s.CoresOnly t) : t.pkg = s.pkg := by obtain ⟨_, _, _, rfl⟩ := h.eq; rfl
theorem life (h : s.CoresOnly t) : t.life = s.life := by obtain ⟨_, _, _, rfl⟩ := h.eq; rfl
theorem stemWait (h : s.CoresOnly t) : t.sxt.stemWait = s.sxt.stemWait := by obtain ⟨_, _, _, rfl⟩ := h.eq; rfl
theorem repair (h : s.CoresOnly t) : t.sxt.repair = s.sxt.repair := by obtain ⟨_, _, _, rfl⟩ := h.eq; rfl
theorem siteOf (h : s.CoresOnly t) (n : Nat) : t.siteOf n = s.siteOf n := by obtain ⟨_, _, _, rfl⟩ := h.eq; rfl
theorem onFailed (h : s.CoresOnly t) (n : Nat) : t.onFailed n = s.onFailed n := by obtain ⟨_, _, _, rfl⟩ := h.eq; rfl
theorem meadowOf (h : s.CoresOnly t) (n : Nat) : t.meadowOf n = s.meadowOf n := by obtain ⟨_, _, _, rfl⟩ := h.eq; rfl

end State.CoresOnly

/-- A core returns empty, its save used up. -/
def State.emptyCore (s : State) (n : Nat) : State :=
  (s.updCore n fun c => c.empty s.tick).updSxt fun x => { x with saved := Sparse.put none x.saved n none }

/-- A core with the stores of a save. -/
def Core.restored (v : Saved) (c : Core) : Core := { c with near := v.near, deep := v.deep }

/-- One core returns from a test. -/
def State.returnCore (s : State) (n : Nat) (keep : Bool) : State :=
  match Sparse.get none s.sxt.saved n with
  | some v => if keep then (s.emptyCore n).updCore n (Core.restored v) else s.emptyCore n
  | none => s.emptyCore n

theorem returnCores_eq (s : State) (l : List Nat) (keep : Nat → Bool) :
    s.returnCores l keep = l.foldl (fun t n => t.returnCore n (keep n)) s := rfl

theorem emptyCore_coresOnly (s : State) (n : Nat) : s.CoresOnly (s.emptyCore n) := ⟨s.bases, _, _, rfl⟩

theorem emptyCore_core_same (s : State) (n : Nat) : (s.emptyCore n).core n = (s.core n).empty s.tick :=
  State.updCore_core_same s n fun c => c.empty s.tick

/-- A core emptied touches no other core and no other save. -/
theorem emptyCore_ne (s : State) {n i : Nat} (other : n ≠ i) :
    (s.emptyCore n).core i = s.core i ∧ Sparse.get none (s.emptyCore n).sxt.saved i = Sparse.get none s.sxt.saved i :=
  ⟨State.updCore_core_ne s (fun c => c.empty s.tick) other, Sparse.get_put_ne none s.sxt.saved none other⟩

/-- A core's return empties it, then restores the stores of its save where they are kept. -/
theorem returnCore_cases (s : State) (n : Nat) (keep : Bool) :
    s.returnCore n keep = s.emptyCore n ∨ ∃ v, s.returnCore n keep = (s.emptyCore n).updCore n (Core.restored v) := by
  unfold State.returnCore
  cases Sparse.get none s.sxt.saved n with
  | none => exact .inl rfl
  | some v =>
    cases keep
    · exact .inl rfl
    · exact .inr ⟨v, rfl⟩

theorem returnCore_coresOnly (s : State) (n : Nat) (keep : Bool) : s.CoresOnly (s.returnCore n keep) := by
  obtain empty | ⟨v, kept⟩ := returnCore_cases s n keep
  · rw [empty]; exact emptyCore_coresOnly s n
  · rw [kept]; exact (emptyCore_coresOnly s n).trans (.updCore ..)

theorem returnCore_kept {n : Nat} {v : Saved} (save : Sparse.get none s.sxt.saved n = some v) :
    (s.returnCore n true).core n = ((s.core n).empty s.tick).restored v := by
  unfold State.returnCore
  rw [save]
  exact (State.updCore_core_same ..).trans (congrArg _ (emptyCore_core_same s n))

/-- A core's return touches no other core and no other save. -/
theorem returnCore_ne {n i : Nat} (other : n ≠ i) (keep : Bool) :
    (s.returnCore n keep).core i = s.core i
      ∧ Sparse.get none (s.returnCore n keep).sxt.saved i = Sparse.get none s.sxt.saved i := by
  obtain ⟨core, saved⟩ := emptyCore_ne s other
  obtain empty | ⟨v, kept⟩ := returnCore_cases s n keep
  · rw [empty]; exact ⟨core, saved⟩
  · rw [kept]; exact ⟨(State.updCore_core_ne _ _ other).trans core, saved⟩

theorem returnCores_coresOnly (s : State) (l : List Nat) (keep : Nat → Bool) : s.CoresOnly (s.returnCores l keep) := by
  rw [returnCores_eq]
  exact .foldl (fun u n => returnCore_coresOnly u n (keep n)) l s

theorem returnCores_core_out {n : Nat} (l : List Nat) (keep : Nat → Bool) (out : n ∉ l) (s : State) :
    (s.returnCores l keep).core n = s.core n := by
  induction l generalizing s with
  | nil => rfl
  | cons a r ih =>
    obtain ⟨ne, rest⟩ := not_or.1 (List.mem_cons.not.1 out)
    exact (ih rest (s.returnCore a (keep a))).trans (returnCore_ne (Ne.symm ne) _).1

theorem returnCores_core_kept {n : Nat} {v : Saved} {l : List Nat} (nodup : l.Nodup) (mem : n ∈ l) (s : State)
    (save : Sparse.get none s.sxt.saved n = some v) :
    (s.returnCores l fun _ => true).core n = ((s.core n).empty s.tick).restored v := by
  induction l generalizing s with
  | nil => cases mem
  | cons a r ih =>
    obtain ⟨out, rest⟩ := List.nodup_cons.1 nodup
    by_cases same : a = n
    · subst same
      exact (returnCores_core_out r _ out (s.returnCore a true)).trans (returnCore_kept save)
    · have mem : n ∈ r := (List.mem_cons.1 mem).resolve_left (Ne.symm same)
      obtain ⟨core, saved⟩ := returnCore_ne (s := s) same true
      refine (ih rest mem (s.returnCore a true) (saved.trans save)).trans ?_
      rw [core, (returnCore_coresOnly s a true).tick]

/-! ADMITs sent (R342, R343). -/

/-- `t` is `s` but for route tables and the stem commands that wait or are out. -/
structure State.AdmitsOnly (s t : State) : Prop where
  eq : ∃ meadows wait out, t = { s with meadows := meadows, sxt := { s.sxt with stemWait := wait, stemOut := out } }

namespace State.AdmitsOnly

theorem refl (s : State) : s.AdmitsOnly s := ⟨s.meadows, s.sxt.stemWait, s.sxt.stemOut, rfl⟩

theorem trans (a : s.AdmitsOnly t) (b : t.AdmitsOnly u) : s.AdmitsOnly u := by
  obtain ⟨_, _, _, rfl⟩ := a.eq
  obtain ⟨_, _, _, rfl⟩ := b.eq
  exact ⟨_, _, _, rfl⟩

theorem stems (s : State) (wait out : List StemCmd) :
    s.AdmitsOnly (s.updSxt fun x => { x with stemWait := wait, stemOut := out }) := ⟨s.meadows, wait, out, rfl⟩

theorem cores (h : s.AdmitsOnly t) : t.cores = s.cores := by obtain ⟨_, _, _, rfl⟩ := h.eq; rfl
theorem base (h : s.AdmitsOnly t) (b : Nat) : t.base b = s.base b := by obtain ⟨_, _, _, rfl⟩ := h.eq; rfl
theorem bist (h : s.AdmitsOnly t) : t.bist = s.bist := by obtain ⟨_, _, _, rfl⟩ := h.eq; rfl
theorem pkg (h : s.AdmitsOnly t) : t.pkg = s.pkg := by obtain ⟨_, _, _, rfl⟩ := h.eq; rfl
theorem life (h : s.AdmitsOnly t) : t.life = s.life := by obtain ⟨_, _, _, rfl⟩ := h.eq; rfl
theorem repair (h : s.AdmitsOnly t) : t.sxt.repair = s.sxt.repair := by obtain ⟨_, _, _, rfl⟩ := h.eq; rfl

end State.AdmitsOnly

/-- The command picked and those left are among those that waited. -/
theorem mem_of_pickStem {out l rest : List StemCmd} {c : StemCmd} (pick : pickStem out l = some (c, rest)) :
    c ∈ l ∧ ∀ k ∈ rest, k ∈ l := by
  induction l generalizing rest with
  | nil => cases pick
  | cons a r ih =>
    unfold pickStem at pick
    split at pick
    · cases pick
      exact ⟨List.mem_cons_self .., fun k mem => List.mem_cons_of_mem _ mem⟩
    · rw [Option.map_eq_some_iff] at pick
      obtain ⟨⟨c', rest'⟩, found, eq⟩ := pick
      cases eq
      obtain ⟨mem, sub⟩ := ih found
      refine ⟨List.mem_cons_of_mem _ mem, fun k h => ?_⟩
      rcases List.mem_cons.1 h with rfl | h
      · exact List.mem_cons_self ..
      · exact List.mem_cons_of_mem _ (sub k h)

/-- An ADMIT at the control blocks writes its route-table entry alone. -/
theorem applyStem_routes {c : StemCmd} (op : c.op = 4) : ∃ meadows, (s.applyStem c).2 = { s with meadows := meadows } := by
  unfold State.applyStem
  rw [op]
  cases s.meadowOfTarget c.target with
  | none => exact ⟨s.meadows, rfl⟩
  | some m => exact ⟨_, rfl⟩

theorem pumpStem_admitsOnly (fuel : Nat) (s : State) (admits : ∀ c ∈ s.sxt.stemWait, c.op = 4) :
    s.AdmitsOnly (State.pumpStem fuel s) := by
  induction fuel generalizing s with
  | zero => exact .refl s
  | succ n ih =>
    unfold State.pumpStem
    split
    · exact .refl s
    · cases pick : pickStem s.sxt.stemOut s.sxt.stemWait with
      | none => exact .refl s
      | some cr =>
        obtain ⟨c, rest⟩ := cr
        obtain ⟨mem, sub⟩ := mem_of_pickStem pick
        let waits : State := s.updSxt fun x => { x with stemWait := rest }
        obtain ⟨meadows, applied⟩ := applyStem_routes (s := waits) (admits c mem)
        let next : State := (waits.applyStem c).2.updSxt fun x =>
          { x with stemOut := x.stemOut ++ [{ c with waits := (waits.applyStem c).1 }] }
        have sent : s.AdmitsOnly next := by
          refine ⟨meadows, rest, s.sxt.stemOut ++ [{ c with waits := (waits.applyStem c).1 }], ?_⟩
          show (waits.applyStem c).2.updSxt _ = _
          rw [applied]
          rfl
        have left : next.sxt.stemWait = rest := by
          show ((waits.applyStem c).2.updSxt _).sxt.stemWait = _
          rw [applied]
          rfl
        exact sent.trans (ih next fun k h => admits k (sub k (left ▸ h)))

/-- ADMITs sent with no other stem command waiting write route tables alone. -/
theorem issueAdmits_admitsOnly (s : State) (l : List Nat) (by_ : StemBy) (wait : s.sxt.stemWait = []) :
    s.AdmitsOnly (s.issueAdmits l by_) := by
  refine (State.AdmitsOnly.stems s _ s.sxt.stemOut).trans (pumpStem_admitsOnly 4 _ fun c mem => ?_)
  have mem := (congrArg (c ∈ · ++ _) wait).mp mem
  obtain ⟨n, -, rfl⟩ := List.mem_map.1 (List.nil_append _ ▸ mem)
  rfl

/-! The cores of a slice (R496). -/

/-- Every element that `eraseDups` keeps stands once in what it leaves. -/
theorem nodup_eraseDups (l : List Nat) : l.eraseDups.Nodup := by
  match l with
  | [] => exact List.nodup_nil
  | a :: r =>
    rw [List.eraseDups_cons, List.nodup_cons]
    refine ⟨fun mem => ?_, nodup_eraseDups (r.filter fun b => !b == a)⟩
    have kept := List.of_mem_filter (List.mem_eraseDups.1 mem)
    simp at kept
termination_by l.length
decreasing_by exact Nat.lt_succ_of_le (List.length_filter_le ..)

theorem nodup_sliceCores (s : State) (b : Nat) : (s.sliceCores b).Nodup := nodup_eraseDups _

/-! The end of a requested test (R503, R504). -/

/-- A repair asked for where none is in progress and none waits begins at once, at phase 3 after a requested test. -/
theorem askRepair_kickRepair_test {b : Nat} (code : Half) (phase : s.sxt.repair.phase = 0) (queue : s.sxt.repairQueue = [])
    (stream : s.hostStream = false) (lockstep : s.sxt.lockstep = false) :
    (s.askRepair ⟨b, .test, [], false⟩).kickRepair code =
      s.updSxt fun x => { x with repairQueue := [], repair := ⟨3, b, 0, 0, .test, [], false⟩ } := by
  have asked : s.askRepair ⟨b, .test, [], false⟩ = s.updSxt fun x => { x with repairQueue := [⟨b, .test, [], false⟩] } := by
    unfold State.askRepair
    simp [phase, queue, State.updSxt]
  rw [asked]
  refine (if_neg ?_).trans rfl
  rintro (locked | streaming | ⟨started, -⟩)
  · exact Bool.false_ne_true (lockstep.symm.trans locked)
  · exact Bool.false_ne_true (stream.symm.trans streaming)
  · have zero : s.sxt.repair.phase ≠ 0 := Nat.one_le_iff_ne_zero.1 started
    exact zero phase

/-- A base tussock back from a requested test. -/
def Base.tested (x : Base) : Base := { x.clear with testing := false, gated := false, idleGate := false }

/-- ADMITs of returning cores waited for. -/
def State.awaitReturns (s : State) (k : Nat) : State := { s with bist := { s.bist with left := s.bist.left + k } }

/-- The cores of a preserved slice with no failing site return with their stores, and ADMIT is sent for those of a meadow. -/
def State.sliceBack (s : State) (b : Nat) : State :=
  let t := (s.returnCores (s.sliceCores b) fun _ => true).updBase b Base.tested
  let l := (s.sliceCores b).filter fun n => (t.meadowOf n).isSome
  (t.awaitReturns l.length).issueAdmits l (.bist b)

theorem requestTested_whole {b : Nat} (whole : ∀ n ∈ s.sliceCores b, s.onFailed n = false) :
    s.requestTested b true true = (s.sliceBack b).bistHook := by
  refine (if_neg ?_).trans rfl
  rw [List.any_eq_true]
  rintro ⟨n, mem, failed⟩
  rw [Bool.and_eq_true] at failed
  exact Bool.false_ne_true ((whole n mem).symm.trans failed.1)

theorem requestTested_failing {b n : Nat} (mem : n ∈ s.sliceCores b) (failed : s.onFailed n = true)
    (owned : (s.meadowOf n).isSome = true) :
    s.requestTested b true true = ((s.askRepair ⟨b, .test, [], false⟩).kickRepair Code.coreSram).bistHook := by
  refine if_pos ?_
  rw [List.any_eq_true]
  exact ⟨n, mem, (Bool.and_eq_true ..).mpr ⟨failed, owned⟩⟩

theorem bistHook_eq (s : State) : s.bistHook = { s with bist := { s.bist with busy := s.bist.busy && s.bistGoing } } := by
  unfold State.bistHook
  cases busy : s.bist.busy <;> cases s.bistGoing <;> simp [← busy]

/-- What the return of a slice leaves: its base tussock, its tests, and its cores with their saved stores. -/
theorem sliceBack_spec {b : Nat} (wait : s.sxt.stemWait = []) :
    (s.sliceBack b).pkg = s.pkg ∧ (s.sliceBack b).bist.tests = s.bist.tests ∧ (s.sliceBack b).bist.prpg = s.bist.prpg
      ∧ (s.sliceBack b).base b = ((s.returnCores (s.sliceCores b) fun _ => true).base b).tested
      ∧ ∀ n, (s.sliceBack b).core n = (s.returnCores (s.sliceCores b) fun _ => true).core n := by
  have back := returnCores_coresOnly s (s.sliceCores b) fun _ => true
  unfold State.sliceBack
  dsimp only
  generalize (s.returnCores (s.sliceCores b) fun _ => true) = u at back
  generalize (s.sliceCores b).filter _ = l
  have sent := issueAdmits_admitsOnly ((u.updBase b Base.tested).awaitReturns l.length) l (.bist b) (back.stemWait.trans wait)
  refine ⟨sent.pkg.trans back.pkg, ?_, ?_, ?_, core_of_cores sent.cores⟩
  · exact (congrArg Bist.tests sent.bist).trans (Eq.trans (b := u.bist.tests) rfl (congrArg Bist.tests back.bist))
  · exact (congrArg Bist.prpg sent.bist).trans (Eq.trans (b := u.bist.prpg) rfl (congrArg Bist.prpg back.bist))
  · exact (sent.base b).trans (State.updBase_base_same u b Base.tested)

/-- A test's end whose only partition passes, or is none of the slice's, leaves everything but self-test as it was. -/
theorem partDone_passed {b : Nat} (slice : j.slice = b) (sound : (s.partResult j b r).sound) :
    ∃ parts, (s.testOver j tests).partDone j r = { s with bist := { (s.testOver j tests).bist with parts := parts } } := by
  rw [partDone_sound (s := s.testOver j tests) slice sound]
  cases partExists b r.part
  · exact ⟨s.bist.parts, rfl⟩
  · exact ⟨_, rfl⟩

/-- At the host's request, a slice that passes: its cores return with their saved stores and await ADMIT. -/
theorem bistComplete_returned {b : Fin 263} (front : s.bist.tests = j :: tests) (slice : j.slice = b.val)
    (begun : j.begun = true) (why : j.why = .request true) (still : tests = [] ∨ tests.any (·.begun) = true)
    (wait : s.sxt.stemWait = []) (sound : (s.partResult j b r).sound) (whole : ∀ n ∈ s.sliceCores b, s.onFailed n = false) :
    ∃ t, exec (.bistComplete b [r] true) s = .next t ∧ t.bist.tests = tests
      ∧ (t.base b).testing = false ∧ (t.base b).gated = false
      ∧ (j.logic = true → Sparse.get 0 t.bist.prpg b = Config.prpgEnd)
      ∧ ∀ n ∈ s.sliceCores b, ∀ v, Sparse.get none s.sxt.saved n = some v →
        (t.core n).near = v.near ∧ (t.core n).deep = v.deep
        ∧ (t.core n).gen = (s.core n).gen + 1 ∧ (t.core n).awaitAdmit = true := by
  obtain ⟨parts, passed⟩ := partDone_passed (tests := tests) slice sound
  let u : State := { s with bist := { (s.testOver j tests).bist with parts := parts } }
  obtain ⟨pkg, left, prpg, base, core⟩ := sliceBack_spec (s := u) (b := b) wait
  have ended : (((s.testOver j tests).partDone j r).sliceTested j true).bistRound = (u.sliceBack b).bistHook := by
    unfold State.sliceTested
    rw [passed, why]
    dsimp only
    rw [slice, requestTested_whole (s := u) whole, bistHook_eq]
    exact bistRound_same (left ▸ still)
  refine ⟨_, bistComplete_ends front slice begun ended ?_, ?_⟩
  all_goals rw [bistHook_eq]
  · exact pkg
  · refine ⟨left, congrArg Base.testing base, congrArg Base.gated base, fun logic => ?_, fun n mem v save => ?_⟩
    · refine (congrArg (Sparse.get 0 · b.val) prpg).trans ?_
      show Sparse.get 0 (if j.logic then Sparse.put 0 s.bist.prpg j.slice Config.prpgEnd else s.bist.prpg) b = _
      rw [logic, if_pos rfl, slice, Sparse.get_put_same]
    · have back : (u.sliceBack b).core n = ((s.core n).empty s.tick).restored v :=
        (core n).trans (returnCores_core_kept (nodup_sliceCores u b) mem u save)
      exact ⟨congrArg Core.near back, congrArg Core.deep back, congrArg Core.gen back, congrArg Core.awaitAdmit back⟩

/-- At the host's request, a slice with a core of a meadow on a site that fails: a repair of its base tussock begins. -/
theorem bistComplete_repairs {b : Fin 263} {n : Nat} (front : s.bist.tests = j :: tests) (slice : j.slice = b.val)
    (begun : j.begun = true) (why : j.why = .request true) (base : b.val < 256)
    (still : tests = [] ∨ tests.any (·.begun) = true) (mem : n ∈ s.sliceCores b) (unsound : ¬ (s.partResult j b r).sound)
    (at_ : partSite b r.part = some (s.siteOf n)) (owned : (s.meadowOf n).isSome = true) (queue : s.sxt.repairQueue = [])
    (phase : s.sxt.repair.phase = 0) (stream : s.hostStream = false) (lockstep : s.sxt.lockstep = false) :
    ∃ t, exec (.bistComplete b [r] true) s = .next t ∧ t.bist.tests = tests ∧ t.sxt.repair.phase = 3 ∧ t.sxt.repair.base = b
      ∧ t.sxt.repair.why = .test ∧ t.sxt.saved = s.sxt.saved ∧ t.cores = s.cores := by
  let u := ((s.testOver j tests).recordPart b r.part (s.partResult j b r)).failSite (s.siteOf n)
  have recorded : (s.testOver j tests).partDone j r = u :=
    partDone_failSite (s := s.testOver j tests) slice base at_ unsound
  have ended : (((s.testOver j tests).partDone j r).sliceTested j true).bistRound =
      (u.updSxt fun x => { x with repairQueue := [], repair := ⟨3, b, 0, 0, .test, [], false⟩ }).bistHook := by
    unfold State.sliceTested
    rw [recorded, why]
    dsimp only
    rw [slice, requestTested_failing (s := u) mem (failSite_failed ..) owned,
      askRepair_kickRepair_test (s := u) _ phase queue stream lockstep, bistHook_eq]
    exact bistRound_same still
  refine ⟨_, bistComplete_ends front slice begun ended ?_, ?_⟩
  all_goals rw [bistHook_eq]
  · rfl
  · exact ⟨rfl, rfl, rfl, rfl, rfl, rfl⟩

end Sys2Proof.Machine

/-!
Repairs that go on in Sexton's idle cycles, and the end of step 6 (R305, R474, R493).
-/

namespace Sys2Proof.Machine

open Sys2Proof

variable {s t u : State}

/-! What a cycle of the cores leaves. -/

/-- `t` is `s` but for the clock, the queue, the cores, the count of free values and the time since power good. -/
structure State.Cycled (s t : State) : Prop where
  eq : ∃ pending held free tick cores bootTime, t = { s with
    pending := pending, held := held, free := free, tick := tick, cores := cores, sxt := { s.sxt with bootTime := bootTime } }

namespace State.Cycled

theorem refl (s : State) : s.Cycled s := ⟨s.pending, s.held, s.free, s.tick, s.cores, s.sxt.bootTime, rfl⟩

theorem trans (a : s.Cycled t) (b : t.Cycled u) : s.Cycled u := by
  obtain ⟨_, _, _, _, _, _, rfl⟩ := a.eq
  obtain ⟨_, _, _, _, _, _, rfl⟩ := b.eq
  exact ⟨_, _, _, _, _, _, rfl⟩

theorem foldl {β : Type} {f : State → β → State} (h : ∀ (u : State) x, u.Cycled (f u x)) (l : List β) (s : State) :
    s.Cycled (l.foldl f s) := by
  induction l generalizing s with
  | nil => exact refl s
  | cons x r ih => exact (h s x).trans (ih _)

theorem updCore (s : State) (n : Nat) (f : Core → Core) : s.Cycled (s.updCore n f) :=
  ⟨s.pending, s.held, s.free, s.tick, _, s.sxt.bootTime, rfl⟩

theorem freeBytes (s : State) (k : Nat) : s.Cycled (s.freeBytes k).2 :=
  ⟨s.pending, s.held, _, s.tick, s.cores, s.sxt.bootTime, rfl⟩

theorem coreCycle (s : State) (n : Nat) : s.Cycled (s.coreCycle n) := by
  unfold State.coreCycle
  dsimp only
  split
  · exact refl s
  · split
    · exact updCore ..
    · refine (updCore s n _).trans (foldl (fun u p => ?_) _ _)
      split
      · exact updCore ..
      · split
        · exact (freeBytes u 1).trans (updCore ..)
        · exact refl u

theorem sextonCycle (s : State) : s.Cycled (s.updSxt Sexton.cycle) := by
  have cycle (x : Sexton) : ∃ bootTime, x.cycle = { x with bootTime := bootTime } := by
    unfold Sexton.cycle
    split
    · exact ⟨_, rfl⟩
    · exact ⟨x.bootTime, rfl⟩
  obtain ⟨bootTime, counted⟩ := cycle s.sxt
  refine ⟨s.pending, s.held, s.free, s.tick, s.cores, bootTime, ?_⟩
  unfold State.updSxt
  rw [counted]

end State.Cycled

namespace State.Cycled

theorem pkg (h : s.Cycled t) : t.pkg = s.pkg := by obtain ⟨_, _, _, _, _, _, rfl⟩ := h.eq; rfl
theorem bist (h : s.Cycled t) : t.bist = s.bist := by obtain ⟨_, _, _, _, _, _, rfl⟩ := h.eq; rfl
theorem life (h : s.Cycled t) : t.life = s.life := by obtain ⟨_, _, _, _, _, _, rfl⟩ := h.eq; rfl
theorem delayed (h : s.Cycled t) : t.sxt.delayed = s.sxt.delayed := by obtain ⟨_, _, _, _, _, _, rfl⟩ := h.eq; rfl
theorem lockstep (h : s.Cycled t) : t.sxt.lockstep = s.sxt.lockstep := by obtain ⟨_, _, _, _, _, _, rfl⟩ := h.eq; rfl
theorem repair (h : s.Cycled t) : t.sxt.repair = s.sxt.repair := by obtain ⟨_, _, _, _, _, _, rfl⟩ := h.eq; rfl
theorem stemWait (h : s.Cycled t) : t.sxt.stemWait = s.sxt.stemWait := by obtain ⟨_, _, _, _, _, _, rfl⟩ := h.eq; rfl
theorem saved (h : s.Cycled t) : t.sxt.saved = s.sxt.saved := by obtain ⟨_, _, _, _, _, _, rfl⟩ := h.eq; rfl
theorem hostStream (h : s.Cycled t) : t.hostStream = s.hostStream := by obtain ⟨_, _, _, _, _, _, rfl⟩ := h.eq; rfl
theorem sliceCores (h : s.Cycled t) (b : Nat) : t.sliceCores b = s.sliceCores b := by
  obtain ⟨_, _, _, _, _, _, rfl⟩ := h.eq; rfl
theorem onFailed (h : s.Cycled t) (n : Nat) : t.onFailed n = s.onFailed n := by
  obtain ⟨_, _, _, _, _, _, rfl⟩ := h.eq; rfl
theorem meadowOfBase (h : s.Cycled t) (b : Nat) : t.meadowOfBase b = s.meadowOfBase b := by
  obtain ⟨_, _, _, _, _, _, rfl⟩ := h.eq; rfl
theorem meadowOf (h : s.Cycled t) (n : Nat) : t.meadowOf n = s.meadowOf n := h.meadowOfBase _

end State.Cycled

/-- A step on an empty queue, where no reset waits: time passes, then the repair goes on, which neither asks memory nor retires the
part. -/
theorem step_repair (empty : s.pending = []) (due : s.sxt.delayed = []) (life : s.life ≠ .retired) :
    ∃ u, s.Cycled u ∧ (u.repairNext.pkg = u.pkg → u.repairNext.life = u.life → step s = .next u.repairNext) := by
  let a : State := { s with tick := s.tick + 1, pending := s.held, held := [] }
  let u := ((a.cores.map (·.1)).foldl State.coreCycle a).updSxt Sexton.cycle
  have begun : s.Cycled a := ⟨s.held, [], s.free, s.tick + 1, s.cores, s.sxt.bootTime, rfl⟩
  have cycled : s.Cycled u := (begun.trans (.foldl .coreCycle _ a)).trans (.sextonCycle _)
  have reset : State.runDelayed u.sxt.delayed u = u := by rw [cycled.delayed, due]; rfl
  refine ⟨u, cycled, fun pkg same => ?_⟩
  have swept : u.repairNext.retireSweep = u.repairNext := if_pos (by rw [same, cycled.life]; exact life)
  have next : s.idle = (u.orSkip u.repairNext).orSkip (u.orSkip u.repairNext).retireSweep := by
    show (let t := State.runDelayed u.sxt.delayed u; let t := t.orSkip t.repairNext; t.orSkip t.retireSweep) = _
    rw [reset]
  rw [step_idle empty, next, orSkip_same (State.still_of_pkg pkg), swept, orSkip_same (State.still_of_pkg rfl)]

/-! Phase 3 ends (R493). -/

/-- Routers whose links have failed count as failed sites: the heath alone changes. -/
theorem failSites_eq (l : List Nat) (s : State) :
    l.foldl State.failSite s = { s with heath := (l.foldl State.failSite s).heath } := by
  induction l generalizing s with
  | nil => rfl
  | cons a r ih => exact ih (s.failSite a)

/-- With no test of a repair and no stream or guard request of the host left, a cycle begins phase 4. -/
theorem step_repairPhase4 (empty : s.pending = []) (lockstep : s.sxt.lockstep = false) (due : s.sxt.delayed = [])
    (life : s.life ≠ .retired) (phase : s.sxt.repair.phase = 3) (stream : s.hostStream = false)
    (tests : ∀ k ∈ s.bist.tests, k.why ≠ .repair) :
    ∃ t, step s = .next t ∧ t.sxt.repair = { s.sxt.repair with phase := 4 } := by
  obtain ⟨u, cycled, next⟩ := step_repair empty due life
  have goes : u.repairNext = (u.sxt.repair.routers.foldl State.failSite u).updSxt fun x =>
      { x with repair := { x.repair with phase := 4 } } := by
    unfold State.repairNext
    rw [if_neg (by rw [cycled.lockstep, lockstep]; decide), if_neg (by rw [cycled.repair, phase]; decide), if_pos]
    refine ⟨cycled.repair ▸ phase, by rw [cycled.hostStream, stream]; rfl, ?_⟩
    rw [cycled.bist, List.all_eq_true]
    exact fun k mem => bne_iff_ne.2 (tests k mem)
  rw [goes, failSites_eq] at next
  refine ⟨_, next rfl rfl, ?_⟩
  rw [← cycled.repair]
  rfl

/-! Phase 4 with no site that fails (R493). -/

theorem mend_nil (s : State) (routers : List Nat) : s.mend [] routers = (none, s) := rfl

theorem rowsHit_whole {l : List Nat} (whole : ∀ n ∈ l, s.onFailed n = false) : s.rowsHit l = [] := by
  unfold State.rowsHit
  rw [List.filter_eq_nil_iff]
  intro row _ hit
  obtain ⟨n, mem, failed⟩ := List.any_eq_true.1 hit
  rw [Bool.and_eq_true] at failed
  exact Bool.false_ne_true ((whole n mem).symm.trans failed.2)

theorem meadowsHit_whole {l : List Nat} (whole : ∀ n ∈ l, s.onFailed n = false) : s.meadowsHit l = [] := by
  unfold State.meadowsHit
  rw [List.filter_eq_nil_iff.2 fun n mem failed => Bool.false_ne_true ((whole n mem).symm.trans failed)]
  rfl

/-- The cores of a repair's base tussock that ADMIT is sent for, where none moves. -/
def State.repairAdmits (s : State) (b : Nat) : List Nat :=
  ((upFrom 0 4096).filter (s.sliceCores b).contains).filter fun n => (s.meadowOf n).isSome

theorem repairBuild_whole {b : Nat} (base : s.sxt.repair.base = b) (trunk : s.sxt.repair.trunk = false)
    (whole : ∀ n ∈ s.sliceCores b, s.onFailed n = false)
    (saves : ∀ n ∈ s.sliceCores b, (Sparse.get none s.sxt.saved n).isSome = true) (sends : s.repairAdmits b ≠ []) :
    ∃ v, s.CoresOnly v ∧ s.repairBuild = (v.updSxt fun x =>
      { x with repair := { x.repair with phase := 6, left := (s.repairAdmits b).length } }).issueAdmits
        (s.repairAdmits b) .repair := by
  subst base
  have lost : (if (s.sliceCores s.sxt.repair.base).all fun n => (Sparse.get none s.sxt.saved n).isNone
      then s.sliceCores s.sxt.repair.base else []) = [] := by
    split
    next all =>
      refine List.eq_nil_iff_forall_not_mem.2 fun n mem => ?_
      have absent := List.all_eq_true.1 all n mem
      have present := saves n mem
      rw [Option.isNone_iff_eq_none] at absent
      rw [absent] at present
      exact Bool.false_ne_true present
    next => rfl
  have mended (f : Base → Base) (routers : List Nat) : (s.updBase s.sxt.repair.base f).mend
      ((s.updBase s.sxt.repair.base f).rowsHit (s.sliceCores s.sxt.repair.base)) routers =
        (none, s.updBase s.sxt.repair.base f) := by
    rw [rowsHit_whole (s := s.updBase s.sxt.repair.base f) whole]
    exact mend_nil ..
  unfold State.repairBuild
  dsimp only
  simp only [mended, lost, trunk, State.updBase_siteOf, beq_self_eq_true, Bool.not_true, Bool.or_false, List.filter_nil,
    Bool.false_and, Bool.not_false, Bool.and_true, Bool.false_eq_true, if_false, false_or, List.filter_true]
  rw [State.countLosses, List.foldl_nil]
  generalize returned : State.dropSaves _ _ = v
  have back : s.CoresOnly v :=
    returned ▸ ((State.CoresOnly.updBase ..).trans (returnCores_coresOnly ..)).trans (.dropSaves ..)
  have unhit : v.meadowsHit (s.sliceCores s.sxt.repair.base) = [] :=
    meadowsHit_whole fun n mem => (back.onFailed n).trans (whole n mem)
  simp only [unhit, List.foldl_nil]
  generalize sent : List.filter _ (List.filter _ (upFrom 0 4096)) = admits
  have same : admits = s.repairAdmits s.sxt.repair.base := by
    subst sent
    refine List.filter_congr fun n _ => ?_
    rw [back.meadowOf]
    cases s.meadowOf n <;> rfl
  rw [if_neg (by cases v.meadowOfBase s.sxt.repair.base <;> exact Bool.false_ne_true),
    if_neg (by rw [same, List.isEmpty_iff]; exact sends), same]
  exact ⟨v, back, rfl⟩

/-! The cores of a slice lie on the part (R14 to R19, R496). -/

theorem mem_coresOfBase {b n : Nat} :
    n ∈ coresOfBase b ↔ ∃ r < 4, ∃ c < 4, n = 64 * (4 * (b / 16) + r) + (4 * (b % 16) + c) := by
  simp only [coresOfBase, coreAt, List.mem_flatMap, List.mem_map, List.mem_range, eq_comm]

theorem baseOf_of_mem {b n : Nat} (mem : n ∈ coresOfBase b) : baseOf n = b := by
  obtain ⟨r, hr, c, hc, rfl⟩ := mem_coresOfBase.1 mem
  unfold baseOf
  omega

theorem mem_sliceCores {b n : Nat} :
    n ∈ s.sliceCores b ↔ n ∈ coresOfBase b ∨ ∃ site ∈ sliceSites b, s.coreAtSite site = some n := by
  unfold State.sliceCores
  rw [List.mem_eraseDups, List.mem_append, List.mem_filterMap]

theorem partSite_row {b p site : Nat} (base : b < 256) (at_ : partSite b p = some site) : site / 66 < 64 := by
  unfold partSite at at_
  dsimp only at at_
  split at at_
  · rw [Option.some_inj] at at_
    split at at_ <;> omega
  · split at at_
    · split at at_
      · rw [Option.some_inj] at at_; omega
      · split at at_
        · rw [Option.some_inj] at at_; omega
        · cases at_
    · cases at_

theorem lt_of_mem_sliceCores {b n : Nat} (base : b < 256) (mem : n ∈ s.sliceCores b) : n < 4096 := by
  rcases mem_sliceCores.1 mem with own | ⟨site, on, at_⟩
  · obtain ⟨r, hr, c, hc, rfl⟩ := mem_coresOfBase.1 own
    omega
  · obtain ⟨p, -, part⟩ := List.mem_filterMap.1 on
    have row := partSite_row base part
    have row_core := (mem_upFrom ..).1 (List.mem_of_find?_eq_some at_)
    omega

theorem nodup_upFrom (a n : Nat) : (upFrom a n).Nodup := by
  induction n generalizing a with
  | zero => exact List.nodup_nil
  | succ n ih =>
    refine List.nodup_cons.2 ⟨fun mem => ?_, ih (a + 1)⟩
    have := (mem_upFrom ..).1 mem
    omega

/-- ADMIT is sent once for each core of the slice that a meadow owns. -/
theorem length_repairAdmits {b : Nat} (base : b < 256) :
    (s.repairAdmits b).length = ((s.sliceCores b).filter fun n => (s.meadowOf n).isSome).length := by
  refine List.Perm.length_eq ((List.perm_ext_iff_of_nodup ?_ ?_).2 fun n => ?_)
  · exact ((nodup_upFrom ..).filter _).filter _
  · exact (nodup_sliceCores s b).filter _
  · unfold State.repairAdmits
    rw [List.mem_filter, List.mem_filter, List.mem_filter, List.contains_iff_mem, mem_upFrom]
    refine and_congr_left fun _ => ⟨And.right, fun mem => ⟨⟨Nat.zero_le n, ?_⟩, mem⟩⟩
    exact (Nat.zero_add 4096).symm ▸ lt_of_mem_sliceCores base mem

/-- The slice of a base tussock of a meadow has cores of the meadow. -/
theorem repairAdmits_ne_nil {b m : Nat} (base : b < 256) (owned : s.meadowOfBase b = some m) : s.repairAdmits b ≠ [] := by
  have own : 64 * (4 * (b / 16) + 0) + (4 * (b % 16) + 0) ∈ coresOfBase b :=
    mem_coresOfBase.2 ⟨0, by decide, 0, by decide, rfl⟩
  have mem := mem_sliceCores (s := s).2 (.inl own)
  refine List.ne_nil_of_mem (List.mem_filter.2 ⟨List.mem_filter.2 ⟨?_, List.contains_iff_mem.2 mem⟩, ?_⟩)
  · exact (mem_upFrom ..).2 ⟨Nat.zero_le _, (Nat.zero_add 4096).symm ▸ lt_of_mem_sliceCores base mem⟩
  · show (s.meadowOfBase (baseOf _)).isSome = true
    rw [baseOf_of_mem own, owned]
    rfl

/-- In phase 4, for a sound base tussock of a meadow whose stores were saved, a cycle sends ADMIT for each of its cores. -/
theorem step_repairPhase6 {b m : Nat} (empty : s.pending = []) (lockstep : s.sxt.lockstep = false) (due : s.sxt.delayed = [])
    (life : s.life ≠ .retired) (phase : s.sxt.repair.phase = 4) (tussock : s.sxt.repair.base = b)
    (trunk : s.sxt.repair.trunk = false) (base : b < 256) (whole : ∀ n ∈ s.sliceCores b, s.onFailed n = false)
    (wait : s.sxt.stemWait = []) (owned : s.meadowOfBase b = some m)
    (saves : ∀ n ∈ s.sliceCores b, (Sparse.get none s.sxt.saved n).isSome = true) :
    ∃ t, step s = .next t ∧ t.sxt.repair.phase = 6
      ∧ t.sxt.repair.left = ((s.sliceCores b).filter fun n => (s.meadowOf n).isSome).length := by
  obtain ⟨u, cycled, next⟩ := step_repair empty due life
  have slice := cycled.sliceCores b
  obtain ⟨v, back, built⟩ := repairBuild_whole (s := u) (b := b) (cycled.repair ▸ tussock) (cycled.repair ▸ trunk)
    (fun n mem => (cycled.onFailed n).trans (whole n (slice ▸ mem)))
    (fun n mem => by rw [cycled.saved]; exact saves n (slice ▸ mem))
    (repairAdmits_ne_nil base ((cycled.meadowOfBase b).trans owned))
  have goes : u.repairNext = u.repairBuild := by
    unfold State.repairNext
    rw [if_neg (by rw [cycled.lockstep, lockstep]; decide), if_pos (cycled.repair ▸ phase)]
  have sent := issueAdmits_admitsOnly (v.updSxt fun x =>
    { x with repair := { x.repair with phase := 6, left := (u.repairAdmits b).length } }) (u.repairAdmits b) .repair
    ((back.stemWait.trans cycled.stemWait).trans wait)
  rw [goes, built] at next
  refine ⟨_, next (sent.pkg.trans back.pkg) (sent.life.trans back.life), congrArg Repair.phase sent.repair, ?_⟩
  refine (congrArg Repair.left sent.repair).trans ((length_repairAdmits base).trans ?_)
  rw [slice]
  exact congrArg List.length (List.filter_congr fun n _ => congrArg Option.isSome (cycled.meadowOf n))

/-! Step 6 ends (R305, R474). -/

/-- The stack that training leaves. -/
def Stack.trained (r : StackReport) (x : Stack) : Stack :=
  { x with st := if x.st = .failed ∨ !r.good then .failed else .inService, training := [], spares := r.spares }

/-- Stacks updated in order, each once. -/
theorem updStacks_stack (f : Nat → Stack → Stack) (a n k : Nat) (s : State) :
    ((upFrom a n).foldl (fun t k => t.updStack k (f k)) s).stack k =
      if a ≤ k ∧ k < a + n then f k (s.stack k) else s.stack k := by
  induction n generalizing a s with
  | zero => rw [if_neg (by omega)]; rfl
  | succ n ih =>
    refine (ih (a + 1) (s.updStack a (f a))).trans ?_
    by_cases same : a = k
    · subst same
      rw [if_neg (by omega), if_pos (by omega), State.updStack_stack_same]
    · rw [State.updStack_stack_ne _ _ same]
      exact if_congr (by omega) rfl rfl

theorem updStacks_eq (f : Nat → Stack → Stack) (l : List Nat) (s : State) :
    l.foldl (fun t k => t.updStack k (f k)) s = { s with pkg := (l.foldl (fun t k => t.updStack k (f k)) s).pkg } := by
  induction l generalizing s with
  | nil => rfl
  | cons a r ih => exact ih (s.updStack a (f a))

/-- The stacks of a part trained, each as its report says. -/
def State.stacksTrained (s : State) (l : List StackReport) : State :=
  ((upFrom 0 s.part.stacks).foldl (fun t k => t.updStack k (Stack.trained (l.getD k ⟨0, true⟩))) s).updSxt fun x =>
    { x with stacksDone := true }

theorem stackTrainingDone_ends {l : List StackReport} (step : s.sxt.bootStep = 6) (once : s.sxt.stacksDone = false)
    (all : l.length = s.part.stacks) : exec (.stackTrainingDone l) s = .next (s.stacksTrained l).toStep8 := by
  refine congrArg Host.Outcome.next (if_neg ?_)
  rintro (other | done | short)
  · exact other step
  · exact Bool.false_ne_true (once.symm.trans done)
  · exact short all

theorem stackTrainingDone_otherStep {l : List StackReport} (other : s.sxt.bootStep ≠ 6) :
    exec (.stackTrainingDone l) s = .next s := congrArg Host.Outcome.next (if_pos (.inl other))


/-- The start-up tests of step 8, one for each slice. -/
def startupJobs : List BistJob := (upFrom 0 263).map fun k => ⟨k, .startup, true, true, true, false⟩

/-- Step 8 begun: the heath and self-test change, and the step of start-up. -/
theorem toStep8_begins (step : s.sxt.bootStep = 6) (done : s.sxt.stacksDone = true)
    (ports : (s.swarm.any fun e => e.2.st == .training || e.2.st == .retraining) = false)
    (lanes : (s.trn.lanes.any (·.2 == 1)) = false) :
    ∃ heath, s.toStep8 = { s with
      sxt := { s.sxt with bootStep := 8 }, heath := heath,
      bist := Bist.round { s.bist with tests := s.bist.tests ++ startupJobs } } := by
  have go : ¬ (s.sxt.bootStep ≠ 6 ∨ (!s.sxt.stacksDone) = true
      ∨ (s.swarm.any fun e => e.2.st == .training || e.2.st == .retraining) = true ∨ (s.trn.lanes.any (·.2 == 1)) = true) := by
    rw [step, done, ports, lanes]; decide
  cases warm : s.sxt.warm
  · refine ⟨s.heath, (if_neg go).trans ?_⟩
    dsimp only
    rw [if_neg (by rw [warm]; exact Bool.false_ne_true)]
    rfl
  · refine ⟨{ s.heath with isolated := (upFrom 0 4224).map fun k => (k, true) }, (if_neg go).trans ?_⟩
    dsimp only
    rw [if_pos (by rw [warm])]
    rfl

/-- The stacks stay as trained, and the step of start-up is 6 while a port or a lane trains. -/
theorem toStep8_kept (s : State) :
    s.toStep8.pkg = s.pkg ∧ s.toStep8.sxt.stacksDone = s.sxt.stacksDone
      ∧ ((s.trn.lanes.any (·.2 == 1)) = true → s.toStep8 = s) := by
  by_cases wait : s.sxt.bootStep ≠ 6 ∨ (!s.sxt.stacksDone) = true
      ∨ (s.swarm.any fun e => e.2.st == .training || e.2.st == .retraining) = true ∨ (s.trn.lanes.any (·.2 == 1)) = true
  · have stays : s.toStep8 = s := if_pos wait
    exact ⟨by rw [stays], by rw [stays], fun _ => stays⟩
  · simp only [not_or, not_not, Bool.not_eq_true, Bool.not_eq_false'] at wait
    obtain ⟨step, done, ports, lanes⟩ := wait
    obtain ⟨heath, begun⟩ := toStep8_begins step done ports lanes
    exact ⟨by rw [begun], by rw [begun], fun training => absurd (lanes.symm.trans training) Bool.false_ne_true⟩

/-- STACK_TRAINING_DONE in step 6. -/
theorem stackTrainingDone_step6 {l : List StackReport} (step : s.sxt.bootStep = 6) (once : s.sxt.stacksDone = false)
    (all : l.length = s.part.stacks) : ∃ t, exec (.stackTrainingDone l) s = .next t
      ∧ t.sxt.stacksDone = true
      ∧ (∀ k, k < s.part.stacks → t.stack k = (s.stack k).trained (l.getD k ⟨0, true⟩))
      ∧ ((s.swarm.any fun e => e.2.st == .training || e.2.st == .retraining) = false → (s.trn.lanes.any (·.2 == 1)) = false →
        t.sxt.bootStep = 8 ∧ t.bist.tests = (Bist.round { s.bist with tests := s.bist.tests ++ startupJobs }).tests)
      ∧ ((s.trn.lanes.any (·.2 == 1)) = true → t.sxt.bootStep = 6) := by
  obtain ⟨pkg, kept⟩ : ∃ pkg, s.stacksTrained l = { s with pkg := pkg, sxt := { s.sxt with stacksDone := true } } := by
    unfold State.stacksTrained
    rw [updStacks_eq fun k => Stack.trained (l.getD k ⟨0, true⟩)]
    exact ⟨_, rfl⟩
  have each (k : Nat) (on : k < s.part.stacks) : (s.stacksTrained l).stack k = (s.stack k).trained (l.getD k ⟨0, true⟩) :=
    (updStacks_stack (fun k => Stack.trained (l.getD k ⟨0, true⟩)) 0 s.part.stacks k s).trans (if_pos ⟨k.zero_le, by omega⟩)
  obtain ⟨keeps, done, training⟩ := toStep8_kept (s.stacksTrained l)
  refine ⟨_, stackTrainingDone_ends step once all, done.trans (by rw [kept]), fun k on => ?_, fun ports lanes => ?_,
    fun lanes => ?_⟩
  · refine Eq.trans ?_ (each k on)
    unfold State.stack
    rw [keeps]
  · rw [kept]
    obtain ⟨heath, begun⟩ :=
      toStep8_begins (s := { s with pkg := pkg, sxt := { s.sxt with stacksDone := true } }) step rfl ports lanes
    rw [begun]
    exact ⟨rfl, rfl⟩
  · rw [training (by rw [kept]; exact lanes), kept]
    exact step

end Sys2Proof.Machine

/-!
Self-test and stack training together (O43).
-/

namespace Sys2Proof.Machine

open Sys2Proof

/-- Settles O43: a clause each for the end of a slice's test at a cold start, at the host's request and in a repair, for the idle
cycles in which a repair goes on (log entry 35), and for the end of stack training. When the next round of sixteen begins is log
entry 70. -/
theorem selfTestsAndStackTrainingEnd : Obligations.SelfTestsAndStackTrainingEnd := by
  unfold Obligations.SelfTestsAndStackTrainingEnd
  intro b r saved j tests l s entry old result sound run whole round ends
  refine ⟨bistComplete_untested b [r] saved, ?_, ?_, ?_, ?_, ?_, ?_, stackTrainingDone_otherStep⟩
  · rintro ⟨front, slice, begun⟩ rfl why step hub cold passed there
    exact bistComplete_lastStartup saved front slice begun why step hub cold passed there
  · rintro site ⟨front, slice, begun⟩ why more cold failed base at_
    exact bistComplete_siteFails saved front slice begun why more cold failed base at_
  · rintro ⟨front, slice, begun⟩ why base still wait
    refine ⟨fun passed unhit => bistComplete_returned front slice begun why still wait passed unhit, ?_⟩
    intro n mem failed at_ owned queue phase stream lockstep
    exact bistComplete_repairs front slice begun why base still mem failed at_ owned queue phase stream lockstep
  · rintro ⟨front, slice, begun⟩ why - still passed
    exact bistComplete_repair front slice begun why still passed
  · intro empty lockstep due life
    refine ⟨step_repairPhase4 empty lockstep due life, ?_⟩
    intro m phase tussock trunk base unhit wait owned saves
    exact step_repairPhase6 empty lockstep due life phase tussock trunk base unhit wait owned saves
  · intro step once all
    obtain ⟨t, next, done, trained, step8, waits⟩ := stackTrainingDone_step6 step once all
    refine ⟨t, next, done, fun k on => (trained k on).trans ?_, fun ports lanes => ?_, waits⟩
    · simp [Stack.trained]
    · obtain ⟨begun, jobs⟩ := step8 ports lanes
      exact ⟨begun, jobs.trans (Bist.round_tests _)⟩

end Sys2Proof.Machine

/-!
The queue's front, and the one fault (R514; log entries 1, 55).
-/

namespace Sys2Proof.Machine

open Sys2Proof

/-- Settles O1: `step` takes the front of the queue. -/
theorem stepRunsFront : Obligations.StepRunsFront := fun _ _ => rfl

/-- A power sample is never refused, and faults only where a reading breaches R514. -/
theorem execPowerSample_outcome (l : List RailReading) (s : State) :
    (∃ t, execPowerSample l s = .next t) ∨
      execPowerSample l s = .fault .railBreach ∧ s.sxt.power = true ∧ l.length = 10 ∧ railsBreak l = true := by
  unfold execPowerSample
  split
  · exact .inl ⟨s, rfl⟩
  · next on =>
    obtain ⟨power, ten⟩ : s.sxt.power = true ∧ l.length = 10 := by simpa using on
    split
    · next breach => exact .inr ⟨rfl, power, ten, breach⟩
    · split
      · exact .inl ⟨s, rfl⟩
      · exact .inl ⟨_, rfl⟩

/-- A breach is one of the readings' own. -/
theorem exists_railBreaks {l : List RailReading} (ten : l.length = 10) (breach : railsBreak l = true) :
    ∃ i r, l[i]? = some r ∧ railBreaks i r = true := by
  obtain ⟨i, lt, breaks⟩ := (railsBreak_iff l).mp breach
  have read : l[i]? = some (railReading l i) := by
    simp [railReading, List.getElem?_eq_getElem (show i < l.length by omega)]
  exact ⟨i, _, read, breaks⟩

/-- Every command but a power sample goes on: its meaning answers a next state on each path. -/
theorem exec_next_or_sample (i : Instr) (s : State) : (∃ t, exec i s = .next t) ∨ ∃ l, i = .powerSample l := by
  cases i with
  | powerSample l => exact .inr ⟨l, rfl⟩
  | _ => exact .inl ⟨_, rfl⟩

/-- What a step can answer: a next state, or the fault of a power sample whose reading breaches R514. -/
theorem step_outcome (s : State) : (∃ t, step s = .next t) ∨ ∃ l q, step s = .fault .railBreach ∧ s.pending = .powerSample l :: q
    ∧ s.sxt.power = true ∧ l.length = 10 ∧ railsBreak l = true := by
  cases queue : s.pending with
  | nil => exact .inl ⟨_, step_idle queue⟩
  | cons i q =>
    rw [step_front queue]
    obtain next | ⟨l, rfl⟩ := exec_next_or_sample i { s with pending := q }
    · exact .inl next
    · obtain next | ⟨fault, power, ten, breach⟩ := execPowerSample_outcome l { s with pending := q }
      · exact .inl next
      · exact .inr ⟨l, q, fault, rfl, power, ten, breach⟩

/-- Settles O58: each step's outcome is one of the two of `step_outcome`. -/
theorem onlyARailBreachStopsTheBlock : Obligations.OnlyARailBreachStopsTheBlock := by
  unfold Obligations.OnlyARailBreachStopsTheBlock
  intro s
  obtain ⟨t, next⟩ | ⟨l, q, fault, queue, power, ten, breach⟩ := step_outcome s
  · exact ⟨fun r refused => by simp [next] at refused, fun e faults => by simp [next] at faults⟩
  · refine ⟨fun r refused => by simp [fault] at refused, fun e faults => ?_⟩
    cases fault.symm.trans faults
    exact ⟨rfl, l, q, queue, power, ten, exists_railBreaks ten breach⟩

end Sys2Proof.Machine

/-!
Stem commands: what their effects at the control blocks leave, when they are issued, and the frames of a mailbox (R342, R343, R449).
-/

namespace Sys2Proof.Machine

open Sys2Proof

variable {s t u : State}

/-! What an effect at the control blocks leaves (R342, R354, R361, R480). -/

/-- `t` is `s` but for cores, base tussocks, meadows, the heath's settings, the hub, vectors and the resets that wait. -/
structure State.ControlOnly (s t : State) : Prop where
  eq : ∃ cores bases meadows heath hub fns out delayed, t = { s with
    cores := cores, bases := bases, meadows := meadows, heath := heath, hub := hub, fns := fns, out := out,
    sxt := { s.sxt with delayed := delayed } }

namespace State.ControlOnly

theorem refl (s : State) : s.ControlOnly s := ⟨s.cores, s.bases, s.meadows, s.heath, s.hub, s.fns, s.out, s.sxt.delayed, rfl⟩

theorem trans (a : s.ControlOnly t) (b : t.ControlOnly u) : s.ControlOnly u := by
  obtain ⟨_, _, _, _, _, _, _, _, rfl⟩ := a.eq
  obtain ⟨_, _, _, _, _, _, _, _, rfl⟩ := b.eq
  exact ⟨_, _, _, _, _, _, _, _, rfl⟩

theorem foldl {β : Type} {f : State → β → State} (h : ∀ (u : State) x, u.ControlOnly (f u x)) (l : List β) (s : State) :
    s.ControlOnly (l.foldl f s) := by
  induction l generalizing s with
  | nil => exact refl s
  | cons x r ih => exact (h s x).trans (ih _)

theorem updCore (s : State) (n : Nat) (f : Core → Core) : s.ControlOnly (s.updCore n f) :=
  ⟨_, s.bases, s.meadows, s.heath, s.hub, s.fns, s.out, s.sxt.delayed, rfl⟩

theorem updCores (s : State) (l : List Nat) (f : Core → Core) : s.ControlOnly (s.updCores l f) :=
  foldl (fun u n => updCore u n f) l s

theorem updBase (s : State) (b : Nat) (f : Base → Base) : s.ControlOnly (s.updBase b f) :=
  ⟨s.cores, _, s.meadows, s.heath, s.hub, s.fns, s.out, s.sxt.delayed, rfl⟩

theorem updBases (s : State) (l : List Nat) (f : Base → Base) : s.ControlOnly (s.updBases l f) :=
  foldl (fun u b => updBase u b f) l s

theorem updMeadow (s : State) (m : Nat) (f : Meadow → Meadow) : s.ControlOnly (s.updMeadow m f) :=
  ⟨s.cores, s.bases, _, s.heath, s.hub, s.fns, s.out, s.sxt.delayed, rfl⟩

theorem updHub (s : State) (f : Hub → Hub) : s.ControlOnly (s.updHub f) :=
  ⟨s.cores, s.bases, s.meadows, s.heath, _, s.fns, s.out, s.sxt.delayed, rfl⟩

theorem setHeath (s : State) (x : Heath) : s.ControlOnly { s with heath := x } :=
  ⟨s.cores, s.bases, s.meadows, x, s.hub, s.fns, s.out, s.sxt.delayed, rfl⟩

theorem delay (s : State) (l : List Due) : s.ControlOnly (s.updSxt fun x => { x with delayed := x.delayed ++ l }) :=
  ⟨s.cores, s.bases, s.meadows, s.heath, s.hub, s.fns, s.out, _, rfl⟩

theorem raise (s : State) (p f v : Nat) : s.ControlOnly (s.raise p f v) := by
  unfold State.raise
  split
  · exact ⟨s.cores, s.bases, s.meadows, s.heath, s.hub, s.fns, _, s.sxt.delayed, rfl⟩
  · exact ⟨s.cores, s.bases, s.meadows, s.heath, s.hub, _, s.out, s.sxt.delayed, rfl⟩

theorem raiseM (s : State) (m v : Nat) : s.ControlOnly (s.raiseM m v) := raise ..

theorem failEpoch (s : State) (m : Nat) (code : Half) : s.ControlOnly (s.failEpoch m code) := by
  unfold State.failEpoch
  split
  · exact ((updCores s ..).trans (updMeadow ..)).trans (raiseM ..)
  · exact ((updCores s ..).trans (updMeadow ..)).trans (raiseM ..)
  · split
    · exact updMeadow ..
    · exact refl s
  · exact refl s

theorem stopMeadow (s : State) (m : Nat) : s.ControlOnly (s.stopMeadow m) := by
  have stop (f : Meadow → Meadow) : s.ControlOnly ((s.stopCores (s.meadowCores m)).updMeadow m f) :=
    (updCores s ..).trans (updMeadow ..)
  unfold State.stopMeadow
  split
  · exact (stop _).trans (raiseM ..)
  · exact (stop _).trans (raiseM ..)
  · exact (stop _).trans (raiseM ..)
  · exact stop _
  · exact stop _
  · exact refl s
  · exact refl s

theorem resetDomain (s : State) (d : Domain) (code : Half) : s.ControlOnly (s.resetDomain d code) := by
  have fails (ms l : List Nat) : s.ControlOnly ((ms.foldl (fun u m => u.failEpoch m code) s).resetCores l) :=
    (foldl (fun u m => failEpoch u m code) ms s).trans (updCores ..)
  have whole (ms l k : List Nat) (f : Core → Core) (g : Hub → Hub) : s.ControlOnly
      (((ms.foldl (fun u m => (u.updBases (s.meadowBases m) Base.clear).updMeadow m Meadow.forget)
        ((ms.foldl (fun u m => u.failEpoch m code) s).resetCores l)).updCores k f).updHub g) :=
    ((fails ms l).trans (foldl (fun u m => (updBases u _ _).trans (updMeadow ..)) ms _)).trans ((updCores ..).trans (updHub ..))
  unfold State.resetDomain
  cases d with
  | core n => exact (updCores s ..).trans (updBase ..)
  | tussock id => exact (fails ..).trans (updBases ..)
  | meadow m => exact (fails ..).trans ((updBases ..).trans (updMeadow ..))
  | heath => exact whole ..
  | warm => exact whole ..

theorem stemReset (s : State) (id : Nat) : s.ControlOnly (s.stemReset id).2 := by
  unfold State.stemReset
  dsimp only
  split
  · exact delay ..
  · exact resetDomain ..

theorem watchCommand (s : State) (l : List Nat) (arg : Nat) : s.ControlOnly (s.watchCommand l arg) := by
  have sets : s.ControlOnly (match bitsOf arg 3 0 with
    | 0 => s.updCores (l.flatMap coresOfBase) fun c => { c with progress := false }
    | 1 => s.updBases l fun b => { b with watchSuspended := true }
    | 2 => s.updBases l fun b => { b with watchSuspended := false }
    | _ => s) := by
    split
    · exact updCores ..
    · exact updBases ..
    · exact updBases ..
    · exact refl s
  unfold State.watchCommand
  dsimp only
  split
  · exact sets.trans (setHeath ..)
  · exact sets

theorem applyStem (s : State) (c : StemCmd) : s.ControlOnly (s.applyStem c).2 := by
  have stop : s.ControlOnly (match s.meadowOfTop c.target with
    | some m => s.stopMeadow m
    | none => s.stopCores ((s.coresOf c.target).getD [])) := by
    split
    · exact stopMeadow ..
    · exact updCores ..
  unfold State.applyStem
  dsimp only
  split
  · exact stop
  · split
    · exact (updCores ..).trans (setHeath ..)
    · exact stop.trans (setHeath ..)
  · exact stemReset ..
  · dsimp only
    split
    · exact refl s
    · exact updMeadow ..
  · exact watchCommand ..
  · exact refl s

theorem sxt (h : s.ControlOnly t) : ∃ delayed, t.sxt = { s.sxt with delayed := delayed } := by
  obtain ⟨_, _, _, _, _, _, _, _, rfl⟩ := h.eq; exact ⟨_, rfl⟩
theorem pkg (h : s.ControlOnly t) : t.pkg = s.pkg := by obtain ⟨_, _, _, _, _, _, _, _, rfl⟩ := h.eq; rfl
theorem held (h : s.ControlOnly t) : t.held = s.held := by obtain ⟨_, _, _, _, _, _, _, _, rfl⟩ := h.eq; rfl
theorem part (h : s.ControlOnly t) : t.part = s.part := by obtain ⟨_, _, _, _, _, _, _, _, rfl⟩ := h.eq; rfl
theorem tick (h : s.ControlOnly t) : t.tick = s.tick := by obtain ⟨_, _, _, _, _, _, _, _, rfl⟩ := h.eq; rfl
theorem bist (h : s.ControlOnly t) : t.bist = s.bist := by obtain ⟨_, _, _, _, _, _, _, _, rfl⟩ := h.eq; rfl
theorem trn (h : s.ControlOnly t) : t.trn = s.trn := by obtain ⟨_, _, _, _, _, _, _, _, rfl⟩ := h.eq; rfl
theorem port (h : s.ControlOnly t) (p : Nat) : t.port p = s.port p := by obtain ⟨_, _, _, _, _, _, _, _, rfl⟩ := h.eq; rfl
theorem stemWait (h : s.ControlOnly t) : t.sxt.stemWait = s.sxt.stemWait := by obtain ⟨_, e⟩ := h.sxt; rw [e]
theorem stemOut (h : s.ControlOnly t) : t.sxt.stemOut = s.sxt.stemOut := by obtain ⟨_, e⟩ := h.sxt; rw [e]
theorem lockstep (h : s.ControlOnly t) : t.sxt.lockstep = s.sxt.lockstep := by obtain ⟨_, e⟩ := h.sxt; rw [e]

end State.ControlOnly

/-! The issue of a stem command (R343). -/

/-- With nothing waiting, the stem network stays as it is. -/
theorem pumpStem_nothing (fuel : Nat) (wait : s.sxt.stemWait = []) : State.pumpStem fuel s = s := by
  cases fuel with
  | zero => rfl
  | succ n =>
    unfold State.pumpStem
    rw [wait]
    exact ite_id s

/-- `s` with a command applied at the control blocks and unacknowledged. -/
def State.issued (s : State) (c : StemCmd) : State :=
  (s.applyStem c).2.updSxt fun x => { x with stemOut := x.stemOut ++ [{ c with waits := (s.applyStem c).1 }] }

section

variable {c : StemCmd} (lockstep : s.sxt.lockstep = false) (wait : s.sxt.stemWait = [])

include lockstep wait

/-- A command is issued at once where none waits before it and a place is free. -/
theorem issueStem_place (place : stemPlace s.sxt.stemOut c = true) : s.issueStem c = s.issued c := by
  let queued : State := s.updSxt fun x => { x with stemWait := x.stemWait ++ [c] }
  have only : queued.sxt.stemWait = [c] := congrArg (· ++ [c]) wait
  have pick : pickStem queued.sxt.stemOut [c] = some (c, []) := if_pos place
  have taken : (queued.updSxt fun x => { x with stemWait := [] }) = s := by
    show { s with sxt := { s.sxt with stemWait := [] } } = s
    rw [← wait]
  have unlocked : ¬ queued.sxt.lockstep = true := by show ¬ s.sxt.lockstep = true; simp [lockstep]
  show State.pumpStem (3 + 1) queued = _
  rw [State.pumpStem, if_neg unlocked, only, pick]
  show State.pumpStem 3 (((queued.updSxt fun x => { x with stemWait := [] }).applyStem c).2.updSxt _) = _
  rw [taken]
  exact pumpStem_nothing 3 ((State.ControlOnly.applyStem s c).stemWait.trans wait)

end

/-! STEM frames from a mailbox (R342, R449). -/

theorem lockstep_of_mailJob {p : Nat} {j : MailJob} (job : s.mailJob p = some j) : s.sxt.lockstep = false := by
  unfold State.mailJob at job
  split at job
  · cases job
  · next free => simpa using (not_or.mp free).1

section

variable {p op : Nat} {j : MailJob} (h : s.Handles p 7 j)
  (fresh : ((s.sxt.stemWait ++ s.sxt.stemOut).any fun k => k.by_ == .mail p) = false)
  (same : bitsOf (j.arg 0) 3 0 = op) (known : 1 ≤ op ∧ op ≤ 6)

include h fresh same known

/-- A frame that is not under way, with an OP of its row, meets the checks in order. -/
theorem stemRow_checks : s.stemRow p op =
    if s.sxt.bootStep < 10 ∨ !frameOk (j.arg 0) then s.mailEnd p Code.sxtOp 0
    else if !s.portTarget p (bitsOf (j.arg 0) 23 8) then s.mailEnd p Code.stemTarget 0
    else if op ≠ 5 then s.issueStem ⟨op, bitsOf (j.arg 0) 23 8, j.arg 0 / 2 ^ 24, .mail p, false⟩
    else match s.bistCheck (bitsOf (j.arg 0) 23 8) (j.arg 0 / 2 ^ 24) with
      | some c => s.mailEnd p c 0
      | none => if s.bistWaits (bitsOf (j.arg 0) 23 8) then s
        else ({ s with bist := { s.bist with busy := true, code := Code.ok } } : State).issueStem
          ⟨op, bitsOf (j.arg 0) 23 8, j.arg 0 / 2 ^ 24, .mail p, false⟩ := by
  unfold State.stemRow
  rw [h.onMail]
  dsimp only
  rw [if_neg (by simp [fresh]), same, if_neg (by omega), if_neg (by simp)] <;> rfl

theorem stemRow_refused (bad : s.sxt.bootStep < 10 ∨ frameOk (j.arg 0) = false) : s.stemRow p op = s.mailEnd p Code.sxtOp 0 := by
  rw [stemRow_checks h fresh same known, if_pos (by simpa using bad)]

variable (step : 10 ≤ s.sxt.bootStep) (form : frameOk (j.arg 0) = true)

include step form

theorem stemRow_badTarget (out : s.portTarget p (bitsOf (j.arg 0) 23 8) = false) :
    s.stemRow p op = s.mailEnd p Code.stemTarget 0 := by
  rw [stemRow_checks h fresh same known, if_neg (by simp [form]; omega), if_pos (by simp [out])]

variable (target : s.portTarget p (bitsOf (j.arg 0) 23 8) = true)

include target

theorem stemRow_issues (other : op ≠ 5) :
    s.stemRow p op = s.issueStem ⟨op, bitsOf (j.arg 0) 23 8, j.arg 0 / 2 ^ 24, .mail p, false⟩ := by
  rw [stemRow_checks h fresh same known, if_neg (by simp [form]; omega), if_neg (by simp [target]), if_pos other]

theorem stemRow_bistRefused (bist : op = 5) {e : Half} (bad : s.bistCheck (bitsOf (j.arg 0) 23 8) (j.arg 0 / 2 ^ 24) = some e) :
    s.stemRow p op = s.mailEnd p e 0 := by
  rw [stemRow_checks h fresh same known, if_neg (by simp [form]; omega), if_neg (by simp [target]), if_neg (by simp [bist]), bad]

theorem stemRow_bistIssues (bist : op = 5) (good : s.bistCheck (bitsOf (j.arg 0) 23 8) (j.arg 0 / 2 ^ 24) = none)
    (on : s.bistWaits (bitsOf (j.arg 0) 23 8) = false) :
    s.stemRow p op = ({ s with bist := { s.bist with busy := true, code := Code.ok } } : State).issueStem
      ⟨op, bitsOf (j.arg 0) 23 8, j.arg 0 / 2 ^ 24, .mail p, false⟩ := by
  rw [stemRow_checks h fresh same known, if_neg (by simp [form]; omega), if_neg (by simp [target]), if_neg (by simp [bist]), good]
  exact if_neg (by simp [on])

end

/-! What a command does at the control blocks, by its OP (R342). -/

section

variable {c : StemCmd}

theorem applyStem_stop (op : c.op = 1) : s.applyStem c = (false, match s.meadowOfTop c.target with
    | some m => s.stopMeadow m
    | none => s.stopCores ((s.coresOf c.target).getD [])) := by
  unfold State.applyStem
  rw [op]
  rfl

theorem applyStem_isolate (op : c.op = 2) (other : c.by_ ≠ .repair) {stop : State} (stops : (match s.meadowOfTop c.target with
    | some m => s.stopMeadow m
    | none => s.stopCores ((s.coresOf c.target).getD [])) = stop) :
    s.applyStem c = (false, { stop with heath := { stop.heath with
      isolated := (s.sitesOf ((s.coresOf c.target).getD [])).foldl (fun m x => Sparse.put false m x true) stop.heath.isolated } }) := by
  unfold State.applyStem
  rw [op]
  dsimp only
  rw [if_neg other, ← stops]
  rfl

theorem applyStem_reset (op : c.op = 3) : s.applyStem c = s.stemReset c.target := by
  unfold State.applyStem
  rw [op]
  rfl

theorem applyStem_admit (op : c.op = 4) {m : Nat} (meadow : s.meadowOfTarget c.target = some m) :
    s.applyStem c = (false, s.updMeadow m fun x => { x with
      routes := Sparse.put none x.routes (bitsOf c.arg 11 0)
        (some (BitVec.ofNat 16 (bitsOf c.arg 27 12), bitsOf c.arg 34 28)) }) := by
  unfold State.applyStem
  rw [op]
  dsimp only
  rw [meadow]
  rfl

theorem applyStem_bist (op : c.op = 5) : s.applyStem c = (false, s) := by
  unfold State.applyStem
  rw [op]
  rfl

theorem applyStem_watch (op : c.op = 6) : s.applyStem c = (false, s.watchCommand ((s.basesOf c.target).getD []) c.arg) := by
  unfold State.applyStem
  rw [op]
  rfl

/-- The state of an issue, from the effect. -/
theorem issued_eq {w : Bool} (effect : s.applyStem c = (w, t)) :
    s.issued c = t.updSxt fun x => { x with stemOut := x.stemOut ++ [{ c with waits := w }] } := by
  unfold State.issued
  rw [effect]

end

/-- Settles O30: the frame's checks by `stemRow_checks`, its issue at a free place by `issueStem_place`. -/
theorem stemFramesAreIssued : Obligations.StemFramesAreIssued := by
  unfold Obligations.StemFramesAreIssued
  intro p j s job seven running fresh fr op id arg cores k out stop
  have lockstep := lockstep_of_mailJob job
  have h : s.Handles p 7 j := ⟨job, seven, .inl running⟩
  refine ⟨fun step form target wait place => ?_, fun step form target => ?_, fun bad => ?_⟩
  · have go (i : Nat) {w : Bool} {t : State} (same : op = i) (known : 1 ≤ i ∧ i ≤ 6) (other : i ≠ 5)
        (effect : s.applyStem k = (w, t)) : (Host.Outcome.next (s.stemRow p i) : Out) = out w t := by
      rw [stemRow_issues h fresh same known step form target other, ← same]
      exact congrArg _ ((issueStem_place lockstep wait place).trans (issued_eq effect))
    refine ⟨fun same => ?_, fun same => ?_, fun same => ?_, fun same m meadow => ?_, fun same good on => ?_, fun same e bad => ?_,
      fun same => ?_⟩
    · exact go 1 same (by decide) (by decide) (applyStem_stop same)
    · exact go 2 same (by decide) (by decide) (applyStem_isolate same (fun e => by cases e) rfl)
    · exact go 3 same (by decide) (by decide) (applyStem_reset same)
    · exact go 4 same (by decide) (by decide) (applyStem_admit same meadow)
    · let busy : State := { s with bist := { s.bist with busy := true, code := Code.ok } }
      have issue : busy.issueStem k = busy.issued k := issueStem_place lockstep wait place
      show Host.Outcome.next (s.stemRow p 5) = _
      rw [stemRow_bistIssues h fresh same (by decide) step form target rfl good on, ← same]
      exact congrArg _ (issue.trans (issued_eq (applyStem_bist same)))
    · exact congrArg Host.Outcome.next (stemRow_bistRefused h fresh same (by decide) step form target rfl bad)
    · exact go 6 same (by decide) (by decide) (applyStem_watch same)
  · have no (i : Nat) (known : 1 ≤ i ∧ i ≤ 6) (same : op = i) :
        (Host.Outcome.next (s.stemRow p i) : Out) = .next (s.mailEnd p Code.stemTarget 0) :=
      congrArg _ (stemRow_badTarget h fresh same known step form target)
    exact ⟨no 1 (by decide), no 2 (by decide), no 3 (by decide), no 4 (by decide), no 5 (by decide), no 6 (by decide)⟩
  · have no (i : Nat) (known : 1 ≤ i ∧ i ≤ 6) (same : op = i) :
        (Host.Outcome.next (s.stemRow p i) : Out) = .next (s.mailEnd p Code.sxtOp 0) :=
      congrArg _ (stemRow_refused h fresh same known bad)
    exact ⟨no 1 (by decide), no 2 (by decide), no 3 (by decide), no 4 (by decide), no 5 (by decide), no 6 (by decide)⟩

end Sys2Proof.Machine

/-!
The control page: its commands queued, checked and begun (R393 to R395).
-/

namespace Sys2Proof.Machine

open Sys2Proof

variable {s t : State}

theorem State.updPort_congr {p : Nat} {f g : Port → Port} (h : f (s.port p) = g (s.port p)) : s.updPort p f = s.updPort p g := by
  unfold State.updPort
  rw [h]

/-- The value of a control-page command: its OP, its operand and its TAG (R394). -/
def ctlValue (op operand : Nat) (tag : Half) : Dword := BitVec.ofNat 64 (op + operand * 2 ^ 4 + tag.toNat * 2 ^ 32)

/-- The fields of a command's value; its reserved bits are zero. -/
structure CtlFields (v : Nat) (op operand : Nat) (tag : Half) : Prop where
  op : bitsOf v 3 0 = op
  operand : bitsOf v 9 4 = operand
  low : bitsOf v 31 10 = 0
  tag : bitsOf v 47 32 = tag.toNat
  high : bitsOf v 63 48 = 0

theorem ctlValue_fields {op operand : Nat} (ho : op < 16) (hm : operand < 64) (tag : Half) :
    CtlFields (ctlValue op operand tag).toNat op operand tag := by
  have ht := tag.isLt
  have value : (ctlValue op operand tag).toNat = op + operand * 2 ^ 4 + tag.toNat * 2 ^ 32 :=
    toNat_ofNat_of_lt (by omega)
  constructor <;> rw [value] <;> simp only [bitsOf, Nat.shiftRight_eq_div_pow] <;> omega

/-- Port `p` with one command in its queue. -/
def State.ctlKept (s : State) (p : Nat) (k : CtlCmd) : State := s.updPort p fun x => { x with ctlQueue := [k] }

theorem ctlKept_queue (s : State) (p : Nat) (k : CtlCmd) : ((s.ctlKept p k).port p).ctlQueue = [k] := by
  simp [State.ctlKept]

/-- A function that R384 gives the control-page register. -/
theorem ctl_carries {p f : Nat} (carries : f = 0 ∨ (s.fnMeadow p f).isSome = true) :
    ¬ (f ≠ 0 ∧ (s.fnMeadow p f).isNone = true) := by
  rintro ⟨vf, none⟩
  rcases carries with pf | some
  · exact vf pf
  · rw [Option.isNone_iff_eq_none.mp none] at some
    cases some

theorem ctlWrite_full {p f : Nat} (v : Dword) (carries : f = 0 ∨ (s.fnMeadow p f).isSome = true)
    (full : 16 ≤ (s.port p).ctlQueue.length) : s.ctlWrite p f v = s.updPort p fun x => { x with ctlDrops := satInc x.ctlDrops } := by
  unfold State.ctlWrite
  rw [if_neg (ctl_carries carries), if_pos full]

/-- A queue with nothing in it stays so. -/
theorem pumpCtl_nothing {p : Nat} (fuel : Nat) (empty : (s.port p).ctlQueue = []) : s.pumpCtl p fuel = s := by
  cases fuel with
  | zero => rfl
  | succ n => unfold State.pumpCtl; rw [empty]

section

variable {p f op operand : Nat} {tag : Half} {v : Dword} (empty : (s.port p).ctlQueue = [])

include empty

/-- The port after its only command has ended. -/
theorem ctlKept_ended (k : CtlCmd) (n : Nat) (e : Half) (fuel : Nat) :
    ((((s.ctlKept p k).updPort p fun x => { x with ctlQueue := [] }).ctlEnd p f n e).pumpCtl p fuel)
      = (s.updPort p id).updFn p f fun x => { x with ctlTag := BitVec.ofNat 16 n, ctlCode := e } := by
  have back : ((s.ctlKept p k).updPort p fun x => { x with ctlQueue := [] }) = s.updPort p id := by
    rw [State.ctlKept, State.updPort_updPort]
    refine State.updPort_congr ?_
    show { s.port p with ctlQueue := [] } = s.port p
    rw [← empty]
  have idle : (((s.updPort p id).ctlEnd p f n e).port p).ctlQueue = [] := by
    show ((s.updPort p id).port p).ctlQueue = []
    simpa using empty
  rw [back, pumpCtl_nothing fuel idle]
  rfl

variable (lockstep : s.sxt.lockstep = false) (known : op = 1 ∨ op = 2) (fields : CtlFields v.toNat op operand tag)

include lockstep known fields

/-- A command alone in its queue is checked: whether it is permitted, then whether anything is left to stop. -/
theorem pumpCtl_kept (fuel : Nat) : (s.ctlKept p ⟨f, v, false, 0⟩).pumpCtl p (fuel + 1) =
    match s.ctlTargets p ⟨f, v, false, 0⟩ with
    | none => (s.updPort p id).updFn p f fun x => { x with ctlTag := tag, ctlCode := Code.hostNotPermitted }
    | some l =>
      if (l.filter fun m => (s.meadow m).state ≠ .stopped).isEmpty then
        (s.updPort p id).updFn p f fun x => { x with ctlTag := tag, ctlCode := Code.ok }
      else (l.filter fun m => (s.meadow m).state ≠ .stopped).foldl
        (fun t m => t.issueStem ⟨1, (t.meadow m).top, 0, .ctl p, false⟩)
        (s.ctlKept p ⟨f, v, true, (l.filter fun m => (s.meadow m).state ≠ .stopped).length⟩) := by
  obtain ⟨hop, -, low, htag, high⟩ := fields
  have ended (e : Half) := ctlKept_ended (f := f) empty ⟨f, v, false, 0⟩ tag.toNat e fuel
  simp only [BitVec.ofNat_toNat, BitVec.setWidth_eq] at ended
  have meadow (m : Nat) : (s.ctlKept p ⟨f, v, false, 0⟩).meadow m = s.meadow m := rfl
  have targets : (s.ctlKept p ⟨f, v, false, 0⟩).ctlTargets p ⟨f, v, false, 0⟩
    = s.ctlTargets p ⟨f, v, false, 0⟩ := rfl
  have kept (n : Nat) : ((s.ctlKept p ⟨f, v, false, 0⟩).updPort p fun x =>
      { x with ctlQueue := [⟨f, v, true, n⟩] }) = s.ctlKept p ⟨f, v, true, n⟩ :=
    State.updPort_updPort ..
  have unlocked : (s.ctlKept p ⟨f, v, false, 0⟩).sxt.lockstep = false := lockstep
  rw [State.pumpCtl, ctlKept_queue]
  dsimp only
  rw [if_neg (by simp [unlocked]), hop, low, high, htag, if_neg (by omega), targets]
  cases s.ctlTargets p ⟨f, v, false, 0⟩ with
  | none => exact ended _
  | some l =>
    simp only [meadow, kept]
    split
    · exact ended _
    · rfl

variable (carries : f = 0 ∨ (s.fnMeadow p f).isSome = true)

include carries

omit lockstep known fields in
/-- A command written to an empty queue is checked at once. -/
theorem ctlWrite_pumps : s.ctlWrite p f (v)
    = (s.ctlKept p ⟨f, v, false, 0⟩).pumpCtl p (16 + 1) := by
  unfold State.ctlWrite
  rw [if_neg (ctl_carries carries), if_neg (by simp [empty])]
  refine congrArg (State.pumpCtl · p 17) (State.updPort_congr ?_)
  rw [empty]
  rfl

theorem ctlWrite_refused (none : s.ctlTargets p ⟨f, v, false, 0⟩ = none) :
    s.ctlWrite p f (v)
      = (s.updPort p id).updFn p f fun x => { x with ctlTag := tag, ctlCode := Code.hostNotPermitted } := by
  rw [ctlWrite_pumps empty carries, pumpCtl_kept empty lockstep known fields, none]

variable {l : List Nat} (some : s.ctlTargets p ⟨f, v, false, 0⟩ = some l)

include some

theorem ctlWrite_stopped (stopped : (l.filter fun m => (s.meadow m).state ≠ .stopped) = []) :
    s.ctlWrite p f (v)
      = (s.updPort p id).updFn p f fun x => { x with ctlTag := tag, ctlCode := Code.ok } := by
  rw [ctlWrite_pumps empty carries, pumpCtl_kept empty lockstep known fields, some]
  exact if_pos (by rw [stopped]; rfl)

theorem ctlWrite_issues (going : (l.filter fun m => (s.meadow m).state ≠ .stopped) ≠ []) :
    s.ctlWrite p f (v)
      = (l.filter fun m => (s.meadow m).state ≠ .stopped).foldl (fun t m => t.issueStem ⟨1, (t.meadow m).top, 0, .ctl p, false⟩)
          (s.ctlKept p ⟨f, v, true, (l.filter fun m => (s.meadow m).state ≠ .stopped).length⟩) := by
  rw [ctlWrite_pumps empty carries, pumpCtl_kept empty lockstep known fields, some]
  exact if_neg (by simpa using going)

end

/-! The meadows that a command names (R394). -/

section

variable {p : Nat} {m : Nat} (hm : m < 64) (tag : Half)

include hm

/-- What CTL_STOP_MEADOW may stop: the operand's meadow for the PF. -/
theorem ctlTargets_meadow_pf : s.ctlTargets p ⟨0, ctlValue 1 m tag, false, 0⟩
    = if (s.meadow m).state ≠ .absent ∧ (s.meadow m).port = p then some [m] else none := by
  obtain ⟨hop, operand, -, -, -⟩ := ctlValue_fields (op := 1) (by decide) hm tag
  unfold State.ctlTargets
  dsimp only
  rw [hop, operand]
  rfl

/-- A VF names its own meadow, whatever the operand. -/
theorem ctlTargets_meadow_vf {f k : Nat} (vf : f ≠ 0) (carries : s.fnMeadow p f = some k) :
    s.ctlTargets p ⟨f, ctlValue 1 m tag, false, 0⟩
      = if (s.meadow k).state ≠ .absent ∧ (s.meadow k).port = p then some [k] else none := by
  obtain ⟨hop, -, -, -, -⟩ := ctlValue_fields (op := 1) (by decide) hm tag
  unfold State.ctlTargets
  dsimp only
  rw [hop, if_neg (by decide), if_neg vf, carries]

theorem ctlTargets_port (f : Nat) : s.ctlTargets p ⟨f, ctlValue 2 m tag, false, 0⟩
    = if f = 0 then some (s.meadowIds.filter fun m => (s.meadow m).port = p) else none := by
  obtain ⟨hop, -, -, -, -⟩ := ctlValue_fields (op := 2) (by decide) hm tag
  unfold State.ctlTargets
  dsimp only
  rw [hop]
  rfl

end

/-- Settles O32: the write's outcome by `pumpCtl_kept`, what it names by the lemmas on `ctlTargets`. -/
theorem controlPageStops : Obligations.ControlPageStops := by
  unfold Obligations.ControlPageStops
  intro p f m tag s full ended mine v w kept
  have page : w = ctlValue 2 0 tag := by show _ = BitVec.ofNat 64 _; rw [Nat.zero_mul, Nat.add_zero]
  refine ⟨fun long carries => ?_, fun empty lockstep => ⟨fun here going => ?_, fun here stopped => ?_, fun out => ?_,
    fun k vf carries here going => ?_, fun vf carries => ?_, fun none => ?_, fun going => ?_⟩⟩
  · have carries : f.val = 0 ∨ (s.fnMeadow p f).isSome = true := carries
    exact ⟨congrArg _ (ctlWrite_full v carries long), congrArg _ (ctlWrite_full w carries long)⟩
  · have one : ([m.val].filter fun k => (s.meadow k).state ≠ .stopped) = [m.val] := by simp [going]
    have issues := ctlWrite_issues (f := 0) empty lockstep (.inl rfl) (ctlValue_fields (by decide) m.isLt tag) (.inl rfl)
      ((ctlTargets_meadow_pf m.isLt tag).trans (if_pos here)) (by rw [one]; simp)
    rw [one] at issues
    exact congrArg _ issues
  · exact congrArg _ (ctlWrite_stopped (f := 0) empty lockstep (.inl rfl) (ctlValue_fields (by decide) m.isLt tag) (.inl rfl)
      ((ctlTargets_meadow_pf m.isLt tag).trans (if_pos here)) (by simp [stopped]))
  · exact congrArg _ (ctlWrite_refused (f := 0) empty lockstep (.inl rfl) (ctlValue_fields (by decide) m.isLt tag) (.inl rfl)
      ((ctlTargets_meadow_pf m.isLt tag).trans (if_neg out)))
  · have one : ([k].filter fun k => (s.meadow k).state ≠ .stopped) = [k] := by simp [going]
    have issues := ctlWrite_issues (f := f) empty lockstep (.inl rfl) (ctlValue_fields (by decide) m.isLt tag) (.inr (by rw [carries]; rfl))
      ((ctlTargets_meadow_vf m.isLt tag vf carries).trans (if_pos here)) (by rw [one]; simp)
    rw [one] at issues
    exact congrArg _ issues
  · show Host.Outcome.next (s.ctlWrite p f w) = _
    rw [page]
    exact congrArg _ (ctlWrite_refused empty lockstep (.inr rfl) (ctlValue_fields (by decide) (by decide) tag) (.inr carries)
      ((ctlTargets_port (by decide) tag f).trans (if_neg vf)))
  · show Host.Outcome.next (s.ctlWrite p 0 w) = _
    rw [page]
    exact congrArg _ (ctlWrite_stopped (f := 0) empty lockstep (.inr rfl) (ctlValue_fields (by decide) (by decide) tag) (.inl rfl)
      ((ctlTargets_port (by decide) tag 0).trans (if_pos rfl)) none)
  · show Host.Outcome.next (s.ctlWrite p 0 w) = Host.Outcome.next (List.foldl _ (kept 0 w _) _)
    rw [page]
    exact congrArg _ (ctlWrite_issues (f := 0) empty lockstep (.inr rfl) (ctlValue_fields (by decide) (by decide) tag) (.inl rfl)
      ((ctlTargets_port (by decide) tag 0).trans (if_pos rfl)) going)

end Sys2Proof.Machine

/-!
The end of a stem command (R343 to R345).
-/

namespace Sys2Proof.Machine

open Sys2Proof

variable {s t : State}

/-! What the issue of waiting commands keeps (R343). -/

/-- What every issue and every effect of the commands that wait keeps, the issue of as many as have places keeps; none but they
wait afterwards. -/
theorem pumpStem_keeps {P : StemCmd → Prop} {R : State → Prop}
    (queues : ∀ (u : State) w o, R u → R (u.updSxt fun x => { x with stemWait := w, stemOut := o }))
    (effect : ∀ (u : State) c, P c → R u → R (u.applyStem c).2) (fuel : Nat) (s : State) (start : R s)
    (waiting : ∀ c ∈ s.sxt.stemWait, P c) :
    R (State.pumpStem fuel s) ∧ ∀ c ∈ (State.pumpStem fuel s).sxt.stemWait, P c := by
  induction fuel generalizing s with
  | zero => exact ⟨start, waiting⟩
  | succ n ih =>
    unfold State.pumpStem
    split
    · exact ⟨start, waiting⟩
    · split
      · exact ⟨start, waiting⟩
      · next c rest pick =>
        obtain ⟨mem, sub⟩ := mem_of_pickStem pick
        refine ih _ (queues _ _ _ (effect _ c (waiting c mem) (queues s rest s.sxt.stemOut start))) fun k h => waiting k (sub k ?_)
        have same := (State.ControlOnly.applyStem (s.updSxt fun x => { x with stemWait := rest }) c).stemWait
        exact (congrArg (k ∈ ·) same).mp h

/-- What the issue of Sexton's own command keeps. -/
theorem issueStem_keeps {P : StemCmd → Prop} {R : State → Prop} {c : StemCmd}
    (queues : ∀ (u : State) w o, R u → R (u.updSxt fun x => { x with stemWait := w, stemOut := o }))
    (effect : ∀ (u : State) c, P c → R u → R (u.applyStem c).2) (start : R s) (waiting : ∀ c ∈ s.sxt.stemWait, P c) (own : P c) :
    R (s.issueStem c) ∧ ∀ k ∈ (s.issueStem c).sxt.stemWait, P k := by
  have queued : R (s.updSxt fun x => { x with stemWait := x.stemWait ++ [c] }) :=
    queues s (s.sxt.stemWait ++ [c]) s.sxt.stemOut start
  refine pumpStem_keeps queues effect 4 _ queued fun k mem => ?_
  rcases List.mem_append.1 mem with old | new
  · exact waiting k old
  · exact List.mem_singleton.1 new ▸ own

/-- With no command waiting anywhere, nothing goes on. -/
theorem pumpAll_nothing (wait : s.sxt.stemWait = []) (ctl0 : (s.port 0).ctlQueue = []) (ctl1 : (s.port 1).ctlQueue = []) :
    s.pumpAll = s := by
  unfold State.pumpAll
  rw [pumpStem_nothing 4 wait, pumpCtl_nothing 17 ctl0, pumpCtl_nothing 17 ctl1]

/-! What holds an acknowledgement back (R342, R485). -/

/-- A core with a request on its way: a remote copy, a message, or a write whose parity is not written. -/
def State.flies (s : State) (n : Nat) : Prop :=
  (s.core n).rcopies ≠ [] ∨ (∃ m ∈ (s.core n).unacked, m.st ≠ .held ∧ m.st ≠ .waiting)
    ∨ ∃ d ∈ s.pkg.deltas, ∃ q, d.owner = some (.op n q)

theorem flightOf_iff (l : List Nat) : s.flightOf l = true ↔ ∃ n ∈ l, s.flies n := by
  have owned (d : Delta) (n : Nat) :
      (match d.owner with | some (.op k _) => k == n | _ => false) = true ↔ ∃ q, d.owner = some (.op n q) := by
    split
    · next k q owner => simp [owner]
    · next other => exact ⟨fun no => Bool.noConfusion no, fun ⟨q, owner⟩ => absurd owner (other n q)⟩
  unfold State.flightOf State.flies
  simp only [List.any_eq_true, Bool.or_eq_true, or_assoc]
  refine exists_congr fun n => and_congr_right fun _ => or_congr (by simp) (or_congr (by simp) ?_)
  exact exists_congr fun d => and_congr_right fun _ => owned d n

theorem stemHolds_iff (c : StemCmd) : s.stemHolds c = true ↔
    c.waits = true ∨ ((c.op = 2 ∨ c.op = 3) ∧ ∃ n ∈ (s.coresOf c.target).getD [], s.flies n) := by
  simp [State.stemHolds, flightOf_iff]

/-! The acknowledgement (R343, R344). -/

/-- `s` with the acknowledged command gone. -/
def State.acked (s : State) (i : Nat) : State := s.updSxt fun x => { x with stemOut := x.stemOut.eraseIdx i }

section

variable {i : Fin 4} {k : StemCmd} (out : s.sxt.stemOut[i.val]? = some k)

include out

theorem execStemAck_held (holds : s.stemHolds k = true) : execStemAck i s = .next s := by
  unfold execStemAck
  rw [out]
  dsimp only
  rw [if_pos (.inl holds)]
  exact attemptWhole_same _ ⟨rfl, rfl, rfl⟩

variable (lockstep : s.sxt.lockstep = false)

include lockstep

theorem execStemAck_next (free : s.stemHolds k = false) (effect : (((s.acked i).ackEffect k).stemEnd k Code.ok).pumpAll = t)
    (pkg : t.pkg = s.pkg) : execStemAck i s = .next t := by
  unfold execStemAck
  rw [out]
  dsimp only
  rw [if_neg (by simp [free, lockstep])]
  show s.attemptWhole _ (.next (((s.acked i).ackEffect k).stemEnd k Code.ok).pumpAll) = _
  rw [effect]
  exact attemptWhole_same _ (State.still_of_pkg pkg)

variable (wait : s.sxt.stemWait = []) (ctl0 : (s.port 0).ctlQueue = []) (ctl1 : (s.port 1).ctlQueue = [])

include wait ctl0 ctl1

/-- The acknowledgement of a mailbox command that has no effect of its own then ends it. -/
theorem execStemAck_mail {p : Nat} (free : s.stemHolds k = false) (by_ : k.by_ = .mail p) (plain : k.op ≠ 4 ∧ k.op ≠ 5) :
    execStemAck i s = .next ((s.acked i).mailEnd p Code.ok 0) := by
  have effect : (s.acked i).ackEffect k = s.acked i := by
    unfold State.ackEffect
    split
    · next four => exact absurd four plain.1
    · next five => exact absurd five plain.2
    · rfl
  refine execStemAck_next out lockstep free ?_ rfl
  rw [effect, State.stemEnd, by_]
  exact pumpAll_nothing wait ctl0 ctl1

/-- A mailbox command that goes unacknowledged with no silent base tussock ends with ST_STEM_NO_ACK. -/
theorem execStemNoAck_mail {p : Nat} (by_ : k.by_ = .mail p) (sent : k.waits = false) (queue : s.sxt.repairQueue = [])
    (busy : s.bist.busy = false) : execStemNoAck i [] s = .next ((s.acked i).mailEnd p Code.stemNoAck 0) := by
  have kick : ((s.acked i).mailEnd p Code.stemNoAck 0).kickRepair Code.stemNoAck = (s.acked i).mailEnd p Code.stemNoAck 0 := by
    unfold State.kickRepair
    rw [show ((s.acked i).mailEnd p Code.stemNoAck 0).sxt.repairQueue = [] from queue]
  have hook : ((s.acked i).mailEnd p Code.stemNoAck 0).bistHook = (s.acked i).mailEnd p Code.stemNoAck 0 := by
    refine if_neg ?_
    rw [show ((s.acked i).mailEnd p Code.stemNoAck 0).bist.busy = false from busy]
    simp
  unfold execStemNoAck
  rw [out]
  dsimp only
  rw [if_neg (by simp [lockstep]), sent]
  show Host.Outcome.next ((((s.acked i).stemEnd k Code.stemNoAck).kickRepair Code.stemNoAck).bistHook).pumpAll = _
  rw [State.stemEnd, by_]
  dsimp only
  rw [kick, hook]
  exact congrArg Host.Outcome.next (pumpAll_nothing wait ctl0 ctl1)

end

/-! Admission (R342, R349). -/

/-- A core after its ADMIT: held where its meadow is, started where the epoch is open and it awaited it. -/
def Core.admitted (c : Core) (x : Meadow) : Core :=
  let d := { c with awaitAdmit := false, stopped := x.state.holds }
  if c.awaitAdmit && x.state == .opened then (d.setSteps x.regs).start else d

theorem resume_unstalled {n : Nat} (free : (s.core n).unstalled) : s.resume n = s := by
  unfold State.resume
  split
  · next op f held => exact absurd held (free op f)
  · rfl

theorem Core.admitted_unstalled {c : Core} (free : c.unstalled) (x : Meadow) : (c.admitted x).unstalled := by
  unfold Core.admitted
  dsimp only
  split
  · exact fun op f held => Ctl.noConfusion held
  · exact free

section

variable {n m : Nat} (owner : s.meadowOf n = some m)

include owner

/-- A powered core of a meadow that is not under test is admitted. -/
theorem admitCore_admits (gated : (s.base (baseOf n)).gated = false) (testing : (s.base (baseOf n)).testing = false)
    (free : (s.core n).unstalled) : ∃ isolated, s.admitCore n
      = { s.updCore n (·.admitted (s.meadow m)) with heath := { s.heath with isolated := isolated } }
      ∧ Sparse.get false isolated (s.siteOf n)
        = ((Sparse.get false s.heath.failed (s.siteOf n) || meshCut s.heath.meshDown (s.siteOf n))
            && Sparse.get false s.heath.isolated (s.siteOf n)) := by
  have admitted : (s.updCore n fun c =>
      let c := { c with awaitAdmit := false, stopped := (s.meadow m).state.holds }
      if (s.core n).awaitAdmit && (s.meadow m).state == .opened then (c.setSteps (s.meadow m).regs).start else c)
      = s.updCore n (·.admitted (s.meadow m)) := State.updCore_congr rfl
  have resumed : (s.updCore n (·.admitted (s.meadow m))).resume n = s.updCore n (·.admitted (s.meadow m)) := by
    refine resume_unstalled ?_
    rw [State.updCore_core_same]
    exact Core.admitted_unstalled free _
  unfold State.admitCore
  rw [owner]
  dsimp only
  rw [if_neg (by simp [gated, testing]), admitted, resumed]
  split
  · next stays => exact ⟨s.heath.isolated, rfl, by rw [stays, Bool.true_and]⟩
  · next goes =>
    refine ⟨_, rfl, ?_⟩
    rw [Bool.eq_false_iff.mpr goes, Bool.false_and]
    exact Sparse.get_put_same ..

end

theorem bootHook_other (step : s.sxt.bootStep ≠ 10) : s.bootHook = s := if_neg fun all => step all.1

/-- A meadow that waits for no switch reads READY once its cores are admitted, and nothing else follows. -/
theorem admitHook_rests {m : Nat} (step : s.sxt.bootStep ≠ 10) (rests : (s.meadow m).state ≠ .ready ∨ (s.meadow m).switchReq = false) :
    s.admitHook m = s ∨ s.admitHook m = s.updMeadow m fun x => { x with admitting := false } := by
  unfold State.admitHook
  split
  · refine .inr ?_
    rw [show (s.updMeadow m fun x => { x with admitting := false }).readyHook m
      = s.updMeadow m fun x => { x with admitting := false } from if_neg (by rcases rests with h | h <;> simp [h])]
    exact bootHook_other step
  · exact .inl rfl

section

variable {n m : Nat} {k : StemCmd} (top : s.meadowOfTop k.target = some m) (named : bitsOf k.arg 11 0 = n)
  (owner : s.meadowOf n = some m) (gated : (s.base (baseOf n)).gated = false) (testing : (s.base (baseOf n)).testing = false)
  (free : (s.core n).unstalled) (step : s.sxt.bootStep ≠ 10)
  (rests : (s.meadow m).state ≠ .ready ∨ (s.meadow m).switchReq = false)

include top named owner gated testing free step rests

/-- An acknowledged ADMIT of a core of its target's meadow admits the core, and its meadow may read READY. -/
theorem admitAck_meadow : ∃ isolated meadows, s.admitAck k
    = { s.updCore n (·.admitted (s.meadow m)) with heath := { s.heath with isolated := isolated }, meadows := meadows }
    ∧ Sparse.get false isolated (s.siteOf n)
      = ((Sparse.get false s.heath.failed (s.siteOf n) || meshCut s.heath.meshDown (s.siteOf n))
          && Sparse.get false s.heath.isolated (s.siteOf n)) := by
  obtain ⟨isolated, admits, site⟩ := admitCore_admits owner gated testing free
  have core : [n].filter (fun n => s.meadowOf n == some m) = [n] := by simp [owner]
  have owners : ([n].filterMap (s.admitCore n).meadowOf).eraseDups = [m] := by
    have kept : (s.admitCore n).meadowOf n = some m := by rw [admits]; exact owner
    simp only [List.filterMap_cons, kept, List.filterMap_nil]
    rfl
  have ack : s.admitAck k = (s.admitCore n).admitHook m := by
    unfold State.admitAck
    rw [top]
    dsimp only
    rw [named, core]
    show List.foldl _ (s.admitCore n) (List.eraseDups (List.filterMap (s.admitCore n).meadowOf [n])) = _
    rw [owners]
    rfl
  have hook := admitHook_rests (s := s.admitCore n) (m := m) (by rw [admits]; exact step) (by rw [admits]; exact rests)
  rw [ack]
  rcases hook with same | shown
  · exact ⟨isolated, s.meadows, by rw [same, admits]; rfl, site⟩
  · exact ⟨isolated, _, by rw [shown, admits]; rfl, site⟩

end

/-- The ADMIT of Sexton's own, acknowledged. -/
theorem execStemAck_admit {i : Fin 4} {k : StemCmd} {n m : Nat} (out : s.sxt.stemOut[i.val]? = some k)
    (lockstep : s.sxt.lockstep = false) (wait : s.sxt.stemWait = []) (ctl0 : (s.port 0).ctlQueue = [])
    (ctl1 : (s.port 1).ctlQueue = []) (sent : k.waits = false) (by_ : k.by_ = .sexton) (op : k.op = 4)
    (top : s.meadowOfTop k.target = some m) (named : bitsOf k.arg 11 0 = n) (owner : s.meadowOf n = some m)
    (gated : (s.base (baseOf n)).gated = false) (testing : (s.base (baseOf n)).testing = false) (free : (s.core n).unstalled)
    (step : s.sxt.bootStep ≠ 10) (rests : (s.meadow m).state ≠ .ready ∨ (s.meadow m).switchReq = false) :
    ∃ u, execStemAck i s = .next u ∧ u.sxt.stemOut = s.sxt.stemOut.eraseIdx i ∧ u.core n = (s.core n).admitted (s.meadow m)
      ∧ Sparse.get false u.heath.isolated (s.siteOf n)
        = ((Sparse.get false s.heath.failed (s.siteOf n) || meshCut s.heath.meshDown (s.siteOf n))
            && Sparse.get false s.heath.isolated (s.siteOf n)) := by
  obtain ⟨isolated, meadows, effect, site⟩ := admitAck_meadow (s := s.acked i) top named owner gated testing free step rests
  have plain : s.stemHolds k = false := by simp [State.stemHolds, sent, op]
  have acts : (s.acked i).ackEffect k = (s.acked i).admitAck k := by unfold State.ackEffect; rw [op]; rfl
  refine ⟨_, execStemAck_next out lockstep plain (t := (s.acked i).admitAck k) ?_ (by rw [effect]; rfl), ?_, ?_, ?_⟩
  · rw [acts, State.stemEnd, by_]
    exact pumpAll_nothing (by rw [effect]; exact wait) (by rw [effect]; exact ctl0) (by rw [effect]; exact ctl1)
  · rw [effect]; rfl
  · rw [effect]; exact State.updCore_core_same (s.acked i) n (·.admitted (s.meadow m))
  · rw [effect]; exact site

/-! A silent base tussock (R345, R354, R493). -/

/-- The end of a mailbox command leaves what the host's stream or guard request is known by. -/
theorem mailEnd_hostStream (p : Nat) (e : Half) (r : Nat) : (s.mailEnd p e r).hostStream = s.hostStream := by
  have job (q : Nat) : ((s.mailEnd p e r).mbox q).job = (s.mbox q).job := by
    unfold State.mailEnd
    rw [State.updMbox_mbox]
    split
    · next same => rw [← same]
    · rfl
  unfold State.hostStream
  rw [show (s.mailEnd p e r).sxt.mailQueue = s.sxt.mailQueue from rfl]
  cases s.sxt.mailQueue.head? with
  | none => rfl
  | some q => dsimp only; rw [job q]

/-- Sexton's own ISOLATE of a repair stops cores and isolates sites; no meadow learns of it (R493). -/
theorem applyStem_repair {c : StemCmd} (op : c.op = 2) (by_ : c.by_ = .repair) :
    (s.applyStem c).2.meadows = s.meadows ∧ (s.applyStem c).2.sxt = s.sxt := by
  unfold State.applyStem
  rw [op]
  dsimp only
  rw [if_pos by_]
  exact ⟨State.updCores_meadows .., State.updCores_sxt ..⟩

theorem failEpoch_meadow_ne {m n : Nat} (code : Half) (other : m ≠ n) : (s.failEpoch m code).meadow n = s.meadow n := by
  have fails (f : Meadow → Meadow) :
      (((s.stopCores (s.meadowCores m)).updMeadow m f).raiseM m 8).meadow n = s.meadow n := by
    rw [raiseM_meadow, State.updMeadow_meadow_ne _ _ other]
    exact State.updCores_meadow ..
  unfold State.failEpoch
  split
  · exact fails _
  · exact fails _
  · split
    · exact State.updMeadow_meadow_ne _ _ other
    · rfl
  · rfl

/-- A failed epoch stays as it is, whichever fails. -/
theorem failEpoch_failed {m : Nat} (failed : (s.meadow m).state = .failed) (n : Nat) (code : Half) :
    (s.failEpoch n code).meadow m = s.meadow m := by
  by_cases same : n = m
  · subst same
    unfold State.failEpoch
    rw [failed]
  · exact failEpoch_meadow_ne code same

/-- A repair that begins for a failure, where no epoch is left to fail: ISOLATE is sent, with the failure on record. -/
theorem kickRepair_fault {b m : Nat} {routers : List Nat} {trunk : Bool} {code : Half} (lockstep : s.sxt.lockstep = false)
    (stream : s.hostStream = false) (phase : s.sxt.repair.phase = 0)
    (queue : s.sxt.repairQueue = [⟨b, .fault, routers, trunk⟩]) (failed : (s.meadow m).state = .failed) :
    ∃ v : State, s.kickRepair code = v.issueStem ⟨2, 0x1000 + b, 0, .repair, false⟩ ∧ v.meadow m = s.meadow m ∧ v.ports = s.ports
      ∧ v.sxt = { s.sxt with repairQueue := [], repair := ⟨1, b, 0, 0, .fault, routers, trunk⟩ } := by
  let begun : State := s.updSxt fun x => { x with repairQueue := [], repair := ⟨1, b, 0, 0, .fault, routers, trunk⟩ }
  have kick : s.kickRepair code = (match begun.meadowOfBase b with | some k => begun.failEpoch k code | none => begun).issueStem
      ⟨2, 0x1000 + b, 0, .repair, false⟩ := by
    unfold State.kickRepair
    rw [queue]
    dsimp only
    rw [if_neg (by simp [lockstep, stream, phase])] <;> rfl
  cases owner : begun.meadowOfBase b with
  | none => exact ⟨begun, by rw [kick, owner], rfl, rfl, rfl⟩
  | some k =>
    refine ⟨begun.failEpoch k code, by rw [kick, owner], failEpoch_failed (s := begun) failed k code, ?_, ?_⟩
    · rw [State.failEpoch_eq]; rfl
    · rw [State.failEpoch_eq]; rfl

/-- A first repair waits. -/
theorem askRepair_first (j : RepairJob) (phase : s.sxt.repair.phase = 0) (queue : s.sxt.repairQueue = []) :
    s.askRepair j = s.updSxt fun x => { x with repairQueue := x.repairQueue ++ [j] } := by
  unfold State.askRepair
  dsimp only
  rw [if_neg (by simp [phase]), if_neg (by simp [queue])]

/-- What a repair's ISOLATE leaves as it is of a state: its meadows, what Sexton records besides the stem network, the ports and
the tests. -/
structure State.Isolating (s t : State) : Prop where
  meadows : t.meadows = s.meadows
  repair : t.sxt.repair = s.sxt.repair
  mail : t.sxt.mail = s.sxt.mail
  ports : t.ports = s.ports

/-- Sexton's own ISOLATE for a repair. -/
def StemCmd.isolatesForRepair (c : StemCmd) : Prop := c.op = 2 ∧ c.by_ = .repair

namespace State.Isolating

theorem refl (s : State) : s.Isolating s := ⟨rfl, rfl, rfl, rfl⟩

theorem queues (u : State) (w o : List StemCmd) (h : s.Isolating u) :
    s.Isolating (u.updSxt fun x => { x with stemWait := w, stemOut := o }) := ⟨h.meadows, h.repair, h.mail, h.ports⟩

theorem effect (u : State) (c : StemCmd) (own : c.isolatesForRepair) (h : s.Isolating u) : s.Isolating (u.applyStem c).2 := by
  obtain ⟨meadows, sxt⟩ := applyStem_repair (s := u) own.1 own.2
  obtain ⟨_, _, _, _, _, _, _, _, only⟩ := (State.ControlOnly.applyStem u c).eq
  exact ⟨meadows.trans h.meadows, by rw [sxt]; exact h.repair, by rw [sxt]; exact h.mail, by rw [only]; exact h.ports⟩

theorem issue {c : StemCmd} (wait : s.sxt.stemWait = []) (own : c.isolatesForRepair) :
    s.Isolating (s.issueStem c) ∧ ∀ k ∈ (s.issueStem c).sxt.stemWait, k.isolatesForRepair :=
  issueStem_keeps queues effect (refl s) (by rw [wait]; simp) own

theorem pumpAll (waiting : ∀ k ∈ s.sxt.stemWait, k.isolatesForRepair)
    (ctl0 : (s.port 0).ctlQueue = []) (ctl1 : (s.port 1).ctlQueue = []) : s.Isolating s.pumpAll := by
  have pumped : s.Isolating (State.pumpStem 4 s) := (pumpStem_keeps queues effect 4 s (refl s) waiting).1
  have port (p : Nat) : (State.pumpStem 4 s).port p = s.port p := by unfold State.port; rw [pumped.ports]
  unfold State.pumpAll
  rwa [pumpCtl_nothing (s := State.pumpStem 4 s) 17 (by rw [port]; exact ctl0), pumpCtl_nothing 17 (by rw [port]; exact ctl1)]

end State.Isolating

/-- A silent base tussock of an open epoch, where nothing else is being repaired: the epoch fails and the repair begins. -/
theorem execStemNoAck_silent {i : Fin 4} {k : StemCmd} {p m : Nat} {b : BaseIx} (out : s.sxt.stemOut[i.val]? = some k)
    (lockstep : s.sxt.lockstep = false) (wait : s.sxt.stemWait = []) (ctl0 : (s.port 0).ctlQueue = [])
    (ctl1 : (s.port 1).ctlQueue = []) (sent : k.waits = false) (by_ : k.by_ = .mail p)
    (own : ((s.basesOf k.target).getD []).contains b.val = true) (owner : s.meadowOfBase b = some m)
    (opened : (s.meadow m).state = .opened) (queue : s.sxt.repairQueue = []) (phase : s.sxt.repair.phase = 0)
    (stream : s.hostStream = false) :
    ∃ u, execStemNoAck i [⟨b, [], false⟩] s = .next u ∧ (u.meadow m).state = .failed ∧ (u.meadow m).code = Code.stemNoAck
      ∧ u.sxt.repair.phase = 1 ∧ u.sxt.repair.base = b ∧ (u.mbox p).ready = some (Code.stemNoAck, 0) := by
  let gone := s.acked i
  let fails := gone.failEpoch m Code.stemNoAck
  let told := (fails.updSxt fun x => { x with repairQueue := x.repairQueue ++ [⟨b, .fault, [], false⟩] }).mailEnd p Code.stemNoAck 0
  have rest : fails.sxt = gone.sxt := by show (gone.failEpoch m Code.stemNoAck).sxt = _; rw [State.failEpoch_eq]
  have ports : fails.ports = s.ports := by show (gone.failEpoch m Code.stemNoAck).ports = _; rw [State.failEpoch_eq]; rfl
  obtain ⟨state, code⟩ := State.failEpoch_meadow (s := gone) Code.stemNoAck opened
  have asks : fails.askRepair ⟨b, .fault, [], false⟩
      = fails.updSxt fun x => { x with repairQueue := x.repairQueue ++ [⟨b, .fault, [], false⟩] } :=
    askRepair_first _ (by rw [rest]; exact phase) (by rw [rest]; exact queue)
  have going : told.hostStream = false := by
    refine (mailEnd_hostStream ..).trans ?_
    show fails.hostStream = false
    unfold State.hostStream State.mbox
    rw [rest]
    exact stream
  obtain ⟨v, kick, meadow, vports, sxt⟩ := kickRepair_fault (s := told) (b := b) (m := m) (routers := []) (trunk := false)
    (code := Code.stemNoAck) (by show fails.sxt.lockstep = false; rw [rest]; exact lockstep) going
    (by show fails.sxt.repair.phase = 0; rw [rest]; exact phase)
    (by show fails.sxt.repairQueue ++ _ = _; rw [rest]; exact congrArg (· ++ _) queue) state
  have vwait : v.sxt.stemWait = [] := by
    rw [sxt]
    show fails.sxt.stemWait = []
    rw [rest]
    exact wait
  have port (q : Nat) : v.port q = s.port q := by unfold State.port; rw [vports]; exact congrArg (Sparse.get _ · q) ports
  obtain ⟨isolates, waiting⟩ := State.Isolating.issue (s := v) (c := ⟨2, 0x1000 + b, 0, .repair, false⟩) vwait ⟨rfl, rfl⟩
  let sends := v.issueStem ⟨2, 0x1000 + b, 0, .repair, false⟩
  have sport (q : Nat) : (sends.bistHook.port q).ctlQueue = (s.port q).ctlQueue := by
    rw [bistHook_eq]
    show (Sparse.get _ sends.ports q).ctlQueue = _
    rw [isolates.ports]
    exact congrArg Port.ctlQueue (port q)
  have pumped := State.Isolating.pumpAll (s := sends.bistHook) (by rw [bistHook_eq]; exact waiting)
    ((sport 0).trans ctl0) ((sport 1).trans ctl1)
  have hooked : v.Isolating sends.bistHook := by
    rw [bistHook_eq]
    exact ⟨isolates.meadows, isolates.repair, isolates.mail, isolates.ports⟩
  have last : sends.bistHook.pumpAll.meadow m = fails.meadow m := by
    unfold State.meadow at meadow ⊢
    rw [pumped.meadows, hooked.meadows]
    exact meadow
  refine ⟨sends.bistHook.pumpAll, ?_, ?_, ?_, ?_, ?_, ?_⟩
  · have one : [(⟨b, [], false⟩ : Silent)].filter (fun x => ((s.basesOf k.target).getD []).contains x.base.val) = [⟨b, [], false⟩] := by
      rw [List.filter_cons, if_pos own]
      rfl
    have owned : gone.meadowOfBase b = some m := owner
    unfold execStemNoAck
    rw [out]
    dsimp only
    rw [if_neg (by simp [lockstep]), sent, one]
    show Host.Outcome.next ((((((match gone.meadowOfBase b with | some m => gone.failEpoch m Code.stemNoAck | none => gone)
      ).askRepair ⟨b, .fault, [], false⟩).stemEnd k Code.stemNoAck).kickRepair Code.stemNoAck).bistHook).pumpAll = _
    rw [owned]
    show Host.Outcome.next ((((fails.askRepair ⟨b, .fault, [], false⟩).stemEnd k Code.stemNoAck).kickRepair
      Code.stemNoAck).bistHook).pumpAll = _
    rw [asks, State.stemEnd, by_]
    exact congrArg (fun x : State => Host.Outcome.next x.bistHook.pumpAll) kick
  · exact (congrArg Meadow.state last).trans state
  · exact (congrArg Meadow.code last).trans code
  · rw [pumped.repair, hooked.repair, sxt]
  · rw [pumped.repair, hooked.repair, sxt]
  · unfold State.mbox
    rw [pumped.mail, hooked.mail, sxt]
    exact State.mailEnd_ready ..

theorem holds_iff (x : MState) : x.holds = decide (x = .stopped ∨ x = .failed) := by cases x <;> rfl

/-- Settles O31: what holds an acknowledgement back by `stemHolds_iff`, then the end of each kind of command. -/
theorem stemAcknowledgements : Obligations.StemAcknowledgements := by
  unfold Obligations.StemAcknowledgements
  intro i k s out lockstep wait ctl0 ctl1 t flies
  refine ⟨fun held => ?_, fun p sent by_ op => ⟨fun still => ?_, fun queue busy => ?_⟩, fun m sent by_ op top owner => ?_,
    fun p m b sent by_ op own owner opened queue phase stream => ?_⟩
  · exact execStemAck_held out ((stemHolds_iff k).mpr held)
  · have free : s.stemHolds k = false := by
      rw [Bool.eq_false_iff, ne_eq, stemHolds_iff]
      rintro (waits | ⟨resets, n, mem, moves⟩)
      · simp [sent] at waits
      · exact still resets n mem moves
    exact execStemAck_mail out lockstep wait ctl0 ctl1 free by_ (by omega)
  · exact execStemNoAck_mail out lockstep wait ctl0 ctl1 by_ sent queue busy
  · intro n x c free gated testing rests step
    obtain ⟨u, next, gone, core, site⟩ := execStemAck_admit out lockstep wait ctl0 ctl1 sent by_ op top rfl owner gated testing free
      step rests
    refine ⟨u, next, gone, core.trans ?_, site⟩
    simp [Core.admitted, holds_iff, c, x, n]
  · exact execStemNoAck_silent out lockstep wait ctl0 ctl1 sent by_ own owner opened queue phase stream

end Sys2Proof.Machine

/-! Sexton publishes mailbox commands; SPDM and TDISP (21 R446 to R449, R463; 18 R401). -/

namespace Sys2Proof.Machine

open Sys2Proof

variable {s : State} {p f : Nat} {j : MailJob}

/-! The front of the mailboxes. -/

/-- The port at the front, whose command's result is known. -/
theorem execMailboxCommandComplete_ready {p : PortIx} {c : Half} {r : Dword} (hl : s.sxt.lockstep = false)
    (hq : s.sxt.mailQueue.head? = some p.val) (hj : (s.mbox p).job = some j) (hr : (s.mbox p).ready = some (c, r)) :
    execMailboxCommandComplete p s = .next (s.publish p j c r) := by
  simp [execMailboxCommandComplete, hl, hq, hj, hr]

/-- The port at the front, whose command no row of Sexton's handles. -/
theorem execMailboxCommandComplete_unlisted {p : PortIx} (hl : s.sxt.lockstep = false)
    (hq : s.sxt.mailQueue.head? = some p.val) (hj : (s.mbox p).job = some j) (hr : (s.mbox p).ready = none)
    (ho : mailOpKnown j.op = false) : execMailboxCommandComplete p s = .next (s.publish p j Code.sxtOp 0) := by
  simp [execMailboxCommandComplete, hl, hq, hj, hr, ho]

theorem mailOpKnown_eq_false {op : Nat} (h : op = 0 ∨ 8 < op) : mailOpKnown op = false := by
  rcases h with rfl | h
  · rfl
  · simp [mailOpKnown]; omega

/-- A command that reads host memory ends when the read times out. -/
theorem execSextonDmaTimeout_ends {p : PortIx} (hj : s.mailJob p = some j) (ho : j.op = 3 ∨ j.op = 4 ∨ j.op = 6) :
    execSextonDmaTimeout p s = .next (s.mailEnd p Code.sxtDma 0) := by
  rcases ho with h | h | h <;> simp [execSextonDmaTimeout, hj, h]

/-- A load that times out at its own step of start-up waits again. -/
theorem execSextonDmaTimeout_waits {p : PortIx} (hj : s.mailJob p = some j) (ho : j.op = 1 ∨ j.op = 2)
    (hb : s.sxt.bootStep = 5 ∨ s.sxt.bootStep = 9) :
    execSextonDmaTimeout p s = .next ((s.mailEnd p Code.sxtDma 0).updSxt fun x => { x with waiting := true }) := by
  have hw : ((s.mailEnd p Code.sxtDma 0).updSxt fun x =>
      { x with waiting := x.waiting || x.bootStep == 5 || x.bootStep == 9 })
        = (s.mailEnd p Code.sxtDma 0).updSxt fun x => { x with waiting := true } := by
    refine State.updSxt_congr ?_
    rcases hb with hb | hb <;> simp [State.mailEnd, State.updMbox, State.updSxt, hb]
  rcases ho with h | h <;> simp [execSextonDmaTimeout, hj, h, hw]

/-! A TDI's state. -/

theorem setTdi_quiet {t : Tdi} (h : (s.fn p f).tdi = .run → t = .run ∨ s.fnMeadow p f = none) :
    s.setTdi p f t = s.updFn p f fun x => { x with tdi := t } := by
  unfold State.setTdi
  dsimp only
  split
  case isTrue hr =>
    obtain ht | hn := h hr.1
    · exact absurd ht hr.2
    · rw [hn]
  case isFalse => rfl

/-- A confidential meadow whose TDI leaves RUN is sent a STOP. -/
theorem setTdi_stops {t : Tdi} {m : Nat} (hr : (s.fn p f).tdi = .run) (ht : t ≠ .run) (hm : s.fnMeadow p f = some m)
    (hc : (s.meadow m).confidential = true) :
    s.setTdi p f t = (s.updFn p f fun x => { x with tdi := t }).issueStem ⟨1, (s.meadow m).top, 0, .sexton, false⟩ := by
  unfold State.setTdi
  dsimp only
  rw [if_pos ⟨hr, ht⟩, hm]
  dsimp only
  rw [if_pos hc]
  rfl

/-! The answers of SPDM. -/

theorem identitySign_signs {msg : List Byte} {i : Nat} {k : IdTree} (hb : s.sxt.bootLeaf = some i) (hk : s.sxt.idTree = some k)
    (hi : s.life.identified = true) (hn : s.sxt.sigsLeft ≠ 0) :
    s.identitySign msg = .ok (natToBe 4 1 ++ k.signed ++ k.key ++ (LmsTree.level2 k.name k.seed).sign (1024 - s.sxt.sigsLeft)
      (s.freeBytes 32).1 msg, (s.freeBytes 32).2.updSxt fun x => { x with sigsLeft := x.sigsLeft - 1 }) := by
  simp [State.identitySign, hb, hk, hi, hn]

section
variable {p : PortIx} {f : FnIx} {x y id : List Byte} (hw : s.sxt.fwRunning = true) (hl : s.sxt.lockstep = false)
include hw hl

theorem execSpdmRequest_other : execSpdmRequest p f .other s = .next (s.emit (.spdm p f [])) := by
  simp [execSpdmRequest, hw, hl]

theorem execSpdmRequest_registry (h : id ≠ Config.gnoelliaId) :
    execSpdmRequest p f (.secret id x y) s = .next (s.emit (.spdm p f [])) := by
  simp [execSpdmRequest, hw, hl, h]

theorem execSpdmRequest_secret {i : Nat} {k : IdTree} (hb : s.sxt.bootLeaf = some i) (hk : s.sxt.idTree = some k)
    (hi : s.life.identified = true) (hn : s.sxt.sigsLeft ≠ 0) :
    ∃ t, execSpdmRequest p f (.secret Config.gnoelliaId x y) s = .next t
      ∧ t.sxt.sigsLeft = s.sxt.sigsLeft - 1 ∧ Sparse.get 0 t.sxt.spdm p.val = 1
      ∧ Sparse.get [] t.sxt.psk p.val = sha256 (s.secretOf x ++ natToBytes 16 s.sxt.deviceId)
      ∧ t.out = s.out ++ [.spdm p f (natToBe 4 1 ++ k.signed ++ k.key
          ++ (LmsTree.level2 k.name k.seed).sign (1024 - s.sxt.sigsLeft) (s.freeBytes 32).1 (sha256 (x ++ y)))] := by
  unfold execSpdmRequest
  dsimp only
  rw [if_neg (by simp [hw, hl]), if_neg (by simp), identitySign_signs hb hk hi hn]
  refine ⟨_, rfl, ?_⟩
  dsimp only
  refine ⟨rfl, ?_, ?_, rfl⟩
  · exact Sparse.get_put_same (0 : Nat) s.sxt.spdm p.val 1
  · exact Sparse.get_put_same [] s.sxt.psk p.val (sha256 (s.secretOf x ++ natToBytes 16 s.sxt.deviceId))

theorem execSpdmRequest_psk (h1 : 1 ≤ Sparse.get 0 s.sxt.spdm p.val) (hx : x = Sparse.get [] s.sxt.psk p.val) :
    execSpdmRequest p f (.pskExchange x) s
      = .next ((s.updSxt fun x => { x with spdm := Sparse.put 0 x.spdm p.val 2 }).emit (.spdm p f [0, 0])) := by
  unfold execSpdmRequest
  dsimp only
  rw [if_neg (by simp [hw, hl]), if_pos ⟨h1, hx⟩]
  rfl

theorem execSpdmRequest_wrongPsk (h : Sparse.get 0 s.sxt.spdm p.val = 0 ∨ x ≠ Sparse.get [] s.sxt.psk p.val) :
    execSpdmRequest p f (.pskExchange x) s = .next (s.emit (.spdm p f [])) := by
  unfold execSpdmRequest
  dsimp only
  rw [if_neg (by simp [hw, hl]), if_neg (by rintro ⟨h1, hx⟩; rcases h with h | h; omega; exact h hx)]

theorem execSpdmRequest_ideKm (h2 : Sparse.get 0 s.sxt.spdm p.val = 2) : execSpdmRequest p f (.ideKm x) s
    = .next ((s.updFn p f fun y => { y with ide := true, ideKey := x }).emit (.spdm p f [0, 0])) := by
  unfold execSpdmRequest
  dsimp only
  rw [if_neg (by simp [hw, hl]), if_pos h2]
  rfl

theorem execSpdmRequest_lock (h2 : Sparse.get 0 s.sxt.spdm p.val = 2) (ht : (s.fn p f).tdi = .unlocked) :
    execSpdmRequest p f (.tdisp .lock) s = .next ((s.updFn p f fun x => { x with tdi := .locked }).emit (.spdm p f [0, 0])) := by
  unfold execSpdmRequest
  dsimp only
  rw [if_neg (by simp [hw, hl]), if_neg (by simp [h2]), ht, setTdi_quiet (by simp [ht])]
  rfl

theorem execSpdmRequest_start (h2 : Sparse.get 0 s.sxt.spdm p.val = 2) (ht : (s.fn p f).tdi = .locked)
    (hi : (s.fn p f).ide = true) :
    execSpdmRequest p f (.tdisp .start) s = .next ((s.updFn p f fun x => { x with tdi := .run }).emit (.spdm p f [0, 0])) := by
  unfold execSpdmRequest
  dsimp only
  rw [if_neg (by simp [hw, hl]), if_neg (by simp [h2]), ht, setTdi_quiet fun _ => .inl rfl]
  dsimp only
  rw [if_pos hi]
  rfl

theorem execSpdmRequest_stop (h2 : Sparse.get 0 s.sxt.spdm p.val = 2) :
    execSpdmRequest p f (.tdisp .stop) s = .next ((s.setTdi p f .unlocked).emit (.spdm p f [0, 0])) := by
  unfold execSpdmRequest
  dsimp only
  rw [if_neg (by simp [hw, hl]), if_neg (by simp [h2])]
  cases (s.fn p f).tdi <;> rfl

end

/-- Settles O36: each row of Sexton's, by what it looks at. -/
theorem sextonPublishesAndAnswersSpdm : Obligations.SextonPublishesAndAnswersSpdm := by
  unfold Obligations.SextonPublishesAndAnswersSpdm
  intro p j e r f x y id s
  dsimp only
  refine ⟨fun hl hq hj => ⟨execMailboxCommandComplete_ready hl hq hj, fun hr ho =>
      execMailboxCommandComplete_unlisted hl hq hj hr (mailOpKnown_eq_false ho)⟩,
    fun op hj ho => ?_, fun hw hl => ⟨execSpdmRequest_other hw hl, execSpdmRequest_registry hw hl,
      fun i k hb hk hi hn => execSpdmRequest_secret hw hl hb hk hi hn, execSpdmRequest_psk hw hl,
      execSpdmRequest_wrongPsk hw hl, fun h2 => ⟨execSpdmRequest_ideKm hw hl h2, execSpdmRequest_lock hw hl h2,
        execSpdmRequest_start hw hl h2, fun ht => ?_, fun m ht hm hc => ?_⟩⟩, fun ht err => ⟨fun m hm hc => ?_, fun hm => ?_⟩⟩
  · subst ho
    exact ⟨execSextonDmaTimeout_ends hj, execSextonDmaTimeout_waits hj⟩
  · exact (execSpdmRequest_stop hw hl h2).trans (by rw [setTdi_quiet fun h => absurd h ht])
  · exact (execSpdmRequest_stop hw hl h2).trans (by rw [setTdi_stops ht (by decide) hm hc])
  · show execTdiLeaveRun p f err s = _
    rw [execTdiLeaveRun, if_pos ht, setTdi_stops ht (by cases err <;> decide) hm hc]
  · show execTdiLeaveRun p f err s = _
    rw [execTdiLeaveRun, if_pos ht, setTdi_quiet fun _ => .inr hm]

end Sys2Proof.Machine

/-! Accesses to the registers through BAR0 (18 R384, R386; 26 R528 to R531). -/

namespace Sys2Proof.Machine

open Sys2Proof

variable {s : State} {p : PortIx} {f : FnIx} {off : BitVec 24} {ide : Bool}

/-! Which accesses reach a register. -/

theorem accessOk_iff {o n : Nat} : accessOk o n = true ↔ (n = 4 ∨ n = 8) ∧ o % n = 0 := by simp [accessOk]

/-- Outside the meadow block R388 refuses nothing. -/
theorem bar0Untrusted_outside {p f o : Nat} (h : ¬ (0x20000 ≤ o ∧ o < 0x30000)) : s.bar0Untrusted p f o ide = false := by
  unfold State.bar0Untrusted
  rw [Bool.and_eq_false_iff, Bool.and_eq_false_iff]
  simp only [decide_eq_false_iff_not]
  omega

theorem bar0Untrusted_trusted {p f o : Nat} (h : s.untrusted p f ide = false) : s.bar0Untrusted p f o ide = false := by
  simp [State.bar0Untrusted, h]

theorem bar0Untrusted_refused {p f o : Nat} (lo : 0x20000 ≤ o) (hi : o < 0x30000) (h : s.untrusted p f ide = true) :
    s.bar0Untrusted p f o ide = true := by
  simp [State.bar0Untrusted, lo, hi, h]

/-- A function without a meadow is not confidential. -/
theorem not_untrusted_of_noMeadow {p f : Nat} (h : s.fnMeadow p f = none) : s.untrusted p f ide = false := by
  rw [State.untrusted, h]

/-- What R387 records of an access to BAR0 that R388 refuses. -/
theorem deny_bar0 {p f : Nat} {wr : Bool} : s.deny p f .bar0 off.toNat wr true
    = (s.updPort p fun q => { q with
        denied := satInc q.denied,
        deniedLast := BitVec.ofNat 57 (off.toNat + f * 2 ^ 48 + wr.toNat * 2 ^ 55 + 2 ^ 56) }).raise p f 10 := by
  have last : off.toNat + f * 2 ^ 48 + 0 * 2 ^ 53 + wr.toNat * 2 ^ 55 + true.toNat * 2 ^ 56
      = off.toNat + f * 2 ^ 48 + wr.toNat * 2 ^ 55 + 2 ^ 56 := by rw [Bool.toNat_true]; omega
  rw [deny_eq_refused (by decide : 24 ≤ 48), State.refused, Bar.num, last]

/-! Reads. -/

theorem execReadClear_misaligned {n : Fin 4097} (h : ¬ ((n.val = 4 ∨ n.val = 8) ∧ off.toNat % n.val = 0)) :
    execReadClear p f off n ide s = .next (s.emit (.hostData p f (List.replicate n 0))) := by
  have bad : accessOk off.toNat n = false := by rw [Bool.eq_false_iff]; exact fun a => h (accessOk_iff.mp a)
  simp [execReadClear, bad]

theorem execReadClear_untrusted {n : Fin 4097} (ok : accessOk off.toNat n = true)
    (no : s.bar0Untrusted p f off.toNat ide = true) : execReadClear p f off n ide s
      = .next ((s.deny p f .bar0 off.toNat false true).emit (.hostData p f (onesBytes n))) := by
  simp [execReadClear, ok, no]

/-- A read of the high half of a slot clears nothing. -/
theorem execReadClear_high {n : Fin 4097} (hn : n.val = 4) (ho : off.toNat % 8 = 4)
    (yes : s.bar0Untrusted p f off.toNat ide = false) : execReadClear p f off n ide s
      = .next (s.emit (.hostData p f (natToBytes 4 ((s.slotRead p f (off.toNat - 4)).1 / 2 ^ 32)))) := by
  have ok : accessOk off.toNat n = true := accessOk_iff.mpr ⟨.inl hn, by rw [hn]; omega⟩
  unfold execReadClear
  dsimp only
  rw [if_neg (by simp [ok]), if_neg (by simp [yes]), if_pos ⟨hn, ho⟩]

/-- A read from the low half of a slot gives the register's value, and clears what a read clears. -/
theorem execReadClear_low {n : Fin 4097} (hn : n.val = 4 ∨ n.val = 8) (ho : off.toNat % 8 = 0)
    (yes : s.bar0Untrusted p f off.toNat ide = false) : execReadClear p f off n ide s
      = .next ((s.slotRead p f off.toNat).2.emit (.hostData p f (natToBytes n (s.slotRead p f off.toNat).1))) := by
  have ok : accessOk off.toNat n = true := accessOk_iff.mpr ⟨hn, by rcases hn with h | h <;> rw [h] <;> omega⟩
  simp [execReadClear, ok, yes, ho]

/-- A function without a meadow that is not the PF reads zero. -/
theorem slotRead_noMeadow {p f o : Nat} (hf : f ≠ 0) (hm : s.fnMeadow p f = none) : s.slotRead p f o = (0, s) := by
  simp [State.slotRead, hf, hm]

/-- The count of messages dropped at isolated sites, which a read clears. -/
theorem slotRead_dropIsolated {p : Nat} : s.slotRead p 0 0x100000
    = (s.hub.dropIsolated.toNat, s.updHub fun h => { h with dropIsolated := 0 }) := rfl

/-- A meadow's count of bounces, which a read clears. -/
theorem slotRead_bounces {p f m : Nat} (hm : s.fnMeadow p f = some m) : s.slotRead p f 0x20100
    = ((s.meadow m).bounces.toNat, s.updMeadow m fun x => { x with bounces := 0 }) := by
  unfold State.slotRead
  rw [if_neg (by simp [hm]), hm]
  rfl

/-! Writes. -/

theorem execRegisterWrite_misaligned {k : Fin 513} {v : Dword}
    (h : ¬ ((k.val = 4 ∨ k.val = 8) ∧ off.toNat % k.val = 0)) : execRegisterWrite p f off k v ide s = .next s := by
  have bad : accessOk off.toNat k = false := by rw [Bool.eq_false_iff]; exact fun a => h (accessOk_iff.mp a)
  rw [execRegisterWrite]
  simp only [bad, Bool.not_false, if_true]
  exact attemptWhole_same _ ⟨rfl, rfl, rfl⟩

theorem execRegisterWrite_untrusted {k : Fin 513} {v : Dword} (ok : accessOk off.toNat k = true)
    (no : s.bar0Untrusted p f off.toNat ide = true) :
    execRegisterWrite p f off k v ide s = .next (s.deny p f .bar0 off.toNat true true) := by
  rw [execRegisterWrite]
  simp only [ok, no, Bool.not_true, Bool.false_eq_true, if_false, if_true]
  exact attemptWhole_same _ (State.PkgAlike.deny ..).still

/-- A write of 8 bytes is a write of its whole slot. -/
theorem execRegisterWrite_slot {k : Fin 513} {v : Dword} (hk : k.val = 8) (ho : off.toNat % 8 = 0)
    (yes : s.bar0Untrusted p f off.toNat ide = false) : execRegisterWrite p f off k v ide s
      = s.attemptWhole (.registerWrite p f off k v ide) (.next (s.slotWrite p f off.toNat v.toNat)) := by
  have ok : accessOk off.toNat k = true := accessOk_iff.mpr ⟨.inr hk, by rw [hk]; exact ho⟩
  have slot : off.toNat / 8 * 8 = off.toNat := by omega
  have whole : s.slotValue p f off.toNat true v.toNat = v.toNat := by
    unfold State.slotValue
    exact Nat.mod_eq_of_lt v.isLt
  unfold execRegisterWrite
  dsimp only
  rw [if_neg (by simp [ok]), if_neg (by simp [yes]), if_neg (by omega), slot, hk]
  exact congrArg (fun x => s.attemptWhole _ (.next (s.slotWrite p f off.toNat x))) whole

/-- A write of 8 bytes that leaves package memory alone. -/
theorem execRegisterWrite_still {k : Fin 513} {v : Dword} {t : State} (hk : k.val = 8) (ho : off.toNat % 8 = 0)
    (yes : s.bar0Untrusted p f off.toNat ide = false) (eff : s.slotWrite p f off.toNat v.toNat = t) (pkg : t.pkg = s.pkg) :
    execRegisterWrite p f off k v ide s = .next t := by
  rw [execRegisterWrite_slot hk ho yes, eff, attemptWhole_same _ (State.still_of_pkg pkg)]

theorem slotWrite_noMeadow {p f o v : Nat} (hf : f ≠ 0) (hm : s.fnMeadow p f = none) : s.slotWrite p f o v = s := by
  simp [State.slotWrite, hf, hm]

/-- The selection of a temperature sensor. -/
theorem slotWrite_tempSel {p v : Nat} :
    s.slotWrite p 0 0x160098 v = s.updPower fun x => { x with tempSel := v % 512 } := rfl

/-- An offset of the control page that holds no register. -/
theorem slotWrite_noRegister {p v : Nat} : s.slotWrite p 0 0x1000 v = s := rfl

/-- The limit of a sequencer. -/
theorem slotWrite_limit {p f m v : Nat} {j : Nat} (hj : j < 8) (hm : s.fnMeadow p f = some m) :
    s.slotWrite p f (0x21018 + 0x80 * j) v = s.updMeadow m (·.updSeq j fun q => { q with limit := BitVec.ofNat 32 v }) := by
  have reg : s.mdwWrite m (0x1018 + 0x80 * j) v = s.seqWrite m j 0x18 v := by
    unfold State.mdwWrite
    rw [if_pos (by omega)]
    rw [show (0x1018 + 0x80 * j - 0x1000) / 0x80 = j by omega, show (0x1018 + 0x80 * j - 0x1000) % 0x80 = 0x18 by omega]
  unfold State.slotWrite
  rw [if_neg (by simp [hm]), if_neg (by omega), if_neg (by omega), if_neg (by omega), if_pos (by omega), hm]
  dsimp only
  rw [show 0x21018 + 0x80 * j - 0x20000 = 0x1018 + 0x80 * j by omega, reg]
  rfl

/-- Settles O57: each kind of access, and the registers that the statement samples. -/
theorem registersReadAndWrite : Obligations.RegistersReadAndWrite := by
  unfold Obligations.RegistersReadAndWrite
  intro p f off n k ide v m j s
  dsimp only
  refine ⟨execReadClear_misaligned, execRegisterWrite_misaligned, fun hn ha lo hi no => ?_, fun hk ha lo hi no => ?_,
    execReadClear_high rfl, execReadClear_low, ?_, ?_, ?_, ?_, fun hm yes => ⟨?_, ?_⟩, fun hf hm ho => ⟨?_, ?_⟩⟩
  · refine (execReadClear_untrusted (accessOk_iff.mpr ⟨hn, ha⟩) (bar0Untrusted_refused lo hi no)).trans ?_
    rw [deny_bar0]
    rfl
  · refine (execRegisterWrite_untrusted (accessOk_iff.mpr ⟨hk, ha⟩) (bar0Untrusted_refused lo hi no)).trans ?_
    rw [deny_bar0]
  · exact execReadClear_low (.inr rfl) rfl (bar0Untrusted_outside (by decide))
  · refine (execReadClear_high (n := 4) rfl rfl (bar0Untrusted_outside (by decide))).trans ?_
    rw [show (0x100004 : BitVec 24).toNat - 4 = 0x100000 from rfl]
    exact congrArg (fun x => Host.Outcome.next (s.emit (.hostData p 0 (natToBytes 4 x))))
      (Nat.div_eq_of_lt s.hub.dropIsolated.isLt)
  · refine execRegisterWrite_still rfl rfl (bar0Untrusted_outside (by decide)) ?_ rfl
    rw [show (0x160098 : BitVec 24).toNat = 0x160098 from rfl]
    exact slotWrite_tempSel
  · exact execRegisterWrite_still rfl rfl (bar0Untrusted_outside (by decide)) slotWrite_noRegister rfl
  · refine (execReadClear_low (.inr rfl) rfl (bar0Untrusted_trusted yes)).trans ?_
    rw [show (0x020100 : BitVec 24).toNat = 0x20100 from rfl, slotRead_bounces hm]
    rfl
  · have at_ : (BitVec.ofNat 24 (0x21018 + 0x80 * j.val)).toNat = 0x21018 + 0x80 * j.val := by
      rw [BitVec.toNat_ofNat]; omega
    refine execRegisterWrite_still rfl (by omega) (bar0Untrusted_trusted yes) ?_ rfl
    rw [at_]
    exact slotWrite_limit j.isLt hm
  · refine (execReadClear_low (.inr rfl) ho (bar0Untrusted_trusted (not_untrusted_of_noMeadow hm))).trans ?_
    rw [slotRead_noMeadow (by omega) hm]
    rfl
  · exact execRegisterWrite_still rfl ho (bar0Untrusted_trusted (not_untrusted_of_noMeadow hm)) (slotWrite_noMeadow hf hm) rfl

end Sys2Proof.Machine

/-! Host copies: the engines that serve the rings, the end of a descriptor, and the rings' registers (18 R396 to R399). -/

namespace Sys2Proof

/-! The sum of a weight over a map. -/

section

variable {α : Type} (w : α → Nat)

/-- The sum of a weight over the values of a map. -/
def Sparse.total (m : Sparse α) : Nat := (m.map fun e => w e.2).sum

theorem Sparse.total_cons (e : Nat × α) (r : Sparse α) : Sparse.total w (e :: r) = w e.2 + Sparse.total w r := by
  simp [Sparse.total]

theorem Sparse.total_insert (m : Sparse α) (i : Nat) (v : α) :
    Sparse.total w (Sparse.insert m i v) = w v + Sparse.total w m := by
  induction m with
  | nil => rfl
  | cons e r ih =>
    unfold Sparse.insert
    split
    · rw [Sparse.total_cons]
    · rw [Sparse.total_cons, ih, Sparse.total_cons]; exact Nat.add_left_comm ..

theorem Sparse.get_of_not_mem {d : α} {m : Sparse α} {i : Nat} (h : ∀ e ∈ m, e.1 ≠ i) : Sparse.get d m i = d := by
  induction m with
  | nil => rfl
  | cons e r ih =>
    rw [Sparse.get, if_neg (h e List.mem_cons_self)]
    exact ih fun x mem => h x (List.mem_cons_of_mem _ mem)

theorem Sparse.drop_of_not_mem {m : Sparse α} {i : Nat} (h : ∀ e ∈ m, e.1 ≠ i) : Sparse.drop m i = m := by
  induction m with
  | nil => rfl
  | cons e r ih =>
    rw [Sparse.drop, if_neg (h e List.mem_cons_self), ih fun x mem => h x (List.mem_cons_of_mem _ mem)]

variable [DecidableEq α] {d : α}

/-- Every key of a canonical map is above the bound it rises from. -/
theorem Sparse.lt_of_wfFrom {b : Nat} {m : Sparse α} (wf : Sparse.wfFrom d (some b) m = true) : ∀ e ∈ m, b < e.1 := by
  induction m generalizing b with
  | nil => intro e h; cases h
  | cons e r ih =>
    simp only [Sparse.wfFrom, Bool.and_eq_true, decide_eq_true_eq] at wf
    intro x mem
    rcases List.mem_cons.mp mem with rfl | later
    · exact wf.1.1
    · exact Nat.lt_trans wf.1.1 (ih wf.2 x later)

/-- A canonical map lists each key once, so that a listed value is the one read. -/
theorem Sparse.get_of_mem {b : Option Nat} {m : Sparse α} (wf : Sparse.wfFrom d b m = true) {e : Nat × α} (mem : e ∈ m) :
    Sparse.get d m e.1 = e.2 := by
  induction m generalizing b with
  | nil => cases mem
  | cons x r ih =>
    simp only [Sparse.wfFrom, Bool.and_eq_true] at wf
    rcases List.mem_cons.mp mem with rfl | later
    · exact if_pos rfl
    · have above := Sparse.lt_of_wfFrom wf.2 e later
      rw [Sparse.get, if_neg (Nat.ne_of_lt above)]
      exact ih wf.2 later

theorem Sparse.total_drop {b : Option Nat} {m : Sparse α} {i : Nat} (none_ : w d = 0) (wf : Sparse.wfFrom d b m = true) :
    Sparse.total w (Sparse.drop m i) + w (Sparse.get d m i) = Sparse.total w m := by
  induction m generalizing b with
  | nil => exact (Nat.zero_add _).trans none_
  | cons e r ih =>
    simp only [Sparse.wfFrom, Bool.and_eq_true] at wf
    by_cases here : e.1 = i
    · have rest : ∀ x ∈ r, x.1 ≠ i := fun x mem => by have := Sparse.lt_of_wfFrom wf.2 x mem; omega
      rw [Sparse.drop, if_pos here, Sparse.drop_of_not_mem rest, Sparse.get, if_pos here, Sparse.total_cons]; exact Nat.add_comm ..
    · rw [Sparse.drop, if_neg here, Sparse.get, if_neg here, Sparse.total_cons, Sparse.total_cons, ← ih wf.2]
      exact Nat.add_assoc ..

/-- A write to a canonical map changes the sum by what it changes at its key. -/
theorem Sparse.total_put {m : Sparse α} {i : Nat} {v : α} (none_ : w d = 0) (wf : Sparse.wf d m = true) :
    Sparse.total w (Sparse.put d m i v) + w (Sparse.get d m i) = Sparse.total w m + w v := by
  have drop := Sparse.total_drop w (i := i) none_ wf
  unfold Sparse.put
  split
  · next same => rw [drop, same, none_]; rfl
  · rw [Sparse.total_insert]; omega

end

end Sys2Proof

namespace Sys2Proof.Machine

open Sys2Proof

variable {s t u : State} {p f m i : Nat}

/-! The engines of a port (R396). -/

/-- A free engine of port `p` starts entry `i` of meadow `m`'s ring; the next turn is that of the function after `f`. -/
def State.hcStart (s : State) (p f m i : Nat) : State :=
  (s.updMeadow m fun x => { x with hcFlight := x.hcFlight ++ [⟨i, x.hcBase, false⟩] }).updPort p fun x =>
    { x with hcTurn := (f + 1) % 32 }

/-- Every relation that holds of each start holds of what the engines of a port do. -/
theorem hcServe_rel {R : State → State → Prop} (refl : ∀ s, R s s) (trans : ∀ s t u, R s t → R t u → R s u)
    (start : ∀ s f m i, s.hcPick p = some (f, m, i) → R s (s.hcStart p f m i)) (fuel : Nat) (s : State) :
    R s (s.hcServe p fuel) := by
  induction fuel generalizing s with
  | zero => exact refl s
  | succ n ih =>
    unfold State.hcServe
    split
    · exact refl s
    · next f m i pick => exact trans _ _ _ (start s f m i pick) (ih _)

/-- What lets a free engine start an entry. -/
theorem hcPick_some (pick : s.hcPick p = some (f, m, i)) :
    s.hcBusy p < 16 ∧ (∃ k, s.fnMeadow p k = some m) ∧ (s.meadow m).hcNext = some i := by
  unfold State.hcPick at pick
  split at pick
  · cases pick
  · next room =>
    obtain ⟨k, _, found⟩ := List.exists_of_findSome?_eq_some pick
    obtain ⟨q, carries, next_⟩ := Option.bind_eq_some_iff.mp found
    obtain ⟨j, isNext, same⟩ := Option.map_eq_some_iff.mp next_
    simp only [Prod.mk.injEq] at same
    obtain ⟨_, rfl, rfl⟩ := same
    exact ⟨by omega, ⟨_, carries⟩, isNext⟩

/-- An entry that may start next. -/
theorem hcNext_some {x : Meadow} (next_ : x.hcNext = some i) : x.hcEnable = true ∧ x.hcFlight.length < 4 ∧ i ∈ x.hcRange
    ∧ i ∉ x.hcEnded ∧ ∀ o ∈ x.hcFlight, o.ix = i → o.old = true := by
  unfold Meadow.hcNext at next_
  split at next_
  · cases next_
  · next may =>
    have fits := List.find?_some next_
    simp at may fits
    exact ⟨may.1, may.2, List.mem_of_find?_eq_some next_, fits.2, fits.1⟩

/-- `y` is `x` with entries of its ring started: they lie in its range, were not started before, and are at most four with those
in flight. -/
def Meadow.Starts (x y : Meadow) : Prop :=
  ∃ l, y = { x with hcFlight := x.hcFlight ++ l } ∧ (x.hcEnable = false → l = [])
    ∧ (x.hcFlight.length ≤ 4 → (x.hcFlight ++ l).length ≤ 4)
    ∧ (∀ k ∈ l, k.base = x.hcBase ∧ k.old = false ∧ k.ix ∈ x.hcRange ∧ k.ix ∉ x.hcEnded
      ∧ ∀ o ∈ x.hcFlight, o.ix = k.ix → o.old = true) ∧ (l.map (·.ix)).Nodup

namespace Meadow.Starts

variable {x y z : Meadow}

theorem refl (x : Meadow) : x.Starts x := ⟨[], by simp, fun _ => rfl, by simp, by simp, by simp⟩

theorem trans (a : x.Starts y) (b : y.Starts z) : x.Starts z := by
  obtain ⟨l, rfl, off, four, each, once⟩ := a
  obtain ⟨r, rfl, off', four', each', once'⟩ := b
  refine ⟨l ++ r, by simp, fun dis => by rw [off dis, off' dis]; rfl, fun few => ?_, fun k mem => ?_, ?_⟩
  · rw [← List.append_assoc]; exact four' (four few)
  · rcases List.mem_append.mp mem with first | later
    · exact each k first
    · obtain ⟨base, new, range, open_, old⟩ := each' k later
      exact ⟨base, new, range, open_, fun o mem => old o (List.mem_append_left _ mem)⟩
  · rw [List.map_append, List.nodup_append]
    refine ⟨once, once', fun a left b right same => ?_⟩
    obtain ⟨o, first, rfl⟩ := List.mem_map.mp left
    obtain ⟨k, later, rfl⟩ := List.mem_map.mp right
    have old := (each' k later).2.2.2.2 o (List.mem_append_right _ first) same
    rw [(each o first).2.1] at old
    cases old

theorem next (n : x.hcNext = some i) : x.Starts { x with hcFlight := x.hcFlight ++ [⟨i, x.hcBase, false⟩] } := by
  obtain ⟨en, few, range, open_, old⟩ := hcNext_some n
  refine ⟨[⟨i, x.hcBase, false⟩], rfl, fun dis => ?_, fun _ => by simp; omega, fun k mem => ?_, List.nodup_singleton _⟩
  · rw [en] at dis; cases dis
  · obtain rfl := List.mem_singleton.mp mem
    exact ⟨rfl, rfl, range, open_, old⟩

end Meadow.Starts

/-- What the free engines of a port leave: the meadows but for the entries they start, the ports but for the turn, and the rest. -/
structure State.Served (s t : State) : Prop where
  starts : ∀ m, (s.meadow m).Starts (t.meadow m)
  turn : ∀ q, ∃ turn, t.port q = { s.port q with hcTurn := turn }
  rest : ∃ meadows ports, t = { s with meadows := meadows, ports := ports }

namespace State.Served

theorem refl (s : State) : s.Served s := ⟨fun _ => .refl _, fun q => ⟨(s.port q).hcTurn, rfl⟩, ⟨s.meadows, s.ports, rfl⟩⟩

theorem trans (a : s.Served t) (b : t.Served u) : s.Served u := by
  refine ⟨fun m => (a.starts m).trans (b.starts m), fun q => ?_, ?_⟩
  · obtain ⟨_, first⟩ := a.turn q
    obtain ⟨turn, later⟩ := b.turn q
    exact ⟨turn, by rw [later, first]⟩
  · obtain ⟨_, _, rfl⟩ := a.rest
    obtain ⟨_, _, rfl⟩ := b.rest
    exact ⟨_, _, rfl⟩

theorem start (next_ : (s.meadow m).hcNext = some i) : s.Served (s.hcStart p f m i) := by
  refine ⟨fun n => ?_, fun q => ?_, ⟨_, _, rfl⟩⟩
  · rw [State.hcStart, State.updPort_meadow, State.updMeadow_meadow]
    split
    · next same => subst same; exact .next next_
    · exact .refl _
  · rw [State.hcStart, State.updPort_port]
    split
    · next same => subst same; exact ⟨_, rfl⟩
    · exact ⟨_, rfl⟩

theorem hcServe (s : State) (p fuel : Nat) : s.Served (s.hcServe p fuel) :=
  hcServe_rel refl (fun _ _ _ => trans) (fun _ _ _ _ pick => start (hcPick_some pick).2.2) fuel s

theorem fns (h : s.Served t) : t.fns = s.fns := by obtain ⟨_, _, rfl⟩ := h.rest; rfl
theorem out (h : s.Served t) : t.out = s.out := by obtain ⟨_, _, rfl⟩ := h.rest; rfl
theorem pkg (h : s.Served t) : t.pkg = s.pkg := by obtain ⟨_, _, rfl⟩ := h.rest; rfl
theorem sxt (h : s.Served t) : t.sxt = s.sxt := by obtain ⟨_, _, rfl⟩ := h.rest; rfl
theorem alike (h : s.Served t) : s.PkgAlike t := by obtain ⟨_, _, rfl⟩ := h.rest; exact ⟨rfl, rfl⟩

end State.Served

/-! The bound of sixteen (R396). -/

/-- The descriptors of a meadow that an engine of port `p` holds. -/
def Meadow.held (p : Nat) (x : Meadow) : Nat := if x.state ≠ .absent ∧ x.port = p then x.hcFlight.length else 0

theorem hcBusy_eq_total : s.hcBusy p = Sparse.total (Meadow.held p) s.meadows := by
  unfold State.hcBusy Sparse.total
  induction s.meadows with
  | nil => rfl
  | cons e r ih =>
    rw [List.map_cons, List.sum_cons, ← ih]
    by_cases here : e.2.state ≠ .absent ∧ e.2.port = p
    · rw [List.filter_cons_of_pos (by simpa using here), Meadow.held, if_pos here]; rfl
    · rw [List.filter_cons_of_neg (by simpa using here), Meadow.held, if_neg here, Nat.zero_add]

/-- In canonical form a function's meadow is in existence on the function's port. -/
theorem meadow_of_fnMeadow {k : Nat} (wf : Sparse.wf Meadow.zero s.meadows = true) (carries : s.fnMeadow p k = some m) :
    (s.meadow m).state ≠ .absent ∧ (s.meadow m).port = p := by
  unfold State.fnMeadow at carries
  obtain ⟨e, found, rfl⟩ := Option.map_eq_some_iff.mp carries
  have fits := List.find?_some found
  have same : s.meadow e.1 = e.2 := Sparse.get_of_mem wf (List.mem_of_find?_eq_some found)
  rw [same]
  simp at fits
  exact ⟨fits.1.1, fits.1.2⟩

/-- A start takes one engine. -/
theorem hcBusy_start (wf : Sparse.wf Meadow.zero s.meadows = true) (pick : s.hcPick p = some (f, m, i)) :
    (s.hcStart p f m i).hcBusy p = s.hcBusy p + 1 := by
  obtain ⟨_, ⟨k, carries⟩, _⟩ := hcPick_some pick
  have here := meadow_of_fnMeadow wf carries
  let x := s.meadow m
  have sum : Sparse.total (Meadow.held p) (s.hcStart p f m i).meadows + Meadow.held p x
      = Sparse.total (Meadow.held p) s.meadows + Meadow.held p { x with hcFlight := x.hcFlight ++ [⟨i, x.hcBase, false⟩] } :=
    Sparse.total_put _ (if_neg fun h => h.1 rfl) wf
  have before : Meadow.held p x = x.hcFlight.length := if_pos here
  have after : Meadow.held p { x with hcFlight := x.hcFlight ++ [⟨i, x.hcBase, false⟩] } = x.hcFlight.length + 1 :=
    (if_pos here).trans (by simp)
  rw [hcBusy_eq_total, hcBusy_eq_total]
  omega

/-- With a canonical table of meadows the engines of a port hold at most sixteen descriptors, and none is free while one may start. -/
theorem hcServe_bound (fuel : Nat) (s : State) (wf : Sparse.wf Meadow.zero s.meadows = true) (enough : 16 ≤ s.hcBusy p + fuel) :
    (s.hcBusy p ≤ 16 → (s.hcServe p fuel).hcBusy p ≤ 16)
      ∧ (16 ≤ (s.hcServe p fuel).hcBusy p ∨ (s.hcServe p fuel).hcPick p = none) := by
  induction fuel generalizing s with
  | zero => exact ⟨id, .inl enough⟩
  | succ n ih =>
    unfold State.hcServe
    split
    · next idle => exact ⟨id, .inr idle⟩
    · next f m i pick =>
      have one := hcBusy_start wf pick
      have room := (hcPick_some pick).1
      have := ih (s.hcStart p f m i) (Sparse.wf_put _ _ _ _ wf) (by omega)
      exact ⟨fun _ => this.1 (by omega), this.2⟩

/-! What notes and vectors leave. -/

/-- `t` is `s` but for notes to cores, vectors, and what is sent out after what was. -/
structure State.Notified (s t : State) : Prop where
  rest : ∃ hub fns out, t = { s with hub := hub, fns := fns, out := out }
  tdi : ∀ p f, (t.fn p f).tdi = (s.fn p f).tdi
  out : ∃ l, t.out = s.out ++ l

namespace State.Notified

theorem refl (s : State) : s.Notified s := ⟨⟨s.hub, s.fns, s.out, rfl⟩, fun _ _ => rfl, [], (List.append_nil _).symm⟩

theorem trans (a : s.Notified t) (b : t.Notified u) : s.Notified u := by
  refine ⟨?_, fun p f => (b.tdi p f).trans (a.tdi p f), ?_⟩
  · obtain ⟨_, _, _, rfl⟩ := a.rest
    obtain ⟨_, _, _, rfl⟩ := b.rest
    exact ⟨_, _, _, rfl⟩
  · obtain ⟨l, first⟩ := a.out
    obtain ⟨r, later⟩ := b.out
    exact ⟨l ++ r, by rw [later, first, List.append_assoc]⟩

theorem emit (s : State) (o : Output) : s.Notified (s.emit o) := ⟨⟨s.hub, s.fns, _, rfl⟩, fun _ _ => rfl, [o], rfl⟩

theorem updFn (s : State) (p f : Nat) (g : HostFn → HostFn) (tdi : ∀ x, (g x).tdi = x.tdi) : s.Notified (s.updFn p f g) := by
  refine ⟨⟨s.hub, _, s.out, rfl⟩, fun q k => ?_, [], (List.append_nil _).symm⟩
  by_cases same : 32 * p + f = 32 * q + k
  · have read (t : State) : t.fn q k = t.fn p f := by unfold State.fn; rw [same]
    rw [read, read, State.updFn_fn_same, tdi]
  · rw [State.updFn_fn_ne s g same]

theorem raise (s : State) (p f v : Nat) : s.Notified (s.raise p f v) := by
  unfold State.raise
  split
  · exact emit ..
  · exact updFn _ _ _ _ fun _ => rfl

theorem tryNote (s : State) (core queue : Nat) (o : NoteOf) (b : List Byte) : s.Notified (s.tryNote core queue o b) := by
  unfold State.tryNote State.hubNote
  split
  · exact refl s
  · split
    · exact refl s
    · exact ⟨⟨_, s.fns, s.out, rfl⟩, fun _ _ => rfl, [], (List.append_nil _).symm⟩

theorem ite {c : Prop} [Decidable c] (h : s.Notified t) : s.Notified (if c then t else s) := by
  split
  · exact h
  · exact refl s

theorem updMeadow (h : s.Notified t) (m : Nat) (g : Meadow → Meadow) : (s.updMeadow m g).Notified (t.updMeadow m g) := by
  refine ⟨?_, h.tdi, h.out⟩
  obtain ⟨_, _, _, rfl⟩ := h.rest
  exact ⟨_, _, _, rfl⟩

theorem meadow (h : s.Notified t) (m : Nat) : t.meadow m = s.meadow m := by obtain ⟨_, _, _, rfl⟩ := h.rest; rfl
theorem sxt (h : s.Notified t) : t.sxt = s.sxt := by obtain ⟨_, _, _, rfl⟩ := h.rest; rfl
theorem alike (h : s.Notified t) : s.PkgAlike t := by obtain ⟨_, _, _, rfl⟩ := h.rest; exact ⟨rfl, rfl⟩

end State.Notified

/-! The end of a descriptor (R396 to R398). -/

/-- A meadow's ring after the end of descriptor `e`. -/
def Meadow.hcEnds (x : Meadow) (e : HcFlight) : Meadow :=
  let y := { x with
    hcFlight := x.hcFlight.erase e,
    hcEnded := if !e.old && x.hcRange.contains e.ix then x.hcEnded ++ [e.ix] else x.hcEnded }
  y.hcAdvance 4096

theorem Meadow.hcAdvance_eq (fuel : Nat) (x : Meadow) :
    ∃ head ended, x.hcAdvance fuel = { x with hcHead := head, hcEnded := ended } := by
  induction fuel generalizing x with
  | zero => exact ⟨_, _, rfl⟩
  | succ n ih =>
    unfold Meadow.hcAdvance
    dsimp only
    split
    · obtain ⟨head, ended, same⟩ := ih _
      exact ⟨head, ended, same⟩
    · exact ⟨_, _, rfl⟩

theorem Meadow.hcEnds_eq (x : Meadow) (e : HcFlight) : ∃ flight head ended,
    x.hcEnds e = { x with hcFlight := flight, hcHead := head, hcEnded := ended } := by
  unfold Meadow.hcEnds
  dsimp only
  obtain ⟨head, ended, same⟩ := Meadow.hcAdvance_eq 4096 { x with
    hcFlight := x.hcFlight.erase e,
    hcEnded := if !e.old && x.hcRange.contains e.ix then x.hcEnded ++ [e.ix] else x.hcEnded }
  exact ⟨_, head, ended, same⟩

/-- Descriptor `e` of meadow `m` no longer in flight, with STATUS and then DONE written to its entry. -/
def State.hcWritten (s : State) (m : Nat) (e : HcFlight) (c : Half) : State :=
  let x := s.meadow m
  let ide := x.confidential && (s.fn x.port x.fn).tdi == .run
  ((s.updMeadow m (·.hcEnds e)).emit (.hostWrite x.port x.fn (e.base + 64 * e.ix + 28) (natToBytes 2 c.toNat) ide)).emit
    (.hostWrite x.port x.fn (e.base + 64 * e.ix + 30) [1] ide)

/-- What the end of a descriptor tells a core and the host afterwards. -/
theorem hcEnd_notified (s : State) (m : Nat) (e : HcFlight) (d : List Byte) (c : Half) :
    (s.hcWritten m e c).Notified (s.hcEnd m e d c) := by
  unfold State.hcEnd State.hcWritten
  dsimp only
  refine State.Notified.trans (State.Notified.updMeadow (s := (s.emit _).emit _) ?_ m (·.hcEnds e)) (.ite (.raise ..))
  exact .trans (.ite (.tryNote ..)) (.ite (.raise ..))

theorem hcWritten_alike (e : HcFlight) (c : Half) : s.PkgAlike (s.hcWritten m e c) := by
  unfold State.hcWritten
  exact ((State.PkgAlike.updMeadow ..).trans (.emit ..)).trans (.emit ..)

/-- The end of a descriptor delays no request. -/
theorem hcEnd_alike (e : HcFlight) (d : List Byte) (c : Half) : s.PkgAlike (s.hcEnd m e d c) :=
  (hcWritten_alike e c).trans (hcEnd_notified s m e d c).alike

/-! The ring's registers (R397, R399). -/

section

variable {m : MeadowIx} {v : Word}

theorem execHcopyTail_may (may : s.hostMay m) : execHcopyTail m v s = .next (s.hcTailWrite m v.toNat) :=
  congrArg Host.Outcome.next (hostRow_may _ _ may)

theorem execHcopyEnable_may (may : s.hostMay m) : execHcopyEnable m v s = .next (s.hcControlWrite m v.toNat) :=
  congrArg Host.Outcome.next (hostRow_may _ _ may)

end

section

variable {v : Nat} (here : (s.meadow m).state ≠ .absent)

include here

theorem hcTailWrite_beyond (out : 2 ^ (s.meadow m).hcSize ≤ bitsOf v 11 0) :
    s.hcTailWrite m v = s.refuseWrite (s.meadow m).port (s.meadow m).fn Code.hostRing (0x20000 + 0x190) := by
  unfold State.hcTailWrite
  dsimp only
  rw [if_neg here, if_pos out]
  rfl

theorem hcTailWrite_inside (inside : bitsOf v 11 0 < 2 ^ (s.meadow m).hcSize) : s.hcTailWrite m v
    = (s.updMeadow m fun x => { x with hcTail := BitVec.ofNat 32 (bitsOf v 11 0) }).hcServe (s.meadow m).port 16 := by
  unfold State.hcTailWrite
  dsimp only
  rw [if_neg here, if_neg (Nat.not_le.mpr inside)]

theorem hcControlWrite_refused (bad : bitsOf v 3 0 < 4 ∨ 12 < bitsOf v 3 0
      ∨ ((s.meadow m).hcEnable = true ∧ bitsOf v 3 0 ≠ (s.meadow m).hcSize)) :
    s.hcControlWrite m v = s.refuseWrite (s.meadow m).port (s.meadow m).fn Code.hostRing (0x20000 + 0x188) := by
  unfold State.hcControlWrite
  dsimp only
  rw [if_neg here, if_pos bad]
  rfl

/-- Enabling a ring sets HEAD to TAIL, and what is in flight is of the ring before. -/
theorem hcControlWrite_taken (lo : 4 ≤ bitsOf v 3 0) (hi : bitsOf v 3 0 ≤ 12)
    (same : (s.meadow m).hcEnable = true → bitsOf v 3 0 = (s.meadow m).hcSize) :
    s.hcControlWrite m v = s.updMeadow m fun x =>
      let y := { x with hcSize := bitsOf v 3 0, hcEnable := bitOf v 4 }
      if bitOf v 4 = true ∧ x.hcEnable = false then
        { y with hcHead := x.hcTail, hcEnded := [], hcFlight := x.hcFlight.map fun e => { e with old := true } }
      else y := by
  have good : ¬ (bitsOf v 3 0 < 4 ∨ 12 < bitsOf v 3 0
      ∨ ((s.meadow m).hcEnable = true ∧ bitsOf v 3 0 ≠ (s.meadow m).hcSize)) := by
    rintro (h | h | ⟨on, ne⟩)
    · omega
    · omega
    · exact ne (same on)
  unfold State.hcControlWrite
  dsimp only
  rw [if_neg here, if_neg good]
  simp only [Bool.not_eq_true']

end

/-! The end of a descriptor as the engine read it (R398). -/

section

variable {e : HcFlight} {d got : List Byte} {took : Nat}

theorem hcRun_notTrusted (conf : (s.meadow m).confidential = true)
    (out : (s.fn (s.meadow m).port (s.meadow m).fn).tdi ≠ .run) :
    s.hcRun m e (some d) got took = s.hcEnd m e d Code.hostNotTrusted := if_pos ⟨conf, out⟩

variable (may : (s.meadow m).confidential = false ∨ (s.fn (s.meadow m).port (s.meadow m).fn).tdi = .run)

include may

theorem hcRun_malformed (bad : s.hcDescOk m (s.meadow m).fn d = false) :
    s.hcRun m e (some d) got took = s.hcEnd m e d Code.hostDescriptor := by
  unfold State.hcRun
  dsimp only
  rw [if_neg (by rintro ⟨conf, out⟩; rcases may with h | h; rw [h] at conf; cases conf; exact out h), if_pos (by simp [bad])]

theorem hcRun_moves (good : s.hcDescOk m (s.meadow m).fn d = true) : s.hcRun m e (some d) got took
    = (s.hcMove m (s.meadow m).port (s.meadow m).fn d got took).2.hcEnd m e d
      (s.hcMove m (s.meadow m).port (s.meadow m).fn d got took).1 := by
  unfold State.hcRun
  dsimp only
  rw [if_neg (by rintro ⟨conf, out⟩; rcases may with h | h; rw [h] at conf; cases conf; exact out h), if_neg (by simp [good])]

end

section

variable {m : MeadowIx} {ix : BitVec 12} {desc : Option (List Byte)} {got : List Byte} {took : Word} {e : HcFlight}

theorem execHcopyComplete_nothing (none_ : ((s.meadow m).hcFlight.find? fun e => e.ix = ix.toNat) = none) :
    execHcopyComplete m ix desc got took s = .next s := by
  unfold execHcopyComplete
  rw [none_]
  exact attemptWhole_same _ ⟨rfl, rfl, rfl⟩

/-- A descriptor in flight ends with `c` after its transfer `t`, and a free engine looks for the next. -/
theorem execHcopyComplete_ends {d : List Byte} {c : Half} (here : (s.meadow m).state ≠ .absent)
    (first : ((s.meadow m).hcFlight.find? fun e => e.ix = ix.toNat) = some e)
    (run : s.hcRun m e desc got took.toNat = t.hcEnd m e d c) (free : s.undelayed t) :
    execHcopyComplete m ix desc got took s = .next (s.completed ((t.hcEnd m e d c).hcServe (s.meadow m).port 16)) := by
  unfold execHcopyComplete
  rw [first]
  dsimp only
  rw [if_neg here, run]
  exact attemptWhole_undelayed _ (((hcEnd_alike e d c).trans (State.Served.hcServe ..).alike).undelayed free)

end

/-- STATUS and then DONE of a descriptor go out before anything else of its end. -/
theorem hcEnd_out (e : HcFlight) (d : List Byte) (c : Half) :
    let x := s.meadow m
    let ide := x.confidential && (s.fn x.port x.fn).tdi == .run
    ∃ l, (s.hcEnd m e d c).out = s.out ++ [.hostWrite x.port x.fn (e.base + 64 * e.ix + 28) (natToBytes 2 c.toNat) ide,
      .hostWrite x.port x.fn (e.base + 64 * e.ix + 30) [1] ide] ++ l := by
  dsimp only
  obtain ⟨l, out⟩ := (hcEnd_notified s m e d c).out
  exact ⟨l, out.trans (congrArg (· ++ l) (List.append_assoc s.out [_] [_]))⟩

/-- Settles O47: the ring's registers, the ends of a descriptor, and what the engines of a port leave. -/
theorem hostCopiesRunAndEnd : Obligations.HostCopiesRunAndEnd := by
  unfold Obligations.HostCopiesRunAndEnd
  intro m v ix e d got took s
  dsimp only
  refine ⟨fun no => ⟨?_, ?_⟩, fun may here => ⟨fun out => ?_, fun inside => ?_, fun bad => ?_, fun lo hi same => ?_⟩,
    execHcopyComplete_nothing, fun here first => ⟨execHcopyComplete_ends here first rfl, fun conf out =>
      execHcopyComplete_ends here first (hcRun_notTrusted conf out), fun may => ⟨fun bad =>
        execHcopyComplete_ends here first (hcRun_malformed may bad), fun good =>
          execHcopyComplete_ends here first (hcRun_moves may good)⟩⟩, fun c t => hcEnd_out e d c, fun p s => ?_⟩
  · exact congrArg Host.Outcome.next (hostRow_denied 0x190 _ no)
  · exact congrArg Host.Outcome.next (hostRow_denied 0x188 _ no)
  · exact (execHcopyTail_may may).trans (congrArg _ (hcTailWrite_beyond here out))
  · exact (execHcopyTail_may may).trans (congrArg _ (hcTailWrite_inside here inside))
  · exact (execHcopyEnable_may may).trans (congrArg _ (hcControlWrite_refused here bad))
  · exact (execHcopyEnable_may may).trans (congrArg _ (hcControlWrite_taken here lo hi same))
  · have served := State.Served.hcServe s p 16
    exact ⟨served.starts, served.turn, served.fns, served.out, served.pkg, fun wf =>
      hcServe_bound 16 s wf (Nat.le_add_left ..)⟩

end Sys2Proof.Machine

/-! Resets of functions and of a port's link (18 R382 to R385, R401). -/

namespace Sys2Proof.Machine

open Sys2Proof

variable {s t u : State} {p f m : Nat}

/-! What a stem command's effect leaves of the host ports (R342). -/

/-- The rings stay as they were enabled, and the TDIs as they were. -/
structure State.SameHost (s t : State) : Prop where
  enable : ∀ m, (t.meadow m).hcEnable = (s.meadow m).hcEnable
  tdi : ∀ p f, (t.fn p f).tdi = (s.fn p f).tdi

namespace State.SameHost

theorem refl (s : State) : s.SameHost s := ⟨fun _ => rfl, fun _ _ => rfl⟩

theorem trans (a : s.SameHost t) (b : t.SameHost u) : s.SameHost u :=
  ⟨fun m => (b.enable m).trans (a.enable m), fun p f => (b.tdi p f).trans (a.tdi p f)⟩

theorem foldl {β : Type} {g : State → β → State} (h : ∀ (u : State) x, u.SameHost (g u x)) (l : List β) (s : State) :
    s.SameHost (l.foldl g s) := by
  induction l generalizing s with
  | nil => exact refl s
  | cons x r ih => exact (h s x).trans (ih _)

theorem of_notified (h : s.Notified t) : s.SameHost t := ⟨fun m => by rw [h.meadow], h.tdi⟩

theorem updCores (s : State) (l : List Nat) (g : Core → Core) : s.SameHost (s.updCores l g) :=
  foldl (g := fun u n => u.updCore n g) (fun _ _ => ⟨fun _ => rfl, fun _ _ => rfl⟩) l s

theorem updBases (s : State) (l : List Nat) (g : Base → Base) : s.SameHost (s.updBases l g) :=
  foldl (g := fun u b => u.updBase b g) (fun _ _ => ⟨fun _ => rfl, fun _ _ => rfl⟩) l s

theorem updMeadow (s : State) (m : Nat) (g : Meadow → Meadow) (keep : ∀ x, (g x).hcEnable = x.hcEnable := by exact fun _ => rfl) :
    s.SameHost (s.updMeadow m g) := by
  refine ⟨fun n => ?_, fun _ _ => rfl⟩
  rw [State.updMeadow_meadow]
  split
  · next same => subst same; exact keep _
  · rfl

theorem raiseM (s : State) (m v : Nat) : s.SameHost (s.raiseM m v) := of_notified (.raise ..)

theorem failEpoch (s : State) (m : Nat) (code : Half) : s.SameHost (s.failEpoch m code) := by
  unfold State.failEpoch
  split
  · exact ((updCores s ..).trans (updMeadow ..)).trans (raiseM ..)
  · exact ((updCores s ..).trans (updMeadow ..)).trans (raiseM ..)
  · split
    · exact updMeadow ..
    · exact refl s
  · exact refl s

theorem stopMeadow (s : State) (m : Nat) : s.SameHost (s.stopMeadow m) := by
  have stop (g : Meadow → Meadow) (keep : ∀ x, (g x).hcEnable = x.hcEnable := by exact fun _ => rfl) :
      s.SameHost ((s.stopCores (s.meadowCores m)).updMeadow m g) := (updCores s ..).trans (updMeadow _ _ _ keep)
  unfold State.stopMeadow
  split
  · exact (stop _).trans (raiseM ..)
  · exact (stop _).trans (raiseM ..)
  · exact (stop _).trans (raiseM ..)
  · exact stop _
  · exact stop _
  · exact refl s
  · exact refl s

theorem resetDomain (s : State) (d : Domain) (code : Half) : s.SameHost (s.resetDomain d code) := by
  have fails (ms l : List Nat) : s.SameHost ((ms.foldl (fun u m => u.failEpoch m code) s).resetCores l) :=
    (foldl (fun u m => failEpoch u m code) ms s).trans (updCores ..)
  have whole (ms l k : List Nat) (g : Core → Core) (h : Hub → Hub) : s.SameHost
      (((ms.foldl (fun u m => (u.updBases (s.meadowBases m) Base.clear).updMeadow m Meadow.forget)
        ((ms.foldl (fun u m => u.failEpoch m code) s).resetCores l)).updCores k g).updHub h) :=
    ((fails ms l).trans (foldl (fun u m => (updBases u _ _).trans (updMeadow ..)) ms _)).trans
      ((updCores ..).trans ⟨fun _ => rfl, fun _ _ => rfl⟩)
  unfold State.resetDomain
  cases d with
  | core n => exact (updCores s ..).trans ⟨fun _ => rfl, fun _ _ => rfl⟩
  | tussock id => exact (fails ..).trans (updBases ..)
  | meadow m => exact (fails ..).trans ((updBases ..).trans (updMeadow ..))
  | heath => exact whole ..
  | warm => exact whole ..

theorem stemReset (s : State) (id : Nat) : s.SameHost (s.stemReset id).2 := by
  unfold State.stemReset
  dsimp only
  split
  · exact ⟨fun _ => rfl, fun _ _ => rfl⟩
  · exact resetDomain ..

theorem watchCommand (s : State) (l : List Nat) (arg : Nat) : s.SameHost (s.watchCommand l arg) := by
  have sets : s.SameHost (match bitsOf arg 3 0 with
    | 0 => s.updCores (l.flatMap coresOfBase) fun c => { c with progress := false }
    | 1 => s.updBases l fun b => { b with watchSuspended := true }
    | 2 => s.updBases l fun b => { b with watchSuspended := false }
    | _ => s) := by
    split
    · exact updCores ..
    · exact updBases ..
    · exact updBases ..
    · exact refl s
  unfold State.watchCommand
  dsimp only
  split
  · exact sets.trans ⟨fun _ => rfl, fun _ _ => rfl⟩
  · exact sets

theorem applyStem (s : State) (c : StemCmd) : s.SameHost (s.applyStem c).2 := by
  have stop : s.SameHost (match s.meadowOfTop c.target with
    | some m => s.stopMeadow m
    | none => s.stopCores ((s.coresOf c.target).getD [])) := by
    split
    · exact stopMeadow ..
    · exact updCores ..
  unfold State.applyStem
  dsimp only
  split
  · exact stop
  · split
    · exact (updCores ..).trans ⟨fun _ => rfl, fun _ _ => rfl⟩
    · exact stop.trans ⟨fun _ => rfl, fun _ _ => rfl⟩
  · exact stemReset ..
  · dsimp only
    split
    · exact refl s
    · exact updMeadow ..
  · exact watchCommand ..
  · exact refl s

theorem issueStem (s : State) (c : StemCmd) : s.SameHost (s.issueStem c) :=
  (issueStem_keeps (P := fun _ => True) (R := s.SameHost) (fun _ _ _ h => h.trans ⟨fun _ => rfl, fun _ _ => rfl⟩)
    (fun u k _ h => h.trans (applyStem u k)) (refl s) (fun _ _ => trivial) trivial).1

end State.SameHost

/-! A STOP of Sexton's own (R342, R343). -/

/-- A STOP that Sexton sends for itself. -/
def StemCmd.IsStop (c : StemCmd) : Prop := c.op = 1 ∧ c.waits = false

theorem pickStem_split {out wait r : List StemCmd} {k : StemCmd} (pick : pickStem out wait = some (k, r)) :
    ∀ x ∈ wait, x = k ∨ x ∈ r := by
  induction wait generalizing r with
  | nil => cases pick
  | cons c l ih =>
    unfold pickStem at pick
    split at pick
    · cases pick
      exact fun x => List.mem_cons.mp
    · obtain ⟨⟨k', l'⟩, found, same⟩ := Option.map_eq_some_iff.mp pick
      cases same
      intro x mem
      rcases List.mem_cons.mp mem with rfl | later
      · exact .inr List.mem_cons_self
      · exact (ih found x later).imp_right (List.mem_cons_of_mem _)

/-- A STOP that waits or is unacknowledged does so after every issue. -/
theorem mem_pumpStem {c : StemCmd} (stop : c.IsStop) (fuel : Nat) (s : State) (mem : c ∈ s.sxt.stemWait ++ s.sxt.stemOut) :
    c ∈ (State.pumpStem fuel s).sxt.stemWait ++ (State.pumpStem fuel s).sxt.stemOut := by
  induction fuel generalizing s with
  | zero => exact mem
  | succ n ih =>
    unfold State.pumpStem
    split
    · exact mem
    · split
      · exact mem
      · next k rest pick =>
        refine ih _ ?_
        generalize taken : (s.updSxt fun x => { x with stemWait := rest }) = u
        have wait : (u.applyStem k).2.sxt.stemWait = rest :=
          (State.ControlOnly.applyStem u k).stemWait.trans (by rw [← taken]; rfl)
        have out : (u.applyStem k).2.sxt.stemOut = s.sxt.stemOut :=
          (State.ControlOnly.applyStem u k).stemOut.trans (by rw [← taken]; rfl)
        show c ∈ (u.applyStem k).2.sxt.stemWait ++ ((u.applyStem k).2.sxt.stemOut ++ [{ k with waits := (u.applyStem k).1 }])
        rw [wait, out]
        rcases List.mem_append.mp mem with waits | mem
        · rcases pickStem_split pick c waits with rfl | later
          · rw [applyStem_stop stop.1, ← stop.2]
            exact List.mem_append_right _ (List.mem_append_right _ List.mem_cons_self)
          · exact List.mem_append_left _ later
        · exact List.mem_append_right _ (List.mem_append_left _ mem)

theorem mem_issueStem {c : StemCmd} (stop : c.IsStop) : c ∈ (s.issueStem c).sxt.stemWait ++ (s.issueStem c).sxt.stemOut :=
  mem_pumpStem stop 4 _ (List.mem_append_left _ (List.mem_append_right _ List.mem_cons_self))

theorem mem_issueStem_of_mem {c k : StemCmd} (stop : c.IsStop) (mem : c ∈ s.sxt.stemWait ++ s.sxt.stemOut) :
    c ∈ (s.issueStem k).sxt.stemWait ++ (s.issueStem k).sxt.stemOut := by
  refine mem_pumpStem stop 4 _ ?_
  rcases List.mem_append.mp mem with waits | out
  · exact List.mem_append_left _ (List.mem_append_left _ waits)
  · exact List.mem_append_right _ out

/-- Meadow `m` stands stopped, from the state `was`. -/
def State.StoppedFrom (s : State) (m : Nat) (was : MState) : Prop := (s.meadow m).state = .stopped ∧ (s.meadow m).stopWas = was

section

variable {was : MState}

theorem stopMeadow_stops (live : (s.meadow m).state = .ready ∨ (s.meadow m).state = .opened ∨ (s.meadow m).state = .failed) :
    (s.stopMeadow m).StoppedFrom m (s.meadow m).state := by
  unfold State.stopMeadow State.StoppedFrom
  rcases live with h | h | h
  all_goals
    rw [h]
    dsimp only
    rw [raiseM_meadow, State.updMeadow_meadow_same]
    exact ⟨rfl, rfl⟩

theorem stopMeadow_meadow_ne {k : Nat} (other : k ≠ m) : (s.stopMeadow k).meadow m = s.meadow m := by
  have kept (g : Meadow → Meadow) : (((s.stopCores (s.meadowCores k)).updMeadow k g).meadow m) = s.meadow m := by
    rw [State.updMeadow_meadow_ne _ _ other]
    exact State.updCores_meadow ..
  unfold State.stopMeadow
  split
  · rw [raiseM_meadow, kept]
  · rw [raiseM_meadow, kept]
  · rw [raiseM_meadow, kept]
  · rw [kept]
  · rw [kept]
  · rfl
  · rfl

/-- A STOP of any meadow leaves one that is stopped as it is. -/
theorem State.StoppedFrom.stopMeadow (h : s.StoppedFrom m was) (k : Nat) : (s.stopMeadow k).StoppedFrom m was := by
  by_cases same : k = m
  · subst same
    unfold State.stopMeadow
    rw [h.1]
    exact h
  · unfold State.StoppedFrom
    rw [stopMeadow_meadow_ne same]
    exact h

theorem State.StoppedFrom.applyStem (h : s.StoppedFrom m was) {c : StemCmd} (op : c.op = 1) : (s.applyStem c).2.StoppedFrom m was := by
  rw [applyStem_stop op]
  dsimp only
  split
  · exact h.stopMeadow _
  · unfold State.StoppedFrom
    rw [State.stopCores, State.updCores_meadow]
    exact h

/-- With no other commands waiting a further STOP leaves a stopped meadow as it is. -/
theorem State.StoppedFrom.issueStem (h : s.StoppedFrom m was) (waiting : ∀ k ∈ s.sxt.stemWait, k.op = 1) {c : StemCmd}
    (op : c.op = 1) : (s.issueStem c).StoppedFrom m was ∧ ∀ k ∈ (s.issueStem c).sxt.stemWait, k.op = 1 :=
  issueStem_keeps (P := fun k => k.op = 1) (R := fun u => u.StoppedFrom m was) (fun _ _ _ h => h)
    (fun _ _ op h => h.applyStem op) h waiting op

/-- A STOP that meets no command before it and finds a place takes effect at once. -/
theorem issueStem_stops {c : StemCmd} (op : c.op = 1) (top : s.meadowOfTop c.target = some m) (lockstep : s.sxt.lockstep = false)
    (wait : s.sxt.stemWait = []) (place : stemPlace s.sxt.stemOut c = true)
    (live : (s.meadow m).state = .ready ∨ (s.meadow m).state = .opened ∨ (s.meadow m).state = .failed) :
    (s.issueStem c).StoppedFrom m (s.meadow m).state ∧ (s.issueStem c).sxt.stemWait = [] := by
  have effect : s.applyStem c = (false, s.stopMeadow m) := by rw [applyStem_stop op, top]
  rw [issueStem_place lockstep wait place, issued_eq effect]
  exact ⟨stopMeadow_stops live, (State.ControlOnly.stopMeadow s m).stemWait.trans wait⟩

end

/-! What the ends of a ring's descriptors leave (R397). -/

/-- `t` is `s` but for host copies, notes, vectors and what is sent out. -/
structure State.CopiesOnly (s t : State) : Prop where
  sxt : t.sxt = s.sxt
  tdi : ∀ p f, (t.fn p f).tdi = (s.fn p f).tdi
  meadow : ∀ m, ∃ flight head ended, t.meadow m = { s.meadow m with hcFlight := flight, hcHead := head, hcEnded := ended }

namespace State.CopiesOnly

theorem refl (s : State) : s.CopiesOnly s := ⟨rfl, fun _ _ => rfl, fun m => ⟨_, (s.meadow m).hcHead, _, rfl⟩⟩

theorem trans (a : s.CopiesOnly t) (b : t.CopiesOnly u) : s.CopiesOnly u := by
  refine ⟨b.sxt.trans a.sxt, fun p f => (b.tdi p f).trans (a.tdi p f), fun m => ?_⟩
  obtain ⟨_, _, _, first⟩ := a.meadow m
  obtain ⟨flight, head, ended, later⟩ := b.meadow m
  exact ⟨flight, head, ended, by rw [later, first]⟩

theorem foldl {β : Type} {g : State → β → State} (h : ∀ (u : State) x, u.CopiesOnly (g u x)) (l : List β) (s : State) :
    s.CopiesOnly (l.foldl g s) := by
  induction l generalizing s with
  | nil => exact refl s
  | cons x r ih => exact (h s x).trans (ih _)

theorem hcEnd (s : State) (m : Nat) (e : HcFlight) (d : List Byte) (c : Half) : s.CopiesOnly (s.hcEnd m e d c) := by
  have h := hcEnd_notified s m e d c
  unfold State.hcWritten at h
  dsimp only at h
  refine ⟨?_, fun p f => ?_, fun n => ?_⟩
  · rw [h.sxt, State.emit_sxt, State.emit_sxt, State.updMeadow_sxt]
  · rw [h.tdi, State.emit_fn, State.emit_fn, State.updMeadow_fn]
  · rw [h.meadow, State.emit_meadow, State.emit_meadow, State.updMeadow_meadow]
    split
    · next same => subst same; exact Meadow.hcEnds_eq ..
    · exact ⟨_, (s.meadow n).hcHead, _, rfl⟩

theorem hcServe (s : State) (p fuel : Nat) : s.CopiesOnly (s.hcServe p fuel) := by
  have h := State.Served.hcServe s p fuel
  refine ⟨h.sxt, fun p f => by unfold State.fn; rw [h.fns], fun m => ?_⟩
  obtain ⟨l, same, _⟩ := h.starts m
  exact ⟨_, (s.meadow m).hcHead, _, same⟩

theorem enable (h : s.CopiesOnly t) (m : Nat) : (t.meadow m).hcEnable = (s.meadow m).hcEnable := by
  obtain ⟨_, _, _, same⟩ := h.meadow m; rw [same]

theorem stoppedFrom (h : s.CopiesOnly t) {was : MState} (stopped : s.StoppedFrom m was) : t.StoppedFrom m was := by
  obtain ⟨_, _, _, same⟩ := h.meadow m
  unfold State.StoppedFrom
  rw [same]
  exact stopped

end State.CopiesOnly

/-! A function's reset (R385, R401). -/

/-- A meadow's ring and its Cicada rings disabled. -/
def Meadow.disable (x : Meadow) : Meadow :=
  { x with hcEnable := false, cicRing := (upFrom 0 6).foldl (fun r n =>
    let v := Sparse.get (4 * 2 ^ 48) r n
    Sparse.put (4 * 2 ^ 48) r n (if bitOf v 52 then v - 2 ^ 52 else v)) x.cicRing }

/-- A function's meadow at the reset: stopped where it was not, then its rings disabled, then its descriptors ended. -/
theorem resetFnMeadow_ends (l : List (MeadowIx × BitVec 12 × List Byte)) :
    ((if (s.meadow m).state = .stopped then s
      else s.issueStem ⟨1, (s.meadow m).top, 0, .sexton, false⟩).updMeadow m Meadow.disable).CopiesOnly (s.resetFnMeadow l m) :=
  State.CopiesOnly.foldl (fun u e => .hcEnd u m e _ _) _ _

/-- A TDI changes state, and the meadow of its function may be sent a STOP. -/
theorem setTdi_cases (s : State) (p f : Nat) (t : Tdi) : s.setTdi p f t = s.updFn p f (fun x => { x with tdi := t })
    ∨ (s.fn p f).tdi = .run ∧ ∃ m, s.setTdi p f t
      = (s.updFn p f fun x => { x with tdi := t }).issueStem ⟨1, (s.meadow m).top, 0, .sexton, false⟩ := by
  unfold State.setTdi
  dsimp only
  split
  · next leaves =>
    split
    · next m _ =>
      split
      · exact .inr ⟨leaves.1, m, rfl⟩
      · exact .inl rfl
    · exact .inl rfl
  · exact .inl rfl

/-- Every property that a STOP of Sexton's own and the TDI's fields leave holds after the TDI's change. -/
theorem setTdi_keeps {R : State → Prop} (next : Tdi) (tdi : R (s.updFn p f fun x => { x with tdi := next }))
    (stop : ∀ u m, R u → R (u.issueStem ⟨1, (s.meadow m).top, 0, .sexton, false⟩)) : R (s.setTdi p f next) := by
  rcases setTdi_cases s p f next with same | ⟨_, m, same⟩
  · rw [same]; exact tdi
  · rw [same]; exact stop _ m tdi

/-- What a reset of a function clears in it. -/
structure HostFn.Cleared (x : HostFn) : Prop where
  tdi : x.tdi = .unlocked
  table : x.table = []
  unmasked : x.unmasked = []
  pend : x.pend = []

theorem resetFn_fn (l : List (MeadowIx × BitVec 12 × List Byte)) : ((s.resetFn l p f).fn p f).Cleared := by
  have unlocked : ∀ u : State, ((u.setTdi p f .unlocked).fn p f).tdi = .unlocked := fun u =>
    setTdi_keeps (s := u) (R := fun v => (v.fn p f).tdi = .unlocked) .unlocked (by rw [State.updFn_fn_same])
      fun v m h => ((State.SameHost.issueStem v _).tdi p f).trans h
  unfold State.resetFn
  dsimp only
  rw [State.updFn_fn_same]
  exact ⟨unlocked _, rfl, rfl, rfl⟩

/-- Without a meadow the function's own fields are all that a reset changes. -/
theorem resetFn_noMeadow (l : List (MeadowIx × BitVec 12 × List Byte)) (no : s.fnMeadow p f = none) : s.resetFn l p f
    = s.updFn p f fun x => { x with tdi := .unlocked, table := [], unmasked := [], pend := [] } := by
  unfold State.resetFn
  rw [no]
  dsimp only
  rw [setTdi_quiet fun _ => .inr no]
  exact State.updFn_updFn ..

section

variable (l : List (MeadowIx × BitVec 12 × List Byte)) (carries : s.fnMeadow p f = some m)

include carries

theorem resetFn_meadow : s.resetFn l p f
    = ((s.resetFnMeadow l m).setTdi p f .unlocked).updFn p f fun x => { x with table := [], unmasked := [], pend := [] } := by
  unfold State.resetFn
  rw [carries]

/-- Every property that the STOPs of Sexton's own, the ends of host copies and the function's fields leave holds after the reset
where it holds of the meadow stopped with its ring disabled. -/
theorem resetFn_keeps {R : State → Prop} (ends : ∀ u v : State, u.CopiesOnly v → R u → R v)
    (fields : ∀ (u : State) g, R u → R (u.updFn p f g))
    (stop : ∀ (u : State) c, c.IsStop → R u → R (u.issueStem c))
    (start : R ((if (s.meadow m).state = .stopped then s
      else s.issueStem ⟨1, (s.meadow m).top, 0, .sexton, false⟩).updMeadow m Meadow.disable)) :
    R ((s.resetFn l p f).hcServe p 16) := by
  rw [resetFn_meadow l carries]
  refine ends _ _ (.hcServe ..) (fields _ _ (setTdi_keeps _ (fields _ _ ?_) fun u k => stop u _ ⟨rfl, rfl⟩))
  exact ends _ _ (resetFnMeadow_ends l) start

theorem resetFn_disables : (((s.resetFn l p f).hcServe p 16).meadow m).hcEnable = false :=
  resetFn_keeps l carries (R := fun u => (u.meadow m).hcEnable = false) (fun _ _ h off => (h.enable m).trans off) (fun _ _ h => h)
    (fun u c _ h => ((State.SameHost.issueStem u c).enable m).trans h) (by rw [State.updMeadow_meadow_same]; rfl)

/-- A meadow that is not stopped is sent a STOP. -/
theorem resetFn_sends (live : (s.meadow m).state ≠ .stopped) : (⟨1, (s.meadow m).top, 0, .sexton, false⟩ : StemCmd)
    ∈ ((s.resetFn l p f).hcServe p 16).sxt.stemWait ++ ((s.resetFn l p f).hcServe p 16).sxt.stemOut := by
  refine resetFn_keeps l carries (R := fun u => (⟨1, (s.meadow m).top, 0, .sexton, false⟩ : StemCmd)
    ∈ u.sxt.stemWait ++ u.sxt.stemOut) (fun _ _ h mem => by rw [h.sxt]; exact mem) (fun _ _ h => h)
    (fun _ _ _ h => mem_issueStem_of_mem ⟨rfl, rfl⟩ h) ?_
  rw [if_neg live]
  exact mem_issueStem ⟨rfl, rfl⟩

/-- The STOP takes effect at once where it meets no command before it and finds a place. -/
theorem resetFn_stops (lockstep : s.sxt.lockstep = false) (wait : s.sxt.stemWait = [])
    (place : stemPlace s.sxt.stemOut ⟨1, (s.meadow m).top, 0, .sexton, false⟩ = true)
    (top : s.meadowOfTop (s.meadow m).top = some m)
    (live : (s.meadow m).state = .ready ∨ (s.meadow m).state = .opened ∨ (s.meadow m).state = .failed) :
    ((s.resetFn l p f).hcServe p 16).StoppedFrom m (s.meadow m).state := by
  refine (resetFn_keeps l carries (R := fun u => u.StoppedFrom m (s.meadow m).state ∧ ∀ k ∈ u.sxt.stemWait, k.op = 1)
    (fun _ _ c h => ⟨c.stoppedFrom h.1, by rw [c.sxt]; exact h.2⟩) (fun _ _ h => h)
    (fun _ _ stop h => h.1.issueStem h.2 stop.1) ?_).1
  have awake : (s.meadow m).state ≠ .stopped := by rcases live with h | h | h <;> rw [h] <;> decide
  have issued := issueStem_stops (c := ⟨1, (s.meadow m).top, 0, .sexton, false⟩) rfl top lockstep wait place live
  rw [if_neg awake]
  refine ⟨?_, fun k mem => ?_⟩
  · unfold State.StoppedFrom
    rw [State.updMeadow_meadow_same]
    exact issued.1
  · rw [State.updMeadow_sxt, issued.2] at mem
    cases mem

/-- A meadow that is stopped, of a function whose TDI is not in RUN, is sent none. -/
theorem resetFn_quiet (stopped : (s.meadow m).state = .stopped) (out : (s.fn p f).tdi ≠ .run) :
    ((s.resetFn l p f).hcServe p 16).sxt = s.sxt := by
  have ends := resetFnMeadow_ends (s := s) (m := m) l
  rw [if_pos stopped] at ends
  rw [(State.CopiesOnly.hcServe ..).sxt, resetFn_meadow l carries,
    setTdi_quiet fun run => absurd ((ends.tdi p f).symm.trans run) out]
  exact ends.sxt

end

/-- A link trains while the block has power (R382, R469). -/
theorem execLinkTraining_trains {p : PortIx} {rate : Fin 7} {width : Fin 9} {flit vc1 : Bool} (on : s.sxt.power = true)
    (fast : rate.val ≠ 0) (lanes : width = 1 ∨ width = 2 ∨ width = 4 ∨ width = 8) :
    execLinkTraining p rate width flit vc1 s = .next (s.updPort p fun _ =>
      { s.port p with perst := false, rate := rate, width := width, flit := flit, vc1 := vc1 }) := by
  have known : [1, 2, 4, 8].contains width.val = true := by rcases lanes with rfl | rfl | rfl | rfl <;> rfl
  unfold execLinkTraining
  rw [if_neg (by simp only [on, known]; simp [fast])]
  rfl

/-- Settles O48: a link's training, and a function's reset by what it keeps; the events of a port reset its functions in turn. -/
theorem portsLinkAndFunctionsReset : Obligations.PortsLinkAndFunctionsReset := by
  unfold Obligations.PortsLinkAndFunctionsReset
  intro p f rate width flit vc1 descs s
  dsimp only
  refine ⟨execLinkTraining_trains, fun off => ?_, fun no => ?_, fun m carries => ⟨_, rfl, ?_⟩, rfl, rfl, fun up => ?_,
    fun down => ?_⟩
  · exact congrArg Host.Outcome.next (if_pos (by simp [off]))
  · exact congrArg (fun t => Host.Outcome.next (t.hcServe p 16)) (resetFn_noMeadow descs no)
  · have fields : ((((s.resetFn descs p f).hcServe p 16)).fn p f).Cleared := by
      have same : ((s.resetFn descs p f).hcServe p 16).fn p f = (s.resetFn descs p f).fn p f := by
        unfold State.fn; rw [(State.Served.hcServe ..).fns]
      rw [same]
      exact resetFn_fn descs
    exact ⟨fields.tdi, fields.table, fields.pend, fields.unmasked, resetFn_disables descs carries,
      fun live => ⟨resetFn_sends descs carries live, resetFn_stops descs carries⟩, resetFn_quiet descs carries⟩
  · exact congrArg Host.Outcome.next (if_pos up)
  · exact congrArg Host.Outcome.next (if_neg down)

end Sys2Proof.Machine

/-!
What Sexton's own work keeps of the commands held back, the device generation, the times of warm resets, and the A1 out of service
(21 R451; 23 R480, R493, R494).
-/

namespace Sys2Proof.Machine

open Sys2Proof

/-! Package memory at work (R310 to R319). -/

/-- The accesses to package memory change package memory alone, record a write that a frozen page drops, or put the A1 out of
service. -/
inductive State.Serves : State → State → Prop
  | pkg {s t : State} (h : s.PkgOnly t) : State.Serves s t
  | bench (s : State) (cause : Half) : State.Serves s (s.bench cause)
  | drop (s : State) (ms : List Nat) (pa agent : Nat) : State.Serves s (s.frozenDrop ms pa agent)
  | trans {s t u : State} (a : State.Serves s t) (b : State.Serves t u) : State.Serves s u

namespace State.Serves

variable {s t u : State}

theorem refl (s : State) : s.Serves s := .pkg (.refl s)
theorem of_pkgOnly (h : s.PkgOnly t) : s.Serves t := .pkg h
theorem updPkg (s : State) (f : Pkg → Pkg) (keys : (f s.pkg).keys = s.pkg.keys := by rfl) : s.Serves (s.updPkg f) :=
  .pkg (.updPkg s f keys)
theorem updStack (s : State) (k : Nat) (f : Stack → Stack) : s.Serves (s.updStack k f) := .pkg (.updStack ..)

theorem ite {c : Prop} [Decidable c] (a : s.Serves t) (b : s.Serves u) : s.Serves (if c then t else u) := by
  split
  · exact a
  · exact b

theorem retire (s : State) (pa : Nat) : s.Serves (s.retire pa) := by
  unfold State.retire
  exact ite (refl s) (ite (updPkg ..) (.bench ..))

theorem uncorrectableAt (s : State) (pa : Nat) : s.Serves (s.uncorrectableAt pa) := by
  unfold State.uncorrectableAt
  exact ite (updStack ..) ((updStack ..).trans (retire ..))

theorem rebuild (s : State) (sec : Nat) : s.Serves (s.rebuild sec).state := by
  have mates := PkgOnly.readMates (s.stripeMates (32 * sec)) s
  unfold State.rebuild
  dsimp only
  split
  next e => exact of_pkgOnly (by rwa [e] at mates)
  next e =>
    rw [e] at mates
    split
    next => exact of_pkgOnly mates
    next p => exact of_pkgOnly ((mates.trans (.readParity p)).trans (.absorb ..))

theorem rebuildFails (s : State) (pa : Nat) (r : Rebuilt) : r.state.Serves (s.rebuildFails pa r) := by
  unfold State.rebuildFails
  cases r with
  | done t => exact refl t
  | data q t => exact uncorrectableAt ..
  | parity t => exact ite ((updStack ..).trans (retire ..)) (uncorrectableAt ..)

theorem serve (s : State) (pa : Nat) : s.Serves (s.serve pa).2 := by
  have built := rebuild s (pa / 32)
  have failed := built.trans (rebuildFails s pa _)
  unfold State.serve
  dsimp only
  split
  · split
    · split
      next e => rwa [e] at built
      next => exact failed
    · exact uncorrectableAt ..
  · split
    next e => exact of_pkgOnly (.readOwn e)
    next =>
      split
      · split
        next e => rw [e] at built; exact built.trans (of_pkgOnly (.countCorrected ..))
        next => exact failed
      · exact uncorrectableAt ..

theorem readFirst (s : State) (pa : Nat) (whole : Bool) : s.Serves (s.readFirst pa whole).2 := by
  have mates := PkgOnly.readMates (s.stripeMates pa) s
  unfold State.readFirst
  split
  · exact refl s
  · split
    · split
      next e => rw [e] at mates; exact of_pkgOnly mates
      next e => rw [e] at mates; exact (of_pkgOnly mates).trans (uncorrectableAt ..)
    · exact serve ..

theorem writeSec (s : State) (pa : Nat) (b : List Byte) : s.Serves (s.writeSec pa b).2 := by
  have read := (of_pkgOnly (.settleOwn s pa)).trans (readFirst (s.settleOwn pa) pa (pa % 32 = 0 && b.length = 32))
  unfold State.writeSec
  split
  · exact of_pkgOnly (.wait s)
  · split
    next e => rw [e] at read; exact read.trans (of_pkgOnly (.store ..))
    next e => rwa [e] at read

theorem readSec (s : State) (pa n : Nat) : s.Serves (s.readSec pa n).2 := by
  have served := (of_pkgOnly (.settleOwn s pa)).trans (serve (s.settleOwn pa) pa)
  unfold State.readSec
  split
  · exact of_pkgOnly (.wait s)
  · split
    next e => rwa [e] at served
    next e => rwa [e] at served

theorem agentWrite (s : State) (agent pa : Nat) (b : List Byte) (via : Option Nat) : s.Serves (s.agentWrite agent pa b via) := by
  unfold State.agentWrite
  exact ite (updPkg ..) (ite (.drop ..) (writeSec ..))

end State.Serves

/-! The records that all of it keeps. -/

/-- `t` holds back the commands that `s` does, with its device generation and its times of warm resets; it is out of service where
`s` is. -/
structure State.Steady (s t : State) : Prop where
  held : t.held = s.held
  devGen : t.sxt.devGen = s.sxt.devGen
  warmTimes : t.sxt.warmTimes = s.sxt.warmTimes
  benched : s.sxt.benched = true → t.sxt.benched = true

namespace State.Steady

variable {s t u : State}

theorem trans (a : s.Steady t) (b : t.Steady u) : s.Steady u :=
  ⟨b.held.trans a.held, b.devGen.trans a.devGen, b.warmTimes.trans a.warmTimes, fun h => b.benched (a.benched h)⟩

/-- Sexton and what is held back left as they are. -/
theorem of_eq (held : t.held = s.held) (sxt : t.sxt = s.sxt) : s.Steady t := ⟨held, by rw [sxt], by rw [sxt], by rw [sxt]; exact id⟩

theorem refl (s : State) : s.Steady s := of_eq rfl rfl

theorem of_pkgOnly (h : s.PkgOnly t) : s.Steady t := by obtain ⟨_, _, rfl⟩ := h; exact of_eq rfl rfl

theorem of_controlOnly (h : s.ControlOnly t) : s.Steady t := by
  obtain ⟨_, _, _, _, _, _, _, _, rfl⟩ := h.eq; exact ⟨rfl, rfl, rfl, id⟩

theorem foldl {β : Type} {f : State → β → State} (h : ∀ (u : State) x, u.Steady (f u x)) (l : List β) (s : State) :
    s.Steady (l.foldl f s) := by
  induction l generalizing s with
  | nil => exact refl s
  | cons x r ih => exact (h s x).trans (ih _)

theorem ite {c : Prop} [Decidable c] (a : s.Steady t) (b : s.Steady u) : s.Steady (if c then t else u) := by
  split
  · exact a
  · exact b

/-! Updates of one unit. -/

theorem updCore (s : State) (n : Nat) (f : Core → Core) : s.Steady (s.updCore n f) := of_eq rfl rfl
theorem updCores (s : State) (l : List Nat) (f : Core → Core) : s.Steady (s.updCores l f) := of_controlOnly (.updCores ..)
theorem updBase (s : State) (b : Nat) (f : Base → Base) : s.Steady (s.updBase b f) := of_eq rfl rfl
theorem updBases (s : State) (l : List Nat) (f : Base → Base) : s.Steady (s.updBases l f) := of_controlOnly (.updBases ..)
theorem updMeadow (s : State) (m : Nat) (f : Meadow → Meadow) : s.Steady (s.updMeadow m f) := of_eq rfl rfl
theorem updHub (s : State) (f : Hub → Hub) : s.Steady (s.updHub f) := of_eq rfl rfl
theorem updTrn (s : State) (f : Trn → Trn) : s.Steady (s.updTrn f) := of_eq rfl rfl
theorem updSw (s : State) (n : Nat) (f : SwLink → SwLink) : s.Steady (s.updSw n f) := of_eq rfl rfl
theorem updPipe (s : State) (n : Nat) (f : Pipe → Pipe) : s.Steady (s.updPipe n f) := of_eq rfl rfl
theorem updPort (s : State) (p : Nat) (f : Port → Port) : s.Steady (s.updPort p f) := of_eq rfl rfl
theorem updPkg (s : State) (f : Pkg → Pkg) : s.Steady (s.updPkg f) := of_eq rfl rfl
theorem updStack (s : State) (k : Nat) (f : Stack → Stack) : s.Steady (s.updStack k f) := of_eq rfl rfl
theorem emit (s : State) (o : Output) : s.Steady (s.emit o) := of_eq rfl rfl
theorem setHeath (s : State) (x : Heath) : s.Steady { s with heath := x } := of_eq rfl rfl
theorem setPower (s : State) (x : Power) : s.Steady { s with power := x } := of_eq rfl rfl
theorem freeBytes (s : State) (k : Nat) : s.Steady (s.freeBytes k).2 := of_eq rfl rfl
theorem freshKey (s : State) (slot : Nat) : s.Steady (s.freshKey slot) := of_eq rfl rfl
theorem raise (s : State) (p f v : Nat) : s.Steady (s.raise p f v) := of_controlOnly (.raise ..)
theorem raiseM (s : State) (m v : Nat) : s.Steady (s.raiseM m v) := raise ..

/-- A change of Sexton's other records. -/
theorem updSxt (s : State) (f : Sexton → Sexton) (devGen : (f s.sxt).devGen = s.sxt.devGen := by rfl)
    (warmTimes : (f s.sxt).warmTimes = s.sxt.warmTimes := by rfl)
    (benched : s.sxt.benched = true → (f s.sxt).benched = true := by exact id) : s.Steady (s.updSxt f) :=
  ⟨rfl, devGen, warmTimes, benched⟩

/-! Stops, failures and stem commands (R342, R354, R361, R494). -/

theorem failEpoch (s : State) (m : Nat) (code : Half) : s.Steady (s.failEpoch m code) := of_controlOnly (.failEpoch ..)
theorem stopMeadow (s : State) (m : Nat) : s.Steady (s.stopMeadow m) := of_controlOnly (.stopMeadow ..)
theorem resetDomain (s : State) (d : Domain) (code : Half) : s.Steady (s.resetDomain d code) := of_controlOnly (.resetDomain ..)

theorem bench (s : State) (cause : Half) : s.Steady (s.bench cause) := by
  have marked : s.Steady (s.updSxt fun x =>
      { x with benched := true, cause := if x.benched ∧ x.cause ≠ Code.benched then x.cause else cause }) :=
    updSxt s _ rfl rfl fun _ => rfl
  unfold State.bench
  exact ite marked (marked.trans (foldl stopMeadow _ _))

theorem pumpStem (fuel : Nat) (s : State) : s.Steady (State.pumpStem fuel s) := by
  induction fuel generalizing s with
  | zero => exact refl s
  | succ n ih =>
    unfold State.pumpStem
    split
    · exact refl s
    · split
      · exact refl s
      · exact (((updSxt ..).trans (of_controlOnly (.applyStem ..))).trans (updSxt ..)).trans (ih _)

theorem issueStem (s : State) (c : StemCmd) : s.Steady (s.issueStem c) := (updSxt s _).trans (pumpStem ..)
theorem issueAdmits (s : State) (l : List Nat) (by_ : StemBy) : s.Steady (s.issueAdmits l by_) := (updSxt s _).trans (pumpStem ..)

theorem of_serves (h : s.Serves t) : s.Steady t := by
  induction h with
  | pkg h => exact of_pkgOnly h
  | bench s cause => exact bench s cause
  | drop => exact foldl (fun _ _ => updMeadow ..) _ _
  | trans _ _ a b => exact a.trans b

theorem agentWrite (s : State) (agent pa : Nat) (b : List Byte) (via : Option Nat) : s.Steady (s.agentWrite agent pa b via) :=
  of_serves (.agentWrite ..)

theorem physWrite (agent fuel pa : Nat) (b : List Byte) (s : State) : s.Steady (s.physWrite agent fuel pa b) := by
  induction fuel generalizing s pa b with
  | zero => exact refl s
  | succ n ih => exact ite (refl s) ((agentWrite ..).trans (ih ..))

theorem ringPut (s : State) (a : Nat) (b : List Byte) : s.Steady (s.ringPut a b) := physWrite ..

theorem settledFrom (s t : State) : t.Steady (s.settledFrom t) := of_pkgOnly (.settledFrom ..)
theorem sentFrom (s t : State) : t.Steady (s.sentFrom t) := of_pkgOnly (.sentFrom ..)

/-- A step of Sexton's own is taken or left for another cycle. -/
theorem orSkip (h : s.Steady t) : s.Steady (s.orSkip t) :=
  ite (refl s) ((h.trans (settledFrom ..)).trans (sentFrom ..))

/-! The transport session and its memory (R410, R413). -/

theorem raisePortCount (s : State) : s.Steady s.raisePortCount := (updTrn s _).trans (ringPut ..)

theorem hubNote {core queue : Nat} {o : NoteOf} {payload : List Byte} (e : s.hubNote core queue o payload = some t) : s.Steady t := by
  unfold State.hubNote at e
  split at e
  · cases e
  · split at e
    · cases e
    · cases e; exact updHub ..

theorem frameNote (s : State) (frame slot flags missing : Nat) : s.Steady (s.frameNote frame slot flags missing) := by
  unfold State.frameNote
  refine ite (refl s) ?_
  dsimp only
  split
  next e => exact hubNote e
  next => exact updTrn ..

theorem finishFrame (s : State) (f : TrnFrame) : s.Steady (s.finishFrame f) :=
  ((((ringPut ..).trans (raisePortCount _)).trans (updTrn ..))).trans (frameNote ..)

theorem mmp (s : State) (type : Nat) (pay : List Byte) : s.Steady (s.mmp type pay) := of_eq rfl rfl

theorem endSession (s : State) (code : Half) : s.Steady (s.endSession code) :=
  ite (refl s) ((ite (refl s) (foldl finishFrame _ s)).trans (updTrn ..))

/-! Teardown and the settings of a stream (R31, R57, R362, R462). -/

theorem gateBase (s : State) (b : Nat) : s.Steady (s.gateBase b) := (updCores ..).trans (updBase ..)
theorem returnBase (s : State) (b : Nat) : s.Steady (s.returnBase b) := (updCores ..).trans (updBase ..)
theorem loseStores (s : State) (m k : Nat) : s.Steady (s.loseStores m k) := updMeadow ..

theorem teardown (s : State) (m slot : Nat) (bases : List Nat) : s.Steady (s.teardown m slot bases) := by
  unfold State.teardown
  refine trans ?_ (updMeadow ..)
  refine trans ?_ (foldl (fun _ _ => trans (gateBase ..) (updCores ..)) _ _)
  refine trans ?_ (freshKey ..)
  exact trans (ite (endSession ..) (refl s)) (foldl (fun _ _ => updPipe ..) _ _)

theorem putSettings (s t : State) : t.Steady (s.putSettings t).2 := by
  unfold State.putSettings
  dsimp only
  refine trans ?_ (foldl (fun u m => ?kept) _ _)
  refine trans ?_ (foldl (fun u m => ?made) _ _)
  refine trans ?_ (foldl (fun u n => ?moved) _ _)
  refine trans ?_ (foldl (fun u c => ?owner) _ _)
  exact foldl (fun u m => teardown u m _ []) _ t
  case owner =>
    split
    · exact (gateBase ..).trans (updCores ..)
    · exact ((returnBase ..).trans (updCores ..)).trans (updBase ..)
  case moved =>
    split
    · exact ite (updCore ..) ((updCore ..).trans (loseStores ..))
    · exact updCore ..
  case made => exact of_eq rfl rfl
  case kept => exact ite (refl u) (freshKey ..)

theorem cutSite (before : Sparse Bool) (s : State) (site : Nat) : s.Steady (cutSite before s site) := by
  unfold Machine.cutSite
  exact ite (refl s) (ite (of_eq rfl rfl) (ite (of_eq rfl rfl) (refl s)))

theorem qApply (s : State) (r : QRec) : s.Steady (qApply s r) := by
  unfold Machine.qApply
  dsimp only
  split
  case h_1 => exact ite (of_eq rfl rfl) (of_eq rfl rfl)
  case h_11 => exact ite (of_eq rfl rfl) (of_eq rfl rfl)
  case h_3 => exact ite (updMeadow ..) (updMeadow ..)
  case h_5 =>
    refine ite (of_eq rfl rfl) ?_
    refine trans ?_ (foldl (cutSite _) _ _)
    exact of_eq rfl rfl
  all_goals exact of_eq rfl rfl

theorem qRecords {x : QCtx} {last : Nat} {seen : List (Nat × Nat)} {l : List QRec} (e : Machine.qRecords x last seen s l = .ok t) :
    s.Steady t := by
  induction l generalizing x last seen s with
  | nil => unfold Machine.qRecords at e; cases e; exact refl _
  | cons r l ih =>
    unfold Machine.qRecords at e
    dsimp only at e
    split at e
    · cases e
    · split at e
      · cases e
      · split at e
        · cases e
        · exact (qApply s r).trans (ih e)

theorem fillRows (s : State) (recs : List QRec) : s.Steady (fillRows s recs) := by
  refine foldl (fun u row => ite (refl u) ?_) _ s
  dsimp only
  refine trans ?_ (foldl (fun v c => ite (updBase ..) (refl v)) _ _)
  exact of_eq rfl rfl

/-- An accepted stream's settings are those in force with its records applied. -/
theorem checkStream {n : Nat} {b : List Byte} {q : QOk} (e : s.checkStream n b = .ok q) : s.Steady q.set := by
  unfold State.checkStream at e
  dsimp only at e
  split at e
  · cases e
  · split at e
    · cases e
    · split at e
      · cases e
      · next recorded =>
        have start : s.Steady (if (!bitOf ((wordsOf n b).getD 1 0) 16) = true then s.blankSettings else s) :=
          ite (of_eq rfl rfl) (refl s)
        have applied := qRecords recorded
        have set := start.trans (trans (setHeath _ _) applied)
        split at e
        · cases e
        · cases e
          exact ite (set.trans (fillRows ..)) set

theorem acceptGuard (s : State) (r : QRec) : s.Steady (s.acceptGuard r) := by
  have registered (g : Guard) : s.Steady (s.registerGuard g) := (ite (refl s) (updSxt ..)).trans (updSxt ..)
  unfold State.acceptGuard
  dsimp only
  split
  · exact updSxt ..
  · exact (registered _).trans (updSxt ..)
  · exact registered _

theorem cicOwners (s : State) : s.Steady s.cicOwners := foldl (fun _ _ => updPipe ..) _ s
theorem swApply (s : State) : s.Steady s.swApply := foldl (fun _ _ => updSw ..) _ s
theorem trnApply (s : State) : s.Steady s.trnApply := of_eq rfl rfl

theorem failStopped (s : State) (ms : List Nat) : s.Steady (s.failStopped ms) :=
  foldl (fun u _ => ite (failEpoch ..) (refl u)) ms s

theorem bootDone (s : State) : s.Steady s.bootDone := ((updSxt ..).trans (raise ..)).trans (raise ..)

theorem startAdmission (s : State) : s.Steady s.startAdmission := by
  have marked : s.Steady (s.updSxt fun x => { x with bootStep := 10, waiting := false, bootCode := Code.ok }) := updSxt ..
  unfold State.startAdmission
  exact ite marked (ite (marked.trans (bootDone _)) (marked.trans (issueAdmits ..)))

theorem recorded (s : State) (q : QOk) : q.set.Steady (s.recorded q) := by
  have guarded : q.set.Steady (match q.guard with
      | some r => (s.putSettings q.set).2.acceptGuard r
      | none => (s.putSettings q.set).2) := by
    split
    · exact (putSettings ..).trans (acceptGuard ..)
    · exact putSettings ..
  refine trans ?_ (cicOwners _)
  exact trans guarded (of_eq rfl rfl)

theorem acceptQorf (s : State) (q : QOk) (admits : Option StemBy) : q.set.Steady (s.acceptQorf q admits) := by
  refine (recorded s q).trans ?_
  rw [State.acceptQorf_eq]
  generalize s.recorded q = t
  dsimp only
  refine ite ?_ ?_
  · refine trans ?_ (startAdmission _)
    refine trans ?_ (trnApply _)
    exact trans (setPower ..) (swApply _)
  · split
    · exact trans (failStopped ..) (issueAdmits ..)
    · exact failStopped ..

/-! Epochs that end, and switches (R349 to R361, R490). -/

theorem noteDropped (s : State) (k : Msg) : s.Steady (s.noteDropped k) :=
  of_eq (by unfold State.noteDropped; split <;> (try split) <;> rfl) (State.SameMeadows.noteDropped s k).sxt

theorem boundaryClear (s : State) (m : Nat) : s.Steady (s.boundaryClear m) := by
  unfold State.boundaryClear
  refine trans ?_ (updMeadow ..)
  refine trans ?_ (updBases ..)
  refine trans ?_ (updCores ..)
  exact trans (foldl (fun u k => ite (noteDropped ..) (refl u)) _ s) (updHub ..)

theorem beginSwitch (s : State) (m next : Nat) : s.Steady (s.beginSwitch m next) := by
  unfold State.beginSwitch
  dsimp only
  split
  · exact updMeadow ..
  · exact ite (updMeadow ..) (updMeadow ..)

theorem readyHook (s : State) (m : Nat) : s.Steady (s.readyHook m) := ite (beginSwitch ..) (refl s)

theorem restartEpoch (s : State) (m : Nat) : s.Steady (s.restartEpoch m) :=
  ((updCores ..).trans (updMeadow ..)).trans (readyHook ..)

theorem recordStep (s : State) (m : Nat) : s.Steady (s.recordStep m) := by
  unfold State.recordStep
  dsimp only
  split
  · exact refl s
  · exact ite (refl s) (ite (updMeadow ..) ((updMeadow ..).trans (raiseM ..)))

theorem endRepair (s : State) (m : Nat) : s.Steady (s.endRepair m) := ite (updSxt ..) (refl s)

theorem afterBoundary (s : State) (m : Nat) : s.Steady (s.afterBoundary m) := by
  unfold State.afterBoundary
  refine ite ((updMeadow ..).trans (raiseM ..)) (ite ((updMeadow ..).trans (beginSwitch ..)) ?_)
  dsimp only
  split
  · exact updMeadow ..
  · refine ite ?_ (updMeadow ..)
    split
    · exact (updMeadow ..).trans (beginSwitch ..)
    · exact updMeadow ..

theorem decideReplay (s : State) (m : Nat) : s.Steady (s.decideReplay m) :=
  ite (refl s) (ite (restartEpoch ..) (ite (ite (restartEpoch ..) (refl s)) (ite (refl s) ((updMeadow ..).trans (raiseM ..)))))

theorem drainEnd (s : State) (m : Nat) : s.Steady (s.drainEnd m) := by
  unfold State.drainEnd
  refine ite (refl s) ?_
  dsimp only
  split
  · exact ((((boundaryClear ..).trans (updMeadow ..)).trans (foldl (fun _ _ => updBase ..) _ _)).trans (recordStep ..)).trans
      ((endRepair ..).trans (afterBoundary ..))
  · exact ite (refl s) ((boundaryClear ..).trans (decideReplay ..))
  · exact ite (boundaryClear ..) (refl s)
  · exact refl s

/-! The parts of a warm reset (R480, R532). -/

theorem trnWarm (s : State) : s.Steady s.trnWarm :=
  (ite ((mmp ..).trans (endSession ..)) (refl s)).trans (of_eq rfl rfl)

theorem sextonWarm (s : State) : s.Steady s.sextonWarm := by
  have lost : ∀ (u : State) (b : Nat), u.Steady
      (let lost := (u.base b).gated
      let t := u.updBase b fun x => { x with testing := false, gated := false, idleGate := false }
      match t.meadowOfBase b with
      | some m => if lost then t.loseStores m 16 else t
      | none => t) := by
    intro u b
    dsimp only
    split
    · exact ite ((updBase ..).trans (loseStores ..)) (updBase ..)
    · exact updBase ..
  unfold State.sextonWarm
  refine trans ?_ (updSxt ..)
  exact trans (foldl lost _ s) (of_eq rfl rfl)

theorem hubWarm (s : State) : s.Steady s.hubWarm := by
  refine .trans ?_ (cicOwners _)
  refine .trans ?_ (foldl (fun _ _ => updMeadow ..) _ _)
  refine .trans ?_ (foldl (fun _ _ => updStack ..) _ _)
  refine .trans ?_ (foldl (fun _ _ => updSw ..) _ _)
  refine .trans ?_ (foldl (fun _ _ => updPort ..) _ _)
  exact trans (trnWarm s) (of_eq rfl rfl)

theorem swStart (s : State) : s.Steady s.swStart := foldl (fun _ _ => updSw ..) _ s

theorem startLinks (s : State) : s.Steady s.startLinks :=
  ((updSxt ..).trans (swStart _)).trans (ite (trnApply _) (updTrn ..))

end State.Steady

end Sys2Proof.Machine

/-! A watch that fires where the table of meadows lists a meadow twice (23 R488, R489). -/

namespace Sys2Proof.Machine

open Sys2Proof

/-- An open epoch of meadow 0, which the table of meadows lists twice: the first entry, the one that is read, has no tussock; the
second lies over base tussock 1, whose watch stands at stage 1. -/
def State.listedTwice : State :=
  { State.reset with
    meadows := [(0, { Meadow.zero with state := .opened, top := 0xFFFF }), (0, { Meadow.zero with state := .ready, top := 0x1001 })],
    bases := [(1, { Base.zero with stage := 1 })] }

/-- The watch of base tussock 1 fires at stage 1 for meadow 0, with no reset of its cores too recent. -/
theorem listedTwice_fires : State.listedTwice.meadowOfBase 1 = some 0 ∧ State.listedTwice.watching 0 1 = true
    ∧ State.listedTwice.sxt.lockstep = false ∧ State.listedTwice.silentCores 1 ≠ [] ∧ State.listedTwice.sxt.stemWait = []
    ∧ (State.listedTwice.base 1).stage = 1
    ∧ State.listedTwice.tooSoon (State.listedTwice.domainCores (.tussock 0x1001)) = false := by decide +kernel

/-- The record of the fire leaves one entry of meadow 0, the one without a tussock; so no meadow owns base tussock 1 when it is
reset, and the epoch stays open. -/
theorem listedTwice_staysOpen :
    (match exec (.watchFire 1) State.listedTwice with | .next t => (t.meadow 0).state | _ => .absent) = .opened := by
  decide +kernel

/-- An operation of no engine's. -/
def EngOp.blank : EngOp := mkOp Core.zero 0 ⟨0, 0, [], 0, 0⟩ (0, 0, 0)

/-- Refutes O41: with meadow 0 listed twice, a watch at stage 1 resets a base tussock that is no longer a meadow's, and meadow 0's
epoch does not fail. -/
theorem not_watchesAndTimeoutsFire : ¬ Obligations.WatchesAndTimeoutsFire := by
  unfold Obligations.WatchesAndTimeoutsFire
  intro h
  obtain ⟨owned, watched, unlocked, silent, wait, stage, free⟩ := listedTwice_fires
  obtain ⟨-, -, -, -, fires, -, -⟩ := h 1 0 0 0 EngOp.blank [] State.listedTwice
  obtain ⟨-, second, -, -⟩ := fires owned watched unlocked silent wait
  obtain ⟨-, resets⟩ := second stage
  obtain ⟨t, next, -, -, -, failed, -⟩ := resets free
  have opened := listedTwice_staysOpen
  rw [next] at opened
  rw [show (t.meadow 0).state = .opened from opened] at failed
  cases failed

end Sys2Proof.Machine

/-! Power good, the resets of the device, and a lockstep disagreement (22 R469, R479; 23 R480 to R485, R494). -/

namespace Sys2Proof.Machine

open Sys2Proof

variable {s t : State} {m n : Nat} {code : Half}

/-! What a domain's reset does to its cores (R480, R490). -/

/-- A STOP of cores marks them and changes nothing else in any. -/
theorem stopCores_core (l : List Nat) (s : State) (n : Nat) : ∃ b, (s.stopCores l).core n = { s.core n with stopped := b } := by
  unfold State.stopCores State.updCores
  induction l generalizing s with
  | nil => exact ⟨(s.core n).stopped, rfl⟩
  | cons a r ih =>
    obtain ⟨b, same⟩ := ih (s.updCore a fun c => { c with stopped := true })
    rw [State.updCore_core] at same
    by_cases here : a = n
    · rw [if_pos here] at same
      subst here
      exact ⟨b, same⟩
    · rw [if_neg here] at same
      exact ⟨b, same⟩

theorem failEpoch_core (s : State) (m : Nat) (code : Half) (n : Nat) :
    ∃ b, (s.failEpoch m code).core n = { s.core n with stopped := b } := by
  have fails (f : Meadow → Meadow) :
      (((s.stopCores (s.meadowCores m)).updMeadow m f).raiseM m 8).core n = (s.stopCores (s.meadowCores m)).core n :=
    core_of_cores (raiseM_cores ..) n
  unfold State.failEpoch
  split
  · rw [fails]; exact stopCores_core ..
  · rw [fails]; exact stopCores_core ..
  · split
    · exact ⟨(s.core n).stopped, rfl⟩
    · exact ⟨(s.core n).stopped, rfl⟩
  · exact ⟨(s.core n).stopped, rfl⟩

/-- The epochs of meadows fail, one after another. -/
def State.failEpochs (s : State) (l : List Nat) (code : Half) : State := l.foldl (fun u m => u.failEpoch m code) s

theorem failEpochs_core (l : List Nat) (s : State) (code : Half) (n : Nat) :
    ∃ b, (s.failEpochs l code).core n = { s.core n with stopped := b } := by
  induction l generalizing s with
  | nil => exact ⟨(s.core n).stopped, rfl⟩
  | cons m r ih =>
    obtain ⟨_, first⟩ := failEpoch_core s m code n
    obtain ⟨b, later⟩ := ih (s.failEpoch m code)
    exact ⟨b, by rw [first] at later; exact later⟩

theorem failEpochs_control (l : List Nat) (s : State) (code : Half) : s.ControlOnly (s.failEpochs l code) :=
  .foldl (fun u m => .failEpoch u m code) l s

/-- Meadow `m`'s epoch has failed with `code`. -/
def State.FailedWith (s : State) (m : Nat) (code : Half) : Prop := (s.meadow m).state = .failed ∧ (s.meadow m).code = code

theorem State.FailedWith.failEpochs (h : s.FailedWith m code) (l : List Nat) (c : Half) : (s.failEpochs l c).FailedWith m code := by
  induction l generalizing s with
  | nil => exact h
  | cons k r ih =>
    refine ih ?_
    unfold State.FailedWith
    rw [failEpoch_failed h.1]
    exact h

/-- An open epoch of one of the meadows fails with the code. -/
theorem failEpochs_fails {l : List Nat} (opened : (s.meadow m).state = .opened) (mem : m ∈ l) (code : Half) :
    (s.failEpochs l code).FailedWith m code := by
  induction l generalizing s with
  | nil => cases mem
  | cons k r ih =>
    by_cases here : k = m
    · subst here
      have first : (s.failEpoch k code).FailedWith k code := State.failEpoch_meadow code opened
      exact first.failEpochs r code
    · refine ih ?_ ((List.mem_cons.mp mem).resolve_left (Ne.symm here))
      rw [failEpoch_meadow_ne code here]
      exact opened

/-- Base tussocks cleared and collectives forgotten, meadow by meadow. -/
def State.forgetAll (s : State) (bases : Nat → List Nat) (l : List Nat) : State :=
  l.foldl (fun u m => (u.updBases (bases m) Base.clear).updMeadow m Meadow.forget) s

theorem updBases_keeps (l : List Nat) (f : Base → Base) (s : State) :
    (s.updBases l f).cores = s.cores ∧ ∀ m, (s.updBases l f).meadow m = s.meadow m := by
  unfold State.updBases
  induction l generalizing s with
  | nil => exact ⟨rfl, fun _ => rfl⟩
  | cons b r ih => exact ih (s.updBase b f)

theorem forgetAll_cores (bases : Nat → List Nat) (l : List Nat) (s : State) : (s.forgetAll bases l).cores = s.cores :=
  cores_foldl (f := fun u m => (u.updBases (bases m) Base.clear).updMeadow m Meadow.forget)
    (fun u m => (updBases_keeps (bases m) Base.clear u).1) l s

theorem State.FailedWith.forgetAll (h : s.FailedWith m code) (bases : Nat → List Nat) (l : List Nat) :
    (s.forgetAll bases l).FailedWith m code := by
  induction l generalizing s with
  | nil => exact h
  | cons k r ih =>
    refine ih (s := (s.updBases (bases k) Base.clear).updMeadow k Meadow.forget) ?_
    unfold State.FailedWith
    rw [State.updMeadow_meadow]
    split
    · next same =>
      subst same
      rw [(updBases_keeps ..).2]
      exact h
    · rw [(updBases_keeps ..).2]
      exact h

/-- The heath's reset: the epochs fail, the cores are reset, and what is on its way to and from them is gone. -/
theorem resetDomain_heath (s : State) (code : Half) : s.resetDomain .heath code
    = ((((s.failEpochs s.meadowIds code).resetCores (s.domainCores .heath)).forgetAll s.meadowBases s.meadowIds).updCores
      (s.domainCores .heath) fun c => { c with unacked := [], rcopies := [] }).updHub fun h => { h with unacked := [] } := rfl

section

variable (once : (s.domainCores .heath).Nodup) (mem : n ∈ s.domainCores .heath)

include once mem

/-- A core of the heath after its reset. -/
theorem resetDomain_heath_core (code : Half) : ∃ b, (s.resetDomain .heath code).core n
    = { Core.reset { s.core n with stopped := b } s.tick with unacked := [], rcopies := [] } := by
  obtain ⟨b, failed⟩ := failEpochs_core s.meadowIds s code n
  refine ⟨b, ?_⟩
  have tick : (s.failEpochs s.meadowIds code).tick = s.tick := (failEpochs_control ..).tick
  rw [resetDomain_heath, State.updHub_core, State.updCores_core_in _ n _ once mem, core_of_cores (forgetAll_cores ..),
    State.resetCores, State.updCores_core_in _ n _ once mem, failed, tick]

end

theorem resetDomain_heath_fails (opened : (s.meadow m).state = .opened) (mem : m ∈ s.meadowIds) (code : Half) :
    (s.resetDomain .heath code).FailedWith m code := by
  have reset : ((s.failEpochs s.meadowIds code).resetCores (s.domainCores .heath)).FailedWith m code := by
    unfold State.FailedWith State.resetCores
    rw [State.updCores_meadow]
    exact failEpochs_fails opened mem code
  have forgotten := reset.forgetAll s.meadowBases s.meadowIds
  rw [resetDomain_heath]
  unfold State.FailedWith
  rw [State.updHub_meadow, State.updCores_meadow]
  exact forgotten

/-! ADMITs put to Sexton with no other command waiting (R342, R492). -/

theorem applyStem_admit_meadow {c : StemCmd} (op : c.op = 4) (s : State) (m : Nat) :
    ∃ r, (s.applyStem c).2.meadow m = { s.meadow m with routes := r } := by
  have kept : ∃ r, s.meadow m = { s.meadow m with routes := r } := ⟨(s.meadow m).routes, rfl⟩
  cases owner : s.meadowOfTarget c.target with
  | none =>
    have same : (s.applyStem c).2 = s := by
      unfold State.applyStem
      rw [op]
      dsimp only
      rw [owner]
      rfl
    rw [same]
    exact kept
  | some k =>
    rw [applyStem_admit op owner]
    dsimp only
    rw [State.updMeadow_meadow]
    split
    · next here => subst here; exact ⟨_, rfl⟩
    · exact kept

/-- ADMITs write the route tables of meadows and nothing else in any. -/
theorem issueAdmits_meadow (wait : s.sxt.stemWait = []) (l : List Nat) (by_ : StemBy) (m : Nat) :
    ∃ r, (s.issueAdmits l by_).meadow m = { s.meadow m with routes := r } := by
  unfold State.issueAdmits
  have start : ∃ r, s.meadow m = { s.meadow m with routes := r } := ⟨(s.meadow m).routes, rfl⟩
  refine (pumpStem_keeps (P := fun c => c.op = 4) (R := fun u => ∃ r, u.meadow m = { s.meadow m with routes := r })
    (fun _ _ _ h => h) (fun u c op h => ?_) 4 (s.updSxt _) start fun c mem => ?_).1
  · obtain ⟨_, before⟩ := h
    obtain ⟨r, after⟩ := applyStem_admit_meadow op u m
    exact ⟨r, by rw [after, before]⟩
  · have queued : c ∈ s.sxt.stemWait ++ _ := mem
    rw [wait, List.nil_append] at queued
    obtain ⟨k, -, rfl⟩ := List.mem_map.mp queued
    rfl

/-! The device's warm reset (R480, R494, R532). -/

/-- The time of a warm reset, with those of the window before it. -/
def State.warmRecorded (s : State) : State := s.updSxt fun x =>
  { x with warmTimes := (s.sxt.warmTimes.filter fun t => s.tick < t + 2 ^ 37) ++ [s.tick] }

/-- The domain's reset, what the hub and Sexton lose, and the drains of the meadows that then end. -/
def State.warmCleared (s : State) (code : Half) : State :=
  let t := ((s.resetDomain .warm code).hubWarm).sextonWarm
  t.meadowIds.foldl (fun t m => t.drainEnd m) t

/-- What a warm reset has done when it starts the links again. -/
def State.warmed (s : State) (code : Half) : State :=
  (if 2 ≤ (s.sxt.warmTimes.filter fun t => s.tick < t + 2 ^ 37).length then s.warmRecorded.bench Code.benched
    else s.warmRecorded).warmCleared code

theorem warmReset_eq (code : Half) (runs : s.bootStopped = false) : s.warmReset code
    = ((s.warmed code).updSxt fun x => { x with warm := true, bootTime := 0, devGen := x.devGen + 1 }).startLinks :=
  if_neg (by rw [runs]; exact Bool.false_ne_true)

theorem warmReset_stopped (code : Half) (stopped : s.bootStopped = true) : s.warmReset code = s := if_pos stopped

theorem bench_benched (s : State) (cause : Half) : (s.bench cause).sxt.benched = true := by
  unfold State.bench
  dsimp only
  split
  · rfl
  · exact List.foldlRecOn (motive := fun v : State => v.sxt.benched = true) _ _ rfl
      fun v h _ _ => (State.Steady.stopMeadow v _).benched h

theorem warmCleared_steady (s : State) (code : Half) : s.Steady (s.warmCleared code) := by
  unfold State.warmCleared
  refine .trans ?_ (.foldl (fun _ _ => .drainEnd ..) _ _)
  exact ((State.Steady.resetDomain ..).trans (.hubWarm _)).trans (.sextonWarm _)

/-- A warm reset records its time, and takes the block out of service with the third in a window. -/
theorem warmed_sxt (s : State) (code : Half) : (s.warmed code).sxt.devGen = s.sxt.devGen
    ∧ (s.warmed code).sxt.warmTimes = (s.sxt.warmTimes.filter fun t => s.tick < t + 2 ^ 37) ++ [s.tick]
    ∧ (2 ≤ (s.sxt.warmTimes.filter fun t => s.tick < t + 2 ^ 37).length → (s.warmed code).sxt.benched = true) := by
  unfold State.warmed
  split
  · have went := (State.Steady.bench s.warmRecorded Code.benched).trans (warmCleared_steady _ code)
    exact ⟨went.devGen, went.warmTimes, fun _ => (warmCleared_steady _ code).benched (bench_benched ..)⟩
  · next few =>
    have went := warmCleared_steady s.warmRecorded code
    exact ⟨went.devGen, went.warmTimes, fun yes => absurd yes few⟩

/-- What Sexton records of a warm reset. -/
theorem warmReset_sxt (code : Half) (runs : s.bootStopped = false) : (s.warmReset code).sxt.bootStep = 6
    ∧ (s.warmReset code).sxt.warm = true ∧ (s.warmReset code).sxt.bootTime = 0
    ∧ (s.warmReset code).sxt.devGen = s.sxt.devGen + 1
    ∧ (2 ≤ (s.sxt.warmTimes.filter fun t => s.tick < t + 2 ^ 37).length → (s.warmReset code).sxt.benched = true) := by
  obtain ⟨devGen, -, benched⟩ := warmed_sxt s code
  rw [warmReset_eq code runs, State.startLinks_sxt]
  generalize s.warmed code = w at devGen benched ⊢
  exact ⟨rfl, rfl, rfl, congrArg (· + 1) devGen, benched⟩

/-! A reset that a port asks for (R483, R485). -/

section

variable {p : Nat} {d : Domain}

theorem hostReset_refused (other : s.carriesAll p = false) :
    s.hostReset p d = s.updFn p 0 fun x => { x with writeCode := Code.notPermitted, writeOffset := 0x100040 } :=
  if_pos (by rw [other]; rfl)

theorem hostReset_off (all : s.carriesAll p = true) (off : s.sxt.fwRunning = false ∨ s.sxt.lockstep = true) :
    s.hostReset p d = s := by
  unfold State.hostReset
  rw [if_neg (by rw [all]; exact Bool.noConfusion), if_pos (by rcases off with h | h <;> simp [h])]

variable (all : s.carriesAll p = true) (runs : s.sxt.fwRunning = true) (unlocked : s.sxt.lockstep = false)

include all runs unlocked

theorem hostReset_own : s.hostReset p d = s.ownReset d Code.reset := by
  unfold State.hostReset
  rw [if_neg (by rw [all]; exact Bool.noConfusion), if_neg (by simp [runs, unlocked])]

theorem hostReset_waits (soon : s.tooSoon (s.domainCores d) = true) : s.hostReset p d
    = s.updSxt fun x => { x with delayed := x.delayed ++ [⟨d, Code.reset, true, false⟩] } := by
  rw [hostReset_own all runs unlocked, State.ownReset, if_pos soon]

theorem hostReset_now (late : s.tooSoon (s.domainCores d) = false) : s.hostReset p d = s.doReset d Code.reset true := by
  rw [hostReset_own all runs unlocked, State.ownReset, if_neg (by rw [late]; exact Bool.false_ne_true)]

end

/-- What a port's request does where no reset follows at once. -/
theorem attemptWhole_hostReset (c : Instr) (p : Nat) (d : Domain) :
    (s.carriesAll p = false → s.attemptWhole c (.next (s.hostReset p d)) = .next (s.updFn p 0 fun x =>
      { x with writeCode := Code.notPermitted, writeOffset := 0x100040 }))
    ∧ (s.carriesAll p = true → s.sxt.fwRunning = false ∨ s.sxt.lockstep = true →
      s.attemptWhole c (.next (s.hostReset p d)) = .next s)
    ∧ (s.carriesAll p = true → s.sxt.fwRunning = true → s.sxt.lockstep = false → s.tooSoon (s.domainCores d) = true →
      s.attemptWhole c (.next (s.hostReset p d))
        = .next (s.updSxt fun x => { x with delayed := x.delayed ++ [⟨d, Code.reset, true, false⟩] })) := by
  refine ⟨fun other => ?_, fun all off => ?_, fun all runs unlocked soon => ?_⟩
  · rw [hostReset_refused other]
    exact attemptWhole_same _ ⟨rfl, rfl, rfl⟩
  · rw [hostReset_off all off]
    exact attemptWhole_same _ ⟨rfl, rfl, rfl⟩
  · rw [hostReset_waits all runs unlocked soon]
    exact attemptWhole_same _ ⟨rfl, rfl, rfl⟩

/-- The heath's reset for a port: at once, with its ADMITs. -/
theorem execHeathReset_now {p : PortIx} (all : s.carriesAll p = true) (runs : s.sxt.fwRunning = true)
    (unlocked : s.sxt.lockstep = false) (late : s.tooSoon (s.domainCores .heath) = false) (wait : s.sxt.stemWait = []) :
    execHeathReset p s = .next ((s.resetDomain .heath Code.reset).issueAdmits (s.domainCores .heath) .sexton) := by
  have control := State.ControlOnly.resetDomain s .heath Code.reset
  have admits := issueAdmits_admitsOnly _ (s.domainCores .heath) .sexton (control.stemWait.trans wait)
  have reset : s.hostReset p .heath = (s.resetDomain .heath Code.reset).issueAdmits (s.domainCores .heath) .sexton :=
    (hostReset_now all runs unlocked late).trans rfl
  unfold execHeathReset
  rw [reset]
  exact attemptWhole_same _ (State.still_of_pkg (admits.pkg.trans control.pkg))

/-! Power good (R469, R479). -/

/-- The block with its straps read and power good. -/
def State.poweredUp (s : State) (strap : Fin 8) : State :=
  (s.updPower fun x => { x with strap := strap }).updSxt fun x => { x with power := true, devGen := x.devGen + 1, bootTime := 0 }

/-- The ROM checks up to a step, with a code. -/
def State.checkedTo (s : State) (step : Nat) (c : Half) (l w : Bool) : State := s.updSxt fun x =>
  { x with bootStep := step, bootCode := c, lockstep := x.lockstep || l, waiting := x.waiting || w }

/-- Without power the checks run, up to the first that fails. -/
theorem execPowerGood_checks {strap : Fin 8} (off : s.sxt.power = false) (rom : RomChecks) (ot : Bool) :
    execPowerGood rom ot strap s = .next (
      if !rom.lockstep then (s.poweredUp strap).checkedTo 3 Code.bootLockstep true false
      else if !rom.refclk then (s.poweredUp strap).checkedTo 3 Code.bootRefclk false false
      else if !ot then (s.poweredUp strap).checkedTo 4 Code.bootOtp false false
      else (s.poweredUp strap).checkedTo 5 Code.ok false true) := by
  unfold execPowerGood State.checkedTo
  rw [if_neg (by rw [off]; exact Bool.false_ne_true)]
  simp only [Bool.or_false, Bool.or_true]
  rfl

/-! A lockstep disagreement (R445, R494). -/

theorem bench_stops {cause : Half} (other : cause ≠ Code.benched) (mem : m ∈ s.meadowIds)
    (live : (s.meadow m).state = .ready ∨ (s.meadow m).state = .opened ∨ (s.meadow m).state = .failed) :
    ((s.bench cause).meadow m).state = .stopped := by
  have stops : ∀ (l : List Nat) (u : State), u.meadow m = s.meadow m → m ∈ l →
      (l.foldl (fun u k => u.stopMeadow k) u).StoppedFrom m (s.meadow m).state := by
    intro l
    induction l with
    | nil => intro u _ no; cases no
    | cons k r ih =>
      intro u same mem
      by_cases here : k = m
      · subst here
        have first : (u.stopMeadow k).StoppedFrom k (s.meadow k).state := by
          rw [← same]; exact stopMeadow_stops (by rw [same]; exact live)
        exact List.foldlRecOn (motive := fun v : State => v.StoppedFrom k (s.meadow k).state) r _ first
          fun _ h _ _ => h.stopMeadow _
      · exact ih _ ((stopMeadow_meadow_ne here).trans same) ((List.mem_cons.mp mem).resolve_left (Ne.symm here))
  unfold State.bench
  rw [if_neg other]
  exact (stops _ (s.updSxt _) rfl mem).1

/-- Settles O42: the ROM checks in order, the state a cold reset leaves, the resets that a port asks for, and what a lockstep
disagreement stops. -/
theorem resetsOfTheDevice : Obligations.ResetsOfTheDevice := by
  unfold Obligations.ResetsOfTheDevice
  intro p m ok rf ot strap s
  dsimp only
  refine ⟨fun on => congrArg Host.Outcome.next (if_pos on), fun off => ⟨execPowerGood_checks off ⟨false, rf⟩ ot,
      execPowerGood_checks off ⟨true, false⟩ ot, execPowerGood_checks off ⟨true, true⟩ false,
      execPowerGood_checks off ⟨true, true⟩ true⟩, rfl, attemptWhole_hostReset _ p .heath, attemptWhole_hostReset _ p .warm,
    fun runs unlocked => ⟨fun all late once wait => ?_, fun all late stopped => ?_, fun all late going free => ?_⟩,
    fun off => ?_, fun on early => ?_, fun on late =>
      ⟨(s.bench Code.lockstep).updSxt fun x => { x with lockstep := true }, ?_, bench_benched s Code.lockstep, rfl,
        bench_stops (by decide)⟩⟩
  · have wait' := (State.ControlOnly.resetDomain s .heath Code.reset).stemWait.trans wait
    refine ⟨_, execHeathReset_now all runs unlocked late wait, fun n mem => ?_, fun opened mem => ?_⟩
    · obtain ⟨b, core⟩ := resetDomain_heath_core once mem Code.reset
      rw [core_of_cores (issueAdmits_admitsOnly _ _ _ wait').cores n, core]
      exact ⟨rfl, rfl, rfl, rfl, rfl, rfl⟩
    · obtain ⟨r, same⟩ := issueAdmits_meadow wait' (s.domainCores .heath) .sexton m
      rw [same]
      exact resetDomain_heath_fails opened mem Code.reset
  · have reset : s.hostReset p .warm = s := (hostReset_now all runs unlocked late).trans (warmReset_stopped _ stopped)
    show s.attemptWhole _ (.next (s.hostReset p .warm)) = _
    rw [reset, attemptWhole_same _ ⟨rfl, rfl, rfl⟩]
  · have reset : s.hostReset p .warm = s.warmReset Code.reset := hostReset_now all runs unlocked late
    refine ⟨s.completed (s.warmReset Code.reset), ?_, ?_⟩
    · show s.attemptWhole _ (.next (s.hostReset p .warm)) = _
      rw [reset, attemptWhole_undelayed _ free]
    · rw [(State.PkgOnly.completed s (s.warmReset Code.reset)).sxt]
      exact warmReset_sxt Code.reset going
  · exact congrArg Host.Outcome.next (if_pos (by rw [off]; rfl))
  · show execLockstepDisagree s = _
    unfold execLockstepDisagree
    rw [if_neg (by rw [on]; exact Bool.noConfusion), if_pos early]
  · show execLockstepDisagree s = _
    unfold execLockstepDisagree
    rw [if_neg (by rw [on]; exact Bool.noConfusion), if_neg late]

end Sys2Proof.Machine

/-! Training, retraining and admission at the Swarm ports (17 R366 to R373). -/

namespace Sys2Proof.Machine

open Sys2Proof

variable {s t u : State}

/-! Negotiation (R366, R367). -/

section
variable {own : SwCfg} {t : Training} {fuel rate : Nat}

/-- Whether a rate passes with enough lanes for both ends. -/
def ratePasses (own : SwCfg) (t : Training) (x : Nat) : Prop := max 1 (max own.minLanes t.minLanes) ≤ (lanesAt own t x).1

theorem ratePasses_iff {x : Nat} :
    ratePasses own t x ↔ max own.minLanes t.minLanes ≤ (lanesAt own t x).1 ∧ 1 ≤ (lanesAt own t x).1 := by
  unfold ratePasses; omega

theorem pickRate_passes (h : ratePasses own t rate) :
    pickRate own t (fuel + 1) rate = some (rate, (lanesAt own t rate).1, (lanesAt own t rate).2) := if_pos (ratePasses_iff.mp h)

theorem pickRate_fails (h : ¬ ratePasses own t rate) : pickRate own t (fuel + 1) rate = pickRate own t fuel (rate + 1) :=
  if_neg (mt ratePasses_iff.mpr h)

/-- No rate is picked where none of the range passes. -/
theorem pickRate_none (h : pickRate own t fuel rate = none) : ∀ x, rate ≤ x → x < rate + fuel → ¬ ratePasses own t x := by
  induction fuel generalizing rate with
  | zero => exact fun x low high => absurd low (by omega)
  | succ fuel ih =>
    intro x low high
    by_cases here : ratePasses own t rate
    · rw [pickRate_passes here] at h; cases h
    · rw [pickRate_fails here] at h
      by_cases same : x = rate
      · rwa [same]
      · exact ih h x (by omega) (by omega)

/-- The rate picked is the first of the range that passes, with its lanes. -/
theorem pickRate_some {x k : Nat} {sp : Bool} (h : pickRate own t fuel rate = some (x, k, sp)) :
    rate ≤ x ∧ x < rate + fuel ∧ ratePasses own t x ∧ lanesAt own t x = (k, sp) ∧ ∀ y, rate ≤ y → y < x → ¬ ratePasses own t y := by
  induction fuel generalizing rate with
  | zero => cases h
  | succ fuel ih =>
    by_cases here : ratePasses own t rate
    · rw [pickRate_passes here] at h
      cases h
      exact ⟨Nat.le_refl _, by omega, here, rfl, fun y low high => absurd low (by omega)⟩
    · rw [pickRate_fails here] at h
      obtain ⟨low, high, passes, lanes, least⟩ := ih h
      refine ⟨by omega, by omega, passes, lanes, fun y lowY highY => ?_⟩
      by_cases same : y = rate
      · rwa [same]
      · exact least y (by omega) highY

/-- Two ends that demand different FEC. -/
def fecClash (a b : Nat) : Prop := a ≠ 0 ∧ b ≠ 0 ∧ a ≠ b

theorem pickFec_clash {a b : Nat} (h : fecClash a b) : pickFec a b rate = none := by
  obtain ⟨own, peer, differ⟩ := h
  simp [pickFec, own, peer, differ]

/-- The FEC that a side demands, or else that of the rate. -/
theorem pickFec_agreed {a b : Nat} (h : ¬ fecClash a b) : pickFec a b rate
    = some (if a = 0 then (if b = 0 then (if rate = 0 then 0 else 1) else b - 1) else a - 1) := by
  unfold pickFec
  by_cases own : a = 0
  · by_cases peer : b = 0 <;> simp [own, peer]
  · have one : b = 0 ∨ a = b := by unfold fecClash at h; omega
    simp [own, one]

/-- The range of the rates starts at the lower of the two ceilings. -/
def rateFrom (own : SwCfg) (t : Training) : Nat := max own.maxRate t.maxRate

theorem negotiate_unpicked (h : pickRate own t (3 - rateFrom own t) (rateFrom own t) = none) : negotiate own t = none := by
  unfold negotiate; dsimp only; unfold rateFrom at h; rw [h]

theorem negotiate_picked {x k : Nat} {sp : Bool}
    (h : pickRate own t (3 - rateFrom own t) (rateFrom own t) = some (x, k, sp)) :
    negotiate own t = (pickFec own.fec t.fec.val x).map fun f => (x, k, sp, f) := by
  unfold negotiate; dsimp only; unfold rateFrom at h; rw [h]

theorem negotiate_none_iff : negotiate own t = none
    ↔ (∀ x, ¬ (rateFrom own t ≤ x ∧ x < 3 ∧ ratePasses own t x)) ∨ fecClash own.fec t.fec.val := by
  cases picked : pickRate own t (3 - rateFrom own t) (rateFrom own t) with
  | none =>
    refine iff_of_true (negotiate_unpicked picked) (.inl fun x passes => ?_)
    obtain ⟨low, high, enough⟩ := passes
    exact pickRate_none picked x low (by omega) enough
  | some p =>
    obtain ⟨x, k, sp⟩ := p
    obtain ⟨low, high, passes, -, -⟩ := pickRate_some picked
    rw [negotiate_picked picked]
    by_cases clash : fecClash own.fec t.fec.val
    · exact iff_of_true (by rw [pickFec_clash clash]; rfl) (.inr clash)
    · rw [pickFec_agreed clash]
      exact iff_of_false nofun (not_or.mpr ⟨fun fails => fails x ⟨low, by omega, passes⟩, clash⟩)

theorem negotiate_some {x k f : Nat} {sp : Bool} (h : negotiate own t = some (x, k, sp, f)) :
    (rateFrom own t ≤ x ∧ x < 3 ∧ ratePasses own t x) ∧ lanesAt own t x = (k, sp)
    ∧ (∀ y, y < x → ¬ (rateFrom own t ≤ y ∧ y < 3 ∧ ratePasses own t y))
    ∧ f = if own.fec = 0 then (if t.fec.val = 0 then (if x = 0 then 0 else 1) else t.fec.val - 1) else own.fec - 1 := by
  have agreed : ¬ fecClash own.fec t.fec.val := fun clash => by
    rw [negotiate_none_iff.mpr (.inr clash)] at h; cases h
  cases picked : pickRate own t (3 - rateFrom own t) (rateFrom own t) with
  | none => rw [negotiate_unpicked picked] at h; cases h
  | some p =>
    obtain ⟨x', k', sp'⟩ := p
    obtain ⟨low, high, passes, lanes, least⟩ := pickRate_some picked
    rw [negotiate_picked picked, pickFec_agreed agreed] at h
    simp only [Option.map_some, Option.some.injEq, Prod.mk.injEq] at h
    obtain ⟨rfl, rfl, rfl, rfl⟩ := h
    refine ⟨⟨low, by omega, passes⟩, lanes, fun y less passesY => ?_, rfl⟩
    obtain ⟨from_, -, enough⟩ := passesY
    exact least y from_ less enough

end

/-! Meadows with no collective taken (R374). -/

/-- A meadow with no collective taken goes on with none. -/
theorem swNext_nothing {m : Nat} (h : (s.meadow m).swTaken = []) : s.swNext m = s := by
  unfold State.swNext State.swAdvance
  rw [h]

theorem swNexts_nothing (l : List Nat) (h : ∀ m ∈ l, (s.meadow m).swTaken = []) :
    l.foldl (fun t m => t.swNext m) s = s := by
  induction l with
  | nil => rfl
  | cons m r ih =>
    rw [List.foldl_cons, swNext_nothing (h m List.mem_cons_self)]
    exact ih fun m mem => h m (List.mem_cons_of_mem _ mem)

theorem Sparse.mem_of_mem_put {α : Type} [DecidableEq α] {d : α} {l : Sparse α} {i : Nat} {v : α} {e : Nat × α}
    (h : e ∈ Sparse.put d l i v) : e = (i, v) ∨ e ∈ l := by
  have dropped {l : Sparse α} (mem : e ∈ Sparse.drop l i) : e ∈ l := by
    induction l with
    | nil => exact mem
    | cons a r ih =>
      rw [Sparse.drop] at mem
      split at mem
      · exact List.mem_cons_of_mem _ (ih mem)
      · cases mem with
        | head => exact List.mem_cons_self
        | tail _ mem => exact List.mem_cons_of_mem _ (ih mem)
  have inserted {l : Sparse α} (mem : e ∈ Sparse.insert l i v) : e = (i, v) ∨ e ∈ l := by
    induction l with
    | nil => exact .inl (List.mem_singleton.mp mem)
    | cons a r ih =>
      rw [Sparse.insert] at mem
      split at mem
      · exact List.mem_cons.mp mem
      · cases mem with
        | head => exact .inr List.mem_cons_self
        | tail _ mem => exact (ih mem).imp_right (List.mem_cons_of_mem _)
  unfold Sparse.put at h
  split at h
  · exact .inr (dropped h)
  · exact (inserted h).imp_right dropped

/-- A state that holds `s` but for messages sent: its package, its links and every meadow are as in `s`, and it has no meadow more. -/
structure State.Sends (s t : State) : Prop where
  pkg : t.pkg = s.pkg
  swarm : t.swarm = s.swarm
  meadow : ∀ m, t.meadow m = s.meadow m
  ids : ∀ m ∈ t.meadowIds, m ∈ s.meadowIds

namespace State.Sends

theorem refl (s : State) : s.Sends s := ⟨rfl, rfl, fun _ => rfl, fun _ h => h⟩

theorem trans (a : s.Sends t) (b : t.Sends u) : s.Sends u :=
  ⟨b.pkg.trans a.pkg, b.swarm.trans a.swarm, fun m => (b.meadow m).trans (a.meadow m), fun m h => a.ids m (b.ids m h)⟩

theorem emit (s : State) (o : Output) : s.Sends (s.emit o) := ⟨rfl, rfl, fun _ => rfl, fun _ h => h⟩

theorem foldl {β : Type} {f : State → β → State} (step : ∀ (t : State) x, t.Sends (f t x)) (l : List β) (s : State) :
    s.Sends (l.foldl f s) := by
  induction l generalizing s with
  | nil => exact refl s
  | cons x r ih => exact (step s x).trans (ih _)

theorem sw (h : s.Sends t) (n : Nat) : t.sw n = s.sw n := by unfold State.sw; rw [h.swarm]

/-- A meadow of the table written as it is. -/
theorem updMeadow (h : s.Sends t) {m : Nat} {f : Meadow → Meadow} (mem : m ∈ s.meadowIds) (same : f (t.meadow m) = t.meadow m) :
    s.Sends (t.updMeadow m f) := by
  refine ⟨h.pkg, h.swarm, fun i => (?_ : _ = t.meadow i).trans (h.meadow i), fun i listed => ?_⟩
  · by_cases own : m = i
    · subst own; rw [updMeadow_meadow_same, same]
    · exact Sparse.get_put_ne _ _ _ own
  · obtain ⟨e, in_, rfl⟩ := List.mem_map.mp listed
    obtain ⟨in_, present⟩ := List.mem_filter.mp in_
    cases Sparse.mem_of_mem_put in_ with
    | inl new => rw [new]; exact mem
    | inr old => exact h.ids _ (List.mem_map.mpr ⟨e, List.mem_filter.mpr ⟨old, present⟩, rfl⟩)

end State.Sends

/-- With no collective taken, the ports' distance vectors are all that is sent after a change. -/
theorem swRebuild_sends (quiet : ∀ m ∈ s.meadowIds, (s.meadow m).swTaken = []) : s.Sends s.swRebuild := by
  have vectors : s.Sends (s.swUp.foldl (fun t n => t.emit (.swVector n s.swVector)) s) :=
    State.Sends.foldl (fun t n => State.Sends.emit t _) _ s
  unfold State.swRebuild
  dsimp only
  rw [swNexts_nothing _ fun m mem => (congrArg Meadow.swTaken (vectors.meadow m)).trans (quiet m (vectors.ids m mem))]
  exact vectors

/-- The collectives of a meadow that involve device `d` marked. -/
def State.peerLost (s : State) (d m : Nat) : State := s.updMeadow m fun x =>
  { x with swTaken := x.swTaken.map fun k => if (swPeers k.entry s.heath.device).contains d then { k with lost := true } else k }

/-- With no collective taken, the loss of a peer fails none. -/
theorem failPeer_sends (quiet : ∀ m ∈ s.meadowIds, (s.meadow m).swTaken = []) (d : Nat) : s.Sends (s.failPeer d) := by
  have steps (l : List Nat) (t : State) (h : s.Sends t) (listed : ∀ m ∈ l, m ∈ s.meadowIds) :
      s.Sends (l.foldl (fun t m => (t.peerLost d m).swNext m) t) := by
    induction l generalizing t with
    | nil => exact h
    | cons m r ih =>
      have mem := listed m List.mem_cons_self
      have none : (t.meadow m).swTaken = [] := (congrArg Meadow.swTaken (h.meadow m)).trans (quiet m mem)
      have marked : s.Sends (t.peerLost d m) := h.updMeadow mem (by rw [none, List.map_nil, ← none])
      rw [List.foldl_cons, swNext_nothing ((congrArg Meadow.swTaken (marked.meadow m)).trans (quiet m mem))]
      exact ih _ marked fun m mem => listed m (List.mem_cons_of_mem _ mem)
  exact steps s.meadowIds s (.refl s) fun _ mem => mem

/-- A port that is UP again sends what waited, and only its own record changes. -/
theorem swResend_sends (s : State) (n : Nat) : ∃ t, s.Sends t ∧ s.swResend n = t.updSw n fun x =>
    { x with
      retries := satInc x.retries (x.unacked.filter (·.sent)).length, waiting := [],
      unacked := x.unacked.map fun f => { f with sent := true } } := by
  refine ⟨(s.sw n).unacked.foldl (fun t f => t.swEmit n f) ((s.sw n).waiting.foldl (fun t c => t.emit (.swControl n c)) s), ?_, rfl⟩
  exact (State.Sends.foldl (fun t c => State.Sends.emit t (.swControl n c)) _ s).trans
    (State.Sends.foldl (fun t f => State.Sends.emit t _) _ _)

/-! Admission (R368, R372, R457). -/

/-- A signature takes one of those left, and free values. -/
theorem identitySign_ok {msg sg : List Byte} {w : State} (h : s.identitySign msg = .ok (sg, w)) :
    w.sxt.sigsLeft + 1 = s.sxt.sigsLeft
    ∧ w = { s with free := w.free, sxt := { s.sxt with sigsLeft := s.sxt.sigsLeft - 1 } } := by
  unfold State.identitySign at h
  split at h
  · split at h
    · cases h
    · split at h
      · cases h
      next left =>
        cases h
        exact ⟨Nat.succ_pred_eq_of_ne_zero left, rfl⟩
  · cases h

/-- The report that this device sends in an admission. -/
def State.ownReport (s : State) : List Byte := (s.freeBytes 32).2.report ((s.freeBytes 32).1 ++ [0xFF]) zero32

/-- Port `n` DOWN with a code. -/
def State.swDown (s : State) (n : Nat) (c : Half) : State := (s.updSw n fun x => { x with st := .down, code := c }).swRebuild

/-- This device's report sent to the peer of port `n`. -/
def State.greets (w : State) (n : Nat) (b : List Byte) : State := w.emit (.swHello n w.heath.device w.sxt.devGen.toNat b)

/-- Whether the peer's generation is another than the one known. -/
def SwLink.restarted (x : SwLink) (g : Half) : Bool := x.peerGen.isSome && x.peerGen != some g

/-- Port `n` UP with its peer, a link key of the draw, and what it keeps of an earlier generation. -/
def State.admitted (s : State) (n : Nat) (r : PeerReport) (changed : Bool) : State :=
  s.fresh.2.updSw n fun x =>
    { x with
      st := .up, peer := r.device.toNat, peerGen := some r.gen, code := Code.ok, failRun := 0,
      key := natToBytes 32 (Config.linkKey s.sxt.kem s.fresh.1 r.report).toNat,
      rxSeq := if changed then 0 else x.rxSeq, rxSeen := if changed then [] else x.rxSeen,
      txSeq := if changed then 0 else x.txSeq, unacked := if changed then [] else x.unacked,
      waiting := if changed then [] else x.waiting,
      hops := if changed || x.peer ≠ r.device.toNat then [] else x.hops }

/-- The collectives of the peer's earlier generation failed, or what was unacknowledged sent again. -/
def State.peerBack (s : State) (n : Nat) (r : PeerReport) (changed : Bool) (old : Nat) : State :=
  (if changed then (s.admitted n r changed).failPeer old else (s.admitted n r changed).swResend n).swRebuild

section
variable {n : SwPort} {r : PeerReport} {sg : List Byte} {w : State}

theorem execAdmission_refused (h : s.admits n = false) : exec (.admission n r) s = .next s := by
  refine Eq.trans (congrArg (fun t => s.attemptWhole (.admission n r) (.next t)) ?_) (attemptWhole_same _ ⟨rfl, rfl, rfl⟩)
  exact if_pos (by rw [h]; rfl)

theorem execAdmission_unsigned {c : Half} (h : s.admits n = true)
    (sign : (s.freeBytes 32).2.identitySign s.ownReport = .error c) :
    exec (.admission n r) s = s.attemptWhole (.admission n r) (.next (s.swDown n c)) := by
  refine congrArg (fun t => s.attemptWhole (.admission n r) (.next t)) ((if_neg (by rw [h]; exact nofun)).trans ?_)
  unfold State.ownReport at sign
  dsimp only
  rw [sign]
  rfl

theorem execAdmission_failed {c : Half} (h : s.admits n = true)
    (sign : (s.freeBytes 32).2.identitySign s.ownReport = .ok (sg, w))
    (check : (w.greets n (s.ownReport ++ sg)).admissionCheck r = some c) :
    exec (.admission n r) s = s.attemptWhole (.admission n r) (.next ((w.greets n (s.ownReport ++ sg)).swDown n c)) := by
  refine congrArg (fun t => s.attemptWhole (.admission n r) (.next t)) ((if_neg (by rw [h]; exact nofun)).trans ?_)
  unfold State.greets State.ownReport at check
  unfold State.ownReport at sign
  dsimp only
  rw [sign]
  dsimp only
  rw [check]
  rfl

theorem execAdmission_passed (h : s.admits n = true)
    (sign : (s.freeBytes 32).2.identitySign s.ownReport = .ok (sg, w))
    (check : (w.greets n (s.ownReport ++ sg)).admissionCheck r = none) :
    exec (.admission n r) s = s.attemptWhole (.admission n r) (.next ((w.greets n (s.ownReport ++ sg)).peerBack n r
      ((w.sw n).restarted r.gen) (w.sw n).peer)) := by
  refine congrArg (fun t => s.attemptWhole (.admission n r) (.next t)) ((if_neg (by rw [h]; exact nofun)).trans ?_)
  unfold State.greets State.ownReport at check
  unfold State.ownReport at sign
  dsimp only
  rw [sign]
  dsimp only
  rw [check]
  rfl

/-- The port after an admission, in a device with no collective taken: UP, with what it keeps. -/
theorem peerBack_sends {changed : Bool} {old : Nat} (quiet : ∀ m ∈ s.meadowIds, (s.meadow m).swTaken = []) :
    (s.peerBack n r changed old).pkg = s.pkg ∧ (s.peerBack n r changed old).sw n
      = if changed then (s.admitted n r true).sw n else
        { (s.admitted n r false).sw n with
          retries := satInc (s.sw n).retries ((s.sw n).unacked.filter (·.sent)).length, waiting := [],
          unacked := (s.sw n).unacked.map fun f => { f with sent := true } } := by
  have same : (s.admitted n r changed).meadowIds = s.meadowIds := rfl
  have quietA : ∀ m ∈ (s.admitted n r changed).meadowIds, ((s.admitted n r changed).meadow m).swTaken = [] := quiet
  cases changed with
  | true =>
    have failed := failPeer_sends quietA old
    have rebuilt := failed.trans (swRebuild_sends fun m mem =>
      (congrArg Meadow.swTaken (failed.meadow m)).trans (quietA m (failed.ids m mem)))
    exact ⟨rebuilt.pkg, rebuilt.sw n⟩
  | false =>
    obtain ⟨t, sends, again⟩ := swResend_sends (s.admitted n r false) n
    have pkg : ((s.admitted n r false).swResend n).pkg = s.pkg := by rw [again]; exact sends.pkg
    have rebuilt : ((s.admitted n r false).swResend n).Sends ((s.admitted n r false).swResend n).swRebuild := by
      refine swRebuild_sends ?_
      rw [again]
      exact fun m mem => (congrArg Meadow.swTaken (sends.meadow m)).trans (quietA m (sends.ids m mem))
    refine ⟨rebuilt.pkg.trans pkg, (rebuilt.sw n).trans ?_⟩
    rw [again, State.updSw_sw_same, sends.sw]
    unfold State.admitted
    rw [State.updSw_sw_same]
    rfl

end

/-- Settles O49: negotiation, the ends of training, and an admission refused, unsigned, failed and passed. -/
theorem swarmPortsTrainAndAdmit : Obligations.SwarmPortsTrainAndAdmit := by
  unfold Obligations.SwarmPortsTrainAndAdmit
  intro n t r s c least trained passes clash ends down b mine retrained
  have passes_iff (x : Nat) : passes x ↔ rateFrom c t ≤ x ∧ x < 3 ∧ ratePasses c t x := Iff.rfl
  refine ⟨negotiate_none_iff, fun x k sp f => negotiate_some, fun has st => ?_, fun has st free => ?_, fun other => ?_,
    fun other => ?_, fun admits => ⟨fun c sign free => ?_, fun sg w sign => ?_⟩, execAdmission_refused, fun cold early => ?_⟩
  · exact congrArg Host.Outcome.next (if_pos (by rw [has, st]; rfl))
  · refine Eq.trans (congrArg (fun t => s.attemptWhole _ (.next t)) (if_pos ?_)) (attemptWhole_undelayed _ free)
    rw [has, st]; rfl
  · exact congrArg Host.Outcome.next (if_neg (by rcases other with no | st <;> simp [*]))
  · refine Eq.trans (congrArg (fun t => s.attemptWhole _ (.next t)) (if_neg ?_)) (attemptWhole_same _ ⟨rfl, rfl, rfl⟩)
    rcases other with no | st <;> simp [*]
  · rw [execAdmission_unsigned admits sign]
    exact attemptWhole_undelayed _ free
  · obtain ⟨left, whole⟩ := identitySign_ok sign
    have guard : w.guard = s.guard := by rw [whole]; rfl
    have keyed : w.keyed = s.keyed := by rw [whole]; rfl
    have device : w.heath.device = s.heath.device := by rw [whole]; rfl
    have meadows (m : Nat) : w.meadow m = s.meadow m := by rw [whole]; rfl
    have ids : w.meadowIds = s.meadowIds := by rw [whole]; rfl
    have link : w.sw n = s.sw n := by rw [whole]; rfl
    have pkg : w.pkg = s.pkg := by rw [whole]; rfl
    have kem : w.sxt.kem = s.sxt.kem := by rw [whole]; rfl
    have identity : (r.valid && r.report.length == reportBytes && fieldNat r.report 6 1 == 3
        && sliceBytes r.report 168 32 == keyDigest w.keyed w.guard.owner) = true ↔ mine := by
      rw [guard, keyed]
      simp [mine, and_assoc]
    intro u
    refine ⟨left, fun other free => ?_, fun own same free => ?_, fun own differs quiet => ?_⟩
    · rw [execAdmission_failed admits sign (c := Code.swPeerIdentity)
        (if_pos (by rw [Bool.not_eq_true']; exact Bool.eq_false_iff.mpr (mt identity.mp other)))]
      exact attemptWhole_undelayed _ free
    · have known : ¬ (!(r.valid && r.report.length == reportBytes && fieldNat r.report 6 1 == 3
          && sliceBytes r.report 168 32 == keyDigest w.keyed w.guard.owner)) = true := by
        rw [identity.mpr own]; exact nofun
      rw [execAdmission_failed admits sign (c := Code.swDevice)
        ((if_neg known).trans (if_pos (same.trans device.symm)))]
      exact attemptWhole_undelayed _ free
    · have known : ¬ (!(r.valid && r.report.length == reportBytes && fieldNat r.report 6 1 == 3
          && sliceBytes r.report 168 32 == keyDigest w.keyed w.guard.owner)) = true := by
        rw [identity.mpr own]; exact nofun
      obtain ⟨still, port⟩ := peerBack_sends (s := w.greets n (s.ownReport ++ sg)) (n := n) (r := r)
        (changed := (w.sw n).restarted r.gen) (old := (w.sw n).peer) fun m mem =>
          (congrArg Meadow.swTaken (meadows m)).trans (quiet m (ids ▸ mem))
      refine ⟨_, (execAdmission_passed admits sign ((if_neg known).trans
        (if_neg fun same => differs (same.trans device)))).trans
          (attemptWhole_same _ (State.still_of_pkg (still.trans pkg))), ?_⟩
      rw [port]
      unfold State.admitted
      rw [State.updSw_sw_same, State.updSw_sw_same]
      have before : (w.greets n (s.ownReport ++ sg)).fresh.2.sw n = s.sw n := link
      have now : (w.greets n (s.ownReport ++ sg)).sw n = s.sw n := link
      have kemNow : (w.greets n (s.ownReport ++ sg)).sxt.kem = s.sxt.kem := kem
      rw [before, now, link, kemNow]
      cases changed : (s.sw n).restarted r.gen
      · refine ⟨rfl, rfl, rfl, rfl, ⟨_, rfl⟩, fun g known other => ?_, fun _ => ⟨rfl, rfl, rfl, rfl, rfl⟩⟩
        rw [SwLink.restarted, known] at changed
        simp [other] at changed
      · refine ⟨rfl, rfl, rfl, rfl, ⟨_, rfl⟩, fun _ _ _ => ⟨rfl, rfl, rfl, rfl, rfl⟩, fun kept => ?_⟩
        rcases kept with none | same <;> simp [SwLink.restarted, *] at changed
  · have late : ¬ 10 ≤ s.sxt.bootStep := by omega
    simp [State.admits, cold, late]

end Sys2Proof.Machine

/-! Frames on a Swarm link (17 R369 to R373, R379). -/

namespace Sys2Proof.Machine

open Sys2Proof

variable {s t u : State}

/-! The lowest sequence number not received (R369). -/

section
variable {seen : List Nat}

/-- All that lies between is received, and the search ends early only at a number not received. -/
theorem rxPast_spec (fuel q : Nat) : q ≤ rxPast seen fuel q ∧ rxPast seen fuel q ≤ q + fuel
    ∧ (∀ k, q ≤ k → k < rxPast seen fuel q → k ∈ seen)
    ∧ (rxPast seen fuel q < q + fuel → rxPast seen fuel q ∉ seen) := by
  induction fuel generalizing q with
  | zero => exact ⟨Nat.le_refl _, Nat.le_refl _, fun k low high => absurd high (Nat.not_lt.mpr low), fun less => absurd less (Nat.lt_irrefl _)⟩
  | succ fuel ih =>
    unfold rxPast
    by_cases here : q ∈ seen
    · rw [if_pos (List.contains_iff_mem.mpr here)]
      obtain ⟨low, high, between, ends⟩ := ih (q + 1)
      refine ⟨by omega, by omega, fun k lowK highK => ?_, fun less => ends (by omega)⟩
      by_cases same : k = q
      · rwa [same]
      · exact between k (by omega) highK
    · rw [if_neg (mt List.contains_iff_mem.mp here)]
      exact ⟨Nat.le_refl _, by omega, fun k low high => absurd high (Nat.not_lt.mpr low), fun _ => here⟩

/-- More numbers in a row than have been received are not all received. -/
theorem not_all_mem (q : Nat) : ∃ k, q ≤ k ∧ k ≤ q + seen.length ∧ k ∉ seen := by
  by_contra all
  push Not at all
  have sub : List.range' q (seen.length + 1) ⊆ seen := fun k mem => by
    obtain ⟨low, high⟩ := List.mem_range'_1.mp mem
    exact all k low (by omega)
  have short := (List.subperm_of_subset List.nodup_range' sub).length_le
  rw [List.length_range'] at short
  omega

theorem rxPast_not_mem (q : Nat) : rxPast seen seen.length q ∉ seen := by
  obtain ⟨-, high, between, ends⟩ := rxPast_spec (seen := seen) seen.length q
  by_cases less : rxPast seen seen.length q < q + seen.length
  · exact ends less
  · obtain ⟨k, low, highK, out⟩ := not_all_mem (seen := seen) q
    have last : k = rxPast seen seen.length q := by
      by_contra differs
      exact out (between k low (by omega))
    exact last ▸ out

end

/-! What is sent leaves the package as it is. -/

theorem swSend_pkg (s : State) (n : Nat) (h : SwHead) (b : List Byte) : (s.swSend n h b).pkg = s.pkg := by
  unfold State.swSend
  dsimp only
  split <;> rfl

theorem swForward_pkg (s : State) (h : SwHead) (b : List Byte) : (s.swForward h b).pkg = s.pkg := by
  unfold State.swForward
  dsimp only
  split
  · exact swSend_pkg ..
  · rfl

theorem swControl_pkg (s : State) (c : SwCtl) : (s.swControl c).pkg = s.pkg := by
  unfold State.swControl
  split
  · rfl
  · split <;> rfl

theorem swDeliver_pkg (s : State) (h : SwHead) (b : List Byte) : (s.swDeliver h b).pkg = s.pkg := by
  unfold State.swDeliver
  split
  · exact swForward_pkg ..
  · split <;> rfl

theorem swDeliver_eq {h : SwHead} {b : List Byte} (heath : t.heath = s.heath) (meadows : ∀ m, t.meadow m = s.meadow m) :
    t.swDeliver h b = if h.dest.toNat ≠ s.heath.device then t.swForward h b
      else if (s.meadow h.key.meadow).state = .absent then t
      else t.updMeadow h.key.meadow fun x => { x with swGot := x.swGot ++ [(h, b)] } := by
  unfold State.swDeliver
  rw [heath, meadows]

/-- A link changed alike. -/
theorem updSw_congr {n : Nat} {f g : SwLink → SwLink} (h : f (s.sw n) = g (s.sw n)) : s.updSw n f = s.updSw n g := by
  unfold State.updSw
  rw [h]

/-- A command's effect that leaves the package as it is, is its outcome. -/
theorem attemptWhole_of_pkg {c : Instr} (h : t.pkg = s.pkg) : s.attemptWhole c (.next t) = .next t :=
  attemptWhole_same c (State.still_of_pkg h)

/-! The frames that a port that is UP takes (R369, R370). -/

/-- A port that is UP, whose peer is of generation `g`. -/
structure State.Linked (s : State) (n : SwPort) (g : Half) : Prop where
  has : s.hasSw n = true
  up : (s.sw n).st = .up
  gen : (s.sw n).peerGen = some g

section
variable {n : SwPort} {g : Half} {f : SwFrame} {seq : Nat} {h : SwHead} {c tag b : List Byte} {fec : Bool}

theorem State.live (has : s.hasSw n = true) (up : (s.sw n).st = .up) : ¬ (!(s.hasSw n && (s.sw n).st == .up)) = true := by
  rw [has, up]; decide

theorem State.notLive (h : s.hasSw n = false ∨ (s.sw n).st ≠ .up) : (s.hasSw n && (s.sw n).st == .up) = false := by
  rcases h with no | st <;> simp [*]

theorem swarmFrame_notLive (h : s.hasSw n = false ∨ (s.sw n).st ≠ .up) : exec (.swarmFrame n g f) s = .next s :=
  (congrArg (fun t => s.attemptWhole (.swarmFrame n g f) (.next t)) (if_pos (by rw [State.notLive h]; rfl))).trans
    (attemptWhole_of_pkg rfl)

theorem swarmAckTimeout_notLive (h : s.hasSw n = false ∨ (s.sw n).st ≠ .up) : exec (.swarmAckTimeout n) s = .next s :=
  (congrArg (fun t => s.attemptWhole (.swarmAckTimeout n) (.next t)) (if_neg (by rw [State.notLive h]; exact nofun))).trans
    (attemptWhole_of_pkg rfl)

theorem swarmFrame_overRate (has : s.hasSw n = true) (up : (s.sw n).st = .up) (free : s.undelayed (s.swRetrain n)) :
    exec (.swarmFrame n g .overRate) s = .next (s.completed (s.swRetrain n)) :=
  (congrArg (fun t => s.attemptWhole (.swarmFrame n g .overRate) (.next t))
    ((if_neg (State.live has up)).trans (if_pos rfl))).trans (attemptWhole_undelayed _ free)

theorem swarmFrame_stale (has : s.hasSw n = true) (up : (s.sw n).st = .up) (other : (s.sw n).peerGen ≠ some g)
    (frame : f ≠ .overRate) :
    exec (.swarmFrame n g f) s = .next (s.updSw n fun x => { x with stale := satInc x.stale }) :=
  (congrArg (fun t => s.attemptWhole (.swarmFrame n g f) (.next t))
    ((if_neg (State.live has up)).trans ((if_neg frame).trans (if_pos other)))).trans (attemptWhole_of_pkg rfl)

theorem swarmAckTimeout_unacked (has : s.hasSw n = true) (up : (s.sw n).st = .up) (waits : (s.sw n).unacked ≠ [])
    (free : s.undelayed (s.swRetrain n)) : exec (.swarmAckTimeout n) s = .next (s.completed (s.swRetrain n)) :=
  (congrArg (fun t => s.attemptWhole (.swarmAckTimeout n) (.next t))
    (if_pos (by rw [has, up]; simp [waits]))).trans (attemptWhole_undelayed _ free)

theorem swarmAckTimeout_none (none : (s.sw n).unacked = []) : exec (.swarmAckTimeout n) s = .next s :=
  (congrArg (fun t => s.attemptWhole (.swarmAckTimeout n) (.next t)) (if_neg (by rw [none]; simp))).trans
    (attemptWhole_of_pkg rfl)

/-- The checks before a frame of the peer's generation is looked at (R370, R372). -/
theorem State.Linked.taken (l : s.Linked n g) (frame : f ≠ .overRate) (a b c d : State) :
    (if !(s.hasSw n && (s.sw n).st == .up) then a else if f = .overRate then b
      else if (s.sw n).peerGen ≠ some g then c else d) = d :=
  (if_neg (State.live l.has l.up)).trans ((if_neg frame).trans (if_neg (not_not_intro l.gen)))

/-- The negative acknowledgement of a frame that failed, counted. -/
def State.swFailed (s : State) (n : SwPort) (seq : Nat) : State :=
  (s.emit (.swNack n seq)).updSw n fun x => { x with failRun := x.failRun + 1 }

/-- The acknowledgement of a frame that arrived. -/
def State.swHeard (s : State) (n : SwPort) (seq : Nat) : State :=
  (s.updSw n fun x => { x with failRun := 0 }).emit (.swAck n seq)

/-- What opens a data frame that FEC has corrected. -/
def State.swOpens (s : State) (n : SwPort) (g : Half) (seq : Nat) (c tag : List Byte) : Option (List Byte) :=
  gcmOpen (s.sw n).key (natToBytes 12 (Config.linkNonce g.toNat seq).toNat) [] c tag

theorem swarmFrame_failed (l : s.Linked n g) (bad : fec = false ∨ s.swOpens n g seq c tag = none) :
    exec (.swarmFrame n g (.data seq h c tag fec)) s = s.attemptWhole (.swarmFrame n g (.data seq h c tag fec))
      (.next (if 16 ≤ (s.sw n).failRun + 1 then (s.swFailed n seq).swRetrain n else s.swFailed n seq)) := by
  refine congrArg (fun t => s.attemptWhole _ (.next t)) ((l.taken (by nofun) _ _ _ _).trans ?_)
  have closed : (if fec then s.swOpens n g seq c tag else none) = none := by
    rcases bad with off | none
    · rw [off]; rfl
    · rw [none, ite_self]
  unfold State.swOpens at closed
  dsimp only
  rw [closed]
  rfl

theorem swarmFrame_heard (l : s.Linked n g) (fine : s.swOpens n g seq c tag = some b) :
    exec (.swarmFrame n g (.data seq h c tag true)) s = s.attemptWhole (.swarmFrame n g (.data seq h c tag true))
      (.next (if seq < (s.sw n).rxSeq ∨ seq ∈ (s.sw n).rxSeen then s.swHeard n seq else
        ((s.swHeard n seq).updSw n fun x =>
          { x with
            rxSeq := rxPast (seq :: (s.sw n).rxSeen) (seq :: (s.sw n).rxSeen).length (s.sw n).rxSeq
            rxSeen := (seq :: (s.sw n).rxSeen).filter
              (rxPast (seq :: (s.sw n).rxSeen) (seq :: (s.sw n).rxSeen).length (s.sw n).rxSeq ≤ ·) }).swDeliver h b)) := by
  refine congrArg (fun t => s.attemptWhole _ (.next t)) ((l.taken (by nofun) _ _ _ _).trans ?_)
  unfold State.swOpens at fine
  dsimp only
  rw [if_pos rfl, fine]
  rfl

theorem swarmFrame_acked (l : s.Linked n g) : exec (.swarmFrame n g (.ack seq)) s
    = .next (s.updSw n fun x => { x with unacked := x.unacked.filter fun u => u.seq ≠ seq }) :=
  (congrArg (fun t => s.attemptWhole (.swarmFrame n g (.ack seq)) (.next t)) (l.taken (by nofun) _ _ _ _)).trans (attemptWhole_of_pkg rfl)

theorem swarmFrame_nacked {u : SwOut} (l : s.Linked n g) (kept : ((s.sw n).unacked.find? fun u => u.seq = seq) = some u) :
    exec (.swarmFrame n g (.nack seq)) s
      = .next ((s.swEmit n u).updSw n fun x => { x with retries := satInc x.retries }) := by
  refine (congrArg (fun t => s.attemptWhole (.swarmFrame n g (.nack seq)) (.next t))
    ((l.taken (by nofun) _ _ _ _).trans ?_)).trans (attemptWhole_of_pkg rfl)
  dsimp only
  rw [kept]

theorem swarmFrame_nackUnknown (l : s.Linked n g) (gone : ((s.sw n).unacked.find? fun u => u.seq = seq) = none) :
    exec (.swarmFrame n g (.nack seq)) s = .next s := by
  refine (congrArg (fun t => s.attemptWhole (.swarmFrame n g (.nack seq)) (.next t))
    ((l.taken (by nofun) _ _ _ _).trans ?_)).trans (attemptWhole_of_pkg rfl)
  dsimp only
  rw [gone]

theorem swarmFrame_vector {hops : List (Nat × Nat)} (l : s.Linked n g) :
    exec (.swarmFrame n g (.vector hops)) s = s.attemptWhole (.swarmFrame n g (.vector hops)) (.next
      (s.updSw n fun x => { x with hops := hops.foldl (fun m e => Sparse.put none m e.1 (some e.2)) [] }).swRebuild) :=
  congrArg (fun t => s.attemptWhole (.swarmFrame n g (.vector hops)) (.next t)) (l.taken (by nofun) _ _ _ _)

theorem swarmFrame_passedOn {c : SwCtl} (l : s.Linked n g) (other : swDest c ≠ s.heath.device) :
    exec (.swarmFrame n g (.control c)) s = .next (s.swControl c) :=
  (congrArg (fun t => s.attemptWhole (.swarmFrame n g (.control c)) (.next t))
    ((l.taken (by nofun) _ _ _ _).trans (if_pos other))).trans (attemptWhole_of_pkg (swControl_pkg ..))

theorem swarmFrame_side {dev : BitVec 10} {k : SwKey} {y : Member} (l : s.Linked n g) (own : dev.toNat = s.heath.device) :
    exec (.swarmFrame n g (.control (.side dev k y))) s = .next s :=
  (congrArg (fun t => s.attemptWhole (.swarmFrame n g (.control (.side dev k y))) (.next t))
    ((l.taken (by nofun) _ _ _ _).trans (if_neg (not_not_intro own)))).trans (attemptWhole_of_pkg rfl)

/-- The taken collectives that a key matches marked. -/
def State.keyLost (s : State) (k : SwKey) : State := s.updMeadow k.meadow fun x =>
  { x with swTaken := x.swTaken.map fun y => if swKey k.meadow y.entry = k then { y with lost := true } else y }

theorem swarmFrame_failure {dev : BitVec 10} {k : SwKey} (l : s.Linked n g) (own : dev.toNat = s.heath.device) :
    exec (.swarmFrame n g (.control (.failure dev k))) s
      = s.attemptWhole (.swarmFrame n g (.control (.failure dev k))) (.next ((s.keyLost k).swNext k.meadow)) :=
  congrArg (fun t => s.attemptWhole (.swarmFrame n g (.control (.failure dev k))) (.next t))
    ((l.taken (by nofun) _ _ _ _).trans (if_neg (not_not_intro own)))

end

theorem bytesToNat_lt (l : List Byte) : bytesToNat l < 256 ^ l.length := by
  induction l with
  | nil => decide
  | cons b r ih =>
    have byte := b.isLt
    rw [bytesToNat, List.length_cons, Nat.pow_succ]
    omega

theorem fieldNat_lt (e : List Byte) (lo n : Nat) : fieldNat e lo n < 256 ^ n := by
  have whole : (sliceBytes e lo n).length = n := by simp [sliceBytes]
  have bound := bytesToNat_lt (sliceBytes e lo n)
  rwa [whole] at bound

/-- A field as a word of its width is a word exactly where their numbers agree. -/
theorem ofNat_eq_iff {w n : Nat} {x : BitVec w} (small : n < 2 ^ w) : BitVec.ofNat w n = x ↔ n = x.toNat := by
  rw [BitVec.toNat_eq, BitVec.toNat_ofNat, Nat.mod_eq_of_lt small]

/-- A key of the meadow matches a descriptor by its TAG, FIRST and COUNT (R375). -/
theorem swKey_eq_iff {k : SwKey} {e : List Byte} : swKey k.meadow e = k
    ↔ fieldNat e 44 4 = k.tag.toNat ∧ fieldNat e 8 2 = k.first.toNat ∧ fieldNat e 10 2 = k.count.toNat := by
  obtain ⟨m, tag, first, count⟩ := k
  have meadow : Fin.ofNat 64 m.val = m := Fin.ext (Nat.mod_eq_of_lt m.isLt)
  have tags := ofNat_eq_iff (x := tag) (fieldNat_lt e 44 4)
  have firsts := ofNat_eq_iff (x := first) (fieldNat_lt e 8 2)
  have counts := ofNat_eq_iff (x := count) (fieldNat_lt e 10 2)
  simp only [swKey, SwKey.mk.injEq, meadow, true_and, tags, firsts, counts]

/-- Settles O50: a port that is not UP, and each frame that one that is UP takes. -/
theorem swarmFramesAreAnswered : Obligations.SwarmFramesAreAnswered := by
  unfold Obligations.SwarmFramesAreAnswered
  intro n seq g h c tag b fec hops f k dev y u s x runs retrain heard deliver lost vector
  refine ⟨fun off => ⟨swarmFrame_notLive off, swarmAckTimeout_notLive off⟩, fun has up =>
    ⟨swarmFrame_overRate has up, swarmFrame_stale has up, fun gen => ?_, swarmAckTimeout_unacked has up,
      swarmAckTimeout_none⟩⟩
  have l : s.Linked n g := ⟨has, up, gen⟩
  intro nonce bad data
  refine ⟨fun fails => ⟨fun few => ?_, fun many free => ?_⟩, fun fine opens => ⟨fun known => ?_, fun fresh out => ?_⟩,
    swarmFrame_acked l, swarmFrame_nacked l, swarmFrame_nackUnknown l,
    fun free => (swarmFrame_vector l).trans (attemptWhole_undelayed _ free), fun f control other => ?_,
    fun own => ⟨swarmFrame_side l own, fun free => ?_⟩⟩
  · rw [swarmFrame_failed l fails, if_neg (Nat.not_le.mpr (Nat.succ_lt_succ few))]
    exact attemptWhole_of_pkg rfl
  · rw [swarmFrame_failed l fails, if_pos (Nat.succ_le_succ many)]
    exact attemptWhole_undelayed _ free
  · subst fine
    rw [swarmFrame_heard l opens, if_pos known]
    exact attemptWhole_of_pkg rfl
  · subst fine
    have delivered (t : State) (heath : t.heath = s.heath) (meadows : ∀ m, t.meadow m = s.meadow m) :
        t.swDeliver h b = deliver t := swDeliver_eq heath meadows
    obtain ⟨low, -, between, -⟩ := rxPast_spec (seen := seq :: x.rxSeen) (seq :: x.rxSeen).length x.rxSeq
    refine ⟨_, low, rxPast_not_mem _, between, ?_⟩
    refine Eq.trans ?_ (congrArg Host.Outcome.next (delivered _ rfl fun _ => rfl))
    rw [swarmFrame_heard l opens, if_neg (not_or.mpr ⟨Nat.not_lt.mpr fresh, out⟩)]
    refine (attemptWhole_of_pkg ((swDeliver_pkg _ h b).trans ?_)).trans (congrArg (fun t => Host.Outcome.next (State.swDeliver t h b)) ?_)
    · rfl
    · refine updSw_congr ?_
      rw [show (s.swHeard n seq).sw n = { s.sw n with failRun := 0 } from
        State.updSw_sw_same s n fun x => { x with failRun := 0 }]
  · rcases control with rfl | rfl <;> exact swarmFrame_passedOn l other
  · have marked : lost = s.keyLost k := by
      unfold lost State.keyLost
      simp only [swKey_eq_iff]
    rw [swarmFrame_failure l own, ← marked]
    exact attemptWhole_undelayed _ free

end Sys2Proof.Machine

/-! The collective ring and its collectives (17 R374 to R381). -/

namespace Sys2Proof.Machine

open Sys2Proof

variable {s t u : State} {m : MeadowIx}

/-! The ring register (R381, R388). -/

theorem mdwOff_ring : mdwOff 0x140 = 0x20140 := by decide

section
variable {v : Dword}

theorem swRingWrite_busy (here : (s.meadow m).state ≠ .absent) (runs : (s.meadow m).state.isStopped = false) :
    s.swRingWrite m v = s.refuseWrite (s.meadow m).port (s.meadow m).fn Code.swBusy (mdwOff 0x140) :=
  (if_neg here).trans (if_pos (by rw [runs]; rfl))

theorem swRingWrite_refused (here : (s.meadow m).state ≠ .absent) (stopped : (s.meadow m).state.isStopped = true)
    (bad : bitsOf v.toNat 11 0 ≠ 0 ∨ bitsOf v.toNat 51 48 < 4 ∨ 12 < bitsOf v.toNat 51 48) :
    s.swRingWrite m v = s.refuseWrite (s.meadow m).port (s.meadow m).fn Code.swDescriptor (mdwOff 0x140) :=
  (if_neg here).trans ((if_neg (by rw [stopped]; exact nofun)).trans (if_pos bad))

theorem swRingWrite_set (here : (s.meadow m).state ≠ .absent) (stopped : (s.meadow m).state.isStopped = true)
    (aligned : bitsOf v.toNat 11 0 = 0) (least : 4 ≤ bitsOf v.toNat 51 48) (most : bitsOf v.toNat 51 48 ≤ 12) :
    s.swRingWrite m v = s.updMeadow m fun x => { x with swRing := bitsOf v.toNat 47 0, swSize := bitsOf v.toNat 51 48 } :=
  (if_neg here).trans ((if_neg (by rw [stopped]; exact nofun)).trans (if_neg (by omega)))

theorem execSwarmRingWrite_may (may : s.hostMay m) : exec (.swarmRingWrite m v) s = .next (s.swRingWrite m v) :=
  congrArg Host.Outcome.next (hostRow_may _ _ may)

end

/-! Reads through a meadow's tables (R279, R374). -/

namespace State.Serves

theorem walkFrom (m va fuel level table : Nat) (s : State) : s.Serves (s.walkFrom none m va fuel level table).2 := by
  induction fuel generalizing level table s with
  | zero => exact refl s
  | succ fuel ih =>
    unfold State.walkFrom
    have read := readSec s (table + 8 * (levelIndex level va).1) 8
    dsimp only
    split
    · exact refl s
    · split
      next e => rwa [e] at read
      next e =>
        rw [e] at read
        split
        · exact read
        · exact read
        · exact read.trans (ih ..)

theorem walk (s : State) (m va : Nat) : s.Serves (s.walk none m va).2 := by
  unfold State.walk
  split
  · exact refl s
  · exact walkFrom ..

theorem mread (m fuel va k : Nat) (s : State) : s.Serves (s.mread none m fuel va k).2 := by
  induction fuel generalizing va k s with
  | zero => exact refl s
  | succ fuel ih =>
    unfold State.mread
    have walked : s.Serves (s.mwalk none m va).2 := walk ..
    split
    · exact refl s
    · dsimp only
      split
      next e => rwa [e] at walked
      next l t e =>
        rw [e] at walked
        split
        · exact walked
        · have read := walked.trans (readSec t (l.pa + va % 2 ^ 16) (min k (32 - va % 32)))
          split
          next e => rwa [e] at read
          next b u e =>
            rw [e] at read
            have rest := read.trans (ih (va + min k (32 - va % 32)) (k - min k (32 - va % 32)) u)
            split
            next e => rwa [e] at rest
            next e => rwa [e] at rest

theorem mwrite (agent m fuel va : Nat) (b : List Byte) (s : State) : s.Serves (s.mwrite none agent m fuel va b).2 := by
  induction fuel generalizing va b s with
  | zero => exact refl s
  | succ fuel ih =>
    unfold State.mwrite
    have walked : s.Serves (s.mwalk none m va).2 := walk ..
    split
    · exact refl s
    · dsimp only
      split
      next e => rwa [e] at walked
      next l t e =>
        rw [e] at walked
        have goes (via : Option Nat) := walked.trans ((agentWrite t agent (l.pa + va % 2 ^ 16) (b.take (32 - va % 32)) via).trans
          (ih (va + (32 - va % 32)) (b.drop (32 - va % 32)) _))
        split
        · split
          · have done := goes (if l.frozen && (t.meadow m).window then some m else none)
            split
            next e => rwa [e] at done
            next => exact done
          · exact walked
        · have done := goes none
          split
          next e => rwa [e] at done
          next => exact done

theorem mwriteAll (s : State) (agent m va : Nat) (b : List Byte) : s.Serves (s.mwriteAll agent m va b).2 := mwrite ..

end State.Serves

/-- The collectives taken are kept where a meadow stops. -/
theorem stopMeadow_swTaken (s : State) (n m : Nat) : ((s.stopMeadow n).meadow m).swTaken = (s.meadow m).swTaken := by
  by_cases own : n = m
  · subst own
    have kept (f : Meadow → Meadow) (same : ∀ x, (f x).swTaken = x.swTaken) :
        (((s.stopCores (s.meadowCores n)).updMeadow n f).meadow n).swTaken = (s.meadow n).swTaken := by
      rw [State.updMeadow_meadow_same, same, State.stopCores, State.updCores_meadow]
    unfold State.stopMeadow
    dsimp only
    split
    · rw [raiseM_meadow]; exact kept _ fun _ => rfl
    · rw [raiseM_meadow]; exact kept _ fun _ => rfl
    · rw [raiseM_meadow]; exact kept _ fun _ => rfl
    · exact kept _ fun _ => rfl
    · exact kept _ fun _ => rfl
    · rfl
    · rfl
  · rw [stopMeadow_meadow_ne own]

theorem State.Serves.swTaken (h : s.Serves t) (m : Nat) : (t.meadow m).swTaken = (s.meadow m).swTaken := by
  induction h with
  | pkg only => obtain ⟨_, _, rfl⟩ := only; rfl
  | bench s cause =>
    have stops (l : List Nat) (u : State) : ((l.foldl (fun u m => u.stopMeadow m) u).meadow m).swTaken = (u.meadow m).swTaken := by
      induction l generalizing u with
      | nil => rfl
      | cons n r ih => exact (ih _).trans (stopMeadow_swTaken u n m)
    unfold State.bench
    dsimp only
    split
    · rfl
    · exact stops _ _
  | drop s ms pa agent =>
    unfold State.frozenDrop
    induction ms generalizing s with
    | nil => rfl
    | cons n r ih =>
      refine (ih _).trans ?_
      by_cases own : n = m
      · subst own; rw [State.updMeadow_meadow_same]
      · rw [State.updMeadow_meadow_ne _ _ own]
  | trans _ _ a b => exact b.trans a

/-! A poll (R374, R380). -/

/-- An entry taken after those taken before it, and the next one expected. -/
def State.swTook (t : State) (m : Nat) (e : List Byte) : State :=
  t.updMeadow m fun x =>
    { x with
      swTaken := x.swTaken ++ [⟨x.swIdx, e, (t.meadow m).swTaken.any fun k => fieldNat k.entry 44 4 = fieldNat e 44 4,
        false, false, none⟩],
      swIdx := (x.swIdx + 1) % 2 ^ x.swSize, swSeq := x.swSeq + 1 }

section
variable {e : List Byte} {c : Half}

theorem collectivePoll_closed (closed : (s.meadow m).epochOpen = false) : exec (.collectivePoll m) s = .next s :=
  (congrArg (fun t => s.attemptWhole (.collectivePoll m) (.next t)) (if_pos (by rw [closed]; rfl))).trans
    (attemptWhole_of_pkg rfl)

theorem collectivePoll_unread (open_ : (s.meadow m).epochOpen = true)
    (read : s.mreadAll m ((s.meadow m).swRing + 64 * (s.meadow m).swIdx) 64 = (.error c, t)) :
    exec (.collectivePoll m) s = s.attemptWhole (.collectivePoll m) (.next t) := by
  refine congrArg (fun t => s.attemptWhole (.collectivePoll m) (.next t)) ((if_neg (by rw [open_]; exact nofun)).trans ?_)
  rw [read]

theorem collectivePoll_read (open_ : (s.meadow m).epochOpen = true)
    (read : s.mreadAll m ((s.meadow m).swRing + 64 * (s.meadow m).swIdx) 64 = (.ok e, t)) :
    exec (.collectivePoll m) s = s.attemptWhole (.collectivePoll m) (.next (if fieldNat e 0 4 ≠ (s.meadow m).swSeq then t
      else (t.swTook m e).swNext m)) := by
  refine congrArg (fun t => s.attemptWhole (.collectivePoll m) (.next t)) ((if_neg (by rw [open_]; exact nofun)).trans ?_)
  have taken := (State.Serves.mread m (sectorsOf ((s.meadow m).swRing + 64 * (s.meadow m).swIdx) 64)
    ((s.meadow m).swRing + 64 * (s.meadow m).swIdx) 64 s).swTaken m
  rw [show s.mread none m _ _ 64 = (.ok e, t) from read] at taken
  rw [read]
  unfold State.swTook
  rw [taken]

end

/-! A collective completes (R375, R378, R379). -/

/-- A note leaves every meadow as it is. -/
theorem tryNote_meadow (s : State) (core queue : Nat) (o : NoteOf) (payload : List Byte) (m : Nat) :
    (s.tryNote core queue o payload).meadow m = s.meadow m := by
  unfold State.tryNote State.hubNote
  split
  · rfl
  · split <;> rfl

/-- An epoch that fails keeps its collectives and the register of the last one. -/
theorem failEpoch_collectives (s : State) (n : Nat) (code : Half) (m : Nat) :
    ((s.failEpoch n code).meadow m).swTaken = (s.meadow m).swTaken
      ∧ ((s.failEpoch n code).meadow m).swDone = (s.meadow m).swDone := by
  by_cases own : n = m
  · subst own
    have kept (f : Meadow → Meadow) (taken : ∀ x, (f x).swTaken = x.swTaken) (done : ∀ x, (f x).swDone = x.swDone) :
        ((((s.stopCores (s.meadowCores n)).updMeadow n f).raiseM n 8).meadow n).swTaken = (s.meadow n).swTaken
          ∧ ((((s.stopCores (s.meadowCores n)).updMeadow n f).raiseM n 8).meadow n).swDone = (s.meadow n).swDone := by
      rw [raiseM_meadow, State.updMeadow_meadow_same, taken, done, State.stopCores, State.updCores_meadow]
      exact ⟨rfl, rfl⟩
    unfold State.failEpoch
    split
    · exact kept _ (fun _ => rfl) fun _ => rfl
    · exact kept _ (fun _ => rfl) fun _ => rfl
    · split
      · rw [State.updMeadow_meadow_same]; exact ⟨rfl, rfl⟩
      · exact ⟨rfl, rfl⟩
    · exact ⟨rfl, rfl⟩
  · rw [failEpoch_meadow_ne code own]; exact ⟨rfl, rfl⟩

theorem collectiveDone_meadow {k : SwTaken} {r : List SwTaken} (taken : (s.meadow m).swTaken = k :: r) (c : Half) :
    ((s.collectiveDone m c).meadow m).swTaken = r
    ∧ ((s.collectiveDone m c).meadow m).swDone = BitVec.ofNat 48 (fieldNat k.entry 0 4 + c.toNat * 2 ^ 32) := by
  unfold State.collectiveDone
  rw [taken]
  dsimp only
  generalize (s.mwriteAll 2 m ((s.meadow m).swRing + 64 * k.ix + 48) (natToBytes 2 c.toNat)).2 = w
  split
  · obtain ⟨kept, done⟩ := failEpoch_collectives _ m c m
    rw [kept, done, raiseM_meadow, tryNote_meadow, State.updMeadow_meadow_same]
    exact ⟨rfl, rfl⟩
  · rw [raiseM_meadow, tryNote_meadow, State.updMeadow_meadow_same]
    exact ⟨rfl, rfl⟩

/-! The collective that is next (R374, R375, R379). -/

/-- A descriptor that completes the collective in its turn: a repeated TAG, or a malformed one. -/
def State.swBad (s : State) (k : SwTaken) : Prop := k.dup = true ∨ s.swDescOk k.entry = false

/-- A collective with a failed member, or of an epoch that has failed. -/
def State.swLost (s : State) (m : Nat) (k : SwTaken) : Prop := k.lost = true ∨ (s.meadow m).epochFailed = true

/-- A collective with a member that no route reaches. -/
def State.swCut (s : State) (k : SwTaken) : Prop := ∃ p ∈ swPeers k.entry s.heath.device, s.swRoute p = []

section
variable {k : SwTaken} {r : List SwTaken} {fuel : Nat}

theorem swBad_iff : s.swBad k ↔ (k.dup ∨ !s.swDescOk k.entry) := by unfold State.swBad; simp

theorem swCut_iff : s.swCut k ↔ ((swPeers k.entry s.heath.device).any fun p => (s.swRoute p).isEmpty) = true := by
  unfold State.swCut; simp

theorem swAdvance_nothing (taken : (s.meadow m).swTaken = []) (fuel : Nat) : s.swAdvance m fuel = s := by
  cases fuel with
  | zero => rfl
  | succ fuel => unfold State.swAdvance; rw [taken]

theorem swAdvance_bad (taken : (s.meadow m).swTaken = k :: r) (bad : s.swBad k) :
    s.swAdvance m (fuel + 1) = (s.collectiveDone m Code.swDescriptor).swAdvance m fuel := by
  rw [State.swAdvance, taken]
  exact if_pos (swBad_iff.mp bad)

theorem swAdvance_lost (taken : (s.meadow m).swTaken = k :: r) (fine : ¬ s.swBad k) (lost : s.swLost m k) :
    s.swAdvance m (fuel + 1) = (s.collectiveFails m Code.swPeerFailed).swAdvance m fuel := by
  rw [State.swAdvance, taken]
  exact (if_neg (mt swBad_iff.mpr fine)).trans (if_pos lost)

theorem swAdvance_cut (taken : (s.meadow m).swTaken = k :: r) (fine : ¬ s.swBad k) (live : ¬ s.swLost m k) (cut : s.swCut k) :
    s.swAdvance m (fuel + 1) = (s.collectiveDone m Code.swUnreachable).swAdvance m fuel := by
  rw [State.swAdvance, taken]
  exact (if_neg (mt swBad_iff.mpr fine)).trans ((if_neg live).trans (if_pos (swCut_iff.mp cut)))

/-- A collective that goes on: its sides are sent, once. -/
theorem swAdvance_goesOn (taken : (s.meadow m).swTaken = k :: r) (fine : ¬ s.swBad k) (live : ¬ s.swLost m k)
    (reached : ¬ s.swCut k) : s.swAdvance m (fuel + 1) = if k.begun then s else
      (swPeers k.entry s.heath.device).foldl
        (fun t p => t.swControl (.side (BitVec.ofNat 10 p) (swKey m k.entry) (swSide s.heath.device k.entry)))
        (s.updMeadow m fun x => { x with swTaken := { k with begun := true } :: r }) := by
  rw [State.swAdvance, taken]
  exact (if_neg (mt swBad_iff.mpr fine)).trans ((if_neg live).trans (if_neg (mt swCut_iff.mpr reached)))

theorem swControl_swTaken (s : State) (c : SwCtl) (m : Nat) : ((s.swControl c).meadow m).swTaken = (s.meadow m).swTaken := by
  unfold State.swControl
  split
  · rfl
  · split <;> rfl

/-- A collective that fails is no longer taken. -/
theorem collectiveFails_swTaken (taken : (s.meadow m).swTaken = k :: r) (c : Half) :
    ((s.collectiveFails m c).meadow m).swTaken = r := by
  have sent (key : SwKey) (l : List Nat) (t : State) :
      ((l.foldl (fun t p => t.swControl (.failure (BitVec.ofNat 10 p) key)) t).meadow m).swTaken = (t.meadow m).swTaken := by
    induction l generalizing t with
    | nil => rfl
    | cons p l ih => exact (ih _).trans (swControl_swTaken ..)
  unfold State.collectiveFails
  rw [taken]
  dsimp only
  have written (n : Nat) (b : List Byte) :
      (((s.freeBytes n).2.mwriteAll 2 m (fieldNat k.entry 24 8) b).2.meadow m).swTaken = k :: r :=
    ((State.Serves.mwriteAll (s.freeBytes n).2 2 m (fieldNat k.entry 24 8) b).swTaken m).trans taken
  have kept := written (if fieldNat k.entry 4 1 = 5 then 0 else destLen k.entry)
    (s.freeBytes (if fieldNat k.entry 4 1 = 5 then 0 else destLen k.entry)).1
  generalize ((s.freeBytes (if fieldNat k.entry 4 1 = 5 then 0 else destLen k.entry)).2.mwriteAll 2 m (fieldNat k.entry 24 8)
    (s.freeBytes (if fieldNat k.entry 4 1 = 5 then 0 else destLen k.entry)).1).2 = w at kept ⊢
  exact (collectiveDone_meadow ((sent _ _ w).trans kept) c).1

theorem swNext_of_cons (taken : (s.meadow m).swTaken = [k]) : s.swNext m = s.swAdvance m (1 + 1) := by
  unfold State.swNext; rw [taken]; rfl

theorem swNext_bad (taken : (s.meadow m).swTaken = [k]) (bad : s.swBad k) :
    s.swNext m = s.collectiveDone m Code.swDescriptor := by
  rw [swNext_of_cons taken, swAdvance_bad taken bad, swAdvance_nothing (collectiveDone_meadow taken _).1]

theorem swNext_lost (taken : (s.meadow m).swTaken = [k]) (fine : ¬ s.swBad k) (lost : s.swLost m k) :
    s.swNext m = s.collectiveFails m Code.swPeerFailed := by
  rw [swNext_of_cons taken, swAdvance_lost taken fine lost, swAdvance_nothing (collectiveFails_swTaken taken _)]

theorem swNext_cut (taken : (s.meadow m).swTaken = [k]) (fine : ¬ s.swBad k) (live : ¬ s.swLost m k) (cut : s.swCut k) :
    s.swNext m = s.collectiveDone m Code.swUnreachable := by
  rw [swNext_of_cons taken, swAdvance_cut taken fine live cut, swAdvance_nothing (collectiveDone_meadow taken _).1]

end

/-! The collective that runs (R375 to R378). -/

section
variable {k : SwTaken} {r : List SwTaken} {l : List Member} {src : List Byte}

theorem collectiveComplete_none (none : (s.meadow m).swTaken = []) : exec (.collectiveComplete m l) s = .next s := by
  refine Eq.trans (congrArg (fun t => s.attemptWhole (.collectiveComplete m l) (.next t)) ?_) (attemptWhole_of_pkg rfl)
  rw [none]

theorem collectiveComplete_next (taken : (s.meadow m).swTaken = k :: r)
    (waits : k.begun = false ∨ (s.meadow m).epochFailed = true) :
    exec (.collectiveComplete m l) s = s.attemptWhole (.collectiveComplete m l) (.next (s.swNext m)) := by
  refine congrArg (fun t => s.attemptWhole (.collectiveComplete m l) (.next t)) ?_
  rw [taken]
  exact if_pos (waits.imp_left fun b => by rw [b]; rfl)

/-- The collective that runs, begun and of an epoch that has not failed. -/
structure State.Running (s : State) (m : MeadowIx) (k : SwTaken) (r : List SwTaken) : Prop where
  taken : (s.meadow m).swTaken = k :: r
  begun : k.begun = true
  live : (s.meadow m).epochFailed = false

theorem State.Running.goesOn (run : s.Running m k r) : ¬ (!k.begun ∨ (s.meadow m).epochFailed) := by
  rw [run.begun, run.live]; decide

theorem collectiveComplete_failed (run : s.Running m k r) (failed : l.any (·.failed) = true) :
    exec (.collectiveComplete m l) s = s.attemptWhole (.collectiveComplete m l)
      (.next ((s.collectiveFails m Code.swPeerFailed).swNext m)) := by
  refine congrArg (fun t => s.attemptWhole (.collectiveComplete m l) (.next t)) ?_
  rw [run.taken]
  exact (if_neg run.goesOn).trans (if_pos failed)

/-- The collective that runs, with the side of every member. -/
structure State.Matched (s : State) (m : MeadowIx) (k : SwTaken) (r : List SwTaken) (l : List Member) : Prop extends
    s.Running m k r where
  sound : l.any (·.failed) = false
  known : ∀ p ∈ swPeers k.entry s.heath.device, ∃ y ∈ l, y.device.toNat = p

/-- What a matched collective becomes. -/
theorem collectiveComplete_matched (run : s.Matched m k r l) : exec (.collectiveComplete m l) s
    = s.attemptWhole (.collectiveComplete m l) (.next (
      if !l.all (swAgrees k.entry s.heath.device) then (s.collectiveDone m Code.swMismatch).swNext m
      else if k.own.isSome then s.collectiveEnd m else (s.collectiveSend m k).collectiveEnd m)) := by
  refine congrArg (fun t => s.attemptWhole (.collectiveComplete m l) (.next t)) ?_
  have all : ((swPeers k.entry s.heath.device).all fun p => l.any fun x => x.device.toNat = p) = true := by
    simpa using run.known
  rw [run.taken]
  exact (if_neg run.goesOn).trans ((if_neg (by rw [run.sound]; exact nofun)).trans (if_neg (by rw [all]; exact nofun)))

theorem collectiveSend_read (read : s.mreadAll m (fieldNat k.entry 16 8) (swSrcLen k.entry s.heath.device) = (.ok src, t)) :
    s.collectiveSend m k = (swPeers k.entry s.heath.device).foldl
      (fun t p => t.swSendTo (swKey m k.entry) p (swShare k.entry p src))
      (t.updMeadow m fun x =>
        { x with swTaken := { k with own := some (swShare k.entry s.heath.device src) } :: x.swTaken.drop 1 }) := by
  unfold State.collectiveSend
  dsimp only
  rw [read]

theorem mapM_upFrom {β : Type} {f : Nat → Option β} {d : β} (a : Nat) (l : List β)
    (each : ∀ i, i < l.length → f (a + i) = some (l.getD i d)) : (upFrom a l.length).mapM f = some l := by
  induction l generalizing a with
  | nil => rfl
  | cons b l ih =>
    have first := each 0 (by simp)
    have rest := ih (a + 1) fun i small => by
      rw [Nat.add_right_comm]
      exact each (i + 1) (Nat.succ_lt_succ small)
    rw [List.length_cons, upFrom, List.mapM_cons, rest]
    rw [show f a = some b from first]
    rfl

/-- Every member's part has arrived: the result is written, and the collective completes (R375 to R378). -/
theorem collectiveEnd_done {own : List Byte} {parts : List (List Byte)} {fr : Bool} {w : State} (taken : (s.meadow m).swTaken = k :: r)
    (share : k.own = some own) (count : parts.length = fieldNat k.entry 10 2)
    (each : ∀ i, i < parts.length → let p := fieldNat k.entry 8 2 + i
      some (parts.getD i []) = if p = s.heath.device then some own
        else if p ∈ swPeers k.entry s.heath.device then (s.meadow m).swPart (swKey m k.entry) k.entry p else some [])
    (written : s.mwriteAll 2 m (fieldNat k.entry 24 8) (swResult k.entry parts) = (.ok fr, w)) :
    s.collectiveEnd m = (w.collectiveDone m Code.ok).swNext m := by
  have all : ((upFrom (fieldNat k.entry 8 2) (fieldNat k.entry 10 2)).mapM fun p =>
      if p = s.heath.device then k.own
      else if (swPeers k.entry s.heath.device).contains p then (s.meadow m).swPart (swKey m k.entry) k.entry p else some [])
      = some parts := by
    rw [← count]
    refine mapM_upFrom (d := []) _ parts fun i small => ?_
    rw [each i small, share]
    simp only [List.contains_iff_mem]
  unfold State.collectiveEnd
  rw [taken]
  dsimp only
  rw [all, share]
  dsimp only
  rw [written]

end

/-- Settles O51: the ring register, a poll, the collective that is next, and the one that runs. -/
theorem collectivesAreTakenAndCompleted : Obligations.CollectivesAreTakenAndCompleted := by
  unfold Obligations.CollectivesAreTakenAndCompleted
  intro m v e src k r l c s t w x size d refused runs key dup took bad failed cut fails
  refine ⟨fun denied => congrArg Host.Outcome.next (hostRow_denied _ _ denied), fun may here run => ?_,
    fun may here stopped => ⟨fun wrong => ?_, fun aligned least most => ?_⟩, collectivePoll_closed,
    fun opened read => ⟨fun other free => ?_, fun same free => ?_⟩, fun opened read free => ?_,
    fun none => ⟨swNext_nothing none, collectiveComplete_none none⟩,
    fun taken => ⟨fun bad => swNext_bad taken bad, fun fine lost => swNext_lost taken fine lost,
      fun fine live cut => swNext_cut taken fine live cut, fun fine live reached => ?_⟩,
    fun taken => ⟨fun waits free => ?_, fun begun live => ⟨fun failed free => ?_, fun sound known => ?_⟩,
      fun own parts share count each fr written => collectiveEnd_done taken share count each written,
      collectiveDone_meadow taken c⟩⟩
  · rw [execSwarmRingWrite_may may, swRingWrite_busy here run, mdwOff_ring]
  · rw [execSwarmRingWrite_may may, swRingWrite_refused here stopped wrong, mdwOff_ring]
  · rw [execSwarmRingWrite_may may, swRingWrite_set here stopped aligned least most]
  · rw [collectivePoll_read opened read, if_pos other]
    exact attemptWhole_undelayed _ free
  · rw [collectivePoll_read opened read, if_neg (not_not_intro same)]
    exact attemptWhole_undelayed _ free
  · rw [collectivePoll_unread opened read]
    exact attemptWhole_undelayed _ free
  · have goesOn := swAdvance_goesOn (fuel := 1) taken fine live reached
    rw [← swNext_of_cons taken] at goesOn
    refine ⟨fun begun => ?_, fun waits => ?_⟩
    · rw [goesOn, if_pos begun]
    · rw [goesOn, if_neg (by rw [waits]; exact nofun)]
  · rw [collectiveComplete_next taken waits]
    exact attemptWhole_undelayed _ free
  · rw [collectiveComplete_failed ⟨taken, begun, live⟩ failed]
    exact attemptWhole_undelayed _ free
  · have matched := collectiveComplete_matched ⟨⟨taken, begun, live⟩, sound, known⟩
    refine ⟨fun differ free => ?_, fun agree => ⟨fun unread read => ?_, fun shared free => ?_⟩⟩
    · rw [matched, if_pos (by rw [differ]; rfl)]
      exact attemptWhole_undelayed _ free
    · intro mine sent free
      rw [matched, if_neg (by rw [agree]; exact nofun), if_neg (by rw [unread]; exact nofun), collectiveSend_read read]
      exact attemptWhole_undelayed _ free
    · rw [matched, if_neg (by rw [agree]; exact nofun), if_pos shared]
      exact attemptWhole_undelayed _ free

end Sys2Proof.Machine

/-! Sessions of the transport port (19 R409 to R412). -/

namespace Sys2Proof.Machine

open Sys2Proof

variable {s t u : State}

/-! The transport port while its ring is written (R297, R412, R413). -/

namespace State.Serves

theorem physWrite (agent fuel pa : Nat) (b : List Byte) (s : State) : s.Serves (s.physWrite agent fuel pa b) := by
  induction fuel generalizing s pa b with
  | zero => exact refl s
  | succ n ih => exact ite (refl s) ((agentWrite ..).trans (ih ..))

theorem ringPut (s : State) (a : Nat) (b : List Byte) : s.Serves (s.ringPut a b) := physWrite ..

/-- Accesses to package memory leave the transport port as it is. -/
theorem trn (h : s.Serves t) : t.trn = s.trn := by
  induction h with
  | pkg only => obtain ⟨_, _, rfl⟩ := only; rfl
  | bench s cause =>
    have stops (l : List Nat) (u : State) : (l.foldl (fun u m => u.stopMeadow m) u).trn = u.trn := by
      obtain ⟨_, _, _, _, _, _, _, _, stopped⟩ := (State.ControlOnly.foldl State.ControlOnly.stopMeadow l u).eq
      rw [stopped]
    unfold State.bench
    dsimp only
    split
    · rfl
    · exact stops _ _
  | drop s ms pa agent =>
    unfold State.frozenDrop
    induction ms generalizing s with
    | nil => rfl
    | cons n r ih => exact ih _
  | trans _ _ a b => exact b.trans a

end State.Serves

theorem raisePortCount_trn (s : State) : s.raisePortCount.trn = { s.trn with portCount := s.trn.portCount + 1 } :=
  (State.Serves.ringPut ..).trn

/-- A note is sent, or counted as dropped. -/
theorem frameNote_trn (s : State) (frame slot flags missing : Nat) :
    ∃ drops, (s.frameNote frame slot flags missing).trn = { s.trn with noteDrops := drops } := by
  unfold State.frameNote
  split
  · exact ⟨_, rfl⟩
  · dsimp only
    split
    next t noted =>
      refine ⟨s.trn.noteDrops, ?_⟩
      unfold State.hubNote at noted
      split at noted
      · cases noted
      · split at noted
        · cases noted
        · cases noted; rfl
    next => exact ⟨_, rfl⟩

/-- A frame that finishes is counted and no longer open (R413, R418). -/
theorem finishFrame_trn (s : State) (f : TrnFrame) : ∃ missing drops, (s.finishFrame f).trn = { s.trn with
    portCount := s.trn.portCount + 1, missing := missing, noteDrops := drops,
    frames := s.trn.frames.filter fun g => g.block ≠ f.block, finished := f.block :: s.trn.finished } := by
  unfold State.finishFrame
  dsimp only
  obtain ⟨drops, noted⟩ := frameNote_trn _ (f.block % 2 ^ 32) f.slot (if f.missing s.trn.mode = 0 then 0 else 1) (f.missing s.trn.mode)
  rw [noted]
  unfold State.updTrn
  rw [raisePortCount_trn, (State.Serves.ringPut ..).trn]
  exact ⟨_, _, rfl⟩

/-- The transport port of `t` runs the session of `s`. -/
structure State.SameSession (s t : State) : Prop where
  st : t.trn.st = s.trn.st
  session : t.trn.session = s.trn.session

theorem finishAll_session (s : State) : s.SameSession s.finishAll := by
  have each (l : List TrnFrame) (t : State) (h : s.SameSession t) : s.SameSession (l.foldl (fun t f => t.finishFrame f) t) := by
    induction l generalizing t with
    | nil => exact h
    | cons f r ih =>
      obtain ⟨_, _, done⟩ := finishFrame_trn t f
      exact ih _ ⟨by rw [done]; exact h.st, by rw [done]; exact h.session⟩
  exact each _ s ⟨rfl, rfl⟩

theorem alive_iff {x : TrnState} : x.alive = true ↔ x ≠ .idle ∧ x ≠ .ended := by cases x <;> decide

/-- A session that exists ends with the code, and its number stays (R410). -/
theorem endSession_ends (live : s.trn.st.alive = true) (c : Half) :
    (s.endSession c).trn.st = .ended ∧ (s.endSession c).trn.code = c ∧ (s.endSession c).trn.sending = false
      ∧ (s.endSession c).trn.session = s.trn.session := by
  unfold State.endSession
  rw [if_neg (by rw [live]; exact nofun)]
  dsimp only
  cases s.trn.filmOut
  · exact ⟨rfl, rfl, rfl, (finishAll_session s).session⟩
  · exact ⟨rfl, rfl, rfl, rfl⟩

/-! HELLO (R409 to R412, R473). -/

section
variable {l : LaneIx} {h : MmpHdr} {b : List Byte} {c : Half} {i : Nat} {mode : TrnMode}

/-- A HELLO heard: REFUSEs it acknowledges are no longer resent. -/
def State.helloHeard (s : State) (h : MmpHdr) : State :=
  s.updTrn fun x => { x with reqs := x.reqs.filter fun r => !(r.isRefuse && r.seq ≤ h.ack.toNat) }

theorem execHello_early (early : s.sxt.bootStep ≠ 11) : exec (.hello l h b) s = .next s :=
  (congrArg (fun t => s.attemptWhole (.hello l h b) (.next t)) (if_pos (.inr early))).trans (attemptWhole_of_pkg rfl)

/-- A lane that is up in a part whose start-up has ended. -/
structure State.Hears (s : State) (l : LaneIx) : Prop where
  up : s.laneUp l = true
  started : s.sxt.bootStep = 11

theorem State.Hears.listens (hears : s.Hears l) : ¬ ((!s.laneUp l) = true ∨ s.sxt.bootStep ≠ 11) := by
  rw [hears.up, hears.started]; decide

theorem execHello_malformed (hears : s.Hears l) (bad : h.session ≠ 0 ∨ helloOk b = false) :
    exec (.hello l h b) s = .next s.rxDrop :=
  (congrArg (fun t => s.attemptWhole (.hello l h b) (.next t)) ((if_neg hears.listens).trans
    (if_pos (bad.imp_right fun no => by rw [no]; rfl)))).trans (attemptWhole_of_pkg rfl)

theorem State.Hears.formed (fresh : h.session = 0) (fine : helloOk b = true) : ¬ (h.session ≠ 0 ∨ (!helloOk b) = true) := by
  rw [fresh, fine]; decide

theorem mmpSend_pkg (s : State) (type session ack : Nat) (pay : List Byte) : (s.mmpSend type session ack pay).pkg = s.pkg := rfl

theorem refuseHello_pkg (s : State) (h : MmpHdr) (c : Half) : ((s.helloHeard h).refuseHello h c).pkg = s.pkg :=
  mmpSend_pkg (s.helloHeard h) 3 0 h.seq.toNat (natToBytes 2 c.toNat)

theorem execHello_busy (hears : s.Hears l) (fresh : h.session = 0) (fine : helloOk b = true) (live : s.trn.st.alive = true) :
    exec (.hello l h b) s = .next ((s.helloHeard h).refuseHello h Code.trnBusy) :=
  (congrArg (fun t => s.attemptWhole (.hello l h b) (.next t)) ((if_neg hears.listens).trans
    ((if_neg (State.Hears.formed fresh fine)).trans (if_pos live)))).trans (attemptWhole_of_pkg (refuseHello_pkg ..))

theorem execHello_refused (hears : s.Hears l) (fresh : h.session = 0) (fine : helloOk b = true) (idle : s.trn.st.alive = false)
    (mode : (s.helloHeard h).chooseMode b = .error c) :
    exec (.hello l h b) s = .next ((s.helloHeard h).refuseHello h c) := by
  have refused : exec (.hello l h b) s = s.attemptWhole (.hello l h b) (.next ((s.helloHeard h).refuseHello h c)) := by
    refine congrArg (fun t => s.attemptWhole (.hello l h b) (.next t)) ((if_neg hears.listens).trans
      ((if_neg (State.Hears.formed fresh fine)).trans ((if_neg (ne_true_of_eq_false idle)).trans ?_)))
    unfold State.helloHeard at mode
    rw [mode]
    rfl
  rw [refused]
  exact attemptWhole_of_pkg (refuseHello_pkg ..)

theorem execHello_accepted (hears : s.Hears l) (fresh : h.session = 0) (fine : helloOk b = true) (idle : s.trn.st.alive = false)
    (chosen : (s.helloHeard h).chooseMode b = .ok (i, mode)) : exec (.hello l h b) s
      = s.attemptWhole (.hello l h b) (.next ((s.helloHeard h).acceptHello h b i mode)) := by
  refine congrArg (fun t => s.attemptWhole (.hello l h b) (.next t)) ((if_neg hears.listens).trans
    ((if_neg (State.Hears.formed fresh fine)).trans ((if_neg (ne_true_of_eq_false idle)).trans ?_)))
  unfold State.helloHeard at chosen
  rw [chosen]
  rfl

theorem freshSession_ne_zero (s : State) : s.freshSession.1 ≠ 0 := by
  unfold State.freshSession
  dsimp only
  split <;> omega

/-- The session that a HELLO opens: its mode, its number, and counts of 0 (R411, R412). -/
def State.sessionOpened (s : State) (h : MmpHdr) (b : List Byte) (i : Nat) (mode : TrnMode) : Trn :=
  { s.trn with
    st := .accepted, filmOut := fieldNat b 0 1 == 1, modeIx := i, slots := s.slotsFor mode, code := Code.ok,
    session := s.freshSession.1, mode := mode, rxSeq := h.seq.toNat, reqs := s.trn.reqs.filter (·.isRefuse), pauseOut := false,
    runDue := false, hostCount := 0, portCount := 0, nextCount := 0, frames := [], finished := [], discarded := [], hiLine := none,
    sending := false, outFrame := 0, outLine := 0, outGap := false, outVoid := 0, announced := 0, outBuf := [] }

/-- A message of the session leaves its record but for the numbers and the requests. -/
theorem mmp_eq (s : State) (type : Nat) (pay : List Byte) : ∃ reqs, s.mmp type pay
    = { s with
        out := s.out ++ [.mmp (mmpBytes type s.trn.session (s.trn.txSeq + 1) s.trn.rxSeq pay)],
        trn := { s.trn with txSeq := s.trn.txSeq + 1, reqs := reqs } } := ⟨_, rfl⟩

/-- The ring header cleared and marked with the session of a HELLO, before its ACCEPT. -/
def State.ringMarked (s : State) (h : MmpHdr) (b : List Byte) (i : Nat) (mode : TrnMode) : State :=
  ({ s.freshSession.2 with trn := s.sessionOpened h b i mode } : State).ringPut s.ring.1
    (natToBytes 16 0 ++ natToBytes 8 s.freshSession.1)

theorem acceptHello_eq (s : State) (h : MmpHdr) (b : List Byte) (i : Nat) (mode : TrnMode) : s.acceptHello h b i mode
    = (s.ringMarked h b i mode).mmp 2 (natToBytes 1 i ++ natToBytes 2 (s.slotsFor mode)) := rfl

theorem acceptHello_opens (s : State) (h : MmpHdr) (b : List Byte) (i : Nat) (mode : TrnMode) :
    ∃ reqs, (s.acceptHello h b i mode).trn
        = { s.sessionOpened h b i mode with txSeq := s.trn.txSeq + 1, reqs := reqs }
      ∧ .mmp (mmpBytes 2 s.freshSession.1 (s.trn.txSeq + 1) h.seq.toNat (natToBytes 1 i ++ natToBytes 2 (s.slotsFor mode)))
        ∈ (s.acceptHello h b i mode).out := by
  have kept : (s.ringMarked h b i mode).trn = s.sessionOpened h b i mode := (State.Serves.ringPut ..).trn
  obtain ⟨reqs, sent⟩ := mmp_eq (s.ringMarked h b i mode) 2 (natToBytes 1 i ++ natToBytes 2 (s.slotsFor mode))
  rw [acceptHello_eq, sent, kept]
  exact ⟨reqs, rfl, List.mem_append_right _ List.mem_cons_self⟩

end

/-! Messages of a session (R409, R410, R419, R420). -/

section
variable {l : LaneIx} {h : MmpHdr}

theorem onMessage_dropped (up : s.laneUp l = true) (other : s.trn.st = .idle ∨ h.session.toNat ≠ s.trn.session)
    (f : State → State) : s.onMessage l h f = s.rxDrop := by
  refine (if_neg (by rw [up]; exact nofun)).trans ?_
  rw [State.register, if_pos (.inr other)]

/-- A message of the session registered. -/
def State.registered (s : State) (h : MmpHdr) : State :=
  s.updTrn fun x => { x with
    rxSeq := max x.rxSeq h.seq.toNat, reqs := x.reqs.filter fun r => r.isRefuse || h.ack.toNat < r.seq }

theorem onMessage_heard (up : s.laneUp l = true) (live : s.trn.st ≠ .idle ∧ s.trn.st ≠ .ended)
    (own : h.session.toNat = s.trn.session) (f : State → State) : s.onMessage l h f = f (s.registered h) := by
  refine (if_neg (by rw [up]; exact nofun)).trans ?_
  have mine : ¬ ((!s.laneUp l) = true ∨ s.trn.st = .idle ∨ h.session.toNat ≠ s.trn.session) := by
    rw [up]; simp [live.1, own]
  rw [State.register, if_neg mine]
  exact if_pos (alive_iff.mpr live)

end

section
variable {l : LaneIx} {h : MmpHdr} {code : Half} {ff fl : Word} (up : s.laneUp l = true)
  (live : s.trn.st ≠ .idle ∧ s.trn.st ≠ .ended) (own : h.session.toNat = s.trn.session)
include up live own

theorem execBye_heard : exec (.bye l h code) s
    = s.attemptWhole (.bye l h code) (.next ((s.registered h).endSession code)) := by
  change s.attemptWhole (.bye l h code) (.next (s.onMessage l h _)) = _
  rw [onMessage_heard up live own]

/-- STOPPED pauses a session that runs or pauses (R418, R419). -/
theorem execStopped_heard (runs : s.trn.st = .running ∨ s.trn.st = .pausing) : exec (.stopped l h ff fl) s
    = s.attemptWhole (.stopped l h ff fl) (.next ((if s.trn.filmOut then s.registered h else (s.registered h).finishAll).updTrn
      fun x => { x with st := .paused, sending := false, discarded := [], outBuf := [], announced := 0 })) := by
  change s.attemptWhole (.stopped l h ff fl) (.next (s.onMessage l h _)) = _
  rw [onMessage_heard up live own]
  exact congrArg (fun t => s.attemptWhole (.stopped l h ff fl) (.next t)) (if_pos runs)

end

/-! Resends and timers (R410). -/

section
variable {q : Word} {r : MmpReq}

theorem execMmpResend_again (found : (s.trn.reqs.find? fun r => r.seq = q.toNat) = some r) (few : r.sends < 8) :
    exec (.mmpResend q) s = .next ((s.emit (.mmp r.msg)).updTrn fun x =>
      { x with reqs := x.reqs.map fun q => if q.seq = r.seq then { q with sends := q.sends + 1 } else q }) := by
  refine (congrArg (fun t => s.attemptWhole (.mmpResend q) (.next t)) ?_).trans (attemptWhole_of_pkg rfl)
  rw [found]
  exact if_pos few

theorem execMmpResend_lost (found : (s.trn.reqs.find? fun r => r.seq = q.toNat) = some r) (many : 8 ≤ r.sends)
    (session : r.isRefuse = false) : exec (.mmpResend q) s = s.attemptWhole (.mmpResend q) (.next
      ((s.updTrn fun x => { x with reqs := x.reqs.filter fun q => q.seq ≠ r.seq }).endSession Code.trnPartnerLost)) := by
  refine congrArg (fun t => s.attemptWhole (.mmpResend q) (.next t)) ?_
  rw [found]
  exact (if_neg (Nat.not_lt.mpr many)).trans (if_neg (by rw [session]; exact nofun))

end

/-- Settles O52: a HELLO's outcomes, messages of another session and of this one, resends, and the timers. -/
theorem transportSessionsBeginAndEnd : Obligations.TransportSessionsBeginAndEnd := by
  unfold Obligations.TransportSessionsBeginAndEnd
  intro l h b code ff fl r i mode c s drop heard refused reg runs ends live
  have ended {u : State} {c : Half} {i : Instr} (run : exec i s = s.attemptWhole i (.next (u.endSession c)))
      (alive : u.trn.st.alive = true) (same : u.trn.session = s.trn.session) : ends c i u := by
    obtain ⟨st, code, sending, session⟩ := endSession_ends alive c
    exact ⟨fun free => run.trans (attemptWhole_undelayed _ free), st, code, sending, session.trans same⟩
  have gone : ¬ live → s.trn.st.alive = false := fun dead => Bool.eq_false_iff.mpr (mt alive_iff.mp dead)
  refine ⟨execHello_early, fun up started => ?_, fun up other => ?_, fun up alive own => ?_, fun q found => ?_,
    fun alive => ?_, fun dead => ?_⟩
  · have hears : s.Hears l := ⟨up, started⟩
    refine ⟨execHello_malformed hears, fun fresh fine => ⟨fun alive => execHello_busy hears fresh fine (alive_iff.mpr alive),
      fun dead chosen => execHello_refused hears fresh fine (gone dead) chosen, fun dead chosen => ?_⟩⟩
    obtain ⟨reqs, opened, sent⟩ := acceptHello_opens heard h b i mode
    intro t
    refine ⟨fun free => (execHello_accepted hears fresh fine (gone dead) chosen).trans (attemptWhole_undelayed _ free), ?_⟩
    change t.trn = _ at opened
    rw [opened]
    exact ⟨rfl, freshSession_ne_zero _, rfl, rfl, rfl, rfl, rfl, rfl, rfl, sent⟩
  · refine ⟨congrArg Host.Outcome.next (onMessage_dropped up other _), ?_, congrArg Host.Outcome.next (onMessage_dropped up other _),
      ?_⟩
    · exact (congrArg (fun t => s.attemptWhole (.stopped l h ff fl) (.next t)) (onMessage_dropped up other _)).trans
        (attemptWhole_of_pkg rfl)
    · exact (congrArg (fun t => s.attemptWhole (.bye l h code) (.next t)) (onMessage_dropped up other _)).trans
        (attemptWhole_of_pkg rfl)
  · have told (f : State → State) : s.onMessage l h f = f reg := onMessage_heard up alive own f
    refine ⟨congrArg Host.Outcome.next (told _), ended (execBye_heard up alive own) (alive_iff.mpr alive) rfl,
      fun out runs => ⟨congrArg Host.Outcome.next ((told _).trans (if_pos ⟨out, runs⟩)), ?_⟩, fun ingest => ?_,
      fun ingest runs free => ?_⟩
    · rw [execStopped_heard up alive own runs, if_pos out]
      exact attemptWhole_of_pkg rfl
    · exact congrArg Host.Outcome.next ((told _).trans (if_neg fun both => ne_true_of_eq_false ingest both.1))
    · rw [execStopped_heard up alive own runs, if_neg (ne_true_of_eq_false ingest)]
      exact attemptWhole_undelayed _ free
  · exact ⟨execMmpResend_again found, fun many session alive =>
      ended (execMmpResend_lost found many session) (alive_iff.mpr alive) rfl⟩
  · exact ⟨congrArg Host.Outcome.next (if_pos (alive_iff.mpr alive)), ended rfl (alive_iff.mpr alive) rfl⟩
  · have none := gone dead
    refine ⟨congrArg Host.Outcome.next (if_neg (ne_true_of_eq_false none)), ?_⟩
    exact (congrArg (fun t => s.attemptWhole .partnerLost (.next t)) (if_pos (by rw [none]; rfl))).trans (attemptWhole_of_pkg rfl)

end Sys2Proof.Machine

/-! Lanes, and the frames that arrive on them (19 R403 to R418). -/

namespace Sys2Proof.Machine

open Sys2Proof

variable {s t u : State}

/-! Reads of the ring (R413). -/

namespace State.Serves

theorem agentRead (s : State) (pa k : Nat) : s.Serves (s.agentRead pa k).2 := by
  have read := readSec s pa k
  unfold State.agentRead
  dsimp only
  split
  · exact refl s
  · split
    next e => rwa [e] at read
    next e => rwa [e] at read

theorem physRead (fuel pa k : Nat) (s : State) : s.Serves (s.physRead fuel pa k).2 := by
  induction fuel generalizing pa k s with
  | zero => exact refl s
  | succ fuel ih =>
    unfold State.physRead
    split
    · exact refl s
    · exact (agentRead s pa (min k (32 - pa % 32))).trans (ih ..)

end State.Serves

theorem readHostCount_trn (s : State) : ∃ n, s.readHostCount.trn = { s.trn with hostCount := n } := by
  refine ⟨bytesToNat (s.physGet s.ring.1 8).1.2, ?_⟩
  change { (s.physGet s.ring.1 8).2.trn with hostCount := bytesToNat (s.physGet s.ring.1 8).1.2 } = _
  rw [show (s.physGet s.ring.1 8).2.trn = s.trn from (State.Serves.physRead ..).trn]

/-! Lanes (R403, R404). -/

section
variable {l : LaneIx} {up cr1 : Bool} {ip : Word}

/-- The medium of a lane that comes up: the one forced, or the one found. -/
theorem lane_medium (n : Nat) (cr1 : Bool) :
    (match n with | 0 => false | 1 => true | _ => cr1) = (if n = 0 then false else if n = 1 then true else cr1) := by
  match n with
  | 0 => rfl
  | 1 => rfl
  | _ + 2 => rfl

theorem execLaneStateChange_down (used : Sparse.get 0 s.trn.lanes l ≠ 0) : exec (.laneStateChange l false cr1) s
    = .next ((s.updTrn fun x => { x with lanes := Sparse.put 0 x.lanes l 3 }).toStep8) :=
  congrArg Host.Outcome.next (if_neg used)

theorem execLaneStateChange_up (used : Sparse.get 0 s.trn.lanes l ≠ 0) : exec (.laneStateChange l true cr1) s
    = .next ((s.updTrn fun x => { x with
      lanes := Sparse.put 0 x.lanes l 2, media := Sparse.put false x.media l
        (if s.heath.trn.media = 0 then false else if s.heath.trn.media = 1 then true else cr1) }).toStep8) := by
  refine congrArg Host.Outcome.next ((if_neg used).trans ?_)
  exact congrArg (fun cr => (s.updTrn fun x =>
    { x with lanes := Sparse.put 0 x.lanes l 2, media := Sparse.put false x.media l cr }).toStep8) (lane_medium ..)

end

/-! The open frames that a packet meets (R414 to R417). -/

section
variable {l : LaneIx} {p : Gvsp} {block : Nat} {f : TrnFrame} {g : State → TrnFrame → State}

theorem execGvspPacket_idle (up : s.laneUp l = true) (idle : s.trn.ingesting = false) :
    exec (.gvspPacket l p) s = .next s.rxDrop :=
  (congrArg (fun t => s.attemptWhole (.gvspPacket l p) (.next t))
    ((if_neg (by rw [up]; exact nofun)).trans (if_pos (by rw [idle]; rfl)))).trans (attemptWhole_of_pkg rfl)

theorem execGvspPacket_in (up : s.laneUp l = true) (runs : s.trn.ingesting = true) :
    exec (.gvspPacket l p) s = s.attemptWhole (.gvspPacket l p) (.next (s.gvspIn p)) :=
  congrArg (fun t => s.attemptWhole (.gvspPacket l p) (.next t))
    ((if_neg (by rw [up]; exact nofun)).trans (if_neg (by rw [runs]; exact nofun)))

/-- A packet whose effect leaves the package as it is. -/
theorem execGvspPacket_of_eq (up : s.laneUp l = true) (runs : s.trn.ingesting = true) (e : s.gvspIn p = t) (pkg : t.pkg = s.pkg) :
    exec (.gvspPacket l p) s = .next t := by
  rw [execGvspPacket_in up runs, e]
  exact attemptWhole_of_pkg pkg

/-- No open frame is the block's. -/
def State.notOpen (s : State) (block : Nat) : Prop := ∀ f ∈ s.trn.frames, f.block ≠ block

/-- The block is older than every open frame, of which there is one. -/
def State.older (s : State) (block : Nat) : Prop := s.trn.frames ≠ [] ∧ ∀ f ∈ s.trn.frames, block < f.block

theorem notOpen_iff : s.notOpen block ↔ ¬ (s.trn.frames.any fun f => f.block = block) = true := by
  unfold State.notOpen; simp

theorem older_iff : s.older block ↔ (!s.trn.frames.isEmpty && s.trn.frames.all (block < ·.block)) = true := by
  unfold State.older; simp

theorem withFrame_open (single : s.trn.frames = [f]) (own : f.block = block) : s.withFrame block g = g s f := by
  have found : (s.trn.frames.any fun f => f.block = block) = true := by simp [single, own]
  unfold State.withFrame
  dsimp only
  rw [if_pos found, single]
  simp [own]

theorem withFrame_older (closed : s.notOpen block) (old : s.older block) : s.withFrame block g = s.rxDrop :=
  (if_neg (notOpen_iff.mp closed)).trans (if_pos (older_iff.mp old))

theorem withFrame_discarded (closed : s.notOpen block) (young : ¬ s.older block) (gone : block ∈ s.trn.discarded) :
    s.withFrame block g = s :=
  (if_neg (notOpen_iff.mp closed)).trans ((if_neg (mt older_iff.mpr young)).trans (if_pos (List.contains_iff_mem.mpr gone)))

theorem withFrame_finished (closed : s.notOpen block) (young : ¬ s.older block) (kept : block ∉ s.trn.discarded)
    (done : block ∈ s.trn.finished) : s.withFrame block g = s.updTrn fun x => { x with late := satInc x.late } :=
  (if_neg (notOpen_iff.mp closed)).trans ((if_neg (mt older_iff.mpr young)).trans
    ((if_neg (mt List.contains_iff_mem.mp kept)).trans (if_pos (List.contains_iff_mem.mpr done))))

/-- A block that no frame is known of opens one, where a slot is free (R414, R416). -/
theorem withFrame_opens (closed : s.notOpen block) (young : ¬ s.older block) (kept : block ∉ s.trn.discarded)
    (fresh : block ∉ s.trn.finished) (opened : (s.openFrame block).trn.frames = [f]) (own : f.block = block) :
    s.withFrame block g = g (s.openFrame block) f := by
  refine (if_neg (notOpen_iff.mp closed)).trans ((if_neg (mt older_iff.mpr young)).trans
    ((if_neg (mt List.contains_iff_mem.mp kept)).trans ((if_neg (mt List.contains_iff_mem.mp fresh)).trans ?_)))
  simp [opened, own]

theorem withFrame_overrun (closed : s.notOpen block) (young : ¬ s.older block) (kept : block ∉ s.trn.discarded)
    (fresh : block ∉ s.trn.finished) (full : (s.openFrame block).trn.frames = []) : s.withFrame block g = s.openFrame block := by
  refine (if_neg (notOpen_iff.mp closed)).trans ((if_neg (mt older_iff.mpr young)).trans
    ((if_neg (mt List.contains_iff_mem.mp kept)).trans ((if_neg (mt List.contains_iff_mem.mp fresh)).trans ?_)))
  simp [full]

/-- The slots that are free, as HOST_COUNT reads. -/
def State.room (s : State) : Nat := s.readHostCount.trn.hostCount + s.trn.slots - s.trn.nextCount

theorem room_eq (s : State) :
    s.readHostCount.trn.hostCount + s.readHostCount.trn.slots - s.readHostCount.trn.nextCount = s.room := by
  obtain ⟨n, read⟩ := readHostCount_trn s
  unfold State.room
  rw [read]

theorem openFrame_full (empty : s.trn.frames = []) (full : s.room = 0) : (s.openFrame block).trn.overrun = satInc s.trn.overrun
    ∧ (s.openFrame block).trn.frames = [] ∧ (s.openFrame block).trn.discarded = block :: s.trn.discarded := by
  obtain ⟨n, read⟩ := readHostCount_trn s
  have discards : s.openFrame block = s.readHostCount.updTrn fun x =>
      { x with overrun := satInc x.overrun, discarded := block :: x.discarded } := if_pos ((room_eq s).trans full)
  rw [discards]
  unfold State.updTrn
  rw [read]
  exact ⟨rfl, empty, rfl⟩

/-- The next slot given to a block, its status entry begun (R412, R414). -/
def State.slotGiven (s : State) (block : Nat) : State :=
  let t := s.readHostCount
  (t.ringPut (t.entryAt (t.trn.nextCount % t.trn.slots)) (natToBytes 4 block ++ natToBytes 5 0)).updTrn fun x =>
    { x with
      nextCount := x.nextCount + 1, frames := x.frames ++ [⟨block, x.nextCount, t.trn.nextCount % t.trn.slots, [], [], 0⟩] }

theorem slotGiven_trn (s : State) (block : Nat) : ∃ n, (s.slotGiven block).trn = { s.trn with
    hostCount := n, nextCount := s.trn.nextCount + 1,
    frames := s.trn.frames ++ [⟨block, s.trn.nextCount, s.trn.nextCount % s.trn.slots, [], [], 0⟩] } := by
  obtain ⟨n, read⟩ := readHostCount_trn s
  unfold State.slotGiven State.updTrn
  dsimp only
  rw [(State.Serves.ringPut ..).trn, read]
  exact ⟨n, rfl⟩

theorem openFrame_free (free : s.room ≠ 0) :
    s.openFrame block = s.slotGiven block ∨ s.openFrame block = (s.slotGiven block).sendPause := by
  by_cases low : (!s.readHostCount.trn.pauseOut) = true
      ∧ s.readHostCount.trn.hostCount + s.readHostCount.trn.slots - s.readHostCount.trn.nextCount - 1
        < s.readHostCount.trn.mode.stop + 2
  · exact .inr ((if_neg fun full => free ((room_eq s).symm.trans full)).trans (if_pos low))
  · exact .inl ((if_neg fun full => free ((room_eq s).symm.trans full)).trans (if_neg low))

theorem openFrame_opens (empty : s.trn.frames = []) (free : s.room ≠ 0) :
    (s.openFrame block).trn.nextCount = s.trn.nextCount + 1
    ∧ (s.openFrame block).trn.frames = [⟨block, s.trn.nextCount, s.trn.nextCount % s.trn.slots, [], [], 0⟩] := by
  obtain ⟨n, given⟩ := slotGiven_trn s block
  have slot : (s.slotGiven block).trn.nextCount = s.trn.nextCount + 1
      ∧ (s.slotGiven block).trn.frames = [⟨block, s.trn.nextCount, s.trn.nextCount % s.trn.slots, [], [], 0⟩] := by
    rw [given, empty]
    exact ⟨rfl, rfl⟩
  rcases openFrame_free (block := block) free with same | paused
  · rwa [same]
  · rw [paused]; exact slot

end

/-! The packets of an open frame (R407, R417, R418). -/

section
variable {block id line : Nat} {f : TrnFrame} {bytes : List Byte}

/-- Whether the window of a line has closed (R417). -/
def State.pastWindow (s : State) (line : Nat) : Bool :=
  match s.trn.hiLine with
  | some h => decide (line + 256 ≤ h)
  | none => false

theorem pastWindow_iff : s.pastWindow line = true ↔ ∃ h, s.trn.hiLine = some h ∧ line + 256 ≤ h := by
  unfold State.pastWindow
  cases s.trn.hiLine <;> simp

/-- The highest line sequence with a line registered. -/
def State.seenLine (s : State) (line : Nat) : State := s.updTrn fun x => { x with hiLine := some (max (x.hiLine.getD 0) line) }

/-- A packet in its window: registered, and its bytes written. -/
def State.payloadKept (s : State) (m : TrnMode) (f : TrnFrame) (block id line : Nat) (bytes : List Byte) : State :=
  (((s.seenLine line).seePacket f id).updFrame block fun g =>
    { g with got := if g.got.contains id then g.got else g.got ++ [id] }).putPacket f (bytes.length / 32 + 1)
      ((id - 1) * m.packet) bytes

/-- A line of a discarded block registered. -/
def State.discardedSeen (s : State) (block line : Nat) : State :=
  if s.trn.discarded.contains block then s.seenLine line else s

theorem payloadPacket_eq (s : State) (block id : Nat) (bytes : List Byte) : s.payloadPacket block id bytes
    = ((s.withFrame block fun t f =>
        if s.pastWindow (s.trn.mode.lastLine block id) then t.updTrn fun x => { x with late := satInc x.late }
        else t.payloadKept s.trn.mode f block id (s.trn.mode.lastLine block id) bytes).discardedSeen block
          (s.trn.mode.lastLine block id)).finishClosed := rfl

/-- No frame finishes while every open one has a window open (R417, R418). -/
theorem finishClosed_none {h : Nat} (hi : s.trn.hiLine = some h)
    (open_ : ∀ f ∈ s.trn.frames, h < f.block * s.trn.mode.height + s.trn.mode.height - 1 + 256) : s.finishClosed = s := by
  have none : (s.trn.frames.filter fun f => f.block * s.trn.mode.height + s.trn.mode.height - 1 + 256 ≤ h) = [] :=
    List.filter_eq_nil_iff.mpr fun f mem closed => Nat.not_le.mpr (open_ f mem) (of_decide_eq_true closed)
  unfold State.finishClosed
  rw [hi]
  dsimp only
  rw [none]
  rfl

theorem askResend_trn (s : State) (f : TrnFrame) (id : Nat) : (s.askResend f id).trn = s.trn :=
  (apply_ite State.trn _ _ _).trans (ite_self _)

theorem seePacket_trn (s : State) (f : TrnFrame) (id : Nat) : (s.seePacket f id).trn = { s.trn with
    frames := s.trn.frames.map fun g => if g.block = f.block then { g with next := max g.next (id + 1) } else g } := by
  have asked : (if f.next < id then s.askResend f id else s).trn = s.trn := by
    rw [apply_ite State.trn, askResend_trn, ite_self]
  unfold State.seePacket State.updFrame State.updTrn
  dsimp only
  rw [asked]

theorem framePut_serves (s : State) (pa : Nat) (b : List Byte) : s.Serves (s.framePut pa b).2 := by
  have written := State.Serves.writeSec s pa b
  unfold State.framePut
  split
  · exact State.Serves.agentWrite s 4 pa b none
  · split
    next e => rwa [e] at written
    next e => rwa [e] at written

/-- The bytes written change the frame's lost lines alone. -/
theorem putPacket_trn {g : TrnFrame} (own : g.block = f.block) (fuel off : Nat) (b : List Byte) (s : State) (lost : List Nat)
    (single : s.trn.frames = [{ g with lost := lost }]) :
    ∃ lost, (s.putPacket f fuel off b).trn = { s.trn with frames := [{ g with lost := lost }] } := by
  induction fuel generalizing off b s lost with
  | zero => exact ⟨lost, by rw [← single]; rfl⟩
  | succ fuel ih =>
    unfold State.putPacket
    split
    · exact ⟨lost, by rw [← single]⟩
    · have kept : (s.framePut (s.slotAt f.slot + off) (b.take 32)).2.trn = s.trn := (framePut_serves ..).trn
      dsimp only
      split
      · obtain ⟨last, rest⟩ := ih (off + 32) (b.drop 32) _ lost (by rw [kept]; exact single)
        exact ⟨last, by rw [rest, kept]⟩
      · obtain ⟨last, rest⟩ := ih (off + 32) (b.drop 32) ((s.framePut (s.slotAt f.slot + off) (b.take 32)).2.updFrame f.block
            fun g => { g with lost := if g.lost.contains (off / s.trn.mode.line) then g.lost else g.lost ++ [off / s.trn.mode.line] })
          (if lost.contains (off / s.trn.mode.line) then lost else lost ++ [off / s.trn.mode.line]) (by
            unfold State.updFrame State.updTrn
            dsimp only
            rw [kept, single]
            simp [own])
        exact ⟨last, by rw [rest]; unfold State.updFrame State.updTrn; rw [kept]⟩

/-- The next packet of an open frame, in its window (R417). -/
theorem payloadKept_trn {m : TrnMode} (single : s.trn.frames = [f]) (own : f.block = block) (inOrder : f.next = id)
    (new : id ∉ f.got) : ∃ lost, (s.payloadKept m f block id line bytes).trn = { s.trn with
      hiLine := some (max (s.trn.hiLine.getD 0) line),
      frames := [{ f with got := f.got ++ [id], next := id + 1, lost := lost }] } := by
  have seen : ((s.seenLine line).seePacket f id).trn = { s.trn with
      hiLine := some (max (s.trn.hiLine.getD 0) line), frames := [{ f with next := id + 1 }] } := by
    rw [seePacket_trn]
    simp [State.seenLine, State.updTrn, single, inOrder]
  have registered : (((s.seenLine line).seePacket f id).updFrame block fun g =>
      { g with got := if g.got.contains id then g.got else g.got ++ [id] }).trn = { s.trn with
      hiLine := some (max (s.trn.hiLine.getD 0) line), frames := [{ f with got := f.got ++ [id], next := id + 1 }] } := by
    unfold State.updFrame
    rw [show ∀ (u : State) (h : Trn → Trn), (u.updTrn h).trn = h u.trn from fun _ _ => rfl, seen]
    simp [own, new]
  obtain ⟨lost, written⟩ := putPacket_trn (f := f) (g := { f with got := f.got ++ [id], next := id + 1 }) rfl
    (bytes.length / 32 + 1) ((id - 1) * m.packet) bytes _ f.lost (by rw [registered])
  exact ⟨lost, by unfold State.payloadKept; rw [written, registered]⟩

theorem discardedSeen_same {h : Nat} (hi : s.trn.hiLine = some h) (low : line ≤ h) :
    (s.discardedSeen block line).trn = s.trn := by
  unfold State.discardedSeen
  split
  · change { s.trn with hiLine := some (max (s.trn.hiLine.getD 0) line) } = s.trn
    rw [hi, Option.getD_some, Nat.max_eq_left low, ← hi]
  · rfl

theorem discardedSeen_kept (kept : block ∉ s.trn.discarded) : s.discardedSeen block line = s :=
  if_neg (mt List.contains_iff_mem.mp kept)

/-- The next payload packet of an open frame that stays open. -/
theorem payloadPacket_next (single : s.trn.frames = [f]) (own : f.block = block)
    (inTime : ∀ h, s.trn.hiLine = some h → h < s.trn.mode.lastLine block id + 256) (inOrder : f.next = id) (new : id ∉ f.got)
    (open_ : max (s.trn.hiLine.getD 0) (s.trn.mode.lastLine block id)
      < block * s.trn.mode.height + s.trn.mode.height - 1 + 256) :
    ∃ lost, (s.payloadPacket block id bytes).trn = { s.trn with
      hiLine := some (max (s.trn.hiLine.getD 0) (s.trn.mode.lastLine block id)),
      frames := [{ f with got := f.got ++ [id], next := id + 1, lost := lost }] } := by
  have fresh : ¬ s.pastWindow (s.trn.mode.lastLine block id) = true := by
    rw [pastWindow_iff]
    rintro ⟨h, hi, past⟩
    exact absurd (inTime h hi) (Nat.not_lt.mpr past)
  obtain ⟨lost, kept⟩ := payloadKept_trn (m := s.trn.mode) (line := s.trn.mode.lastLine block id) (bytes := bytes)
    single own inOrder new
  refine ⟨lost, ?_⟩
  rw [payloadPacket_eq, withFrame_open single own, if_neg fresh]
  generalize s.payloadKept s.trn.mode f block id (s.trn.mode.lastLine block id) bytes = w at kept
  have still : (w.discardedSeen block (s.trn.mode.lastLine block id)).trn = w.trn :=
    discardedSeen_same (by rw [kept]) (Nat.le_max_right ..)
  rw [finishClosed_none (h := max (s.trn.hiLine.getD 0) (s.trn.mode.lastLine block id)) (by rw [still, kept]) (by
    rw [still, kept]
    intro g mem
    rw [List.mem_singleton.mp mem, own]
    exact open_), still, kept]

/-- A payload packet whose window has closed (R417). -/
theorem payloadPacket_late {h : Nat} (single : s.trn.frames = [f]) (own : f.block = block) (hi : s.trn.hiLine = some h)
    (past : s.trn.mode.lastLine block id + 256 ≤ h) (open_ : h < block * s.trn.mode.height + s.trn.mode.height - 1 + 256)
    (kept : block ∉ s.trn.discarded) :
    s.payloadPacket block id bytes = s.updTrn fun x => { x with late := satInc x.late } := by
  rw [payloadPacket_eq, withFrame_open single own, if_pos (pastWindow_iff.mpr ⟨h, hi, past⟩),
    discardedSeen_kept (s := s.updTrn fun x => { x with late := satInc x.late }) kept]
  refine finishClosed_none (h := h) hi fun g (mem : g ∈ s.trn.frames) => ?_
  rw [single] at mem
  rw [List.mem_singleton.mp mem, own]
  exact open_

end

/-! Leaders and trailers (R407, R414, R416, R418). -/

section
variable {block : Dword} {id pixel w hh : Word} {b : List Byte} {f : TrnFrame}

theorem gvspIn_leader (format : pixel.toNat = s.trn.mode.pixel) (width : w.toNat = s.trn.mode.width)
    (height : hh.toNat = s.trn.mode.height) :
    s.gvspIn (.leader block true pixel w hh) = s.withFrame block.toNat fun t f => t.seePacket f 0 :=
  if_neg (by simp [format, width, height])

theorem gvspIn_leaderDropped
    (other : pixel.toNat ≠ s.trn.mode.pixel ∨ w.toNat ≠ s.trn.mode.width ∨ hh.toNat ≠ s.trn.mode.height) :
    s.gvspIn (.leader block true pixel w hh) = s.rxDrop := if_pos (.inr other)

theorem gvspIn_payload (some_ : id ≠ 0) (inFrame : id.toNat ≤ s.trn.mode.packets)
    (whole : b.length = min s.trn.mode.packet (s.trn.mode.frame - (id.toNat - 1) * s.trn.mode.packet)) :
    s.gvspIn (.payload block id b) = s.payloadPacket block.toNat id.toNat b := by
  refine if_neg ?_
  rintro (none | far | short)
  · exact some_ none
  · exact Nat.not_lt.mpr inFrame far
  · exact short whole

theorem gvspIn_payloadDropped (other : ¬ (id ≠ 0 ∧ id.toNat ≤ s.trn.mode.packets
      ∧ b.length = min s.trn.mode.packet (s.trn.mode.frame - (id.toNat - 1) * s.trn.mode.packet))) :
    s.gvspIn (.payload block id b) = s.rxDrop := by
  refine if_pos ?_
  by_contra fits
  simp only [not_or, not_not, Nat.not_lt] at fits
  exact other fits

/-- A trailer of no open frame has the effect that any packet of its block has. -/
theorem gvspIn_trailerOf (any : ∀ g, s.withFrame block.toNat g = t) : s.gvspIn (.trailer block id) = t := by
  unfold State.gvspIn
  exact any _

/-- The trailer finishes its frame. -/
theorem gvspIn_trailer (single : s.trn.frames = [f]) (own : f.block = block.toNat) :
    (s.gvspIn (.trailer block id)).trn.frames = []
      ∧ (s.gvspIn (.trailer block id)).trn.portCount = s.trn.portCount + 1 := by
  have seen := seePacket_trn s f id.toNat
  rw [single] at seen
  simp only [List.map_cons, List.map_nil, if_true] at seen
  have ends : s.gvspIn (.trailer block id)
      = (s.seePacket f id.toNat).finishFrame { f with next := max f.next (id.toNat + 1) } := by
    unfold State.gvspIn
    dsimp only
    rw [withFrame_open single own]
    simp [seen, own]
  obtain ⟨_, _, done⟩ := finishFrame_trn (s.seePacket f id.toNat) { f with next := max f.next (id.toNat + 1) }
  rw [ends, done, seen]
  exact ⟨by simp, rfl⟩

end

/-! HOST_COUNT polls (R413, R420). -/

theorem execHostCountPoll_none (none : s.trn.st.alive = false) : exec .hostCountPoll s = .next s :=
  (congrArg (fun t => s.attemptWhole .hostCountPoll (.next t)) (if_pos (by rw [none]; rfl))).trans (attemptWhole_of_pkg rfl)

theorem execHostCountPoll_alive (live : s.trn.st.alive = true) : exec .hostCountPoll s = s.attemptWhole .hostCountPoll (.next
    (if s.readHostCount.trn.runDue ∧ s.readHostCount.trn.portCount < s.readHostCount.trn.hostCount then s.readHostCount.sendRun
      else s.readHostCount)) :=
  congrArg (fun t => s.attemptWhole .hostCountPoll (.next t)) (if_neg (by rw [live]; exact nofun))

/-- Settles O53: lanes, ARP, frames dropped, leaders, payload packets, trailers, and HOST_COUNT polls. -/
theorem transportFramesArrive : Obligations.TransportFramesArrive := by
  unfold Obligations.TransportFramesArrive
  intro l up cr1 ip block pixel w hh id b f s m drop late line runs fits
  refine ⟨fun unused => congrArg Host.Outcome.next (if_pos unused),
    fun used => ⟨execLaneStateChange_down used, execLaneStateChange_up used⟩,
    fun up own => congrArg Host.Outcome.next (if_pos ⟨up, own⟩), fun other => congrArg Host.Outcome.next (if_neg ?_),
    fun up => congrArg Host.Outcome.next (if_pos up),
    fun up idle => ⟨execGvspPacket_idle up idle, execGvspPacket_idle up idle, execGvspPacket_idle up idle⟩,
    fun up runs => ⟨fun other => execGvspPacket_of_eq up runs (gvspIn_leaderDropped other) rfl,
      fun other => execGvspPacket_of_eq up runs (gvspIn_payloadDropped other) rfl,
      fun empty unfinished kept format width height => ?_, fun single own fit inTime inOrder new open_ => ?_,
      fun h single own fit hi past open_ kept => ?_, fun empty finished kept => ?_, fun single old => ?_,
      fun closed young gone => ?_, fun single own => ?_⟩,
    fun dead => execHostCountPoll_none (Bool.eq_false_iff.mpr (mt alive_iff.mp (by tauto))),
    fun some_ unended => ⟨fun none free => ?_, fun due counts => ?_⟩⟩
  · rcases other with down | other
    · rw [down]; exact fun both => Bool.false_ne_true both.1
    · exact fun both => other both.2
  · have young : ¬ s.older block.toNat := fun old => old.1 empty
    have closed : s.notOpen block.toNat := fun f mem => by rw [empty] at mem; cases mem
    intro room t
    have leader : t = s.withFrame block.toNat fun t f => t.seePacket f 0 := gvspIn_leader format width height
    refine ⟨fun free => (execGvspPacket_in up runs).trans (attemptWhole_undelayed _ free), fun full => ?_, fun some_ => ?_⟩
    · obtain ⟨overrun, frames, discarded⟩ := openFrame_full (block := block.toNat) empty full
      rw [leader, withFrame_overrun closed young kept unfinished frames]
      exact ⟨overrun, frames, discarded⟩
    · obtain ⟨next, opened⟩ := openFrame_opens (block := block.toNat) empty some_
      rw [leader, withFrame_opens closed young kept unfinished opened rfl, seePacket_trn, opened]
      exact ⟨next, by simp⟩
  · obtain ⟨some_, inFrame, whole⟩ := fit
    obtain ⟨lost, next⟩ := payloadPacket_next (bytes := b) single own inTime inOrder new open_
    intro t
    refine ⟨fun free => (execGvspPacket_in up runs).trans (attemptWhole_undelayed _ free), ?_⟩
    rw [show t = s.payloadPacket block.toNat id.toNat b from gvspIn_payload some_ inFrame whole, next]
    exact ⟨_, rfl, rfl, rfl, rfl, rfl, rfl⟩
  · obtain ⟨some_, inFrame, whole⟩ := fit
    exact execGvspPacket_of_eq up runs ((gvspIn_payload some_ inFrame whole).trans
      (payloadPacket_late single own hi past open_ kept)) rfl
  · exact execGvspPacket_of_eq up runs (gvspIn_trailerOf fun _ => withFrame_finished (fun f mem => by rw [empty] at mem; cases mem)
      (fun old => old.1 empty) kept finished) rfl
  · have each (g : TrnFrame) (mem : g ∈ s.trn.frames) : block.toNat < g.block := by
      rw [single] at mem
      rwa [List.mem_singleton.mp mem]
    have old : s.older block.toNat := ⟨by rw [single]; exact nofun, each⟩
    exact execGvspPacket_of_eq up runs (gvspIn_trailerOf fun _ => withFrame_older (fun g mem => (each g mem).ne') old) rfl
  · have young : ¬ s.older block.toNat := fun old => by
      rcases young with empty | ⟨g, mem, less⟩
      · exact old.1 empty
      · exact absurd (old.2 g mem) (Nat.lt_asymm less)
    exact execGvspPacket_of_eq up runs (gvspIn_trailerOf fun _ => withFrame_discarded closed young gone) rfl
  · obtain ⟨frames, count⟩ := gvspIn_trailer (id := id) single own
    exact ⟨fun free => (execGvspPacket_in up runs).trans (attemptWhole_undelayed _ free), frames, count⟩
  · have read := execHostCountPoll_alive (alive_iff.mpr ⟨some_, unended⟩)
    obtain ⟨n, kept⟩ := readHostCount_trn s
    rw [read, if_neg (by rw [kept]; exact fun both => ne_true_of_eq_false none both.1)]
    exact attemptWhole_undelayed _ free
  · have read := execHostCountPoll_alive (alive_iff.mpr ⟨some_, unended⟩)
    obtain ⟨n, kept⟩ := readHostCount_trn s
    refine ⟨fun free => ?_, rfl, rfl⟩
    rw [read, if_pos ⟨by rw [kept]; exact due, by rw [show s.readHostCount.trn.portCount = s.trn.portCount by rw [kept]]; exact counts⟩]
    exact attemptWhole_undelayed _ free

end Sys2Proof.Machine

/-! RUN, PAUSE and END, and the lines of film-out (19 R419 to R424). -/

namespace Sys2Proof.Machine

open Sys2Proof

variable {s t u : State}

/-! What has been sent stays sent. -/

theorem raise_out (s : State) (p f v : Nat) : s.out <+: (s.raise p f v).out := by
  unfold State.raise
  split
  · exact List.prefix_append ..
  · exact List.prefix_rfl

theorem stopMeadow_out (s : State) (m : Nat) : s.out <+: (s.stopMeadow m).out := by
  have cores : (s.stopCores (s.meadowCores m)).out = s.out := by
    unfold State.stopCores
    rw [State.updCores_eq]
  have told (f : Meadow → Meadow) : s.out <+: (((s.stopCores (s.meadowCores m)).updMeadow m f).raiseM m 8).out := by
    have raised := raise_out ((s.stopCores (s.meadowCores m)).updMeadow m f)
      (((s.stopCores (s.meadowCores m)).updMeadow m f).meadow m).port (((s.stopCores (s.meadowCores m)).updMeadow m f).meadow m).fn 8
    rwa [State.updMeadow_out, cores] at raised
  have silent (f : Meadow → Meadow) : s.out <+: ((s.stopCores (s.meadowCores m)).updMeadow m f).out := by
    rw [State.updMeadow_out, cores]
  unfold State.stopMeadow
  dsimp only
  split
  · exact told _
  · exact told _
  · exact told _
  · exact silent _
  · exact silent _
  · exact List.prefix_rfl
  · exact List.prefix_rfl

theorem State.Serves.out (h : s.Serves t) : s.out <+: t.out := by
  induction h with
  | pkg only => obtain ⟨_, _, rfl⟩ := only; exact List.prefix_rfl
  | bench s cause =>
    have stops (l : List Nat) (u : State) : u.out <+: (l.foldl (fun u m => u.stopMeadow m) u).out := by
      induction l generalizing u with
      | nil => exact List.prefix_rfl
      | cons m r ih => exact (stopMeadow_out u m).trans (ih _)
    unfold State.bench
    dsimp only
    split
    · exact List.prefix_rfl
    · exact stops _ (s.updSxt _)
  | drop s ms pa agent =>
    unfold State.frozenDrop
    induction ms generalizing s with
    | nil => exact List.prefix_rfl
    | cons n r ih => exact ih (s.updMeadow n _)
  | trans _ _ a b => exact a.trans b

theorem frameNote_out (s : State) (frame slot flags missing : Nat) : (s.frameNote frame slot flags missing).out = s.out := by
  unfold State.frameNote
  split
  · rfl
  · dsimp only
    split
    next t noted =>
      unfold State.hubNote at noted
      split at noted
      · cases noted
      · split at noted
        · cases noted
        · cases noted; rfl
    next => rfl

theorem raisePortCount_out (s : State) : s.out <+: s.raisePortCount.out := by
  unfold State.raisePortCount
  exact (State.Serves.ringPut (s.updTrn fun x => { x with portCount := x.portCount + 1 }) _ _).out

theorem finishFrame_out (s : State) (f : TrnFrame) : s.out <+: (s.finishFrame f).out := by
  unfold State.finishFrame
  dsimp only
  rw [frameNote_out, State.updTrn_out]
  exact (State.Serves.ringPut ..).out.trans (raisePortCount_out _)

/-- The frames that finish keep the number of the last message, and all that was sent. -/
theorem finishAll_sent (s : State) : s.out <+: s.finishAll.out ∧ s.finishAll.trn.txSeq = s.trn.txSeq := by
  have each (l : List TrnFrame) (t : State) :
      t.out <+: (l.foldl (fun t f => t.finishFrame f) t).out ∧ (l.foldl (fun t f => t.finishFrame f) t).trn.txSeq = t.trn.txSeq := by
    induction l generalizing t with
    | nil => exact ⟨List.prefix_rfl, rfl⟩
    | cons f r ih =>
      obtain ⟨sent, same⟩ := ih (t.finishFrame f)
      obtain ⟨_, _, done⟩ := finishFrame_trn t f
      exact ⟨(finishFrame_out t f).trans sent, by rw [List.foldl_cons, same, done]⟩
  exact each _ s

theorem endSession_sent (live : s.trn.st.alive = true) (c : Half) :
    s.out <+: (s.endSession c).out ∧ (s.endSession c).trn.txSeq = s.trn.txSeq := by
  unfold State.endSession
  rw [if_neg (by rw [live]; exact nofun)]
  dsimp only
  cases s.trn.filmOut
  · exact finishAll_sent s
  · exact ⟨List.prefix_rfl, rfl⟩

/-! Control from the host (R424). -/

section
variable {p : PortIx}

theorem refuseTrn_eq (s : State) (p : Nat) (c : Half) :
    s.refuseTrn p c trnControl = (s.updTrn fun x => { x with code := c }).refuseWrite p 0 c 0x140048 := rfl

theorem trnWrite_other (other : s.trnPort p = false) (off : Nat) (f : State → State) :
    s.trnWrite p off f = s.refuseTrn p Code.trnNotPermitted off := if_neg (by rw [other]; exact nofun)

theorem trnWrite_own (own : s.trnPort p = true) (off : Nat) (f : State → State) : s.trnWrite p off f = f s := if_pos own

theorem trnRun_refused (own : s.trnPort p = true) (accepted : s.trn.st ≠ .accepted) (paused : s.trn.st ≠ .paused) :
    s.trnRun p = s.refuseTrn p Code.trnState trnControl := (trnWrite_own own _ _).trans (if_pos ⟨accepted, paused⟩)

theorem not_refused (waits : s.trn.st = .accepted ∨ s.trn.st = .paused) : ¬ (s.trn.st ≠ .accepted ∧ s.trn.st ≠ .paused) := by
  rintro ⟨accepted, paused⟩; exact waits.elim accepted paused

section
variable (own : s.trnPort p = true) (waits : s.trn.st = .accepted ∨ s.trn.st = .paused)
include own waits

theorem trnRun_ingest (ingest : s.trn.filmOut = false) : s.trnRun p = s.sendRun :=
  (trnWrite_own own _ _).trans ((if_neg (not_refused waits)).trans (if_pos (by rw [ingest]; rfl)))

theorem trnRun_filmOut (film : s.trn.filmOut = true) : s.trnRun p
    = if s.readHostCount.trn.portCount < s.readHostCount.trn.hostCount then s.readHostCount.sendRun
      else s.readHostCount.updTrn fun x => { x with runDue := true } :=
  (trnWrite_own own _ _).trans ((if_neg (not_refused waits)).trans (if_neg (by rw [film]; exact nofun)))

end

theorem readHostCount_portCount (s : State) : s.readHostCount.trn.portCount = s.trn.portCount := by
  obtain ⟨n, read⟩ := readHostCount_trn s
  rw [read]

end

section
variable {p : PortIx}

theorem execTrnRun_of_eq (e : s.trnRun p = t) (pkg : t.pkg = s.pkg) : exec (.trnRun p) s = .next t := by
  rw [← e] at pkg ⊢
  exact attemptWhole_of_pkg pkg

theorem execTrnRun_undelayed (e : s.trnRun p = t) (free : s.undelayed t) : exec (.trnRun p) s = .next (s.completed t) := by
  rw [← e] at free ⊢
  exact attemptWhole_undelayed _ free

theorem execTrnEnd_of_eq (e : s.trnEnd p = t) (pkg : t.pkg = s.pkg) : exec (.trnEnd p) s = .next t := by
  rw [← e] at pkg ⊢
  exact attemptWhole_of_pkg pkg

theorem refuseTrn_pkg (s : State) (p : Nat) (c : Half) (off : Nat) : (s.refuseTrn p c off).pkg = s.pkg := rfl

end

/-! A line of film-out (R420 to R422). -/

/-- `t` has the frame, the line and the count of `s`, and all that `s` sent. -/
structure State.SameLine (s t : State) : Prop where
  line : t.trn.outLine = s.trn.outLine
  frame : t.trn.outFrame = s.trn.outFrame
  count : t.trn.portCount = s.trn.portCount
  mode : t.trn.mode = s.trn.mode
  out : s.out <+: t.out

namespace State.SameLine

theorem refl (s : State) : s.SameLine s := ⟨rfl, rfl, rfl, rfl, List.prefix_rfl⟩

theorem trans (a : s.SameLine t) (b : t.SameLine u) : s.SameLine u :=
  ⟨b.line.trans a.line, b.frame.trans a.frame, b.count.trans a.count, b.mode.trans a.mode, a.out.trans b.out⟩

theorem of_serves (h : s.Serves t) : s.SameLine t := by
  have trn := h.trn
  exact ⟨by rw [trn], by rw [trn], by rw [trn], by rw [trn], h.out⟩

theorem emit (s : State) (o : Output) : s.SameLine (s.emit o) := ⟨rfl, rfl, rfl, rfl, List.prefix_append ..⟩

theorem updTrn (s : State) (f : Trn → Trn) (line : (f s.trn).outLine = s.trn.outLine := by rfl)
    (frame : (f s.trn).outFrame = s.trn.outFrame := by rfl) (count : (f s.trn).portCount = s.trn.portCount := by rfl)
    (mode : (f s.trn).mode = s.trn.mode := by rfl) : s.SameLine (s.updTrn f) := ⟨line, frame, count, mode, List.prefix_rfl⟩

theorem mmp (s : State) (type : Nat) (pay : List Byte) : s.SameLine (s.mmp type pay) := ⟨rfl, rfl, rfl, rfl, List.prefix_append ..⟩

theorem sendPause (s : State) : s.SameLine s.sendPause := (mmp s 6 []).trans (updTrn ..)

theorem readHostCount (s : State) : s.SameLine s.readHostCount := by
  have read : s.SameLine (s.physGet s.ring.1 8).2 := of_serves (.physRead ..)
  exact read.trans (updTrn (s.physGet s.ring.1 8).2 fun x => { x with hostCount := bytesToNat (s.physGet s.ring.1 8).1.2 })

theorem ite {c : Prop} [Decidable c] (a : s.SameLine t) (b : s.SameLine u) : s.SameLine (if c then t else u) := by
  split
  · exact a
  · exact b

theorem foldl {β : Type} {f : State → β → State} (h : ∀ (u : State) x, u.SameLine (f u x)) (l : List β) (s : State) :
    s.SameLine (l.foldl f s) := by
  induction l generalizing s with
  | nil => exact refl s
  | cons x r ih => exact (h s x).trans (ih _)

end State.SameLine

/-- The start of a frame sends its leader. -/
theorem startOut_leads (s : State) : s.SameLine s.startOut
    ∧ .gvspLeader s.trn.outFrame s.trn.mode.pixel s.trn.mode.width s.trn.mode.height ∈ s.startOut.out := by
  have read := State.SameLine.readHostCount s
  have led : .gvspLeader s.trn.outFrame s.trn.mode.pixel s.trn.mode.width s.trn.mode.height
      ∈ (s.readHostCount.emit (.gvspLeader s.readHostCount.trn.outFrame s.readHostCount.trn.mode.pixel
        s.readHostCount.trn.mode.width s.readHostCount.trn.mode.height)).out := by
    rw [read.frame, read.mode]
    exact List.mem_append_right _ List.mem_cons_self
  have rest : (s.readHostCount.emit (.gvspLeader s.readHostCount.trn.outFrame s.readHostCount.trn.mode.pixel
      s.readHostCount.trn.mode.width s.readHostCount.trn.mode.height)).SameLine s.startOut := by
    unfold State.startOut
    dsimp only
    refine .ite (.updTrn _ _) ?_
    refine .ite ?_ (.trans ?_ (.sendPause _))
    all_goals
      refine .trans ?_ (.updTrn _ _)
      refine .trans ?_ (.mmp ..)
      exact .updTrn _ _
  exact ⟨(read.trans (.emit ..)).trans rest, rest.out.subset led⟩

/-- A line's VOID message, its read and its packets, between the start and the end of a frame (R420, R421). -/
def State.lineSent (t : State) (absent : Nat) : State :=
  let x := t.trn
  let run := if x.announced = 0 then t.voidRun absent (x.mode.height - x.outLine) x.outLine 0 else 0
  let t := if run = 0 then t
    else (t.mmp 8 (natToBytes 4 x.outFrame ++ natToBytes 4 x.outLine ++ natToBytes 4 run)).updTrn fun y => { y with announced := run }
  let read := if x.outGap then ((false, []), t) else t.physGet (t.outAddr x.outLine) x.mode.line
  let t := if read.1.1 then read.2.updTrn fun y => { y with uncorrected := satInc y.uncorrected } else read.2
  let void := decide (0 < t.trn.announced)
  let t := if void then t.updTrn fun y => { y with announced := y.announced - 1, outVoid := y.outVoid + 1 } else t
  t.outPackets (t.trn.outBuf ++ if void then List.replicate x.mode.line 0 else read.1.2) (x.outLine + 1 == x.mode.height)

/-- The frame begun where its first line is due. -/
def State.lineBegun (s : State) : State := if s.trn.outLine = 0 then s.startOut else s

theorem sendLine_eq (s : State) (absent : Nat) : s.sendLine absent =
    if s.lineBegun.trn.outLine + 1 == s.lineBegun.trn.mode.height then (s.lineBegun.lineSent absent).endOut
    else (s.lineBegun.lineSent absent).updTrn fun y => { y with outLine := y.outLine + 1 } := rfl

theorem lineBegun_line (s : State) : s.SameLine s.lineBegun := by
  unfold State.lineBegun
  exact .ite (startOut_leads s).1 (.refl s)

/-- `t` has the line of `s`, of a frame that is a GAP frame where that of `s` is. -/
structure State.SameGap (s t : State) : Prop extends s.SameLine t where
  gap : t.trn.outGap = s.trn.outGap

namespace State.SameGap

theorem refl (s : State) : s.SameGap s := ⟨.refl s, rfl⟩
theorem trans (a : s.SameGap t) (b : t.SameGap u) : s.SameGap u := ⟨a.toSameLine.trans b.toSameLine, b.gap.trans a.gap⟩

theorem of_serves (h : s.Serves t) : s.SameGap t := ⟨.of_serves h, by rw [h.trn]⟩

theorem updTrn (s : State) (f : Trn → Trn) (line : s.SameLine (s.updTrn f) := by exact .updTrn _ _)
    (gap : (f s.trn).outGap = s.trn.outGap := by rfl) : s.SameGap (s.updTrn f) := ⟨line, gap⟩

theorem ite {c : Prop} [Decidable c] (a : s.SameGap t) (b : s.SameGap u) : s.SameGap (if c then t else u) := by
  split
  · exact a
  · exact b

theorem emits {β : Type} {f : β → Output} (l : List β) (s : State) : s.SameGap (l.foldl (fun t x => t.emit (f x)) s) := by
  induction l generalizing s with
  | nil => exact refl s
  | cons x r ih => exact trans ⟨.emit .., rfl⟩ (ih _)

theorem outPackets (s : State) (b : List Byte) (last : Bool) : s.SameGap (s.outPackets b last) := by
  unfold State.outPackets
  dsimp only
  refine ite (trans ?_ (updTrn _ _)) (trans ?_ (updTrn _ _))
  · exact trans (emits _ s) ⟨.emit .., rfl⟩
  · exact emits _ s

theorem lineSent (s : State) (absent : Nat) : s.SameGap (s.lineSent absent) := by
  have read (t : State) : t.SameGap (if s.trn.outGap then ((false, []), t)
      else t.physGet (t.outAddr s.trn.outLine) s.trn.mode.line : (Bool × List Byte) × State).2 := by
    split
    · exact refl t
    · exact of_serves (.physRead ..)
  unfold State.lineSent
  dsimp only
  refine .trans ?_ (outPackets ..)
  refine .trans ?_ (ite (updTrn _ _) (refl _))
  refine .trans ?_ (ite (updTrn _ _) (refl _))
  refine .trans ?_ (read _)
  refine ite (refl s) (trans ?_ (updTrn _ _))
  exact ⟨.mmp .., rfl⟩

end State.SameGap

/-- A frame ended, before its status entry and its note: the trailer and FRAME_END are sent, and the next frame's number stands. -/
def State.frameEnded (s : State) : State :=
  ((s.emit (.gvspTrailer s.trn.outFrame (s.trn.mode.packets + 1))).mmp 9 (natToBytes 4 s.trn.outFrame
    ++ natToBytes 1 (((if s.trn.outVoid = 0 then 0 else 2) + (if s.trn.outGap then 4 else 0)) / 2))).updTrn fun y =>
      { y with void := satInc y.void s.trn.outVoid, outFrame := (y.outFrame + 1) % 2 ^ 32, outLine := 0, announced := 0 }

theorem frameEnded_trailer (s : State) : .gvspTrailer s.trn.outFrame (s.trn.mode.packets + 1) ∈ s.frameEnded.out :=
  List.mem_append_left _ (List.mem_append_right _ List.mem_cons_self)

/-- The end of a GAP frame sends no frame's count. -/
theorem endOut_gap (gap : s.trn.outGap = true) : ∃ frame flags void, s.endOut = s.frameEnded.frameNote frame 0xFFFF flags void :=
  ⟨_, _, _, if_pos gap⟩

theorem endOut_frame (gap : s.trn.outGap = false) : ∃ (t : State) (frame slot flags void : Nat), s.frameEnded.Serves t
    ∧ s.endOut = t.raisePortCount.frameNote frame slot flags void :=
  ⟨_, _, _, _, _, .ringPut .., if_neg (ne_true_of_eq_false gap)⟩

/-- The end of a frame (R421 to R423). -/
theorem endOut_ends (s : State) : s.endOut.trn.outLine = 0 ∧ s.endOut.trn.outFrame = (s.trn.outFrame + 1) % 2 ^ 32
    ∧ s.endOut.trn.portCount = (if s.trn.outGap then s.trn.portCount else s.trn.portCount + 1)
    ∧ .gvspTrailer s.trn.outFrame (s.trn.mode.packets + 1) ∈ s.endOut.out := by
  have trailer := frameEnded_trailer s
  cases gap : s.trn.outGap with
  | true =>
    obtain ⟨frame, flags, void, ends⟩ := endOut_gap gap
    obtain ⟨drops, noted⟩ := frameNote_trn s.frameEnded frame 0xFFFF flags void
    rw [ends, noted, frameNote_out]
    exact ⟨rfl, rfl, rfl, trailer⟩
  | false =>
    obtain ⟨t, frame, slot, flags, void, put, ends⟩ := endOut_frame gap
    obtain ⟨drops, noted⟩ := frameNote_trn t.raisePortCount frame slot flags void
    rw [ends, noted, frameNote_out, raisePortCount_trn, put.trn]
    exact ⟨rfl, rfl, rfl, (put.out.trans (raisePortCount_out t)).subset trailer⟩

/-- Settles O54: control writes from another port and from the own one, and the lines of film-out. -/
theorem transportRunsPausesAndSends : Obligations.TransportRunsPausesAndSends := by
  unfold Obligations.TransportRunsPausesAndSends
  intro p absent s x runs refused sent
  refine ⟨fun other => ⟨?_, ?_, ?_⟩, fun own => ⟨fun accepted paused => ?_, fun waits ingest => ?_, fun waits film none => ?_,
    fun waits film counts => ?_, fun idle => ?_, fun running => ?_, fun dead => ?_, fun some_ unended => ?_⟩,
    fun off => ?_, fun sending film => ?_⟩
  · exact execTrnRun_of_eq (trnWrite_other other ..) (refuseTrn_pkg ..)
  · exact congrArg Host.Outcome.next (trnWrite_other other ..)
  · exact execTrnEnd_of_eq (trnWrite_other other ..) (refuseTrn_pkg ..)
  · exact execTrnRun_of_eq (trnRun_refused own accepted paused) (refuseTrn_pkg ..)
  · exact ⟨s.sendRun, execTrnRun_of_eq (trnRun_ingest own waits ingest) rfl, rfl, List.mem_append_right _ List.mem_cons_self, rfl⟩
  · refine execTrnRun_undelayed ((trnRun_filmOut own waits film).trans (if_neg ?_))
    rw [readHostCount_portCount]
    exact Nat.not_lt.mpr none
  · intro t
    refine ⟨fun free => ?_, rfl, ?_, rfl⟩
    · refine execTrnRun_undelayed ((trnRun_filmOut own waits film).trans (if_pos ?_)) free
      rw [readHostCount_portCount]
      exact counts
    · obtain ⟨n, read⟩ := readHostCount_trn s
      change s.readHostCount.trn.startFrame.toNat = _
      rw [read]
  · exact congrArg Host.Outcome.next ((trnWrite_own own _ _).trans (if_pos idle))
  · refine ⟨s.sendPause, congrArg Host.Outcome.next ((trnWrite_own own _ _).trans (if_neg (not_not_intro running))), rfl, rfl, ?_,
      rfl⟩
    exact List.mem_append_right _ List.mem_cons_self
  · have none : s.trn.st.alive = false := Bool.eq_false_iff.mpr (mt alive_iff.mp (by tauto))
    exact execTrnEnd_of_eq ((trnWrite_own own _ _).trans (if_neg (ne_true_of_eq_false none))) rfl
  · have live : s.trn.st.alive = true := alive_iff.mpr ⟨some_, unended⟩
    have ends : s.trnEnd p = (s.mmp 0xB (natToBytes 2 0)).endSession Code.ok := (trnWrite_own own _ _).trans (if_pos live)
    have live' : (s.mmp 0xB (natToBytes 2 0)).trn.st.alive = true := live
    obtain ⟨ended, code, -, -⟩ := endSession_ends live' Code.ok
    obtain ⟨out, number⟩ := endSession_sent live' Code.ok
    intro t
    refine ⟨fun free => attemptWhole_undelayed _ free, by rw [show t = _ from ends]; exact ended,
      by rw [show t = _ from ends]; exact code, ?_, by rw [show t = _ from ends]; exact number⟩
    rw [show t = _ from ends]
    exact out.subset (List.mem_append_right _ List.mem_cons_self)
  · refine (congrArg (fun t => s.attemptWhole (.lineSend absent) (.next t)) (if_neg ?_)).trans (attemptWhole_of_pkg rfl)
    rw [Bool.and_eq_true]
    rintro ⟨sending, film⟩
    rcases off with quiet | ingest
    · exact ne_true_of_eq_false quiet sending
    · exact ne_true_of_eq_false ingest film
  · have step : exec (.lineSend absent) s = s.attemptWhole (.lineSend absent) (.next (s.sendLine absent.toNat)) :=
      congrArg (fun t => s.attemptWhole (.lineSend absent) (.next t)) (if_pos (Bool.and_eq_true_iff.mpr ⟨sending, film⟩))
    have begun := lineBegun_line s
    have line := State.SameGap.lineSent s.lineBegun absent.toNat
    refine ⟨fun free => step.trans (attemptWhole_undelayed _ free), fun more => ?_, fun later last => ?_⟩
    · rw [sendLine_eq, if_neg (by rw [begun.line, begun.mode]; simpa using more)]
      refine ⟨?_, line.frame.trans begun.frame, line.count.trans begun.count, fun first => ?_⟩
      · exact congrArg (· + 1) (line.line.trans begun.line)
      · have led : s.lineBegun = s.startOut := if_pos first
        rw [led] at line
        rw [State.updTrn_out, led]
        exact line.out.subset (startOut_leads s).2
    · have same : s.lineBegun = s := if_neg later
      rw [sendLine_eq, same, if_pos (by simpa using last)]
      rw [same] at line
      obtain ⟨first, next, count, trailer⟩ := endOut_ends (s.lineSent absent.toNat)
      rw [line.frame, line.mode] at trailer
      rw [line.gap, line.count] at count
      rw [line.frame] at next
      exact ⟨first, next, count, trailer⟩

end Sys2Proof.Machine

/-! Jobs of the Cicada pipes (20 R425 to R443). -/

namespace Sys2Proof.Machine

open Sys2Proof

variable {s t u : State}

/-! What a pipe's writes leave of its count of jobs (R434, R435). -/

theorem State.Serves.pipes (h : s.Serves t) : t.pipes = s.pipes := by
  induction h with
  | pkg only => obtain ⟨_, _, rfl⟩ := only; rfl
  | bench s cause =>
    have stops (l : List Nat) (u : State) : (l.foldl (fun u m => u.stopMeadow m) u).pipes = u.pipes := by
      obtain ⟨_, _, _, _, _, _, _, _, stopped⟩ := (State.ControlOnly.foldl State.ControlOnly.stopMeadow l u).eq
      rw [stopped]
    unfold State.bench
    dsimp only
    split
    · rfl
    · exact stops _ (s.updSxt _)
  | drop s ms pa agent =>
    unfold State.frozenDrop
    induction ms generalizing s with
    | nil => rfl
    | cons n r ih => exact ih (s.updMeadow n _)
  | trans _ _ a b => exact b.trans a

/-- Pipe `n` has ended as many jobs in `t` as in `s`. -/
def State.SameJobs (n : Nat) (s t : State) : Prop := (t.pipe n).jobs = (s.pipe n).jobs

namespace State.SameJobs

variable {n m : Nat}

theorem refl (n : Nat) (s : State) : SameJobs n s s := rfl
theorem trans (a : SameJobs n s t) (b : SameJobs n t u) : SameJobs n s u := Eq.trans b a
theorem of_serves (n : Nat) (h : s.Serves t) : SameJobs n s t := by unfold SameJobs State.pipe; rw [h.pipes]

theorem updPipe (n : Nat) (s : State) (f : Pipe → Pipe) (jobs : (f (s.pipe n)).jobs = (s.pipe n).jobs := by rfl) :
    SameJobs n s (s.updPipe n f) := by
  unfold SameJobs
  rw [State.updPipe_pipe_same]
  exact jobs

theorem mwalk (n m va : Nat) (s : State) : SameJobs n s (s.mwalk (some n) m va).2 := by
  have walked : SameJobs n s (s.walk none m va).2 := of_serves n (.walk ..)
  unfold State.mwalk
  dsimp only
  split
  · exact refl n s
  · split
    next e => rw [e] at walked; exact walked.trans (updPipe ..)
    next => exact walked

theorem mwrite (n agent m fuel va : Nat) (b : List Byte) (s : State) :
    SameJobs n s (s.mwrite (some n) agent m fuel va b).2 := by
  induction fuel generalizing va b s with
  | zero => exact refl n s
  | succ fuel ih =>
    unfold State.mwrite
    have walked := mwalk n m va s
    split
    · exact refl n s
    · dsimp only
      split
      next e => rwa [e] at walked
      next l t e =>
        rw [e] at walked
        have goes (via : Option Nat) := walked.trans ((of_serves n (.agentWrite t agent (l.pa + va % 2 ^ 16)
          (b.take (32 - va % 32)) via)).trans (ih (va + (32 - va % 32)) (b.drop (32 - va % 32)) _))
        split
        · split
          · have done := goes (if l.frozen && (t.meadow m).window then some m else none)
            split
            next e => rwa [e] at done
            next => exact done
          · exact walked
        · have done := goes none
          split
          next e => rwa [e] at done
          next => exact done

theorem cicPut (n m va : Nat) (b : List Byte) (s : State) : SameJobs n s (s.cicPut n m va b).2 := mwrite ..

theorem foldl {β : Type} {F : Res Bool → β → Res Bool} (step : ∀ r a, SameJobs n r.2 (F r a).2) (l : List β) (r : Res Bool) :
    SameJobs n r.2 (l.foldl F r).2 := by
  induction l generalizing r with
  | nil => exact refl n r.2
  | cons a l ih => exact (step r a).trans (ih _)

theorem cicWrites {l : List (Nat × List Byte)} {r : Except Half Bool} (e : s.cicWrites n m l = (r, t)) : SameJobs n s t := by
  have written : SameJobs n s (s.cicWrites n m l).2 := by
    refine foldl (r := (.ok false, s)) (fun r a => ?_) l
    split
    next => exact refl n _
    next t =>
      have put := cicPut n m a.1 a.2 t
      split
      next e => rwa [e] at put
      next e => rwa [e] at put
  rwa [e] at written

end State.SameJobs

theorem hubNote_pipes {core queue : Nat} {o : NoteOf} {payload : List Byte} (e : s.hubNote core queue o payload = some t) :
    t.pipes = s.pipes := by
  unfold State.hubNote at e
  split at e
  · cases e
  · split at e
    · cases e
    · cases e; rfl

/-- A job's completion written and told, before its pipe is free (R434, R435). -/
def State.cicTold (s : State) (n : Nat) (j : CicJob) (code : Half) (result concealed flags : Nat) : State :=
  let m := j.meadow
  let (r, t) := s.cicPut n m (j.addr + 52) (natToBytes 4 result ++ natToBytes 2 code.toNat ++ natToBytes 2 concealed)
  let code := codeAfter code r
  let t := (t.cicPut n m (j.addr + 60) (natToBytes 1 (1 + flags))).2
  let t := t.updMeadow m fun x => x.setCicDone n (BitVec.ofNat 48 (fieldNat j.entry 0 4 + code.toNat * 2 ^ 32))
  match t.hubNote (fieldNat j.entry 48 2 % 4096) (fieldNat j.entry 50 1 % 8) (.cicada n)
    (sliceBytes j.entry 0 4 ++ natToBytes 2 code.toNat) with
  | some u => u
  | none => t.updPipe n fun x => { x with noteDrops := satInc x.noteDrops }

theorem cicDone_eq (s : State) (n : Nat) (j : CicJob) (code : Half) (result concealed flags : Nat) :
    s.cicDone n j code result concealed flags = (s.cicTold n j code result concealed flags).updPipe n fun x =>
      { x with
        job := none, jobs := satInc x.jobs,
        owner := Sparse.get none (s.cicTold n j code result concealed flags).heath.codec n } := rfl

theorem cicTold_jobs (n : Nat) (j : CicJob) (code : Half) (result concealed flags : Nat) (s : State) :
    State.SameJobs n s (s.cicTold n j code result concealed flags) := by
  have written := (State.SameJobs.cicPut n j.meadow (j.addr + 52)
    (natToBytes 4 result ++ natToBytes 2 code.toNat ++ natToBytes 2 concealed) s).trans
    (State.SameJobs.cicPut n j.meadow (j.addr + 60) (natToBytes 1 (1 + flags)) _)
  unfold State.cicTold
  dsimp only
  refine written.trans ?_
  generalize (State.cicPut _ n j.meadow (j.addr + 60) (natToBytes 1 (1 + flags))).2 = w
  generalize codeAfter code _ = c
  have recorded : State.SameJobs n w (w.updMeadow j.meadow fun x =>
      x.setCicDone n (BitVec.ofNat 48 (fieldNat j.entry 0 4 + c.toNat * 2 ^ 32))) := State.SameJobs.refl n w
  refine recorded.trans ?_
  generalize (w.updMeadow j.meadow fun x => x.setCicDone n (BitVec.ofNat 48 (fieldNat j.entry 0 4 + c.toNat * 2 ^ 32))) = v
  split
  next u noted =>
    unfold State.SameJobs State.pipe
    rw [hubNote_pipes noted]
  next => exact State.SameJobs.updPipe n v fun x => { x with noteDrops := satInc x.noteDrops }

/-- A job that completes leaves its pipe free, and counts. -/
structure State.JobEnds (n : Nat) (s t : State) : Prop where
  free : (t.pipe n).job = none
  count : (t.pipe n).jobs = satInc (s.pipe n).jobs

namespace State.JobEnds

variable {n : Nat}

theorem after (a : State.SameJobs n s t) (b : State.JobEnds n t u) : State.JobEnds n s u :=
  ⟨b.free, by rw [b.count, show (t.pipe n).jobs = (s.pipe n).jobs from a]⟩

theorem cicDone (n : Nat) (j : CicJob) (code : Half) (result concealed flags : Nat) (s : State) :
    State.JobEnds n s (s.cicDone n j code result concealed flags) := by
  have told := cicTold_jobs n j code result concealed flags s
  rw [cicDone_eq]
  exact after told ⟨by rw [State.updPipe_pipe_same], by rw [State.updPipe_pipe_same]⟩

theorem cicFail (n : Nat) (j : CicJob) (code : Half) (s : State) : State.JobEnds n s (s.cicFail n j code) := cicDone ..

theorem encEmit (n : Nat) (j : CicJob) (o : EncOutcome) (s : State) : State.JobEnds n s (s.encEmit n j o) := by
  unfold State.encEmit
  dsimp only
  split
  next e => exact after (State.SameJobs.cicWrites e) (cicFail ..)
  next e => exact after (State.SameJobs.cicWrites e) (cicDone ..)

theorem decEmit (n : Nat) (j : CicJob) (pool : List Frame) (d : DecOutcome) (s : State) :
    State.JobEnds n s (s.decEmit n j pool d) := by
  unfold State.decEmit
  split
  · exact cicFail ..
  · split
    · exact cicFail ..
    · dsimp only
      split
      next e => exact after (State.SameJobs.cicWrites e) (cicFail ..)
      next e => exact after (State.SameJobs.cicWrites e) (cicDone ..)

end State.JobEnds

/-! A poll (R425, R432, R524). -/

section
variable {n : PipeIx} {m : MeadowIx} {j : CicJob} {i : EncInput} {code : Half} {e b : List Byte} {bad bad' : Bool}

theorem cicadaPoll_none (idle : (s.pipe n).owner = none ∨ (s.pipe n).job.isSome = true) :
    exec (.cicadaPoll n) s = .next s := by
  refine Eq.trans (congrArg (fun t => s.attemptWhole (.cicadaPoll n) (.next t)) ?_) (attemptWhole_of_pkg rfl)
  rcases idle with free | busy
  · rw [free]
  · obtain ⟨j, busy⟩ := Option.isSome_iff_exists.mp busy
    rw [busy]
    cases (s.pipe n).owner <;> rfl

/-- The address of the entry that a pipe expects, by its ring's register. -/
def State.cicAddr (s : State) (n m : Nat) : Nat := bitsOf ((s.meadow m).cicReg n) 47 0 + 64 * (s.pipe n).idx

/-- A pipe that an owner's ring may give a job. -/
structure State.Polls (s : State) (n : PipeIx) (m : MeadowIx) : Prop where
  owner : (s.pipe n).owner = some m.val
  free : (s.pipe n).job = none

theorem cicadaPoll_disabled (polls : s.Polls n m) (off : (s.meadow m).state = .absent ∨ bitOf ((s.meadow m).cicReg n) 52 = false
      ∨ Sparse.get false s.power.throttled 262 = true) : exec (.cicadaPoll n) s = .next s := by
  refine Eq.trans (congrArg (fun t => s.attemptWhole (.cicadaPoll n) (.next t)) ?_) (attemptWhole_of_pkg rfl)
  rw [polls.owner, polls.free]
  exact if_pos (off.imp_right (.imp_left fun no => by rw [no]; rfl))

theorem cicadaPoll_read (polls : s.Polls n m) (here : (s.meadow m).state ≠ .absent)
    (on : bitOf ((s.meadow m).cicReg n) 52 = true) (cool : Sparse.get false s.power.throttled 262 = false)
    (read : (s.updPipe n fun x => { x with leaves := [] }).cicRead true n m 2 (s.cicAddr n m) 64 = (.ok (bad, e), t)) :
    exec (.cicadaPoll n) s = s.attemptWhole (.cicadaPoll n) (.next (if fieldNat e 0 4 ≠ (s.pipe n).seq.toNat then t
      else (t.updPipe n fun x => { x with
        idx := (x.idx + 1) % 2 ^ bitsOf ((s.meadow m).cicReg n) 51 48, seq := x.seq + 1 }).cicTake n m e (s.cicAddr n m) bad)) := by
  refine congrArg (fun t => s.attemptWhole (.cicadaPoll n) (.next t)) ?_
  rw [polls.owner, polls.free]
  refine (if_neg (by rw [on, cool]; simp [here])).trans ?_
  unfold State.cicAddr at read ⊢
  dsimp only
  rw [read]

/-! Encoding and decoding (R435 to R442). -/

theorem encodeComplete_read (encodes : n.val < 2) (job : (s.pipe n).job = some j) (read : s.encReads n j = (.ok i, t)) :
    exec (.encodeComplete n) s = s.attemptWhole (.encodeComplete n) (.next (
      if j.fallback ∨ pictureFits j.entry j.ctx (bufferFull j.ctx)
          (if j.fallback then encodeFallback i else encodeAt i (attemptQp i j.attempts)).bits.length then
        t.encEmit n j (if j.fallback then encodeFallback i else encodeAt i (attemptQp i j.attempts))
      else t.updPipe n fun x => { x with job := some { j with
        attempts := j.attempts + 1, fallback := fieldNat j.ctx 14 1 ≤ attemptQp i j.attempts } })) := by
  refine congrArg (fun t => s.attemptWhole (.encodeComplete n) (.next t)) ((if_neg (Nat.not_le.mpr encodes)).trans ?_)
  rw [job]
  dsimp only
  rw [read]

theorem encodeComplete_failed (encodes : n.val < 2) (job : (s.pipe n).job = some j) (read : s.encReads n j = (.error code, t)) :
    exec (.encodeComplete n) s = s.attemptWhole (.encodeComplete n) (.next (t.cicStop n j code)) := by
  refine congrArg (fun t => s.attemptWhole (.encodeComplete n) (.next t)) ((if_neg (Nat.not_le.mpr encodes)).trans ?_)
  rw [job]
  dsimp only
  rw [read]

theorem attemptQp_zero (i : EncInput) : attemptQp i 0 = plannedQp i := rfl

theorem attemptQp_succ (same : i.ctx = j.ctx) (below : plannedQp i ≤ fieldNat j.ctx 14 1) (k : Nat) : attemptQp i (k + 1)
    = min (fieldNat j.ctx 14 1) (plannedQp i + (if ctxAv1 j.ctx then 16 else 4) * (k + 1)) := by
  rw [← same] at below ⊢
  unfold attemptQp
  rw [if_neg (Nat.succ_ne_zero k), Nat.max_eq_right below]

theorem decodeComplete_read {pool : List Frame} {w : State} (decodes : 2 ≤ n.val) (job : (s.pipe n).job = some j)
    (unit : s.cicGet n j.meadow (fieldNat j.entry 16 8) (fieldNat j.entry 24 4) = (.ok (bad, b), t))
    (refs : t.decReads n j (upFrom 0 16) = (.ok (bad', pool), w)) : exec (.decodeComplete n) s
      = s.attemptWhole (.decodeComplete n) (.next (w.fresh.2.decEmit n { j with memErr := j.memErr || bad || bad' } pool
          (Config.decoded ⟨j.ctx, b, pool⟩ (if j.bound then some w.fresh.1 else none)))) := by
  refine congrArg (fun t => s.attemptWhole (.decodeComplete n) (.next t)) ((if_neg (Nat.not_lt.mpr decodes)).trans ?_)
  rw [job]
  dsimp only
  rw [unit]
  dsimp only
  rw [refs]

/-- A pipe changed alike. -/
theorem updPipe_congr {n : Nat} {f g : Pipe → Pipe} (h : f (s.pipe n) = g (s.pipe n)) : s.updPipe n f = s.updPipe n g := by
  unfold State.updPipe
  rw [h]

theorem execDecodeWorkBound_kept (decodes : 2 ≤ n.val) (job : (s.pipe n).job = some j) :
    exec (.decodeWorkBound n) s = .next (s.updPipe n fun x => { x with job := some { j with bound := true } }) := by
  refine congrArg Host.Outcome.next ((if_neg (Nat.not_lt.mpr decodes)).trans ?_)
  refine updPipe_congr ?_
  rw [job]
  rfl

end

/-! The ring registers (R432, R443). -/

section
variable {n : PipeIx} {m : MeadowIx} {v : Dword}

theorem cicRingOff_eq (n : Nat) : cicRingOff n = 0x20200 + 0x10 * n := by unfold cicRingOff mdwOff; omega

theorem execCicRingWrite_may (may : s.hostMay m) : exec (.cicRingWrite m n v) s = .next (s.cicRingWrite m n v) :=
  congrArg Host.Outcome.next (hostRow_may _ _ may)

theorem cicRingWrite_notOwner (here : (s.meadow m).state ≠ .absent) (other : (s.pipe n).owner ≠ some m.val) :
    s.cicRingWrite m n v = s.refuseWrite (s.meadow m).port (s.meadow m).fn Code.cicNotOwner (cicRingOff n) :=
  (if_neg here).trans (if_pos other)

theorem cicRingWrite_busy (here : (s.meadow m).state ≠ .absent) (own : (s.pipe n).owner = some m.val)
    (on : bitOf ((s.meadow m).cicReg n) 52 = true) (other : (s.meadow m).cicReg n % 2 ^ 52 ≠ v.toNat % 2 ^ 53 % 2 ^ 52) :
    s.cicRingWrite m n v = s.refuseWrite (s.meadow m).port (s.meadow m).fn Code.cicBusy (cicRingOff n) :=
  (if_neg here).trans ((if_neg (not_not_intro own)).trans (if_pos ⟨on, other⟩))

theorem cicRingWrite_set (here : (s.meadow m).state ≠ .absent) (own : (s.pipe n).owner = some m.val)
    (off : bitOf ((s.meadow m).cicReg n) 52 = false) (least : 4 ≤ bitsOf (v.toNat % 2 ^ 53) 51 48)
    (most : bitsOf (v.toNat % 2 ^ 53) 51 48 ≤ 10) (aligned : v.toNat % 2 ^ 53 % 4096 = 0) : s.cicRingWrite m n v
      = if bitOf (v.toNat % 2 ^ 53) 52 then
          (s.updMeadow m fun x => x.setCic n (v.toNat % 2 ^ 53)).updPipe n fun x => { x with seq := 1, idx := 0 }
        else s.updMeadow m fun x => x.setCic n (v.toNat % 2 ^ 53) := by
  refine (if_neg here).trans ((if_neg (not_not_intro own)).trans ((if_neg ?_).trans ((if_neg ?_).trans ?_)))
  · rw [off]; exact fun both => Bool.false_ne_true both.1
  · omega
  · rw [off]
    simp

end

/-- Settles O55: a poll, an encode attempt, a decode and its bound, the ends of jobs, and writes of the ring. -/
theorem cicadaJobsAreTakenAndEnd : Obligations.CicadaJobsAreTakenAndEnd := by
  unfold Obligations.CicadaJobsAreTakenAndEnd
  intro n m v e bad bad' b pool i j o d code s t w runs x r addr new refused ends step top
  have ended {u : State} (h : State.JobEnds n t u) : ends u := ⟨h.free, h.count⟩
  refine ⟨cicadaPoll_none, fun owner free => ⟨cicadaPoll_disabled ⟨owner, free⟩, fun here on cool read =>
      ⟨fun other und => ?_, fun same und => ?_⟩⟩,
    fun encodes job read => ⟨fun fallback und => ?_, fun normal und => ?_⟩, fun encodes job read und => ?_,
    fun k => ⟨attemptQp_zero i, fun same below => attemptQp_succ same below k⟩,
    fun decodes job => ⟨fun unit refs und => (decodeComplete_read decodes job unit refs).trans (attemptWhole_undelayed _ und),
      execDecodeWorkBound_kept decodes job⟩,
    ended (.encEmit ..), ended (.cicFail ..), ended (.decEmit ..), fun limit => if_pos limit, fun fine none => ?_,
    fun denied => congrArg Host.Outcome.next (hostRow_denied _ _ denied), fun may here => ⟨fun other => ?_,
      fun own on other => ?_, fun own off least most aligned => ?_⟩⟩
  · rw [cicadaPoll_read ⟨owner, free⟩ here on cool read, if_pos other]
    exact attemptWhole_undelayed _ und
  · rw [cicadaPoll_read ⟨owner, free⟩ here on cool read, if_neg (not_not_intro same)]
    exact attemptWhole_undelayed _ und
  · rw [encodeComplete_read encodes job read, if_pos (.inl fallback), if_pos fallback]
    exact attemptWhole_undelayed _ und
  · have coded := encodeComplete_read encodes job read
    simp only [normal, Bool.false_eq_true, false_or, if_false] at coded
    exact coded.trans (attemptWhole_undelayed _ und)
  · rw [encodeComplete_failed encodes job read]
    have stop : t.cicStop n j code = if code = Code.uncorrectable then t.cicLost n j else t.cicFail n j code := by
      unfold State.cicStop
      simp only [encodes, true_and]
    rw [stop]
    exact attemptWhole_undelayed _ und
  · refine (if_neg (ne_true_of_eq_false fine)).trans ?_
    rw [none]
  · rw [execCicRingWrite_may may, cicRingWrite_notOwner here other, cicRingOff_eq]
  · rw [execCicRingWrite_may may, cicRingWrite_busy here own on other, cicRingOff_eq]
  · rw [execCicRingWrite_may may, cicRingWrite_set here own off least most aligned]

end Sys2Proof.Machine

/-! A step on an empty queue (21 R451; 23 R485, R493). -/

namespace Sys2Proof.Machine

open Sys2Proof

variable {s t u : State}

/-! What a cycle of the cores changes. -/

/-- `t` is `s` but for the cycle phases and the stall counts of the cores, and the count of free values. -/
structure State.Counted (s t : State) : Prop where
  eq : ∃ cores free, t = { s with cores := cores, free := free }
  core : ∀ n, t.core n = { s.core n with phase := (t.core n).phase, stalls := (t.core n).stalls }

namespace State.Counted

theorem refl (s : State) : s.Counted s := ⟨⟨s.cores, s.free, rfl⟩, fun _ => rfl⟩

theorem trans (a : s.Counted t) (b : t.Counted u) : s.Counted u := by
  obtain ⟨_, _, first⟩ := a.eq
  obtain ⟨cores, free, second⟩ := b.eq
  refine ⟨⟨cores, free, by rw [second, first]⟩, fun n => ?_⟩
  rw [b.core n, a.core n]

theorem foldl {β : Type} {f : State → β → State} (h : ∀ (u : State) x, u.Counted (f u x)) (l : List β) (s : State) :
    s.Counted (l.foldl f s) := by
  induction l generalizing s with
  | nil => exact refl s
  | cons x r ih => exact (h s x).trans (ih _)

theorem updCore (s : State) (n : Nat) (f : Core → Core)
    (counts : f (s.core n) = { s.core n with phase := (f (s.core n)).phase, stalls := (f (s.core n)).stalls } := by rfl) :
    s.Counted (s.updCore n f) := by
  refine ⟨⟨(s.updCore n f).cores, s.free, rfl⟩, fun i => ?_⟩
  by_cases own : n = i
  · subst own
    rw [State.updCore_core_same]
    exact counts
  · rw [State.updCore_core_ne _ _ own]

theorem freeBytes (s : State) (k : Nat) : s.Counted (s.freeBytes k).2 := ⟨⟨s.cores, s.free + k, rfl⟩, fun _ => rfl⟩

theorem countStall (s : State) (n e c k : Nat) : s.Counted (s.countStall n e c k) := updCore s n _

theorem coreCycle (s : State) (n : Nat) : s.Counted (s.coreCycle n) := by
  unfold State.coreCycle
  dsimp only
  split
  · exact refl s
  · have phased : s.Counted (s.updCore n fun x => { x with phase := (s.core n).phase + s.coreMhz n }) := updCore s n _
    split
    · exact phased
    · refine phased.trans (foldl (fun u p => ?_) _ _)
      split
      · exact countStall ..
      · split
        · exact (freeBytes u 1).trans (countStall ..)
        · exact refl u

end State.Counted

namespace State.Steady

/-! A cycle, and the resets that wait (R485). -/

theorem of_counted (h : s.Counted t) : s.Steady t := by obtain ⟨_, _, rfl⟩ := h.eq; exact of_eq rfl rfl

theorem sextonCycle (s : State) : s.Steady (s.updSxt Sexton.cycle) := by
  have cycle (x : Sexton) : x.cycle.devGen = x.devGen ∧ x.cycle.warmTimes = x.warmTimes ∧ x.cycle.benched = x.benched := by
    unfold Sexton.cycle
    split <;> exact ⟨rfl, rfl, rfl⟩
  obtain ⟨devGen, warmTimes, benched⟩ := cycle s.sxt
  exact updSxt s _ devGen warmTimes fun yes => benched.trans yes

end State.Steady

theorem warmReset_held (s : State) (code : Half) : (s.warmReset code).held = s.held := by
  cases stopped : s.bootStopped with
  | true => rw [warmReset_stopped code stopped]
  | false =>
    have warmed : (s.warmed code).held = s.held := by
      unfold State.warmed
      split
      · exact ((State.Steady.bench s.warmRecorded Code.benched).trans (warmCleared_steady _ code)).held
      · exact (warmCleared_steady s.warmRecorded code).held
    rw [warmReset_eq code stopped, (State.Steady.startLinks _).held, State.updSxt_held, warmed]

theorem doReset_held (s : State) (d : Domain) (code : Half) (readmit : Bool) : (s.doReset d code readmit).held = s.held := by
  unfold State.doReset
  split
  · exact warmReset_held ..
  · dsimp only
    split
    · exact ((State.Steady.resetDomain ..).trans (.issueAdmits ..)).held
    · exact (State.Steady.resetDomain ..).held

theorem orSkip_held (h : t.held = s.held) : (s.orSkip t).held = s.held := by
  unfold State.orSkip
  dsimp only
  split
  · rfl
  · exact (((State.Steady.settledFrom s t).trans (.sentFrom ..)).held).trans h

theorem runDelayed_held (l : List Due) (s : State) : (State.runDelayed l s).held = s.held := by
  induction l generalizing s with
  | nil => rfl
  | cons d r ih =>
    unfold State.runDelayed
    split
    · rfl
    · split
      · exact ih s
      · refine (ih _).trans (orSkip_held ?_)
        have reset := doReset_held (s.updSxt fun x => { x with delayed := x.delayed.erase d }) d.dom d.code d.readmit
        split
        · rw [State.updSxt_held, reset, State.updSxt_held]
        · rw [reset, State.updSxt_held]

namespace State.Steady

/-! A repair that goes on (R493). -/

theorem failSite (s : State) (site : Nat) : s.Steady (s.failSite site) := setHeath ..

theorem kickRepair (s : State) (code : Half) : s.Steady (s.kickRepair code) := by
  unfold State.kickRepair
  split
  · exact refl s
  · dsimp only
    split
    · exact refl s
    · split
      · exact updSxt ..
      · refine trans ?_ (issueStem ..)
        split
        · exact (updSxt ..).trans (failEpoch ..)
        · exact updSxt ..

theorem bistHook (s : State) : s.Steady s.bistHook := ite (of_eq rfl rfl) (refl s)

theorem endOfRepair (s : State) (code : Half) : s.Steady (s.endOfRepair code) :=
  ((updSxt ..).trans (kickRepair ..)).trans (bistHook _)

theorem handleRepair (s : State) (scope : Nat) (recs : List Nat) : s.Steady (s.handleRepair scope recs).2 := by
  unfold State.handleRepair
  dsimp only
  split
  · exact of_eq rfl rfl
  next q checked =>
    have readied (c : List Byte) : s.Steady { s.updSxt (fun x => { x with bootStep := 11 }) with
        qorf := { s.qorf with copy := c } } := trans (updSxt s fun x => { x with bootStep := 11 }) (of_eq rfl rfl)
    refine trans ?_ (updSxt _ fun x => { x with bootStep := s.sxt.bootStep })
    exact ((readied _).trans (checkStream checked)).trans (acceptQorf ..)

theorem of_handleRepair {scope : Nat} {recs : List Nat} {c : Option Half} (e : s.handleRepair scope recs = (c, t)) :
    s.Steady t := by
  have handled := handleRepair s scope recs
  rwa [e] at handled

theorem mend (s : State) (rows routers : List Nat) : s.Steady (s.mend rows routers).2 := by
  unfold State.mend
  dsimp only
  split
  · exact refl s
  · split
    next failed =>
      split
      · exact handleRepair ..
      · exact of_handleRepair failed
    next => exact handleRepair ..

theorem returnCores (s : State) (l : List Nat) (keep : Nat → Bool) : s.Steady (s.returnCores l keep) := by
  refine foldl (fun u n => ?_) l s
  have emptied : u.Steady ((u.updCore n fun c => c.empty u.tick).updSxt fun x => { x with saved := Sparse.put none x.saved n none }) :=
    (updCore ..).trans (updSxt ..)
  dsimp only
  split
  · exact ite (emptied.trans (updCore ..)) emptied
  · exact emptied

theorem dropSaves (s : State) (l : List Nat) : s.Steady (s.dropSaves l) := updSxt ..

theorem countLosses (s : State) (l : List Nat) : s.Steady (s.countLosses l) := by
  refine foldl (fun u n => ?_) l s
  split
  · exact loseStores ..
  · exact refl u

theorem holdMeadow (s : State) (m : Nat) (code : Half) : s.Steady (s.holdMeadow m code) := by
  unfold State.holdMeadow State.stopCores
  dsimp only
  exact ite ((updCores ..).trans (updMeadow ..)) (((updCores ..).trans (updMeadow ..)).trans (raiseM ..))

theorem trunkFails (s : State) (b : Nat) : s.Steady (s.trunkFails b) := by
  have failed : s.Steady ((Machine.qApply s (trunkRecord b)).updBase b fun x => { x with unavailable := true }) :=
    (qApply ..).trans (updBase ..)
  unfold State.trunkFails
  dsimp only
  split
  · exact failed.trans (holdMeadow ..)
  · exact failed

theorem repairBuild (s : State) : s.Steady s.repairBuild := by
  unfold State.repairBuild
  dsimp only
  refine ite (trans (trans ?_ (issueAdmits ..)) (endOfRepair ..)) (ite (trans ?_ (endOfRepair ..))
    (trans (trans ?_ (updSxt _ _)) (issueAdmits ..)))
  all_goals
    refine trans ?_ (ite (trunkFails ..) (refl _))
    refine trans ?_ (foldl (fun _ _ => holdMeadow ..) _ _)
    refine trans ?_ (countLosses ..)
    refine trans ?_ (dropSaves ..)
    refine trans ?_ (returnCores ..)
    exact (updBase ..).trans (mend ..)

theorem repairNext (s : State) : s.Steady s.repairNext := by
  unfold State.repairNext
  exact ite (refl s) (ite (repairBuild s) (ite ((foldl failSite _ s).trans (updSxt ..)) (refl s)))

theorem retireSweep (s : State) : s.Steady s.retireSweep := by
  unfold State.retireSweep
  exact ite (refl s) (foldl (fun _ _ => teardown ..) _ s)

end State.Steady

/-! The idle step (R301, R451, R485). -/

/-- The state in which a step on an empty queue starts: the held commands tried again, one tick later. -/
def State.ticked (s : State) : State := { s with tick := s.tick + 1, pending := s.held, held := [] }

/-- The cores' cycle and Sexton's. -/
def State.cycled (s : State) : State := ((s.ticked.cores.map (·.1)).foldl State.coreCycle s.ticked).updSxt Sexton.cycle

theorem idle_eq (s : State) : s.idle = (let t := State.runDelayed s.cycled.sxt.delayed s.cycled
    let t := t.orSkip t.repairNext
    t.orSkip t.retireSweep) := rfl

theorem cycled_counted (s : State) : s.ticked.Counted ((s.ticked.cores.map (·.1)).foldl State.coreCycle s.ticked) :=
  .foldl .coreCycle _ _

/-- No command is held after a step on an empty queue. -/
theorem idle_held (s : State) : s.idle.held = [] := by
  have cycled : s.cycled.held = [] :=
    ((State.Steady.of_counted (cycled_counted s)).trans (.sextonCycle _)).held
  have ran := runDelayed_held s.cycled.sxt.delayed s.cycled
  rw [idle_eq]
  dsimp only
  generalize State.runDelayed s.cycled.sxt.delayed s.cycled = t at ran ⊢
  have swept := (State.Steady.orSkip (State.Steady.repairNext t)).trans (.orSkip (.retireSweep _))
  rw [swept.held, ran, cycled]

/-- Where nothing waits, a step on an empty queue is a cycle of the cores and of Sexton. -/
theorem idle_quiet (due : s.sxt.delayed = []) (testing : s.sxt.repair.phase ≠ 3) (building : s.sxt.repair.phase ≠ 4)
    (life : s.life ≠ .retired) : s.idle = s.cycled := by
  have begun : s.Cycled s.ticked := ⟨s.held, [], s.free, s.tick + 1, s.cores, s.sxt.bootTime, rfl⟩
  have cycled : s.Cycled s.cycled := (begun.trans (.foldl .coreCycle _ s.ticked)).trans (.sextonCycle _)
  have reset : State.runDelayed s.cycled.sxt.delayed s.cycled = s.cycled := by rw [cycled.delayed, due]; rfl
  have repair : s.cycled.repairNext = s.cycled := by
    unfold State.repairNext
    split
    · rfl
    · rw [cycled.repair, if_neg building]
      exact if_neg fun goes => testing goes.1
  have swept : s.cycled.retireSweep = s.cycled := if_pos (by rw [cycled.life]; exact life)
  have same : s.cycled.orSkip s.cycled = s.cycled := orSkip_same (State.still_of_pkg rfl)
  rw [idle_eq]
  dsimp only
  rw [reset, repair, same, swept, same]

theorem cycled_eq (quiet : s.held = []) (empty : s.pending = []) : ∃ cores free, s.cycled = { s with
      tick := s.tick + 1, cores := cores, free := free, sxt := s.sxt.cycle }
    ∧ ∀ n, s.cycled.core n = { s.core n with phase := (s.cycled.core n).phase, stalls := (s.cycled.core n).stalls } := by
  have counted := cycled_counted s
  obtain ⟨cores, free, whole⟩ := counted.eq
  refine ⟨cores, free, ?_, counted.core⟩
  unfold State.cycled
  rw [whole]
  unfold State.ticked State.updSxt
  rw [quiet, empty]

/-- Settles O2: what the queue and the clock become, that no command is held, and the cycle where nothing waits. -/
theorem idleStep : Obligations.IdleStep := by
  unfold Obligations.IdleStep
  intro s empty
  have step := step_idle empty
  obtain ⟨-, -, -, -, -, -, queue, tick⟩ := memoryFusesAndQueueAreKept s s.idle step
  rw [if_pos empty] at queue tick
  refine ⟨s.idle, step, queue, idle_held s, tick, fun quiet due testing building life => ?_⟩
  obtain ⟨cores, free, cycled, each⟩ := cycled_eq quiet empty
  rw [idle_quiet due testing building life]
  exact ⟨by rw [cycled], each⟩

end Sys2Proof.Machine
